-- ==== Sys2Proof/Word.lean ====
section
/-!
DEFINITION. The word types of the machine and their plainest arithmetic (00_scope.md R1, R5).
-/

namespace Sys2Proof

/-- A byte of memory. -/
abbrev Byte := BitVec 8

/-- A 32-bit lane or scalar register. -/
abbrev Word := BitVec 32

/-- A 64-bit value: a register pair, an address, an instruction word. -/
abbrev DWord := BitVec 64

/-- A table with natural-number keys, kept in rising key order; what an absent key stands for is
said where the table is read. -/
abbrev Tbl (α : Type) := List (Nat × α)

/-- A table of bit vectors in which an absent key reads zero and no zero is listed. -/
abbrev Cells (n : Nat) := Tbl (BitVec n)

end Sys2Proof
end

