-- ==== Sys2Proof/Machine/Fabric.lean ====
section
/-!
DEFINITION. The fabric graph: points of the projective plane of order 47, neighbours and minimal routes
(22_link.md R429 to R431).
-/

namespace Sys2Proof.Machine

/-- The coordinates of a device (R429). -/
def coords (n : Nat) : Nat × Nat × Nat :=
  if n ≤ 2209 then ((n - 1) % 47, (n - 1) / 47, 1)
  else if n ≤ 2256 then (n - 2210, 1, 0)
  else (1, 0, 0)

/-- Is this a device number of the fabric (R15)? -/
def isDevice (n : Nat) : Bool := 1 ≤ n && n ≤ 0x8D1

def dot47 (p q : Nat × Nat × Nat) : Nat := (p.1 * q.1 + p.2.1 * q.2.1 + p.2.2 * q.2.2) % 47

/-- R429. -/
def adjacent (p q : Nat) : Bool := p != q && dot47 (coords p) (coords q) == 0
def absolutePoint (p : Nat) : Bool := dot47 (coords p) (coords p) == 0

def inv47 (a : Nat) : Nat := a ^ 45 % 47

/-- The device of a triple, after normalizing its last nonzero coordinate to 1. -/
def deviceOf (t : Nat × Nat × Nat) : Nat :=
  let (x, y, z) := t
  if z != 0 then 1 + 47 * (y * inv47 z % 47) + x * inv47 z % 47
  else if y != 0 then 2210 + x * inv47 y % 47
  else 2257

/-- R431: the cross product. -/
def cross47 (p q : Nat × Nat × Nat) : Nat × Nat × Nat :=
  let sub := fun (a b : Nat) => (a % 47 + 47 - b % 47) % 47
  (sub (p.2.1 * q.2.2) (p.2.2 * q.2.1), sub (p.2.2 * q.1) (p.1 * q.2.2),
   sub (p.1 * q.2.1) (p.2.1 * q.1))

/-- R430: the neighbours in rising number; fabric link f leads to entry f. -/
def neighbours (p : Nat) : List Nat := ((List.range 2257).map (· + 1)).filter (adjacent p)

def indexIn (x : Nat) : List Nat → Nat
  | [] => 0
  | y :: ys => if x == y then 0 else indexIn x ys + 1

/-- The fabric link of p that leads to its neighbour q. -/
def linkTo (p q : Nat) : Nat := indexIn q (neighbours p)

/-- A minimal route: the first link and, for two hops, the common neighbour and its link (R431). -/
structure Route where
  first : Nat
  via : Option Nat
  second : Nat
  deriving DecidableEq, Repr

def minimalRoute (p q : Nat) : Route :=
  if adjacent p q then ⟨linkTo p q, none, 0xFF⟩
  else
    let r := deviceOf (cross47 (coords p) (coords q))
    ⟨linkTo p r, some r, linkTo r q⟩

end Sys2Proof.Machine
end

