-- ==== Sys2Proof/Config.lean ====
section
/-!
DEFINITION. What the part fixes and the spec leaves open. A constant without a body is a free value:
nothing can be proved about which value it has, so a claim holds for every value of it.
-/

namespace Sys2Proof.Config

/-- The part's revision identifier, family in [31:16] and revision in [15:0] (21_context.md R396).
Implementation-defined: a free value (log 14). -/
opaque revision : BitVec 32

/-- The part's feature mask (21_context.md R396). A free value (log 14). -/
opaque features : BitVec 64

/-- The byte that a remote place holds before this device has written it: the domain is a device
number or a tray domain, or a host link (10_memory.md R216). A free value (log 7). -/
opaque remoteByte (domain addr : Nat) : BitVec 8

/-- The tag of a granule of another device's memory before this device has written it. A free value
(log 7). -/
opaque remoteTag (domain gran : Nat) : Bool

/-- Whether instruction fetch sees the old bytes of a line that a store has changed since it was
cached (09_page.md R204: "old or new"). A free value per fetch (log 15). -/
opaque fetchSeesOld (n : Nat) : Bool

/-- The way that a new line takes in a full set of an instruction cache (01_device.md R10 gives eight ways and no rule).
A free value per line (log 15). -/
opaque icacheWay (n : Nat) : Nat

/-- How many cycles a request takes to reach the place that orders it, its reply to come back, and a write notice to reach a die
(10_memory.md R206, 13_ordering.md R253 give no times; 14_prog_litmus.md R263 names some for one schedule). Free values per
issued word, whose lanes' requests take the same time (12_prog_cuckoo.md R249), and per notice (log 100). -/
opaque requestDelay (word : Nat) : Nat
opaque replyDelay (word : Nat) : Nat
opaque noticeDelay (home n die : Nat) : Nat

/-- The object of a name whose home is another device or a host tray, as that home reports it to a world: its size and its address
there, or none (08_name.md R175, R176: what is registered there is not known here). A free value per name (log 7). -/
opaque remoteBody (domain serial world : Nat) : Option (Nat × Nat)

/-- Does a target on another device refuse the arrival of a packet, because its word lies in no counter region of the peer
(17_counter.md R332)? The target is outside this device. A free value per packet (log 7). -/
opaque arrivalRefused (pkt : Nat) : Bool

/-- The frame, with its device, to which the tables of a context of another device map a page that a Kneader command of it follows
for a right, or none (10_memory.md R237, R240: the tables stand there). A free value per source, world, page and right (log 114). -/
opaque farPage (src world page : Nat) (write : Bool) : Option (Nat × Nat)

/-- The intermediate that a source router draws for a packet (22_link.md R432: uniform). A free
value per draw (log 16). -/
opaque intermediate (n : Nat) : Nat

/-- Bytes of a signature, certificate, key or other opaque cryptographic content of a response
(23_world.md R451, R452). A free value per response and position (log 17). -/
opaque cryptoByte (n i : Nat) : BitVec 8

/-- A word of the native code that Levain's translator makes of a kernel of a virtual image (15_tile.md R291: deterministic in the
image and the revision). A free function (log 18). -/
opaque translate (words : List (BitVec 64)) (entry : Nat) (rev : BitVec 32) (i : Nat) : BitVec 64

/-- Whether the two signatures of a firmware image verify (23_world.md R451). A free value (log 17). -/
opaque signaturesVerify (digest : BitVec 384) : Bool

/-- The seed that Levain fixes for a context at its creation (21_context.md R396). A free value per
context (log 19). -/
opaque seed (n : Nat) : BitVec 64

/-- Does the Levain of a device agree to be the peer of a world with a range (21_context.md R406; log 29)? -/
opaque peerAccepts (dev world base size : Nat) : Bool

/-- The cause that a context frozen by an error of the TDISP interface shows (22_link.md R437, 21_context.md R394: no kind is
given for it). A free value (log 34). -/
opaque interfaceCause : BitVec 8

end Sys2Proof.Config
end

