-- ==== Sys2Proof/Syntax.lean ====
section
/-!
DEFINITION. The steps of the machine: one constructor of `Instr` for every row of the opcode table.
A word row carries its decoded operands, an event row the parameters that say which piece of work it
concerns. The layouts are those of 03_formats.md R49 to R62.
-/

set_option linter.unusedVariables false

namespace Sys2Proof

/-- The predicate fields [52:50] and [49] (R48). -/
structure Guard where
  n : BitVec 3
  neg : Bool
  deriving DecidableEq, Repr, Inhabited

/-- The retain field [8:7] (R49, R63). -/
inductive Keep where
  | none | a | b | c
  deriving DecidableEq, Repr

/-- Sources A and B by kind tag (R50). -/
inductive Src where
  | v (r : BitVec 9)
  | s (r : BitVec 6)
  | c (bank : BitVec 2) (word : BitVec 7)
  | lit (x : BitVec 9)
  deriving DecidableEq, Repr

/-- The fields of a format-F word other than opcode and modifiers (R49). Where an instruction puts
selectors in source C, `c` is 0 here and the constructor carries the selectors. -/
structure FForm where
  g : Guard
  d : BitVec 9
  a : Src
  b : Src
  c : BitVec 9
  keep : Keep
  deriving DecidableEq, Repr

/-- The fields of a format-L word other than opcode and modifiers (R54). -/
structure LForm where
  g : Guard
  d : BitVec 9
  lit : BitVec 32
  deriving DecidableEq, Repr

/-- Type codes (R53). -/
inductive Ty where
  | i8 | i16 | i32 | i64 | n8 | n16 | n32 | n64 | f16 | bf16 | f32 | f64 | l4 | l6 | l8
  deriving DecidableEq, Repr

/-- Float types of layout B (R52). -/
inductive FTy where
  | f16 | bf16 | f32 | f64
  deriving DecidableEq, Repr

/-- Packed counts (R53). -/
inductive Pack where
  | none | x2 | x4 | x5 | x8
  deriving DecidableEq, Repr

/-- Rounding modes (R53, R77). -/
inductive Rnd where
  | rn | rz | rm | rp
  deriving DecidableEq, Repr

/-- Layout A: integer type, packed count, saturation (R52, R135). The type is one of codes 0 to 7. -/
structure AMods where
  ty : Ty
  pk : Pack
  sat : Bool
  deriving DecidableEq, Repr

/-- Layout B: float type, rounding, saturation, the packed flag (R52, R144). -/
structure BMods where
  ty : FTy
  rnd : Rnd
  sat : Bool
  x2 : Bool
  deriving DecidableEq, Repr

/-- Layout C: type, rounding, saturation (R52). -/
structure CMods where
  ty : Ty
  rnd : Rnd
  sat : Bool
  deriving DecidableEq, Repr

/-- Compare conditions (R141). -/
inductive Cond where
  | eq | ne | lt | le | gt | ge | ord | uno
  deriving DecidableEq, Repr

inductive VoteOp where
  | any | all | ballot | uni
  deriving DecidableEq, Repr

inductive ShflOp where
  | idx | up | down | xor
  deriving DecidableEq, Repr

/-- Reduction operations (R155). -/
inductive RedOp where
  | add | min | max | and | or | xor
  deriving DecidableEq, Repr

/-- Atomic operations (10_memory.md R232). -/
inductive AtomOp where
  | add | min | max | and | or | xor | xchg
  deriving DecidableEq, Repr

inductive Scope where
  | thr | blk | cls | dev | sys
  deriving DecidableEq, Repr

/-- Orders of format M (R56); for `fence`, `ar` is `.all` (R223). -/
inductive Order where
  | rlx | acq | rel | ar
  deriving DecidableEq, Repr

inductive Space where
  | gl | sp | rsp | const
  deriving DecidableEq, Repr

/-- Memory hints (10_memory.md R224). -/
inductive Hint where
  | none | stream | keep | home
  deriving DecidableEq, Repr

/-- The base of a memory address (R56). -/
inductive Base where
  | v (r : BitVec 9)
  | s (r : BitVec 6)
  deriving DecidableEq, Repr

/-- The fields of a format-M word other than opcode, offset and bits [1:0] (R56). -/
structure MForm where
  g : Guard
  data : BitVec 9
  base : Base
  scope : Scope
  ord : Order
  ty : Ty
  space : Space
  hint : Hint
  deriving DecidableEq, Repr

/-- The fields of a format-T word other than the opcode (R59, 15_tile.md R271). -/
structure TForm where
  g : Guard
  td : BitVec 4
  ts : BitVec 4
  p : BitVec 6
  cnt : BitVec 12
  x : BitVec 6
  y : BitVec 6
  ctr : BitVec 6
  en : Bool
  flags : BitVec 4
  deriving DecidableEq, Repr, Inhabited

/-- The operations of pair halves (R61). -/
inductive HalfOp where
  | nop | add | sub | mul | and | or | xor | shl | shr | sra
  | minI | maxI | minN | maxN | mov | fadd | fsub | fmul | fmin | fmax
  deriving DecidableEq, Repr

/-- The fields of a pair half other than its half-opcode (R60). -/
structure HArgs where
  p : BitVec 3
  d : BitVec 9
  s : BitVec 9
  keep : Bool
  deriving DecidableEq, Repr

/-- A whole pair half (R60). -/
structure Half where
  op : HalfOp
  h : HArgs
  deriving DecidableEq, Repr

/-- The counter pair and counter enable of the copy and network instructions (17_counter.md R329). -/
structure Ctr where
  idx : BitVec 5
  en : Bool
  deriving DecidableEq, Repr

/-- Targets of `emset` (21_context.md R403). -/
inductive EmTarget where
  | reg | pair | pred
  deriving DecidableEq, Repr

/-- Extents of an invalidation (09_page.md R208). -/
inductive Extent where
  | p64k | p2m | p1g | all
  deriving DecidableEq, Repr

/-- Selectors of `lnkq` (22_link.md R439). -/
inductive LinkSel where
  | state | retry | drop | window | route
  deriving DecidableEq, Repr

/-- A kernel as its descriptor gives it (02_notation.md R42, 19_kernel.md R359). -/
structure KernelDesc where
  name : List (BitVec 8)
  device : Nat
  entry : Nat
  codeOff : Nat
  codeSize : Nat
  pool : BitVec 32
  blocks : Nat
  width : Nat
  groups : Nat
  cluster : Nat
  queue : Nat
  prio : Nat
  die : Nat
  roleGroups : List Nat
  roleRegs : List Nat
  deriving DecidableEq, Repr

/-- An image of a fat code object (02_notation.md R42): what its table entry says, its bytes, and the descriptors they begin with. -/
structure CodeImage where
  isNative : Bool
  rev : BitVec 32
  features : BitVec 64
  digest : BitVec 384
  kernels : List KernelDesc
  bytes : List (BitVec 8)
  deriving DecidableEq, Repr

/-- An entry of the object table (02_notation.md R43). -/
structure ObjectDesc where
  id : Nat
  home : Nat
  live : Bool
  offset : Nat
  size : Nat
  deriving DecidableEq, Repr

/-- A fat code object, read (02_notation.md R41 to R43). -/
structure CodeObject where
  mutableCode : Bool
  images : List CodeImage
  data : List (BitVec 8)
  /-- Data-image offsets of tagged granules, and of the data labels in order. -/
  tags : List Nat
  labels : List Nat
  objects : List ObjectDesc
  deriving DecidableEq, Repr

/-- An object of a load whose body stands in a section of another device of the run: its number in the object table, the address that
its home gives it, its bytes and its tagged granules (02_notation.md R45). -/
structure FarObject where
  index : Nat
  addr : Nat
  body : List (BitVec 8)
  tags : List Nat
  deriving DecidableEq, Repr

/-- What a load command carries: the bytes of the fat code object with this device's data image; the die of each 64 KiB page of it
(02_notation.md R45); and of a run on several devices the address of each data label whose section another device holds, the objects
that stand there, and the devices (24_prog_dispatch.md R459). -/
structure LoadSpec where
  bytes : List (BitVec 8)
  pageDies : List Nat
  labelAt : List (Option Nat)
  far : List FarObject := []
  run : List Nat := []
  deriving DecidableEq, Repr

/-- Host or fabric memory that Levain maps for a context (09_page.md R201). -/
structure MapSpec where
  fabric : Bool
  target : Nat
  addr : Nat
  size : Nat
  r : Bool
  w : Bool
  deriving DecidableEq, Repr

/-- What an inbound fabric packet asks of its target (22_link.md R433, 17_counter.md R332): a read, a write, an atomic or a compare and
swap; a Kneader command (10_memory.md R237); a combined add, with the source, tag and increment of each constituent (R339); the secured
session by which the other device's Levain gives a world its link keys (23_world.md R446); or nothing for a void marker. -/
inductive FabricOp where
  | read (len : Nat)
  | write (bytes : List (BitVec 8))
  | atomic (op : AtomOp) (ty : Ty) (x : BitVec 64)
  | cas (ty : Ty) (cmp new : BitVec 64)
  | kcas (n : BitVec 2) (cmp new : BitVec 256)
  | kenq (node : BitVec 64)
  | kdeq
  | kchase (steps : BitVec 4) (key : Option (BitVec 64))
  | combined (ty : Ty) (leaves : List (Nat × Nat × BitVec 64))
  | session (world : Nat)
  | void
  deriving DecidableEq, Repr

/-- The device that a packet comes from, and the fabric link by which it comes in (22_link.md R433, 23_world.md R446). -/
structure Sender where
  dev : Nat
  link : Nat
  deriving DecidableEq, Repr

/-- The integrity tag of a packet whose last flit comes in: it holds, or it fails, on the answer to a request of this device where one is
named (22_link.md R418, 23_world.md R447). -/
inductive FlitTag where
  | good
  | bad (answers : Option Nat)
  deriving DecidableEq, Repr

/-- The address of a CXL request, and whether its flits pass the check of CXL IDE (22_link.md R438). -/
structure CxlAddr where
  addr : Nat
  intact : Bool
  deriving DecidableEq, Repr

/-- One host's entry of an exported pool (22_link.md R427). -/
structure PoolEntry where
  host : Nat
  link : Option Nat          -- none: the CXL path
  base : Nat
  size : Nat
  cls : Nat
  weight : Nat
  deriving DecidableEq, Repr

/-- What a soft error strikes: a hypervector slot, accumulator storage, the B-store, memory, a decombining record of a station; the
last two are errors of memory and of an SRAM of a die that are corrected (R289, R298, R337, R409). -/
inductive SoftTarget where
  | hyper (blk grp h lo len : Nat)
  | accum (blk tile lo len : Nat)
  | bstore (core line col : Nat)
  | dram (addr : Nat)
  | record (station rcd : Nat)
  | dramCorrected (die : Nat)
  | sramCorrected (die : Nat)
  deriving DecidableEq, Repr

/-- The steps of the machine, one constructor per row of the opcode table. -/
inductive Instr where
  -- major 0, control (05_group.md R107)
  | nop (f : FForm)
  | bra (l : LForm)
  | brx (f : FForm)
  | call (l : LForm)
  | callx (f : FForm)
  | ret (f : FForm)
  | join (f : FForm)
  | jwait (f : FForm) (bounded : Bool) (j : BitVec 3)
  | jdrop (f : FForm)
  | exit (f : FForm)
  | yld (f : FForm)
  -- major 1, integer arithmetic (06_arith.md R135)
  | add (f : FForm) (m : AMods)
  | addL (l : LForm) (m : AMods)
  | sub (f : FForm) (m : AMods)
  | mul (f : FForm) (m : AMods)
  | mulL (l : LForm) (m : AMods)
  | mulh (f : FForm) (m : AMods)
  | mad (f : FForm) (m : AMods)
  | div (f : FForm) (m : AMods)
  | rem (f : FForm) (m : AMods)
  | min (f : FForm) (m : AMods)
  | max (f : FForm) (m : AMods)
  | abs (f : FForm) (m : AMods)
  | neg (f : FForm) (m : AMods)
  | mulmod (f : FForm) (m : AMods)
  -- major 2, logic, shift and bit (R139)
  | andB (f : FForm) (m : AMods)
  | andL (l : LForm) (m : AMods)
  | orB (f : FForm) (m : AMods)
  | orL (l : LForm) (m : AMods)
  | xorB (f : FForm) (m : AMods)
  | xorL (l : LForm) (m : AMods)
  | notB (f : FForm) (m : AMods)
  | shl (f : FForm) (m : AMods)
  | shr (f : FForm) (m : AMods)
  | sra (f : FForm) (m : AMods)
  | rol (f : FForm) (m : AMods)
  | clz (f : FForm) (m : AMods)
  | popc (f : FForm) (m : AMods)
  | brev (f : FForm) (m : AMods)
  | bfe (f : FForm) (m : AMods)
  | bfi (f : FForm) (m : AMods)
  -- major 3, compare, select and move (R142)
  | cmp (f : FForm) (ty : Ty) (c : Cond)
  | sel (f : FForm) (ty : Ty) (p : BitVec 3)
  | mov (f : FForm) (ty : Ty) (toScalar : Bool)
  | movl (l : LForm) (ty : Ty) (toScalar : Bool)
  | rdsr (f : FForm) (ty : Ty) (toScalar : Bool)
  -- major 4, FP arithmetic (R144)
  | fadd (f : FForm) (m : BMods)
  | faddL (l : LForm) (m : BMods)
  | fsub (f : FForm) (m : BMods)
  | fmul (f : FForm) (m : BMods)
  | fmulL (l : LForm) (m : BMods)
  | ffma (f : FForm) (m : BMods)
  | fmin (f : FForm) (m : BMods)
  | fmax (f : FForm) (m : BMods)
  | fabs (f : FForm) (m : BMods)
  | fneg (f : FForm) (m : BMods)
  | fcmp (f : FForm) (m : BMods) (c : Cond)
  | fdiv (f : FForm) (m : BMods)
  -- major 5, FP functions (R146)
  | frcp (f : FForm) (m : BMods)
  | frsq (f : FForm) (m : BMods)
  | fsqrt (f : FForm) (m : BMods)
  | fexp2 (f : FForm) (m : BMods)
  | flog2 (f : FForm) (m : BMods)
  | fsin (f : FForm) (m : BMods)
  | fcos (f : FForm) (m : BMods)
  | fclass (f : FForm) (m : BMods)
  | frnd (f : FForm) (m : BMods)
  -- major 6, conversion and pack (R149): second type and count
  | cvt (f : FForm) (m : CMods) (ty2 : Ty)
  | pack (f : FForm) (m : CMods) (ty2 : Ty) (pk : Pack)
  | unpack (f : FForm) (m : CMods) (ty2 : Ty) (pk : Pack)
  -- major 7, log format (R151)
  | lmul (f : FForm) (m : CMods) (fmt : Ty) (pk : Pack)
  | lcvt (f : FForm) (m : CMods) (src : Ty)
  | ldot (f : FForm) (m : CMods)
  -- major 8, cross-lane (R155)
  | vote (f : FForm) (ty : Ty) (op : VoteOp)
  | shfl (f : FForm) (ty : Ty) (op : ShflOp)
  | matchK (f : FForm) (ty : Ty)
  | lred (f : FForm) (m : CMods) (op : RedOp) (pk : Pack)
  | lscan (f : FForm) (m : CMods) (op : RedOp) (pk : Pack) (excl : Bool)
  -- majors 9 and 10, loads and stores (10_memory.md R223)
  | ld (m : MForm) (off : BitVec 14)
  | ldSp (m : MForm) (off : BitVec 14)
  | st (m : MForm) (off : BitVec 14)
  | stSp (m : MForm) (off : BitVec 14)
  | ldq (m : MForm) (off : BitVec 14)
  | ldqSp (m : MForm) (off : BitVec 14)
  | stq (m : MForm) (off : BitVec 14)
  | stqSp (m : MForm) (off : BitVec 14)
  | prf (m : MForm) (off : BitVec 14)
  | cwb (m : MForm) (off : BitVec 14)
  | cinv (m : MForm) (off : BitVec 14)
  | wcnt (f : FForm) (ld st cp tl : BitVec 3)
  -- major 11, atomics and fences
  | atom (m : MForm) (op : AtomOp) (src : BitVec 9) (comb nr : Bool)
  | cas (m : MForm) (src : BitVec 9)
  | fence (m : MForm)
  -- major 12, Kneader commands; n is words - 1, steps is s - 1
  | kcas (m : MForm) (src : BitVec 9) (n : BitVec 2)
  | kenq (m : MForm) (src : BitVec 9)
  | kdeq (m : MForm)
  | kchase (m : MForm) (src : BitVec 9) (steps : BitVec 4) (testKey : Bool)
  -- major 13, names and pointers (08_name.md R182)
  | ldn (m : MForm) (off : BitVec 14)
  | stn (m : MForm) (off : BitVec 14)
  | peq (f : FForm)
  | padd (f : FForm)
  | psub (f : FForm)
  | pinfo (f : FForm)
  | pfetch (m : MForm) (off : BitVec 14)
  | pswz (f : FForm)
  | pnam (f : FForm)
  | prel (m : MForm)
  -- majors 14 and 15, tile (15_tile.md R271)
  | tld (t : TForm)
  | tst (t : TForm)
  | tzero (t : TForm)
  | bsld (t : TForm)
  | bsinv (t : TForm)
  | tcvt (t : TForm)
  | tact (t : TForm)
  | tred (t : TForm)
  | tmma (t : TForm)
  | tloop (t : TForm)
  | tmmod (t : TForm)
  | tntt (t : TForm)
  -- majors 16 and 17, hypervector (16_hypervector.md R299)
  | hld (m : MForm) (off : BitVec 14)
  | hst (m : MForm) (off : BitVec 14)
  | hmov (f : FForm)
  | hxor (f : FForm)
  | hrot (f : FForm) (hi : BitVec 4)
  | hacc (f : FForm) (neg : Bool)
  | hthr (f : FForm)
  | hclr (f : FForm) (acc : Bool)
  | hpop (f : FForm)
  | hdist (f : FForm)
  | hgen (f : FForm)
  | htie (f : FForm)
  | hmatch (f : FForm) (q : BitVec 4) (sp : Bool)
  | hmset (m : MForm) (idx : BitVec 9)
  -- major 18, counters (17_counter.md R324)
  | cnadd (f : FForm) (rel : Bool)
  | cnwait (f : FForm) (acq : Bool)
  | cnget (f : FForm) (acq toScalar : Bool)
  | cnset (f : FForm) (rel : Bool)
  | trig (f : FForm)
  | trigx (f : FForm)
  -- major 19, copy and network (R329)
  | cpy (f : FForm) (x : Ctr) (srcSp dstSp : Bool)
  | nwr (f : FForm) (x : Ctr)
  | nrd (f : FForm) (x : Ctr)
  | natom (f : FForm) (x : Ctr) (op : AtomOp) (ty : Ty) (comb : Bool)
  | nlist (f : FForm) (x : Ctr)
  -- major 20, barriers and roles (18_barrier.md R346)
  | binit (f : FForm) (rsp : Bool)
  | barr (f : FForm) (rsp grp rlx : Bool)
  | bwait (f : FForm) (rsp rlx : Bool)
  | btest (f : FForm) (rsp rlx : Bool)
  | elect (f : FForm) (role : Bool)
  | lead (f : FForm)
  | leadAdv (f : FForm)
  -- major 21, kernel (19_kernel.md R365)
  | spawn (f : FForm)
  | klaunch (f : FForm) (dep : Bool)
  | ktrig (f : FForm)
  | kwait (f : FForm)
  | idem (f : FForm) (n : BitVec 4)
  | idemx (f : FForm)
  -- major 22, context (21_context.md R412, 09_page.md R208, 22_link.md R439, 23_world.md R457)
  | sys (f : FForm)
  | tret (f : FForm) (next : Bool)
  | emget (f : FForm)
  | emset (f : FForm) (t : EmTarget)
  | csrr (f : FForm) (toScalar : Bool)
  | csrw (f : FForm)
  | csrwParkThreshold (f : FForm)
  | csrwSpawnTimer (f : FForm)
  | fexr (f : FForm) (ctx toScalar : Bool)
  | halt (f : FForm)
  | pgq (f : FForm)
  | pginv (f : FForm) (e : Extent)
  | lnkq (f : FForm) (sel : LinkSel) (toScalar : Bool)
  | wid (f : FForm) (toScalar : Bool)
  -- major 23, loops and pool (05_group.md R107)
  | loop (f : FForm)
  | lbrk (f : FForm)
  | rgrow (f : FForm)
  | rshrink (f : FForm)
  -- major 31, virtual tile (15_tile.md R290): the fields are not checked (R68)
  | vtDecl (w : BitVec 53)
  | vtLd (w : BitVec 53)
  | vtSt (w : BitVec 53)
  | vtMma (w : BitVec 53)
  | vtMap (w : BitVec 53)
  | vtRed (w : BitVec 53)
  -- a word whose opcode no cell assigns (R67)
  | unassignedOpcodeWord (w : BitVec 64)
  -- pair words by the operation of the first half (R60, R61)
  | nopHalf (h : HArgs) (second : Half)
  | addHalf (h : HArgs) (second : Half)
  | subHalf (h : HArgs) (second : Half)
  | mulHalf (h : HArgs) (second : Half)
  | andHalf (h : HArgs) (second : Half)
  | orHalf (h : HArgs) (second : Half)
  | xorHalf (h : HArgs) (second : Half)
  | shlHalf (h : HArgs) (second : Half)
  | shrHalf (h : HArgs) (second : Half)
  | sraHalf (h : HArgs) (second : Half)
  | minI32Half (h : HArgs) (second : Half)
  | maxI32Half (h : HArgs) (second : Half)
  | minN32Half (h : HArgs) (second : Half)
  | maxN32Half (h : HArgs) (second : Half)
  | movHalf (h : HArgs) (second : Half)
  | faddHalf (h : HArgs) (second : Half)
  | fsubHalf (h : HArgs) (second : Half)
  | fmulHalf (h : HArgs) (second : Half)
  | fminHalf (h : HArgs) (second : Half)
  | fmaxHalf (h : HArgs) (second : Half)
  -- events of groups, blocks and queues
  | candidateAged (blk grp pc : Nat)
  | laneResultArrival (blk grp lane : Nat)
  | jwaitTimeout (blk grp j : Nat)
  | membershipTimeout (blk grp pc : Nat)
  | yieldExpiry (blk grp lane : Nat)
  | rgrowGrant (core : Nat)
  | thresholdNotification (ctx : Nat)
  | blockRetire (blk : Nat)
  | instanceRetire (inst : Nat)
  | unitPlacement (die : Nat)
  | preemptionGraceExpiry (die : Nat)
  | preemptionHalt (blk : Nat)
  | blockSaveComplete (blk : Nat)
  | parkThresholdExpiry (blk : Nat)
  | spawnTimerExpiry (core bin : Nat)
  | ktrigReleaseComplete (blk : Nat)
  | leadCountUpdate (blk nb : Nat)
  | codePrefetch (core : Nat)
  -- events of memory
  | homeSliceRequest (req : Nat)
  | noticeApply (die home : Nat)
  | replicaLineInstall (die line : Nat)
  | loadReply (req : Nat)
  | storeAck (req : Nat)
  | atomicLeaseExpiry (line : Nat)
  | atomicWriteBackComplete (line : Nat)
  | combiningArrival (req : Nat)
  | combinedRequestForward (die entry : Nat)
  | decombineReply (die rcd : Nat)
  | combiningRecordExpiry (die req : Nat)
  | kneaderPacketPerform (req : Nat)
  -- events of names and pages
  | objectResolution (res : Nat)
  | fetchComplete (ctx slot : Nat)
  | fetchLost (ctx slot : Nat)
  | slotEviction (ctx slot : Nat)
  | objectHomeMove (ctx slot home addr : Nat)
  | slotInvalidationAck (ctx slot core : Nat)
  | pageFillComplete (ctx page : Nat)
  | pageFillFail (ctx page : Nat)
  | invalidationReceipt (inv agent : Nat)
  | invalidationAck (inv agent : Nat)
  -- triggered actions (17_counter.md R323)
  | launchAction (die idx : Nat)
  | copyAction (die idx : Nat)
  | networkWriteAction (die idx : Nat)
  | networkReadAction (die idx : Nat)
  | networkAtomicAction (die idx : Nat)
  | addAction (die idx : Nat)
  | wakeAction (die idx : Nat)
  | postAction (die idx : Nat)
  -- engines
  | copyEngineCommandStart (cmd : Nat)
  | sendListEntry (cmd : Nat)
  | copyEngineCommandComplete (cmd : Nat)
  | networkArrival (pkt : Nat)
  | remoteFault (cmd : Nat)
  | tileCommandExecute (core : Nat)
  | tileCommandComplete (core : Nat)
  | lunaSearchComplete (core : Nat)
  -- service calls (21_context.md R406)
  | sysReply (ctx call : Nat)
  | alloc (ctx : Nat)
  | free (ctx : Nat)
  | mapObject (ctx : Nat)
  | evictObject (ctx : Nat)
  | hostCall (ctx : Nat)
  | hostCallReply (ctx call : Nat) (bytes : List (BitVec 8))
  | print (ctx : Nat)
  | sleep (ctx : Nat)
  | sleepExpiry (ctx call : Nat)
  | yieldCore (ctx : Nat)
  | queryTime (ctx : Nat)
  | counterRegion (ctx : Nat)
  | worldChannel (ctx : Nat)
  | contextExit (ctx : Nat)
  | firmwareSwitch
  | contextTeardown (ctx : Nat)
  -- power, boot and leadership (01_device.md R20, R23; 23_world.md R453 to R455)
  | throttleWindowEnd (power : Nat) (t0 t1 t2 t3 : Nat)
  | thermalTrip (die : Nat)
  | deviceReset
  | pairSelfTestComplete (die : Nat) (passed : Bool)
  | leaderElectionTimeout
  | pairHeartbeat (die : Nat)
  | heartbeatMissed (watcher : Nat)
  | fenceRequest (asker target : Nat)
  | pairLockstepMismatch (die : Nat)
  | scrubComplete (die : Nat)
  -- links (22_link.md)
  | flitReceive (link seq world : Nat) (crcOk : Bool) (tag : FlitTag)
  | replayRequest (link seq : Nat)
  | linkRetrainOrder (link : Nat)
  | linkTrained (link peer : Nat)
  | linkTrainingTimeout (link : Nat)
  | linkPortFail (link : Nat)
  | linkPortRetrained (link : Nat)
  | linkDropBurst (link : Nat)
  | hostRead (link world tag addr len : Nat)
  | hostWrite (link world tag addr : Nat) (bytes : List (BitVec 8)) (enables : List Bool)
  | hostAtomic (link world tag addr : Nat) (op : AtomOp) (ty : Ty) (x : BitVec 64)
  | hostRaise (link world tag addr : Nat) (inc : BitVec 64)
  | hostReply (link tag : Nat)
  | poolUnitServe
  | poolArbiterWindowEnd
  | hostTrayTableUpdate (session link domain : Nat)
  | fabricPacketArrival (src : Sender) (world seq : Nat) (peer : Option Nat) (addr : Nat) (op : FabricOp) (arrival : BitVec 32)
  | fabricPacketReturn (pkt : Nat)
  | routeTableUpdate (dev link : Nat) (healthy : Bool)
  | linkKeyExhausted (link world : Nat)
  -- management port
  | bar0Write (addr : Nat) (bytes : List (BitVec 8))
  | bar2Access (stream world addr : Nat) (intact write : Bool) (bytes : List (BitVec 8))
  | configWrite (frozenField : Bool)
  | functionLevelReset
  | ideKmRequest (session stream : Nat) (intact : Bool)
  | lockInterfaceRequest (world : Nat)
  | getDeviceInterfaceReport
  | startInterfaceRequest
  | stopInterfaceRequest
  | cxlMemRead (addr : CxlAddr)
  | cxlMemWrite (addr : CxlAddr) (bytes : List (BitVec 8))
  -- sessions and commands (23_world.md R448 to R452)
  | sessionRingRequest (ring : Nat)
  | sessionRingReset (ring : Nat)
  | getVersion (session : Nat)
  | getCapabilities (session : Nat)
  | negotiateAlgorithms (session : Nat)
  | getDigests (session : Nat)
  | getCertificate (session : Nat)
  | getMeasurements (session world : Nat)
  | keyExchange (session : Nat)
  | finishSession (session : Nat) (mutualAdmin : Bool)
  | keyUpdate (session : Nat)
  | spdmHeartbeat (session : Nat)
  | endSession (session : Nat)
  | assignWorld (session world : Nat) (dies : List Nat) (bind : Option Nat)
  | teardownWorld (session world : Nat)
  | createContext (session world arena : Nat) (maps : List MapSpec)
  | loadCode (session ctx : Nat) (obj : LoadSpec)
  | hostEnqueue (session ctx kernel blocks queue prio : Nat) (arg : BitVec 64) (dep : Bool)
  | firmwareUpdate (session : Nat) (digest : BitVec 384)
  | openPool (session ctx : Nat) (entries : List PoolEntry)
  | firewallReassign (region world : Nat)
  | clusterAtomicUnitRequest (req : Nat)
  | remoteScratchpadRequest (req : Nat)
  | uncorrectableSoftError (t : SoftTarget)
  deriving DecidableEq, Repr

end Sys2Proof
end

