-- ==== Sys2Proof/Machine/State.lean ====
section
/-!
DEFINITION. The state of the machine as plain data, its faults and refusals, and the state after reset.
Tables are lists with rising keys; a table of devices, dies, cores or links whose entry is absent stands for
the entry at its reset value.
-/

set_option linter.unusedVariables false

namespace Sys2Proof.Machine

/-- What stops the machine. -/
inductive Fault where
  /-- Raised by `step` when the arithmetic clock has been stopped by a thermal trip and the next thing
  to happen is no device reset (01_device.md R23: only a device reset restores operation). Safe: the
  part itself does nothing more. -/
  | thermalTrip
  deriving DecidableEq, Repr

/-- What the model declines. -/
inductive Refusal where
  /-- Raised by `exec` for an instruction that has no meaning here yet. Safe: the run stops. -/
  | notModelled (mnemonic : String)
  deriving DecidableEq, Repr

/-- A vector of one number per home (13_ordering.md R253, R255). -/
structure VecD where
  h0 : Nat := 0
  h1 : Nat := 0
  h2 : Nat := 0
  h3 : Nat := 0
  deriving DecidableEq, Repr, Inhabited

/-- A 16-byte granule with its tag. -/
structure Granule where
  bits : BitVec 128
  tag : Bool
  deriving DecidableEq, Repr, Inhabited

/-- Where an access is performed (10_memory.md R216, R174, 17_counter.md R316). -/
inductive Place where
  | mem (pa : Nat)
  | sram (die off : Nat)
  | host (link addr : Nat)
  | dev (num addr : Nat)
  | tray (domain addr : Nat)
  | rsp (blk off : Nat)
  deriving DecidableEq, Repr, Inhabited

/-- Access kinds of a trap record, by their codes 0 to 5 (21_context.md R402). -/
inductive AccKind where
  | none | load | store | atomic | fetch | engine
  deriving DecidableEq, Repr, Inhabited

/-- A trap about to be taken: cause and sub-cause (R398), access kind, named register, faulting
address and the trapping lanes. -/
structure Trap where
  cause : Nat
  sub : Nat := 0
  kind : AccKind := .none
  named : Nat := 0
  addr : BitVec 64 := 0
  lanes : List Nat := []
  deriving DecidableEq, Repr, Inhabited

/-- A group's trap record (R399, R402). -/
structure TrapRec where
  trap : Trap
  word : BitVec 64
  pc : Nat
  kern : Nat
  /-- Lanes of the trapping set that are still in the handler (R401). -/
  inside : List Nat
  deriving DecidableEq, Repr, Inhabited

/-! ## Lanes -/

/-- What a waiting lane needs (05_group.md R101). -/
inductive Wait where
  /-- The listed requests have replied. -/
  | reqs (ids : List Nat)
  /-- The lane's applied vector covers its D. -/
  | cover
  /-- The group's outstanding counts are at or below the limits; 7 is no bound. -/
  | counts (ld st cp tl : Nat)
  /-- The `rgrow` request is decided. -/
  | rgrow (id : Nat)
  /-- The phase of the barrier record completes; the lane then goes on at the next word, with `acq` as an acquire. -/
  | barrier (rsp : Bool) (addr : Nat) (phase : BitVec 32) (acq : Bool)
  /-- The counter reaches the value. -/
  | counter (va : Nat) (value : Nat)
  /-- The scalar read of a counter has replied; the lane then goes on at the next word (17_counter.md R340). -/
  | cnget (id : Nat)
  /-- The cross-lane execution completes. -/
  | member
  /-- The service call of this identity has its reply; 0 until it is posted. The word's fields say where the result
  goes (21_context.md R404). -/
  | sys (call : Nat) (x : FForm)
  /-- Every producer has triggered. -/
  | producers
  /-- The resolution is decided. -/
  | object (res : Nat)
  /-- The page is filled; the access kind and address of the trap if it cannot be. -/
  | page (ctx : Nat) (page : Nat) (kind : AccKind) (addr : BitVec 64)
  /-- A queue, table or bin has room. -/
  | room
  /-- The neighbours have advanced; the identity is that of the issue that added 1 (18_barrier.md R354). -/
  | lead (id : Nat)
  /-- The invalidation or cache drop completes. -/
  | inval (id : Nat)
  /-- The Luna search completes. -/
  | luna (id : Nat)
  /-- The listed lanes, which issued the word at this address in the same path, have left it. -/
  | mates (kern pc : Nat) (lanes : List Nat)
  /-- The yield ends at this cycle. -/
  | yielded (till : Nat)
  deriving DecidableEq, Repr, Inhabited

inductive LaneSt where
  | ready
  | waiting (w : Wait)
  | held (j : Nat)
  | exited
  deriving DecidableEq, Repr, Inhabited

/-- An open loop slot (R121). -/
structure LoopSlot where
  n : Nat
  start : Nat
  stop : Nat
  deriving DecidableEq, Repr, Inhabited

/-- What a thread's later accesses wait for (13_ordering.md R257, R258, 10_memory.md R236). -/
structure Order' where
  /-- Requests whose replies every later access waits for. -/
  all : List Nat := []
  /-- Later accesses wait until the die's applied vector covers D. -/
  cover : Bool := false
  /-- Requests that must be performed and acknowledged before a later write. -/
  writes : List Nat := []
  /-- Requests that must be acknowledged before a later load (`fence.all`). -/
  loads : List Nat := []
  /-- The homes are still to be sampled once `loads` is empty. -/
  sample : Bool := false
  /-- What the applied vector must cover before a later load. -/
  loadCover : VecD := {}
  deriving DecidableEq, Repr, Inhabited

/-- The outcome of a resolution (08_name.md R184). -/
inductive ResOut where
  | slot (idx : Nat) (colour : Nat)
  | null
  | fault (sub : Nat)
  deriving DecidableEq, Repr, Inhabited

/-- One thread. -/
structure Lane where
  v : Cells 32 := []
  /-- Even registers whose pair's tag is 1 (R169). -/
  tags : List Nat := []
  p : BitVec 7 := 0
  pc : Nat := 0
  kern : Nat := 0
  st : LaneSt := .ready
  stack : List Nat := []
  depth : Nat := 0
  sp : BitVec 64 := 0
  stackBase : BitVec 64 := 0
  lc : Cells 32 := []
  /-- Open loop slots, the newest first. -/
  slots : List LoopSlot := []
  D : VecD := {}
  /-- What the scratchpad writes that the lane has read depend on: an acquire waits for it too, and then joins it to D
  (10_memory.md R228; log 99). -/
  spD : VecD := {}
  order : Order' := {}
  /-- Registers with a reply outstanding (R101). -/
  pend : List Nat := []
  /-- The granule that an `ldn` of this lane has read while it waits (R184, R245), and the resolution's
  outcome. -/
  gran : Option Granule := none
  res : Option ResOut := none
  deriving DecidableEq, Repr, Inhabited

/-! ## Groups -/

/-- An open wait on a rejoin mask (R112). -/
structure JWait where
  j : Nat
  /-- The cycle at whose end the bound expires. -/
  bound : Option Nat
  /-- Lanes released by a timeout that count as arrived. -/
  timed : List Nat
  deriving DecidableEq, Repr, Inhabited

/-- A member of a cross-lane execution that has issued the word (06_arith.md R157). -/
structure Member where
  lane : Nat
  acts : Bool
  a : BitVec 64
  b : BitVec 64
  tag : Bool
  deriving DecidableEq, Repr, Inhabited

/-- An open cross-lane execution (R156). -/
structure Execution where
  kern : Nat
  pc : Nat
  instr : Instr
  word : BitVec 64
  members : List Nat
  issued : List Member
  /-- Cycles open in which the group was running. -/
  cycles : Nat
  deriving DecidableEq, Repr

/-- What an idempotent region keeps of a lane (19_kernel.md R376). -/
structure LaneSnap where
  regs : List (Nat × BitVec 32)
  tags : List Nat
  stack : List Nat
  depth : Nat
  sp : BitVec 64
  lc : Cells 32
  slots : List LoopSlot
  deriving DecidableEq, Repr, Inhabited

/-- The snapshot of a group inside a region (R376). -/
structure Snapshot where
  entry : Nat
  kern : Nat
  s : Cells 32
  j : Cells 64
  lanes : List LaneSnap
  deriving DecidableEq, Repr, Inhabited

/-- One group. -/
structure Group where
  num : Nat := 0
  width : Nat := 16
  /-- 0 copy, 1 matrix, 2 epilogue, 3 none (18_barrier.md R352). -/
  role : Nat := 3
  nregs : Nat := 256
  sched : Nat := 0
  slice : Nat := 0
  freed : List Nat := []
  s : Cells 32 := []
  j : Cells 64 := []
  waits : List JWait := []
  execs : List Execution := []
  /-- Issue cycles each candidate has been passed over, by kern * 2^32 + pc, and the aged ones (R104). -/
  passed : Tbl Nat := []
  aged : List Nat := []
  h : Cells 8192 := []
  acc : Cells 65536 := []
  htie : BitVec 8192 := 0
  /-- Hypervectors with granules still to come. -/
  hpend : List Nat := []
  trap : Option TrapRec := none
  region : Option Snapshot := none
  adv : Nat := 0
  /-- Completion vectors of the group's copy and tile commands (13_ordering.md R255, R259). -/
  cpVec : VecD := {}
  tlVec : VecD := {}
  lanes : List Lane := []
  deriving DecidableEq, Repr, Inhabited

/-! ## Blocks and instances -/

inductive BlockSt where
  /-- `formed` is a block of a spawn bin that has not been placed yet (19_kernel.md R371). -/
  | resident | saving | saved | discarded | parking | parked | retiring | retired | formed
  deriving DecidableEq, Repr, Inhabited

/-- The hidden vectors of a barrier record (R343). -/
structure Hidden where
  slots : List VecD := [{}, {}, {}, {}]
  vc : VecD := {}
  deriving DecidableEq, Repr, Inhabited

/-- A pending `rgrow` request (R124). -/
structure GrowReq where
  id : Nat
  blk : Nat
  grp : Nat
  lanes : List Nat
  sreg : Nat
  units : Nat
  deriving DecidableEq, Repr, Inhabited

/-- The tile commands (15_tile.md R271). -/
inductive TileKind where
  | tld | tst | tzero | bsld | bsinv | tcvt | tact | tred | tmma | tloop | tmmod | tntt
  deriving DecidableEq, Repr, Inhabited

/-- A range of an engine command: virtual addresses, or the place of a scratchpad or object-window range as it was
checked at issue (08_name.md R173). -/
inductive Loc where
  | none
  | va (a : Nat)
  | at (p : Place)
  deriving DecidableEq, Repr, Inhabited

/-- A queued tile command: its fields and the operands read at issue (15_tile.md R273, R277). -/
structure TileCmd where
  id : Nat
  blk : Nat
  grp : Nat
  lane : Nat
  ctx : Nat
  /-- The world that its requests carry (23_world.md R442). -/
  world : Nat
  inst : Nat
  kind : TileKind
  t : TForm
  /-- The scalars P, P+1 and the pairs X:X+1 and Y:Y+1. -/
  p0 : BitVec 32
  p1 : BitVec 32
  x : BitVec 64
  y : BitVec 64
  mem : Loc
  ctr : Option Nat
  /-- A-side scale bytes, by row and within a row by K-block (R87). -/
  scales : List (BitVec 8)
  /-- Steps already performed (R286). -/
  done : Nat
  vec : VecD
  /-- Requests of the issuing thread that must be performed first (R259). -/
  after : List Nat
  /-- A release orders the command: its vector is D as it stands when it goes (13_ordering.md R257, R259). -/
  rel : Bool := false
  deriving DecidableEq, Repr, Inhabited

/-- A search waiting at, or running on, a Luna engine (16_hypervector.md R310, R311). -/
structure LunaJob where
  id : Nat
  blk : Nat
  grp : Nat
  /-- The acting lane, whose accesses the reads are. -/
  lane : Nat
  ctx : Nat
  src : Loc
  count : Nat
  query : BitVec 8192
  dst : Nat
  limit : Nat
  next : Nat
  best : Nat
  dmin : Nat
  /-- Granules of entry `next` already read, the number of bits in which they differ from the query's, and what the reads
  raise D by (R312). -/
  gran : Nat := 0
  diff : Nat := 0
  up : VecD := {}
  deriving DecidableEq, Repr, Inhabited

/-- A range-lock entry (10_memory.md R220): scratchpad of a block or `.gl` of a context. -/
structure Lock where
  cmd : Nat
  ctx : Nat
  spBlk : Option Nat
  lo : Nat
  len : Nat
  dest : Bool
  deriving DecidableEq, Repr, Inhabited

/-- `ktrig`'s mark (R373). -/
inductive TrigMark where
  | no
  | releasing (after : List Nat) (lanes : List (Nat × Nat))
  | done (vec : VecD)
  deriving DecidableEq, Repr, Inhabited

/-- A virtual tile of a translated image (15_tile.md R290): its elements row after row. -/
structure VTile where
  ty : Ty := .n8
  rows : Nat := 0
  cols : Nat := 0
  els : List Nat := []
  deriving DecidableEq, Repr, Inhabited

structure Block where
  ctx : Nat := 0
  inst : Nat := 0
  index : Nat := 0
  core : Nat := 0
  st : BlockSt := .resident
  /-- Order of launch or relaunch on the device (R104). -/
  age : Nat := 0
  /-- Register units by role, or one entry (R98, R124, R352). -/
  regUnits : List Nat := [1]
  /-- Register units given at launch, in the same order (R125). -/
  baseUnits : List Nat := [1]
  scratch : Nat := 0
  acc : Nat := 0
  /-- Bytes in the register reserve of freed slices (R99). -/
  reserve : Nat := 0
  /-- Units the reserve has returned to the core's pool. -/
  returned : Nat := 0
  spad : Cells 8 := []
  /-- What the latest write of each scratchpad byte depends on; an absent byte's depends on nothing (13_ordering.md R257,
  10_memory.md R228). -/
  spadVec : Tbl VecD := []
  hidden : Tbl Hidden := []
  /-- Tile register bytes, by 16,384 * n + offset (15_tile.md R266). -/
  tiles : Cells 8 := []
  /-- The virtual tiles x0 to x255 that a translated image has declared (R290). -/
  vtiles : Tbl VTile := []
  savedLines : List Nat := []
  savedStore : Cells 8 := []
  savedCmds : List TileCmd := []
  savedLuna : List LunaJob := []
  savedLocks : List Lock := []
  allowance : Nat := 0
  /-- Advance counts of the neighbours as last seen, by block identity (R354). -/
  seen : Tbl Nat := []
  mark : TrigMark := .no
  /-- Since when every lane of the unit waits (R355), in nanoseconds. -/
  waitSince : Option Nat := none
  /-- The park threshold of that wait, in microseconds: the one it began with, or a later one that is not 0 (R397). -/
  waitThreshold : Nat := 0
  /-- The wake-up that came while the block was being saved (R355). -/
  signalled : Bool := false
  /-- A pre-emption request has been sent (R388). -/
  halting : Bool := false
  spawned : Bool := false
  groups : List Group := []
  deriving DecidableEq, Repr, Inhabited

inductive InstSt where
  /-- `gone` is an instance of a FROZEN context whose queue has been freed (20_queue.md R382): nothing is reported for it. -/
  | queued | dispatching | dispatched | retired | gone
  deriving DecidableEq, Repr, Inhabited

structure Instance where
  ctx : Nat := 0
  kern : Nat := 0
  arg : BitVec 64 := 0
  blocks : Nat := 1
  queue : Nat := 0
  prio : Nat := 0
  dep : Bool := false
  die : Nat := 0
  handle : BitVec 32 := 0
  st : InstSt := .queued
  placed : Nat := 0
  spawned : Nat := 0
  producers : List Nat := []
  /-- The launch's release vector (R369). -/
  vec : VecD := {}
  lastCore : Option Nat := none
  fex : Cells 32 := []
  /-- Place of the first placement of one of its blocks in the order of launches, which says how old it is (20_queue.md
  R390). -/
  born : Nat := 0
  /-- What the trigger vectors of its blocks cover, once it has retired (R374). -/
  endVec : VecD := {}
  /-- The vector of its retirement, which covers every write of the instance (R362). -/
  retireVec : VecD := {}
  deriving DecidableEq, Repr, Inhabited

/-! ## Contexts -/

inductive CtxSt where
  | live | complete | frozen | trapped
  deriving DecidableEq, Repr, Inhabited

/-- A loaded kernel (02_notation.md R42, 19_kernel.md R359). -/
structure Kern where
  codeVa : Nat := 0
  size : Nat := 0
  entry : Nat := 0
  pool : BitVec 32 := 0
  blocks : Nat := 0
  width : Nat := 16
  groups : Nat := 1
  cluster : Nat := 1
  queue : Nat := 0
  prio : Nat := 0
  die : Nat := 255
  roleGroups : List Nat := []
  roleRegs : List Nat := []
  /-- The 512 words of banks c0 to c3. -/
  consts : Cells 32 := []
  /-- The code holds a word of major 16 or 17 (16_hypervector.md R295). -/
  hyper : Bool := false
  /-- The words of a virtual image, for which native code of Levain's translation stands in memory (15_tile.md R291); empty for
  a native image. -/
  virt : List (BitVec 64) := []
  deriving DecidableEq, Repr, Inhabited

/-- Kinds of a region's backing (09_page.md R196, R201, 17_counter.md R316). -/
inductive RegKind where
  | device | host | fabric | sram
  deriving DecidableEq, Repr, Inhabited

structure Region where
  base : Nat
  size : Nat
  page : Nat
  r : Bool
  w : Bool
  x : Bool
  measured : Bool := false
  kind : RegKind := .device
  /-- Die of the frames, or link, device or counter SRAM die. -/
  target : Option Nat := none
  /-- Address at the target, or first counter word. -/
  addr : Nat := 0
  /-- What `alloc` or `map_object` has taken of another region, which keeps the pages (R201). -/
  part : Bool := false
  deriving DecidableEq, Repr, Inhabited

structure Departure where
  old : Nat
  new : Nat
  cause : Nat
  deriving DecidableEq, Repr, Inhabited

/-- A slot-table entry (08_name.md R170). -/
structure Slot where
  home : Nat := 0
  serial : Nat := 0
  size : Nat := 0
  colour : Nat := 0
  r : Bool := false
  w : Bool := false
  x : Bool := false
  live : Bool := false
  /-- 0 free, 1 fetching, 2 home, 3 resident, 4 mapped live, 5 departed, 6 retired. -/
  state : Nat := 0
  hint : Bool := false
  departures : Nat := 0
  storage : Nat := 0
  /-- The latest 64 departures, the newest first, and the physical address at which their ring lies; 0 before the slot's
  first use. -/
  ring : List Departure := []
  ringAt : Nat := 0
  deriving DecidableEq, Repr, Inhabited

/-- An entry of the call ring (21_context.md R405). -/
structure Call where
  id : Nat
  /-- The calling block. -/
  blk : Nat
  number : Nat
  args : List (BitVec 64)
  /-- The waiting lanes with predicate true, each with its own first argument. -/
  lanes : List (Nat × Nat × BitVec 64)
  /-- When a `sleep` set aside ends, in nanoseconds. -/
  till : Nat := 0
  /-- What its reply brings each lane (group, lane, value), once it has been carried out. -/
  results : List (Nat × Nat × BitVec 64) := []
  deriving DecidableEq, Repr, Inhabited

structure CtrRegion where
  die : Nat
  first : Nat
  count : Nat
  va : Nat
  deriving DecidableEq, Repr, Inhabited

structure Channel where
  dev : Nat
  base : Nat
  size : Nat
  deriving DecidableEq, Repr, Inhabited

/-- A message for Levain (17_counter.md R323, 04_numbers.md R80). -/
inductive Msg where
  | post (payload : BitVec 128)
  | threshold (kern idx value limit ns : Nat)
  | fault (cause sub : Nat) (addr : BitVec 64)
  | queueFull (queue : Nat)
  deriving DecidableEq, Repr, Inhabited

structure CtxCounters where
  arith : Nat := 0
  dataLoss : Nat := 0
  fetch : Nat := 0
  slot : Nat := 0
  depart : Nat := 0
  stale : Nat := 0
  lost : Nat := 0
  hvSat : Nat := 0
  fire : Nat := 0
  fault : Nat := 0
  park : Nat := 0
  restart : Nat := 0
  preempt : Nat := 0
  deriving DecidableEq, Repr, Inhabited

structure Context where
  world : Nat := 1
  st : CtxSt := .complete
  code : BitVec 32 := 0
  cause : Nat := 0
  sub : Nat := 0
  lossFlag : Bool := false
  nested : Bool := false
  vecInvalid : Bool := false
  exited : Bool := false
  seed : BitVec 64 := 0
  ptRoot : Nat := 0
  arenaBase : Nat := 0
  arenaSize : Nat := 65536
  trapVector : BitVec 64 := 0
  parkThreshold : BitVec 64 := 20
  spawnTimer : BitVec 64 := 2000
  /-- Thresholds that `csrw` has set; an absent one is 0xFFFF_FFFF. -/
  fexThreshold : Tbl (BitVec 64) := []
  fexTotal : Cells 32 := []
  n : CtxCounters := {}
  kernels : Tbl Kern := []
  objects : Nat := 0
  regions : List Region := []
  slots : Tbl Slot := []
  /-- Where the slot table of the context lies in Levain's memory (R170). -/
  slotBase : Nat := 0
  /-- Slots by their last resolution, the latest first (R180). -/
  lastUse : List Nat := []
  /-- Allocated arena blocks: offset and size (R407). -/
  arena : Tbl Nat := []
  stackBase : Nat := 0
  stackSize : Nat := 0
  /-- Threads' stack regions in use, by index of 1 KiB (05_group.md R117). -/
  stackUse : Tbl Nat := []
  ring : List Call := []
  /-- Calls set aside, and calls carried out whose replies are on their way. -/
  aside : List Call := []
  replies : List Call := []
  ringDie : Nat := 0
  ctrRegions : List CtrRegion := []
  channels : List Channel := []
  /-- The other devices of the runs that the context belongs to: their contexts accept its `world_channel` calls (24_prog_dispatch.md
  R459). -/
  peers : List Nat := []
  /-- The session that created the context, and the opening of it that did (04_numbers.md R80). -/
  owner : Option (Nat × Nat) := none
  log : List Byte := []
  msgs : List Msg := []
  /-- Bytes of host calls sent to the owner. -/
  sent : List (Nat × List Byte) := []
  pool : List PoolEntry := []
  deriving DecidableEq, Repr, Inhabited

/-! ## Requests in flight -/

inductive ReqKind where
  | load | store | stn | atomic (op : AtomOp) (comb : Bool) | cas | kcas (n : Nat)
  | kenq | kdeq | kchase (steps : Nat) (testKey : Bool) | cwb
  deriving DecidableEq, Repr, Inhabited

/-- Where a reply goes. -/
inductive Dest where
  | none
  /-- Registers of the lane, widened as the type says. -/
  | reg (d : Nat) (ty : Ty)
  /-- `n` registers from d, as they are. -/
  | regs (d n : Nat)
  | granule
  | hyper (h gran : Nat)
  /-- A scalar register or pair. -/
  | scalar (d n : Nat)
  deriving DecidableEq, Repr, Inhabited

/-- A request between a core and the place that orders it (10_memory.md R206, R243, R245). -/
structure Req where
  id : Nat
  kind : ReqKind
  ctx : Nat
  world : Nat
  core : Nat
  blk : Nat
  grp : Nat
  lane : Nat
  inst : Nat
  /-- Identity of the issued word, shared by the requests of its lanes: even for the first slot of a scheduler's cycle, and the
  next odd number for the second (R106). -/
  wordId : Nat
  place : Place
  size : Nat
  ty : Ty
  data : BitVec 512
  cmp : BitVec 512
  scope : Scope
  ord : Order
  /-- Read at the home, never from the die's replica (R254). -/
  atHome : Bool
  dest : Dest
  /-- Counts in the ld class; otherwise in the st class (R243). -/
  isLd : Bool
  /-- Requests that must be complete before this one leaves (R228, R257). -/
  after : List Nat
  /-- D as it stood when the request left the core (R255). -/
  vec : VecD
  /-- 0 on its way to a combining station, 1 waiting there, 2 past it (17_counter.md R334). -/
  stage : Nat
  /-- Performed at its ordering point; the reply is on its way. -/
  performed : Bool
  reply : BitVec 512
  tag : Bool
  /-- What the reply raises D by. -/
  raises : VecD
  /-- Lost on the way: the reply is zeros and counts as data loss (22_link.md R419). -/
  lost : Bool
  /-- The cycle before which the request, or once it is performed its reply, is still on its way (14_prog_litmus.md R263;
  log 100). -/
  due : Nat := 0
  deriving DecidableEq, Repr

/-- A write notice (13_ordering.md R253). -/
structure Notice where
  home : Nat
  n : Nat
  /-- The bytes written, all in one line: each with its address. -/
  cells : List (Nat × BitVec 8)
  /-- Granules of the write whose tag is set; the others touched are cleared. -/
  setTags : List Nat
  vec : VecD
  /-- The cycle before which the notice is still on its way (log 100). -/
  due : Nat := 0
  deriving DecidableEq, Repr, Inhabited

/-- A replica line (R254). -/
structure RLine where
  bytes : List (BitVec 8)
  tags : List Bool
  deriving DecidableEq, Repr, Inhabited

/-- A fill on its way to a die's replica (R254). -/
structure Fill where
  line : Nat
  home : Nat
  m : Nat
  data : RLine
  deriving DecidableEq, Repr, Inhabited

/-- A write performed at the holder of a line, not yet numbered (10_memory.md R219, R251). -/
structure HeldWrite where
  /-- The request that made it; 0 for one from outside. -/
  req : Nat
  addr : Nat
  /-- Empty for a failed `cas`, which is a read. -/
  bytes : List (BitVec 8)
  vec : VecD
  deriving DecidableEq, Repr, Inhabited

/-- A line held by a cluster atomic unit (die 0 to 3) or an ingress atomic cache (4 and up). -/
structure Held where
  line : Nat
  holder : Nat
  till : Nat
  writingBack : Bool
  writes : List HeldWrite
  deriving DecidableEq, Repr, Inhabited

/-! ## Engines -/

/-- A copy, network or gather command (17_counter.md R329 to R333). -/
inductive CopyOp where
  | cpy | nwr | nrd
  | natom (op : AtomOp) (ty : Ty) (comb : Bool) (operand : BitVec 64)
  | nlist
  deriving DecidableEq, Repr, Inhabited

structure CopyCmd where
  id : Nat
  op : CopyOp
  ctx : Nat
  /-- The world that its requests carry (23_world.md R442). -/
  world : Nat
  /-- The issuing block, group and lane; none for a trigger's action. -/
  owner : Option (Nat × Nat × Nat)
  core : Nat
  die : Nat
  inst : Option Nat
  src : Loc
  dst : Loc
  len : Nat
  /-- Remote descriptor: device, address and arrival (R330). -/
  dev : Nat
  raddr : Nat
  arrival : BitVec 32
  ctr : Option Nat
  vec : VecD
  after : List Nat
  started : Bool
  /-- Entries of a send list still to send. -/
  next : Nat
  /-- Packets still out. -/
  packets : List Nat
  /-- The old value or bytes the command has brought back. -/
  got : List (BitVec 8)
  /-- A release orders the command: its vector is D as it stands when it goes (13_ordering.md R257, R259). -/
  rel : Bool := false
  /-- The writes that the command has made (R259). -/
  made : VecD := {}
  deriving DecidableEq, Repr, Inhabited

/-- A thread in a spawn bin (19_kernel.md R370). -/
structure BinThread where
  arg : BitVec 64
  tag : Bool
  D : VecD
  deriving DecidableEq, Repr, Inhabited

structure SpawnBin where
  inst : Nat
  target : Nat
  threads : List BinThread
  since : Nat
  deriving DecidableEq, Repr, Inhabited

/-- A line of an instruction cache: its number and its eight words. -/
structure ILine where
  line : Nat
  words : List (BitVec 64)
  deriving DecidableEq, Repr, Inhabited

structure TlbEntry where
  ctx : Nat
  base : Nat
  size : Nat
  entry : BitVec 64
  deriving DecidableEq, Repr, Inhabited

structure Core where
  /-- Contexts whose violations have frozen the core, until their teardown (21_context.md R411). -/
  frozenBy : List Nat := []
  tileQ : List TileCmd := []
  bstore : Cells 8 := []
  owner : Tbl Nat := []
  locks : List Lock := []
  luna : List LunaJob := []
  bins : List SpawnBin := []
  /-- The instruction cache of 64 KiB (01_device.md R10): way w of set n, of 128 sets of eight ways, at 8n + w. -/
  icache : Tbl ILine := []
  /-- The loop buffer of 256 instructions, by physical line (10_memory.md R231). -/
  loopBuf : Tbl (List (BitVec 64)) := []
  /-- The instance whose code the two reserved ways hold (20_queue.md R390), and its lines. -/
  prefetch : Option Nat := none
  tlb : List TlbEntry := []
  slotCache : List (Nat × Nat) := []
  grows : List GrowReq := []
  deriving DecidableEq, Repr, Inhabited

/-! ## Dies -/

inductive Latch where
  | unassigned | assigned (w : Nat) | scrubbing (w : Nat)
  deriving DecidableEq, Repr, Inhabited

/-- States of a service pair (23_world.md R454); `selfTest` is a pair that has passed and awaits the election. -/
inductive PairSt where
  | rom | selfTest | leader | follower | offline | stopped | fenced
  deriving DecidableEq, Repr, Inhabited

/-- States of a trigger entry (17_counter.md R320). -/
inductive TrigSt where
  | free | armed | firing
  deriving DecidableEq, Repr, Inhabited

structure TrigEntry where
  st : TrigSt := .free
  gen : Nat := 1
  ctx : Nat := 0
  /-- The counter: a physical address, or 2^64 + offset in the die's counter SRAM. -/
  ctr : Nat := 0
  threshold : Nat := 0
  record : BitVec 512 := 0
  /-- Order of arming. -/
  order : Nat := 0
  /-- Vector of the raising write (R261). -/
  vec : VecD := {}
  /-- The firing this action belongs to, and its place in it (R319). -/
  firing : Nat := 0
  deriving DecidableEq, Repr, Inhabited

structure Waiter where
  ctx : Nat
  blk : Nat
  ctr : Nat
  value : Nat
  deriving DecidableEq, Repr, Inhabited

/-- A constituent of a combined request (R335): who sent it, its tag there, its increment, and the port of the station that it
came in by and its reply leaves by. A constituent of a command is a packet of it; any other is a request. -/
structure Leaf where
  source : Nat
  tag : Nat
  inc : BitVec 64
  port : Nat
  cmd : Bool := false
  deriving DecidableEq, Repr, Inhabited

/-- A request that waits at a station, with the sum of its increments, or the decombining record of one that has gone (R335). -/
structure StEntry where
  id : Nat
  place : Place
  ty : Ty
  scope : Scope
  world : Nat
  sum : BitVec 64
  leaves : List Leaf
  /-- The record is lost: the reply is split from its own list, on the slow path (R337). -/
  slow : Bool := false
  deriving DecidableEq, Repr

/-- A combining station: its table, and its decombining records (R334). -/
structure Station where
  table : List StEntry := []
  records : List StEntry := []
  deriving DecidableEq, Repr

structure Dup where
  source : Nat
  tag : Nat
  old : BitVec 64
  till : Nat
  deriving DecidableEq, Repr, Inhabited

structure HwQueue where
  bound : Option (Nat × Nat) := none
  insts : List Nat := []
  /-- When the queue was last emptied. -/
  emptied : Nat := 0
  deriving DecidableEq, Repr, Inhabited

/-- A unit that blocks (20_queue.md R387, R388). -/
structure Blocking where
  unit : Nat
  fresh : Bool
  since : Nat
  sent : Bool
  deriving DecidableEq, Repr, Inhabited

/-- What a victim of a blocking unit frees, held for that unit until it is placed (R388): the unit, the victim with its age
and core, and its pool units, hypervector slots and B-store lines. -/
structure Hold where
  unit : Nat
  fresh : Bool
  blk : Nat
  age : Nat
  core : Nat
  units : Nat
  hyper : Nat
  lines : List Nat
  deriving DecidableEq, Repr, Inhabited

structure DieCounters where
  dramCorrected : Nat := 0
  dramUncorrected : Nat := 0
  sramCorrected : Nat := 0
  sramUncorrected : Nat := 0
  flitRetries : Nat := 0
  dropped : Nat := 0
  combMerge : Nat := 0
  combFull : Nat := 0
  combLost : Nat := 0
  kneaderFaults : Nat := 0
  violations : Nat := 0
  trips : Nat := 0
  deriving DecidableEq, Repr, Inhabited

structure Die where
  seq : Nat := 0
  applied : VecD := {}
  notices : List Notice := []
  replica : Tbl RLine := []
  fills : List Fill := []
  latch : Latch := .unassigned
  pair : PairSt := .rom
  /-- When its pair's latest heartbeat arrived, in nanoseconds (23_world.md R455). -/
  lastBeat : Nat := 0
  /-- The dies whose duties its pair has taken over. -/
  serves : List Nat := []
  entries : Tbl TrigEntry := []
  armSeq : Nat := 0
  fireSeq : Nat := 0
  sram : Cells 64 := []
  sramUse : List (Nat × Nat × Nat) := []
  waiters : List Waiter := []
  ctrVec : Tbl VecD := []
  /-- Counter SRAM words that an arrival from outside has raised (13_ordering.md R261). -/
  arrived : List Nat := []
  dups : List Dup := []
  queues : Tbl HwQueue := []
  lastServed : List Nat := [63, 63, 63, 63]
  relaunch : List Nat := []
  blocking : Option Blocking := none
  holds : List Hold := []
  handleSeq : Nat := 1
  copyQ : List CopyCmd := []
  prooferTlb : List TlbEntry := []
  engineTlb : List TlbEntry := []
  n : DieCounters := {}
  /-- Measurements of index 2 made at boot: Levain images that have run (R453). -/
  images : List (BitVec 384) := []
  deriving DecidableEq, Repr, Inhabited

/-! ## Objects -/

/-- An entry of the object directory (08_name.md R175, R176). -/
structure ObjEntry where
  home : Nat
  serial : Nat
  live : Bool
  size : Nat
  storage : Nat
  world : Nat
  /-- The homes that it had before (R176): names that give one of them lead to it here (log 103). -/
  was : List Nat := []
  deriving DecidableEq, Repr, Inhabited

/-- A body in a host tray's object store, with its tags (R163). -/
structure TrayObj where
  domain : Nat
  serial : Nat
  live : Bool
  size : Nat
  addr : Nat
  tags : List Nat
  was : List Nat := []
  deriving DecidableEq, Repr, Inhabited

/-- A replica body shared by the contexts of a world. -/
structure ReplicaObj where
  home : Nat
  serial : Nat
  world : Nat
  storage : Nat
  size : Nat
  deriving DecidableEq, Repr, Inhabited

/-- A resolution on its way to its owner die (R177). -/
structure Resolution where
  id : Nat
  ctx : Nat
  blk : Nat
  grp : Nat
  /-- The waiting lane; none for `pfetch`. -/
  lane : Option Nat
  home : Nat
  serial : Nat
  /-- Rights field [19:16] of the name: execute, write, read and the kind above them. -/
  rights : BitVec 4
  /-- The slot found fetching, when the resolution waits for it. -/
  slot : Option Nat
  deriving DecidableEq, Repr, Inhabited

/-- A departure whose cores have still to acknowledge (R172). -/
structure Depart where
  ctx : Nat
  slot : Nat
  cores : List (Nat × List Nat)
  storage : Nat
  size : Nat
  deriving DecidableEq, Repr, Inhabited

/-- An invalidation under way (09_page.md R205). Agents 0 to 255 are cores, 256 + d the Proofer and
260 + d the copy engines of die d. -/
structure Inval where
  id : Nat
  ctx : Nat
  base : Nat
  size : Option Nat
  toReceive : List Nat
  /-- Agents that have received it, with the requests they still wait for. -/
  waiting : List (Nat × List Nat)
  deriving DecidableEq, Repr, Inhabited

/-- A page being filled (R202). -/
structure PageFill where
  ctx : Nat
  page : Nat
  size : Nat
  die : Option Nat
  /-- The cycle in which the fill has failed; who still waits for it then meets sub-cause 5. -/
  failed : Option Nat := none
  deriving DecidableEq, Repr, Inhabited

/-! ## Links -/

inductive LinkSt where
  | down | training | up | half
  deriving DecidableEq, Repr, Inhabited

/-- What a flit is part of. -/
inductive FlitOf where
  | packet (id : Nat)
  | request (req : Nat)
  | answer (tag : Nat)
  /-- The reply to a packet of another device's flow, and how often it has come back (R434). -/
  | reply (src world seq returns : Nat)
  deriving DecidableEq, Repr, Inhabited

structure HostReq where
  tag : Nat
  units : Nat
  req : Nat
  deriving DecidableEq, Repr, Inhabited

/-- The reply to an inbound request: no data is an error reply, or an Unsupported Request (R426, R435); `poisoned` is that of
CXL (R438). -/
structure Answer where
  tag : Nat
  data : Option (List (BitVec 8))
  poisoned : Bool := false
  deriving DecidableEq, Repr, Inhabited

/-- A flit sent and not acknowledged (22_link.md R418): its link sequence number, the packet or host request it belongs to, and
its replays. A host request goes by its own identity, an answer by its tag. -/
structure Flit where
  seq : Nat
  what : FlitOf
  replays : Nat := 0
  deriving DecidableEq, Repr, Inhabited

/-- A link: 0 to 47 fabric, 64 to 71 host; 72 stands for CXL and 73 for BAR2, of which only the answers are used. -/
structure Link where
  st : LinkSt := .training
  failed : Nat := 0
  peer : Nat := 0
  replays : Nat := 0
  drops : Nat := 0
  wrongPeers : Nat := 0
  since : Nat := 0
  /-- Times of drops, in nanoseconds, the latest first. -/
  dropTimes : List Nat := []
  /-- The next link sequence numbers expected and sent, and the flits sent that are not acknowledged, the oldest first. -/
  rxSeq : Nat := 0
  txSeq : Nat := 0
  flits : List Flit := []
  /-- Flits acknowledged, and replays asked for, as the receiver. -/
  acks : Nat := 0
  asks : Nat := 0
  /-- Outbound host requests and the units they occupy (R424). -/
  outbound : List HostReq := []
  nextTag : Nat := 0
  inUnits : Nat := 0
  /-- Link keys by world: packets sent and received under them; absent when not established. -/
  keys : Tbl (Nat × Nat) := []
  retired : List Nat := []
  frozenWorlds : List Nat := []
  /-- Answers to inbound requests, the latest first (R423). -/
  answers : List Answer := []
  deriving DecidableEq, Repr, Inhabited

/-- A packet of a flow (22_link.md R433, R434). -/
structure Packet where
  id : Nat
  dst : Nat
  world : Nat
  seq : Nat
  cmd : Option Nat
  req : Option Nat
  kind : ReqKind
  addr : Nat
  bytes : List (BitVec 8)
  len : Nat
  arrival : BitVec 32
  /-- The send-list entry that the packet belongs to. -/
  msg : Nat := 0
  via : Option Nat
  returns : Nat
  void : Bool
  /-- The constituents of a combined packet (17_counter.md R339); empty for any other. -/
  leaves : List Leaf := []
  deriving DecidableEq, Repr, Inhabited

/-- A request of an inbound packet: the context of this device that is its peer, if it is a network command's. -/
structure InOp where
  seq : Nat
  /-- The fabric link by which it came in. -/
  link : Nat
  peer : Option Nat
  addr : Nat
  op : FabricOp
  arrival : BitVec 32
  deriving DecidableEq, Repr

/-- An inbound flow: the next sequence number to perform, the packets held, and the replies given (R433). -/
structure InFlow where
  src : Nat
  world : Nat
  next : Nat := 0
  /-- Packets that came again and had the reply they had. -/
  repeats : Nat := 0
  waiting : List InOp := []
  replies : List (Nat × Option (List (BitVec 8))) := []
  deriving DecidableEq, Repr

structure Flow where
  dst : Nat
  world : Nat
  next : Nat
  deriving DecidableEq, Repr, Inhabited

/-- What an inbound request of a host asks (R423). -/
inductive InKind where
  | read (len : Nat)
  | write (bytes : List (BitVec 8)) (enables : List Bool)
  | atomic (op : AtomOp) (ty : Ty) (x : BitVec 64)
  | raise (inc : BitVec 64)
  deriving DecidableEq, Repr

/-- One 64-byte unit of an inbound request that waits (R428). Class 4 is that of the session rings. A request is performed
with its last unit. -/
structure PoolUnit where
  cls : Nat
  weight : Nat
  link : Nat
  world : Nat
  tag : Nat
  addr : Nat
  kind : InKind
  last : Bool
  deriving DecidableEq, Repr

structure Arbiter where
  wait : List PoolUnit := []
  served : Nat := 0
  served0 : Nat := 0
  /-- When the current window began. -/
  since : Nat := 0
  /-- Units that the class whose turn it is may still have served. -/
  credit : Nat := 0
  turn : Nat := 3
  deriving DecidableEq, Repr, Inhabited

/-! ## Management -/

/-- A response message of a session, by what it says (23_world.md R451, R452). `free` numbers the opaque bytes of
signatures, certificates and keys (`Config.cryptoByte`). -/
inductive Resp where
  | version | capabilities | algorithms
  | digests (free : Nat)
  | certificate (free : Nat)
  | measurements (world : Nat) (values : List (Nat × List (BitVec 8))) (free : Nat)
  | keyExchange (free : Nat)
  | finished | keyUpdated | heartbeat | ended
  /-- A command carried out, with the number it gives back. -/
  | done (value : Nat)
  /-- A command or request refused. -/
  | refused (code : Nat)
  | overrun (consumed : Nat)
  | notice (bytes : List (BitVec 8))
  deriving DecidableEq, Repr

/-- A session ring (R449). -/
structure Ring where
  base : Nat
  /-- Host link, or none for BAR0. -/
  link : Option Nat
  /-- Request slots consumed, as the tail counts them. -/
  tail : Nat
  /-- Response messages of its sessions still to write, the oldest first. -/
  pending : List Resp
  /-- Response slots written. -/
  head : Nat
  /-- The overrun protocol of R450 is under way; `told` says that its error response is among those to write. -/
  overrun : Bool
  told : Bool := false
  /-- The bytes of the slots already consumed of a message that goes on, and the messages consumed and not yet carried out. -/
  part : List (BitVec 8) := []
  inbox : List (List (BitVec 8)) := []
  deriving DecidableEq, Repr, Inhabited

inductive SessSt where
  | none | version | capable | negotiated | exchanged | established | ended
  deriving DecidableEq, Repr, Inhabited

structure Session where
  st : SessSt := .none
  world : Option Nat := none
  admin : Bool := false
  keyGen : Nat := 0
  opened : Nat := 0
  /-- The response messages, the latest first. -/
  out : List Resp := []
  deriving DecidableEq, Repr, Inhabited

structure WorldRec where
  /-- Per code image: its digest, and that of its translation (R452). -/
  entries : List (BitVec 384 × Option (BitVec 384)) := []
  mutableCode : Bool := false
  images : List (BitVec 384) := []
  /-- The session that issued the assign command. -/
  owner : Nat := 0
  deriving DecidableEq, Repr, Inhabited

inductive Tdisp where
  | configUnlocked | configLocked | run | error
  deriving DecidableEq, Repr, Inhabited

structure ThrottleRec where
  ns : Nat
  old : Nat
  new : Nat
  /-- 0 power, 1 + d the temperature of die d, 5 recovery. -/
  cause : Nat
  deriving DecidableEq, Repr, Inhabited

/-- A change of a link's state, as the management logic logs it (22_link.md R420). -/
structure LinkRec where
  ns : Nat
  link : Nat
  st : LinkSt
  deriving DecidableEq, Repr, Inhabited

/-- A record of Levain's journal (23_world.md R456), with the dies that hold a copy: the leader's and the next in ring order.
Kinds: 1 a reply to a call, 2 a fence, 3 the tray table, 4 the end of a world, 5 an assignment, 6 a context, 7 code loaded,
8 pools, 9 a firewall region moved, 10 a session, 11 a reply to a command, 12 a queue bound, 13 frames claimed, 14 a teardown, 15 a
call carried out, 16 a die scrubbed. `values` are the reply's values, or a session's state and the generation of its keys; `at` is where
the record lies in each copy, in world-0 memory of the two dies (log 115). -/
structure JournalRec where
  kind : Nat
  a : Nat
  b : Nat
  values : List Nat := []
  copies : List Nat := []
  places : List Nat := []
  deriving DecidableEq, Repr, Inhabited

/-- A report of the device's interface (R437): the BARs that it lists, with their sizes, and the measurements of the lent world. -/
structure Report where
  bars : List (Nat × Nat)
  values : List (Nat × List (BitVec 8))
  deriving DecidableEq, Repr, Inhabited

structure Mgmt where
  rings : Tbl Ring := []
  sessions : Tbl Session := []
  firewall : Cells 8 := []
  worlds : Tbl WorldRec := []
  tdisp : Tdisp := .configUnlocked
  lent : Nat := 0
  /-- IDE streams 0 to 3 in the secure state. -/
  streams : List Nat := []
  leader : Option Nat := none
  /-- Fence requests not yet taken: asker and target (R455). -/
  fences : List (Nat × Nat) := []
  journal : List JournalRec := []
  /-- A firmware switch has been asked for (21_context.md R408), with the new image's digest. -/
  switch : Option (BitVec 384) := none
  levain : BitVec 384 := 0
  trayTable : Cells 24 := []
  arbiter : Arbiter := {}
  tripLog : List (Nat × Nat) := []
  /-- Fabric route health: (device, link) pairs that are unhealthy (R434). -/
  unhealthy : List (Nat × Nat) := []
  linkLog : List LinkRec := []
  /-- A STOP_INTERFACE_REQUEST waits for the teardown of the lent world (22_link.md R437). -/
  stopping : Bool := false
  /-- A firewall region on its way to another world, and the invalidations it waits for (R445). -/
  reassign : Option (Nat × Nat × List Nat) := none
  /-- Signals to hosts, by MSI-X vector, 0 to 31 (R435, R449), and errors reported through AER (R435, 01_device.md R23). -/
  vectors : Tbl Nat := []
  aer : Nat := 0
  /-- The interface reports given (R437). -/
  reports : List Report := []
  /-- CXL IDE has found a flit broken and contains the path (R438). -/
  cxlInsecure : Bool := false
  deriving DecidableEq, Repr, Inhabited

/-! ## The whole machine -/

/-- The path whose word is being executed. -/
structure Focus where
  blk : Nat
  grp : Nat
  kern : Nat
  pc : Nat
  lanes : List Nat
  word : BitVec 64
  /-- The word stands in its scheduler's second slot of the cycle (05_group.md R106). -/
  second : Bool := false
  deriving DecidableEq, Repr, Inhabited

/-- A candidate picked to issue (05_group.md R104), in the first slot or the second. -/
structure Candidate where
  blk : Nat
  grp : Nat
  kern : Nat
  pc : Nat
  lanes : List Nat
  second : Bool := false
  deriving DecidableEq, Repr, Inhabited

/-- An event that the machine itself finds due: the event rows whose conditions the state shows (Machine/Cycle.lean). Each is the
constructor of `Instr` of its name. -/
inductive Due where
  | candidateAged (blk grp pc : Nat)
  | laneResultArrival (blk grp lane : Nat)
  | jwaitTimeout (blk grp j : Nat)
  | membershipTimeout (blk grp pc : Nat)
  | yieldExpiry (blk grp lane : Nat)
  | rgrowGrant (core : Nat)
  | thresholdNotification (ctx : Nat)
  | blockRetire (blk : Nat)
  | instanceRetire (inst : Nat)
  | unitPlacement (die : Nat)
  | preemptionGraceExpiry (die : Nat)
  | preemptionHalt (blk : Nat)
  | blockSaveComplete (blk : Nat)
  | parkThresholdExpiry (blk : Nat)
  | spawnTimerExpiry (core bin : Nat)
  | ktrigReleaseComplete (blk : Nat)
  | leadCountUpdate (blk nb : Nat)
  | codePrefetch (core : Nat)
  | homeSliceRequest (req : Nat)
  | noticeApply (die home : Nat)
  | replicaLineInstall (die line : Nat)
  | loadReply (req : Nat)
  | storeAck (req : Nat)
  | atomicLeaseExpiry (line : Nat)
  | atomicWriteBackComplete (line : Nat)
  | combiningArrival (req : Nat)
  | combinedRequestForward (die entry : Nat)
  | decombineReply (die rcd : Nat)
  | combiningRecordExpiry (die req : Nat)
  | kneaderPacketPerform (req : Nat)
  | objectResolution (res : Nat)
  | fetchComplete (ctx slot : Nat)
  | slotInvalidationAck (ctx slot core : Nat)
  | pageFillComplete (ctx page : Nat)
  | pageFillFail (ctx page : Nat)
  | invalidationReceipt (inv agent : Nat)
  | invalidationAck (inv agent : Nat)
  | launchAction (die idx : Nat)
  | copyAction (die idx : Nat)
  | networkWriteAction (die idx : Nat)
  | networkReadAction (die idx : Nat)
  | networkAtomicAction (die idx : Nat)
  | addAction (die idx : Nat)
  | wakeAction (die idx : Nat)
  | postAction (die idx : Nat)
  | copyEngineCommandStart (cmd : Nat)
  | sendListEntry (cmd : Nat)
  | copyEngineCommandComplete (cmd : Nat)
  | networkArrival (pkt : Nat)
  | tileCommandExecute (core : Nat)
  | tileCommandComplete (core : Nat)
  | lunaSearchComplete (core : Nat)
  | sysReply (ctx call : Nat)
  | alloc (ctx : Nat)
  | free (ctx : Nat)
  | mapObject (ctx : Nat)
  | evictObject (ctx : Nat)
  | hostCall (ctx : Nat)
  | print (ctx : Nat)
  | sleep (ctx : Nat)
  | sleepExpiry (ctx call : Nat)
  | yieldCore (ctx : Nat)
  | queryTime (ctx : Nat)
  | counterRegion (ctx : Nat)
  | worldChannel (ctx : Nat)
  | contextExit (ctx : Nat)
  | firmwareSwitch
  | leaderElectionTimeout
  | pairHeartbeat (die : Nat)
  | heartbeatMissed (watcher : Nat)
  | fenceRequest (asker target : Nat)
  | scrubComplete (die : Nat)
  | linkTrainingTimeout (link : Nat)
  | linkDropBurst (link : Nat)
  | hostReply (link tag : Nat)
  | poolUnitServe
  | poolArbiterWindowEnd
  | fabricPacketReturn (pkt : Nat)
  | linkKeyExhausted (link world : Nat)
  | stopInterfaceRequest
  | sessionRingRequest (ring : Nat)
  | sessionRingReset (ring : Nat)
  | firewallReassign (region world : Nat)
  | clusterAtomicUnitRequest (req : Nat)
  | remoteScratchpadRequest (req : Nat)
  deriving DecidableEq, Repr

/-- What the machine does next in the current cycle. -/
inductive Item where
  /-- An event from outside. -/
  | event (i : Instr)
  | due (e : Due)
  | issue (c : Candidate)
  /-- The schedulers fill their issue slots (05_group.md R104). -/
  | pick
  deriving DecidableEq, Repr

structure State where
  clock : Nat
  ns : Nat
  nsRem : Nat
  mhz : Nat
  underRun : Nat
  throttleLog : List ThrottleRec
  tripped : Bool
  devNum : Nat
  mem : List Host.Cell
  gtags : List Nat
  writes : Tbl (Nat × VecD)
  remote : Tbl Byte
  remoteTags : Tbl Bool
  /-- Granules struck by an uncorrectable error and not written since (08_name.md R163). -/
  poison : List Nat
  reqs : List Req
  held : List Held
  dies : Tbl Die
  cores : Tbl Core
  ctxs : Tbl Context
  insts : Tbl Instance
  blocks : Tbl Block
  objects : List ObjEntry
  trayObjs : List TrayObj
  replicasObj : List ReplicaObj
  resolutions : List Resolution
  departs : List Depart
  invals : List Inval
  pageFills : List PageFill
  /-- Combining stations in use: 0 to 3 are the device-scope ones of the dies, 16 + n the system-scope one toward device n. -/
  stations : Tbl Station
  links : Tbl Link
  flows : List Flow
  packets : List Packet
  /-- Packets of commands that wait for room in their flow, in order (R433). -/
  queued : List Packet := []
  inFlows : List InFlow
  mgmt : Mgmt
  levainNext : Nat
  levainFrame : List Nat
  /-- Frames that have been given back: base and size. -/
  frames : List (Nat × Nat)
  /-- When the current throttle window began, in nanoseconds (01_device.md R20). -/
  windowSince : Nat
  nextId : Nat
  freeCount : Nat
  agenda : List Item
  inbox : List Instr
  focus : Option Focus
  deriving DecidableEq, Repr

/-- The machine right after a device reset (INVENTORY.md, '## State'). -/
def State.reset : State :=
  { clock := 0, ns := 0, nsRem := 0, mhz := 4000, underRun := 0, throttleLog := [], tripped := false,
    devNum := 1, mem := [], gtags := [], writes := [], remote := [], remoteTags := [], poison := [], reqs := [], held := [],
    dies := [], cores := [], ctxs := [], insts := [], blocks := [], objects := [], trayObjs := [],
    replicasObj := [], resolutions := [], departs := [], invals := [], pageFills := [], stations := [], links := [],
    flows := [], packets := [], inFlows := [], mgmt := {}, levainNext := 0,
    levainFrame := [0, 0, 0, 0], frames := [], windowSince := 0, nextId := 1, freeCount := 0, agenda := [], inbox := [],
    focus := none }

end Sys2Proof.Machine
end

