-- ==== Sys2Proof/Machine/Store.lean ====
section
/-!
DEFINITION. Tables, bytes and vectors: the plainest operations on the data of the state.
-/

set_option linter.unusedVariables false

namespace Sys2Proof

/-! ## Tables with rising keys -/

/-- The entry of a key. -/
def Tbl.at {α : Type} : Tbl α → Nat → Option α
  | [], _ => none
  | (k, x) :: t, n => if n < k then none else if n = k then some x else Tbl.at t n

/-- The table with the entry of a key set. -/
def Tbl.put {α : Type} : Tbl α → Nat → α → Tbl α
  | [], n, y => [(n, y)]
  | (k, x) :: t, n, y =>
    if n < k then (n, y) :: (k, x) :: t
    else if n = k then (n, y) :: t
    else (k, x) :: Tbl.put t n y

/-- The table without a key. -/
def Tbl.del {α : Type} : Tbl α → Nat → Tbl α
  | [], _ => []
  | (k, x) :: t, n => if n < k then (k, x) :: t else if n = k then t else (k, x) :: Tbl.del t n

/-- The table with the entry of a key, if present, changed. -/
def Tbl.upd {α : Type} (t : Tbl α) (n : Nat) (f : α → α) : Tbl α :=
  match Tbl.at t n with
  | some x => Tbl.put t n (f x)
  | none => t

/-- A cell; an absent one reads zero. -/
def Cells.get {n : Nat} (t : Cells n) (k : Nat) : BitVec n := (Tbl.at t k).getD 0

/-- Writing zero removes the entry, so that equal contents are equal tables. -/
def Cells.set {n : Nat} (t : Cells n) (k : Nat) (x : BitVec n) : Cells n :=
  if x = 0 then Tbl.del t k else Tbl.put t k x

/-- Keys strictly rising, from `lo` on. -/
def Tbl.rising {α : Type} (lo : Nat) : Tbl α → Bool
  | [] => true
  | (k, _) :: t => decide (lo ≤ k) && Tbl.rising (k + 1) t

/-- The canonical form of cells: keys strictly rising and no zero listed. -/
def Cells.wf {n : Nat} (t : Cells n) : Bool := Tbl.rising 0 t && t.all (fun e => e.2 != 0)

/-! ## Memory -/

/-- Device memory as a list of cells (09_page.md R197: 1 TiB of physical addresses). An unlisted byte
reads zero (log 4). -/
abbrev Memory := List Host.Cell

/-- The canonical form of memory: addresses strictly rising, no listed zero. -/
def Memory.wf (m : Memory) : Bool := Cells.wf (n := 8) m

def Memory.byte (m : Memory) (a : Nat) : Byte := Cells.get (n := 8) m a
def Memory.setByte (m : Memory) (a : Nat) (b : Byte) : Memory := Cells.set (n := 8) m a b

/-- `n` bytes from an address. -/
def Memory.read (m : Memory) (a : Nat) : Nat → List Byte
  | 0 => []
  | n + 1 => Memory.byte m a :: Memory.read m (a + 1) n

/-- Bytes written from an address on. -/
def Memory.write (m : Memory) (a : Nat) : List Byte → Memory
  | [] => m
  | b :: bs => Memory.write (Memory.setByte m a b) (a + 1) bs

/-- A little-endian number from bytes (R5). -/
def natOfBytes : List Byte → Nat
  | [] => 0
  | b :: bs => b.toNat + 256 * natOfBytes bs

/-- The `n` bytes of a number, the least significant first. -/
def bytesOfNat (x : Nat) : Nat → List Byte
  | 0 => []
  | n + 1 => BitVec.ofNat 8 x :: bytesOfNat (x / 256) n

def Memory.readNat (m : Memory) (a n : Nat) : Nat := natOfBytes (Memory.read m a n)

/-- Removes a number from a list that is kept as a set. -/
def without (x : Nat) (l : List Nat) : List Nat := l.filter (fun y => y != x)

/-- Adds a number to a list kept in rising order without repeats. -/
def insertNat (x : Nat) : List Nat → List Nat
  | [] => [x]
  | y :: ys => if x < y then x :: y :: ys else if x = y then y :: ys else y :: insertNat x ys

namespace Machine

/-! ## Vectors -/

def VecD.get (v : VecD) (h : Nat) : Nat :=
  match h with
  | 0 => v.h0
  | 1 => v.h1
  | 2 => v.h2
  | _ => v.h3

def VecD.set (v : VecD) (h n : Nat) : VecD :=
  match h with
  | 0 => { v with h0 := n }
  | 1 => { v with h1 := n }
  | 2 => { v with h2 := n }
  | _ => { v with h3 := n }

/-- Entry by entry (13_ordering.md R255). -/
def VecD.max (v w : VecD) : VecD :=
  ⟨Nat.max v.h0 w.h0, Nat.max v.h1 w.h1, Nat.max v.h2 w.h2, Nat.max v.h3 w.h3⟩

/-- v ≥ w in every entry. -/
def VecD.covers (v w : VecD) : Bool :=
  decide (w.h0 ≤ v.h0) && decide (w.h1 ≤ v.h1) && decide (w.h2 ≤ v.h2) && decide (w.h3 ≤ v.h3)

/-- v with entry h at least n. -/
def VecD.raise (v : VecD) (h n : Nat) : VecD := v.max (VecD.set {} h n)

/-! ## Entries of the state's tables -/

def State.die (s : State) (d : Nat) : Die := (Tbl.at s.dies d).getD {}
def State.setDie (s : State) (d : Nat) (x : Die) : State := { s with dies := Tbl.put s.dies d x }
def State.modDie (s : State) (d : Nat) (f : Die → Die) : State := s.setDie d (f (s.die d))

def State.core (s : State) (c : Nat) : Core := (Tbl.at s.cores c).getD {}
def State.setCore (s : State) (c : Nat) (x : Core) : State := { s with cores := Tbl.put s.cores c x }
def State.modCore (s : State) (c : Nat) (f : Core → Core) : State := s.setCore c (f (s.core c))

/-- R411. -/
def Core.frozen (k : Core) : Bool := !k.frozenBy.isEmpty

/-- R8. -/
def dieOfCore (c : Nat) : Nat := c / 64

/-- A link at its reset value (22_link.md R420, R422; log 11): fabric links train after a device
reset, but link 47 of an absolute point stays DOWN; a host link whose table entry is 0 stays DOWN. -/
def linkReset (devNum n : Nat) : Link :=
  if n < 48 then { st := if n == 47 && absolutePoint devNum then .down else .training }
  else { st := .down }

def State.link (s : State) (n : Nat) : Link := (Tbl.at s.links n).getD (linkReset s.devNum n)
def State.setLink (s : State) (n : Nat) (x : Link) : State := { s with links := Tbl.put s.links n x }
def State.modLink (s : State) (n : Nat) (f : Link → Link) : State := s.setLink n (f (s.link n))

def State.ctx? (s : State) (c : Nat) : Option Context := Tbl.at s.ctxs c
def State.ctx (s : State) (c : Nat) : Context := (s.ctx? c).getD {}
def State.modCtx (s : State) (c : Nat) (f : Context → Context) : State :=
  { s with ctxs := Tbl.upd s.ctxs c f }

def State.inst? (s : State) (i : Nat) : Option Instance := Tbl.at s.insts i
def State.inst (s : State) (i : Nat) : Instance := (s.inst? i).getD {}
def State.modInst (s : State) (i : Nat) (f : Instance → Instance) : State :=
  { s with insts := Tbl.upd s.insts i f }

def State.block? (s : State) (b : Nat) : Option Block := Tbl.at s.blocks b
def State.block (s : State) (b : Nat) : Block := (s.block? b).getD {}
def State.modBlock (s : State) (b : Nat) (f : Block → Block) : State :=
  { s with blocks := Tbl.upd s.blocks b f }

def Block.group (b : Block) (g : Nat) : Group := b.groups.getD g {}
def Block.modGroup (b : Block) (g : Nat) (f : Group → Group) : Block :=
  { b with groups := b.groups.modify g f }

def State.group (s : State) (b g : Nat) : Group := (s.block b).group g
def State.modGroup (s : State) (b g : Nat) (f : Group → Group) : State :=
  s.modBlock b (fun x => x.modGroup g f)

def Group.lane (g : Group) (l : Nat) : Lane := g.lanes.getD l { st := .exited }
def Group.modLane (g : Group) (l : Nat) (f : Lane → Lane) : Group :=
  { g with lanes := g.lanes.modify l f }
/-- The listed lanes changed. -/
def Group.modLanes (g : Group) (ls : List Nat) (f : Nat → Lane → Lane) : Group :=
  ls.foldl (fun g l => g.modLane l (f l)) g

def State.lane (s : State) (b g l : Nat) : Lane := (s.group b g).lane l
def State.modLane (s : State) (b g l : Nat) (f : Lane → Lane) : State :=
  s.modGroup b g (fun x => x.modLane l f)
def State.modLanes (s : State) (b g : Nat) (ls : List Nat) (f : Nat → Lane → Lane) : State :=
  s.modGroup b g (fun x => x.modLanes ls f)

/-- A fresh identity (log 3). -/
def State.fresh (s : State) : Nat × State := (s.nextId, { s with nextId := s.nextId + 1 })

/-- The next free value's number (log 3). -/
def State.draw (s : State) : Nat × State := (s.freeCount, { s with freeCount := s.freeCount + 1 })

/-- A saturating 32-bit count (02_notation.md, 06_arith.md R134). -/
def sat32 (n : Nat) : Nat := Nat.min n 0xFFFFFFFF

def Context.count (c : Context) (f : CtxCounters → CtxCounters) : Context := { c with n := f c.n }
def Die.count (d : Die) (f : DieCounters → DieCounters) : Die := { d with n := f d.n }

/-- The resident blocks of a core, with their identities. -/
def State.residents (s : State) (c : Nat) : List (Nat × Block) :=
  s.blocks.filter (fun e => e.2.core == c &&
    (e.2.st == .resident || e.2.st == .saving || e.2.st == .parking || e.2.st == .retiring))

/-- Pool units a block holds (10_memory.md R212, 05_group.md R124, R99). -/
def Block.units (b : Block) : Nat := b.regUnits.sum - b.returned + b.scratch + b.acc

def State.kern (s : State) (ctx k : Nat) : Option Kern := Tbl.at (s.ctx ctx).kernels k

/-- The kernel of a block's instance. -/
def State.blockKern (s : State) (b : Block) : Kern :=
  (s.kern b.ctx (s.inst b.inst).kern).getD {}

/-- A retired block's scratchpad stays allotted until every block of its cluster has retired (10_memory.md R214). -/
def State.clusterScratch (s : State) (c : Nat) : Nat :=
  ((s.blocks.filter (fun e => e.2.core == c && e.2.st == .retired &&
    (let n := (s.blockKern e.2).cluster
     decide (1 < n) && s.blocks.any (fun x => x.2.inst == e.2.inst && x.2.index / n == e.2.index / n && x.2.st != .retired)))).map
    (fun e => e.2.scratch)).sum

/-- The kernel as the register shares of a block see it: a spawned block has one group and no roles (19_kernel.md R371). -/
def State.shareKern (s : State) (b : Block) : Kern :=
  let k := s.blockKern b
  if b.spawned then { k with groups := 1, roleGroups := [], roleRegs := [] } else k

/-- What victims that have left a core hold there for a blocking unit other than the given one (20_queue.md R388). -/
def State.heldFor (s : State) (c : Nat) (unit : Option (Nat × Bool)) : List Hold :=
  (s.die (c / 64)).holds.filter (fun h =>
    h.core == c && some (h.unit, h.fresh) != unit && !(s.residents c).any (fun e => e.1 == h.blk && e.2.age == h.age))

/-- Free units of a core's pool of 192 (01_device.md R10). -/
def State.freeUnits (s : State) (c : Nat) : Nat :=
  192 - (((s.residents c).map (fun e => e.2.units)).sum + s.clusterScratch c + ((s.heldFor c none).map Hold.units).sum)

/-- Stack of a device physical address (R7, R444): die d holds regions 256d to 256d + 255. -/
def dieOfAddr (pa : Nat) : Nat := pa / 2 ^ 38 % 4

/-- The home of a place in this device's memory. -/
def Place.home? : Place → Option Nat
  | .mem pa => some (dieOfAddr pa)
  | .sram d _ => some d
  | _ => none

/-! ## Requests in flight -/

def State.req? (s : State) (id : Nat) : Option Req := s.reqs.find? (fun r => r.id == id)

def State.updReq (s : State) (id : Nat) (k : Req → Req) : State :=
  { s with reqs := s.reqs.map (fun r => if r.id == id then k r else r) }

end Machine
end Sys2Proof
end

