-- ==== Sys2Proof/Machine/Num.lean ====
section
/-!
DEFINITION. Integers and floating-point numbers: exact values, the one rounding function, and the exact results of
the floating operations (04_numbers.md R70 to R78).
-/

set_option linter.unusedVariables false

namespace Sys2Proof.Machine

/-! ## Events (R74, R79)

An event is a number: 4 * type + event for the floating-point counters, with type 0 f16, 1 bf16, 2 f32, 3 f64 and
event 0 NaN produced, 1 infinity produced, 2 overflow, 3 underflow; 16 is an arithmetic event. -/

abbrev Events := List Nat

def arithEvent : Nat := 16

/-! ## Integers (R70 to R73) -/

/-- The value of the low `w` bits as a number of the type. -/
def intOf (signed : Bool) (w x : Nat) : Int :=
  let y := x % 2 ^ w
  if signed && 2 ^ (w - 1) ≤ y then (y : Int) - (2 ^ w : Nat) else y

/-- An integer wrapped to `w` bits. -/
def wrapTo (w : Nat) (x : Int) : Nat := (x % ((2 ^ w : Nat) : Int)).toNat

/-- The least and the greatest value of a type. -/
def intMin (signed : Bool) (w : Nat) : Int := if signed then -((2 ^ (w - 1) : Nat) : Int) else 0
def intMax (signed : Bool) (w : Nat) : Int :=
  if signed then ((2 ^ (w - 1) : Nat) : Int) - 1 else ((2 ^ w : Nat) : Int) - 1

/-- R71: sat(x, T) for an integer type. -/
def clampTo (signed : Bool) (w : Nat) (x : Int) : Int :=
  if x < intMin signed w then intMin signed w
  else if intMax signed w < x then intMax signed w
  else x

/-- R136: an exact result as the low `w` bits of its delivered value. -/
def deliver (sat signed : Bool) (w : Nat) (x : Int) : Nat :=
  wrapTo w (if sat then clampTo signed w x else x)

/-- R72: quotient and remainder of the values, and whether the case is counted. -/
def divRem (sat signed : Bool) (w : Nat) (a b : Int) : Int × Int × Bool :=
  if b = 0 then
    (if signed && a < 0 then intMin signed w else intMax signed w, a, true)
  else if signed && a == intMin signed w && b == -1 then
    (if sat then intMax signed w else intMin signed w, 0, false)
  else (Int.tdiv a b, Int.tmod a b, false)

/-- R70: a `w`-bit result widened to the whole 32-bit register. -/
def extend32 (signed : Bool) (w x : Nat) : Word := BitVec.ofInt 32 (intOf signed w x)

/-! ## Exact reals -/

/-- The magnitude mag * 2^exp; with `more`, a value strictly between mag * 2^exp and (mag + 1) * 2^exp. -/
structure Mag where
  mag : Nat
  exp : Int
  more : Bool := false
  deriving DecidableEq, Repr

/-- A float's value (R75). -/
inductive FVal where
  | nan
  | inf (neg : Bool)
  | fin (neg : Bool) (m : Mag)
  deriving DecidableEq, Repr

def bitLen (x : Nat) : Nat := if x = 0 then 0 else Nat.log2 x + 1

def zeroMag : Mag := ⟨0, 0, false⟩

/-- x * 2^k for a natural k, as an integer with a sign. -/
def signedInt (neg : Bool) (x : Nat) : Int := if neg then -(x : Int) else x

/-- A format: exponent and fraction bits (R75). -/
structure FFmt where
  ebits : Nat
  fbits : Nat
  /-- The type's number in the event counters (R79). -/
  code : Nat
  deriving DecidableEq, Repr

def FFmt.of : FTy → FFmt
  | .f16 => ⟨5, 10, 0⟩
  | .bf16 => ⟨8, 7, 1⟩
  | .f32 => ⟨8, 23, 2⟩
  | .f64 => ⟨11, 52, 3⟩

def FFmt.width (t : FFmt) : Nat := 1 + t.ebits + t.fbits
def FFmt.bias (t : FFmt) : Nat := 2 ^ (t.ebits - 1) - 1
def FFmt.signBit (t : FFmt) : Nat := 2 ^ (t.ebits + t.fbits)
def FFmt.infBits (t : FFmt) : Nat := (2 ^ t.ebits - 1) * 2 ^ t.fbits
def FFmt.maxBits (t : FFmt) : Nat := t.infBits - 1
def FFmt.nanBits (t : FFmt) : Nat := t.infBits + 2 ^ (t.fbits - 1)
/-- The exponent of the smallest normal number. -/
def FFmt.emin (t : FFmt) : Int := 1 - (t.bias : Int)

def withSign (t : FFmt) (neg : Bool) (x : Nat) : Nat := if neg then t.signBit + x else x

/-- The value of a pattern. -/
def decodeF (t : FFmt) (x : Nat) : FVal :=
  let x := x % 2 ^ t.width
  let neg := decide (t.signBit ≤ x)
  let y := x % t.signBit
  let e := y / 2 ^ t.fbits
  let f := y % 2 ^ t.fbits
  if e = 2 ^ t.ebits - 1 then (if f = 0 then .inf neg else .nan)
  else if e = 0 then .fin neg ⟨f, t.emin - (t.fbits : Int), false⟩
  else .fin neg ⟨2 ^ t.fbits + f, t.emin - (t.fbits : Int) + ((e - 1 : Nat) : Int), false⟩

/-- Is the pattern a NaN with the quiet bit clear (R148)? -/
def isSignalling (t : FFmt) (x : Nat) : Bool :=
  decodeF t x == .nan && x / 2 ^ (t.fbits - 1) % 2 == 0

/-! ## Rounding (R77) -/

/-- mag * 2^exp in units of 2^q, rounded to an integer; and whether it is inexact. -/
def roundAt (r : Rnd) (neg : Bool) (m : Mag) (q : Int) : Nat × Bool :=
  let up := fun (n : Nat) (half rest : Bool) =>
    match r with
    | .rn => half && (rest || n % 2 == 1)
    | .rz => false
    | .rm => neg && (half || rest)
    | .rp => !neg && (half || rest)
  if q ≤ m.exp then
    let n := m.mag * 2 ^ (m.exp - q).toNat
    (if up n false m.more then n + 1 else n, m.more)
  else
    let s := (q - m.exp).toNat
    let n := m.mag / 2 ^ s
    let low := m.mag % 2 ^ s
    let half := decide (2 ^ (s - 1) ≤ low)
    let rest := m.more || low % 2 ^ (s - 1) != 0
    (if up n half rest then n + 1 else n, half || rest)

/-- What becomes of an overflow in a mode (R77). -/
def overflowed (t : FFmt) (r : Rnd) (neg : Bool) : Nat :=
  match r with
  | .rn => t.infBits
  | .rz => t.maxBits
  | .rm => if neg then t.infBits else t.maxBits
  | .rp => if neg then t.maxBits else t.infBits

/-- round(x, T, m): the pattern and the events. With `sat`, an infinity becomes the largest finite value (R71, R78). -/
def roundF (t : FFmt) (r : Rnd) (sat neg : Bool) (m : Mag) : Nat × Events :=
  if m.mag = 0 && !m.more then (withSign t neg 0, [])
  else
    let p1 : Int := t.fbits
    let ev := m.exp + (bitLen m.mag : Int) - 1
    let qu := ev - p1
    let qb := max qu (t.emin - p1)
    let (n, inexact) := roundAt r neg m qb
    let bits := (qb - (t.emin - p1)).toNat * 2 ^ t.fbits + n
    if t.infBits ≤ bits then
      let o := overflowed t r neg
      (withSign t neg (if sat && o == t.infBits then t.maxBits else o), [4 * t.code + 2])
    else
      let tiny := decide (ev < t.emin) &&
        (decide (ev + 1 < t.emin) || decide ((roundAt r neg m qu).1 < 2 ^ (t.fbits + 1)))
      (withSign t neg bits, if tiny && inexact then [4 * t.code + 3] else [])

/-- The pattern of a value that is delivered rounded. -/
def packF (t : FFmt) (r : Rnd) (sat : Bool) : FVal → Nat × Events
  | .nan => (t.nanBits, [])
  | .inf neg => (withSign t neg (if sat then t.maxBits else t.infBits), [])
  | .fin neg m => roundF t r sat neg m

/-- A NaN that no NaN source brings (R79). -/
def nanMade (t : FFmt) : Nat × Events := (t.nanBits, [4 * t.code])
/-- An infinity from finite sources (R79); `sat` makes it finite. -/
def infMade (t : FFmt) (sat neg : Bool) : Nat × Events :=
  (withSign t neg (if sat then t.maxBits else t.infBits), [4 * t.code + 1])

/-! ## Exact sums and products -/

/-- The exact sum of two signed magnitudes, without a zero's sign. -/
def addMag (na : Bool) (a : Mag) (nb : Bool) (b : Mag) : Bool × Mag :=
  let e := min a.exp b.exp
  let x := signedInt na (a.mag * 2 ^ (a.exp - e).toNat) + signedInt nb (b.mag * 2 ^ (b.exp - e).toNat)
  (decide (x < 0), ⟨x.natAbs, e, false⟩)

def mulMag (a b : Mag) : Mag := ⟨a.mag * b.mag, a.exp + b.exp, false⟩

/-- A sum delivered in a type (R78: an exact zero sum of opposite signs). -/
def sumF (t : FFmt) (r : Rnd) (sat : Bool) (a b : FVal) : Nat × Events :=
  match a, b with
  | .nan, _ => (t.nanBits, [])
  | _, .nan => (t.nanBits, [])
  | .inf x, .inf y => if x == y then packF t r sat (.inf x) else nanMade t
  | .inf x, .fin _ _ => packF t r sat (.inf x)
  | .fin _ _, .inf y => packF t r sat (.inf y)
  | .fin x m, .fin y k =>
    let (neg, z) := addMag x m y k
    if z.mag = 0 then
      let neg := if x == y then x else r == .rm
      (withSign t neg 0, [])
    else roundF t r sat neg z

def negF : FVal → FVal
  | .nan => .nan
  | .inf x => .inf (!x)
  | .fin x m => .fin (!x) m

/-- The exact product; `none` is 0 × ∞. -/
def prodF (a b : FVal) : Option FVal :=
  match a, b with
  | .nan, _ => some .nan
  | _, .nan => some .nan
  | .inf x, .inf y => some (.inf (x != y))
  | .inf x, .fin y m => if m.mag = 0 then none else some (.inf (x != y))
  | .fin x m, .inf y => if m.mag = 0 then none else some (.inf (x != y))
  | .fin x m, .fin y k => some (.fin (x != y) (mulMag m k))

def mulF (t : FFmt) (r : Rnd) (sat : Bool) (a b : FVal) : Nat × Events :=
  match prodF a b with
  | none => nanMade t
  | some v => packF t r sat v

def fmaF (t : FFmt) (r : Rnd) (sat : Bool) (a b c : FVal) : Nat × Events :=
  match prodF a b with
  | none => if c == .nan then (t.nanBits, []) else nanMade t
  | some v => sumF t r sat v c

/-! ## Quotients and roots -/

/-- The quotient to 128 bits or more; `more` tells a remainder. -/
def divMag (a b : Mag) : Mag :=
  let k := 160 + bitLen b.mag - bitLen a.mag
  let n := a.mag * 2 ^ k
  ⟨n / b.mag, a.exp - b.exp - (k : Int), n % b.mag != 0⟩

def divF (t : FFmt) (r : Rnd) (sat : Bool) (a b : FVal) : Nat × Events :=
  match a, b with
  | .nan, _ => (t.nanBits, [])
  | _, .nan => (t.nanBits, [])
  | .inf _, .inf _ => nanMade t
  | .inf x, .fin y _ => packF t r sat (.inf (x != y))
  | .fin x _, .inf y => (withSign t (x != y) 0, [])
  | .fin x m, .fin y k =>
    if k.mag = 0 then (if m.mag = 0 then nanMade t else infMade t sat (x != y))
    else if m.mag = 0 then (withSign t (x != y) 0, [])
    else roundF t r sat (x != y) (divMag m k)

/-- The integer square root by bits: `fuel` bits from the top. -/
def isqrtFrom (x : Nat) : Nat → Nat → Nat
  | 0, r => r
  | k + 1, r =>
    let c := r + 2 ^ k
    isqrtFrom x k (if c * c ≤ x then c else r)

def isqrt (x : Nat) : Nat := isqrtFrom x (bitLen x / 2 + 1) 0

/-- Even exponent, and 256 bits or more. -/
def sqrtMag (a : Mag) : Mag :=
  let k := 256 + (a.exp % 2).toNat
  let n := a.mag * 2 ^ k
  let r := isqrt n
  ⟨r, (a.exp - (k : Int)) / 2, r * r != n⟩

/-- 1 / sqrt(a). -/
def rsqrtMag (a : Mag) : Mag :=
  let odd := (a.exp % 2).toNat
  let m := a.mag * 2 ^ odd
  let k := bitLen m + 256
  let k := k + k % 2
  let r := isqrt (2 ^ (2 * k) / m)
  ⟨r, -((a.exp - (odd : Int)) / 2) - (k : Int), r * r * m != 2 ^ (2 * k)⟩

end Sys2Proof.Machine
end

