-- ==== Sys2Proof/Machine/NumFn.lean ====
section
/-!
DEFINITION. The floating-point functions of R146 and R147: minimum and maximum, comparison, roots, exp2, log2, sinPi,
cosPi, the class mask, rounding to an integer; and conversion between the integer and floating types (06_arith.md
R145 to R149). The irrational results are formed to more than 300 bits, far past the precision of f64, and rounded once
(log 23).
-/

set_option linter.unusedVariables false

namespace Sys2Proof.Machine

/-! ## Order and comparison -/

/-- a < b for signed magnitudes, -0 and +0 equal. -/
def ltFin (na : Bool) (a : Mag) (nb : Bool) (b : Mag) : Bool :=
  let (neg, d) := addMag na a (!nb) b
  neg && d.mag != 0

/-- a < b for values that are no NaN. -/
def ltF (a b : FVal) : Bool :=
  match a, b with
  | .inf x, .inf y => x && !y
  | .inf x, _ => x
  | _, .inf y => !y
  | .fin x m, .fin y k => ltFin x m y k
  | _, _ => false

def eqF (a b : FVal) : Bool := a != .nan && b != .nan && !ltF a b && !ltF b a

def isNeg : FVal → Bool
  | .nan => false
  | .inf x => x
  | .fin x _ => x

/-- R141: the conditions of `fcmp`. -/
def condF (c : Cond) (a b : FVal) : Bool :=
  let uno := a == .nan || b == .nan
  match c with
  | .eq => !uno && eqF a b
  | .ne => uno || !eqF a b
  | .lt => !uno && ltF a b
  | .le => !uno && !ltF b a
  | .gt => !uno && ltF b a
  | .ge => !uno && !ltF a b
  | .ord => !uno
  | .uno => uno

/-- R141: the conditions of `cmp`. -/
def condI (c : Cond) (a b : Int) : Bool :=
  match c with
  | .eq => a == b
  | .ne => a != b
  | .lt => decide (a < b)
  | .le => decide (a ≤ b)
  | .gt => decide (b < a)
  | .ge => decide (b ≤ a)
  | .ord => true
  | .uno => false

/-- R145, -0 below +0. -/
def minMaxF (t : FFmt) (wantMax : Bool) (x y : Nat) : Nat :=
  let a := decodeF t x
  let b := decodeF t y
  if a == .nan then (if b == .nan then t.nanBits else y)
  else if b == .nan then x
  else
    let less := ltF a b || (!ltF b a && isNeg a && !isNeg b)
    if wantMax then (if less then y else x) else (if less then x else y)

def absF (t : FFmt) (x : Nat) : Nat := if decodeF t x == .nan then t.nanBits else x % t.signBit
def negBitsF (t : FFmt) (x : Nat) : Nat :=
  if decodeF t x == .nan then t.nanBits
  else if t.signBit ≤ x then x - t.signBit else x + t.signBit

/-- R148. -/
def classF (t : FFmt) (x : Nat) : Nat :=
  match decodeF t x with
  | .nan => if isSignalling t x then 1 else 2
  | .inf neg => if neg then 4 else 512
  | .fin neg m =>
    if m.mag = 0 then (if neg then 32 else 64)
    else if m.mag < 2 ^ t.fbits then (if neg then 16 else 128)
    else (if neg then 8 else 256)

/-- R148: rounding to an integer in the format. -/
def integralF (t : FFmt) (r : Rnd) (sat : Bool) (x : Nat) : Nat :=
  match decodeF t x with
  | .nan => t.nanBits
  | .inf neg => withSign t neg (if sat then t.maxBits else t.infBits)
  | .fin neg m =>
    if 0 ≤ m.exp || m.mag = 0 then x
    else (roundF t .rn false neg ⟨(roundAt r neg m 0).1, 0, false⟩).1

/-! ## Constants and series in fixed point -/

/-- floor(π * 2^510). -/
def pi510 : Nat :=
  0x3243f6a8885a308d313198a2e03707344a4093822299f31d0082efa98ec4e6c89452821e638d01377be5466cf34e90c6cc0ac29b7c97c50dd3f84d5b5b5470917 / 4

/-- floor(ln 2 * 2^512). -/
def ln2b512 : Nat :=
  0xb17217f7d1cf79abc9e3b39803f2f6af40f343267298b62d8a0d175b8baafa2be7b876206debac98559552fb4afa1b10ed2eae35c138214427573b291169b825

/-- The fixed point: 512 bits of fraction. -/
def one512 : Nat := 2 ^ 512
def mul512 (a b : Nat) : Nat := a * b / one512
/-- π in the fixed point. -/
def pi512 : Nat := 4 * pi510

/-- Sum of term, term * x / n, ... from n on: e^x term by term. -/
def expTerms (x : Nat) : Nat → Nat → Nat → Nat → Nat
  | 0, _, _, acc => acc
  | k + 1, n, term, acc =>
    let acc := acc + term
    expTerms x k (n + 1) (mul512 term x / n) acc

/-- 2^f in the fixed point for a fraction f, 0 ≤ f < 1; below 2. -/
def exp2Frac (f : Nat) : Nat := Nat.min (expTerms (mul512 f ln2b512) 120 1 one512 0) (2 * one512 - 1)

/-- z + z^3 / 3 + z^5 / 5 + ... -/
def atanhTerms (z2 : Nat) : Nat → Nat → Nat → Nat → Nat
  | 0, _, _, acc => acc
  | k + 1, n, power, acc => atanhTerms z2 k (n + 2) (mul512 power z2) (acc + power / n)

/-- log2 of m in the fixed point, 1 ≤ m < 2. -/
def log2Frac (m : Nat) : Nat :=
  let z := (m - one512) * one512 / (m + one512)
  2 * atanhTerms (mul512 z z) 170 1 z 0 * one512 / ln2b512

/-- The alternating series of cos from 1, or of sin from x: positive and negative sums. -/
def altTerms (x2 : Nat) : Nat → Nat → Nat → Bool → Nat → Nat → Nat
  | 0, _, _, _, pos, neg => pos - neg
  | k + 1, n, term, minus, pos, neg =>
    altTerms x2 k (n + 2) (mul512 term x2 / (n * (n + 1))) (!minus)
      (if minus then pos else pos + term) (if minus then neg + term else neg)

/-- sin(πr) and cos(πr) for 0 < r ≤ 1/4, as magnitudes below their least upper bounds. -/
def sinPiQ (r : Mag) : Mag :=
  if r.exp + (bitLen r.mag : Int) < -160 then ⟨r.mag * pi510, r.exp - 510, true⟩
  else
    let f := (roundAt .rz false r (-512)).1
    let x := mul512 f pi512
    ⟨altTerms (mul512 x x) 80 2 x false 0 0, -512, true⟩

def cosPiQ (r : Mag) : Mag :=
  let f := (roundAt .rz false r (-512)).1
  let x := mul512 f pi512
  ⟨Nat.min (altTerms (mul512 x x) 80 1 one512 false 0 0) (one512 - 1), -512, true⟩

/-- |sin(πr)| for 0 < r < 1, r no multiple of 1/2. -/
def sinPiFrac (r : Mag) : Mag :=
  let sub := fun (a b : Mag) => (addMag false a true b).2
  let quarter : Mag := ⟨1, -2, false⟩
  let half : Mag := ⟨1, -1, false⟩
  let r := if ltFin false half false r then sub ⟨1, 0, false⟩ r else r
  if ltFin false quarter false r then cosPiQ (sub half r) else sinPiQ r

/-! ## The functions with their special values (R147) -/

def oneF : FVal := .fin false ⟨1, 0, false⟩

def sqrtF (t : FFmt) (r : Rnd) (sat : Bool) (a : FVal) : Nat × Events :=
  match a with
  | .nan => (t.nanBits, [])
  | .inf neg => if neg then nanMade t else packF t r sat a
  | .fin neg m =>
    if m.mag = 0 then (withSign t neg 0, [])
    else if neg then nanMade t
    else roundF t r sat false (sqrtMag m)

def rsqrtF (t : FFmt) (r : Rnd) (sat : Bool) (a : FVal) : Nat × Events :=
  match a with
  | .nan => (t.nanBits, [])
  | .inf neg => if neg then nanMade t else (0, [])
  | .fin neg m =>
    if m.mag = 0 then infMade t sat neg
    else if neg then nanMade t
    else roundF t r sat false (rsqrtMag m)

/-- The integer part (toward minus infinity) and whether a fraction remains. -/
def floorOf (neg : Bool) (m : Mag) : Int × Bool :=
  let (n, inexact) := roundAt .rm neg m 0
  (signedInt neg n, inexact)

def exp2F (t : FFmt) (r : Rnd) (sat : Bool) (a : FVal) : Nat × Events :=
  match a with
  | .nan => (t.nanBits, [])
  | .inf neg => if neg then (0, []) else packF t r sat a
  | .fin neg m =>
    let (k, inexact) := floorOf neg m
    if 20000 < k then roundF t r sat false ⟨1, 20000, true⟩
    else if k < -20000 then roundF t r sat false ⟨1, -20000, true⟩
    else if !inexact then roundF t r sat false ⟨1, k, false⟩
    else
      let (below, d) := addMag neg m (decide (0 < k)) ⟨k.natAbs, 0, false⟩
      let f := (roundAt .rz false d (-512)).1
      roundF t r sat false ⟨exp2Frac f, k - 512, true⟩

def log2F (t : FFmt) (r : Rnd) (sat : Bool) (a : FVal) : Nat × Events :=
  match a with
  | .nan => (t.nanBits, [])
  | .inf neg => if neg then nanMade t else packF t r sat a
  | .fin neg m =>
    if m.mag = 0 then infMade t sat true
    else if neg then nanMade t
    else
      let l := bitLen m.mag
      let e := m.exp + (l : Int) - 1
      let frac := m.mag * 2 ^ (512 - (l - 1))
      if frac = one512 then roundF t r sat (decide (e < 0)) ⟨e.natAbs, 0, false⟩
      else
        let x : Int := e * (one512 : Int) + (log2Frac frac : Int)
        roundF t r sat (decide (x < 0)) ⟨x.natAbs, -512, true⟩

/-- The parts of |a|: whether its integer part is odd, and the fraction. -/
def splitF (m : Mag) : Bool × Mag :=
  if 0 ≤ m.exp then (decide (m.mag * 2 ^ m.exp.toNat % 2 = 1), zeroMag)
  else
    let s := (-m.exp).toNat
    (decide (m.mag / 2 ^ s % 2 = 1), ⟨m.mag % 2 ^ s, m.exp, false⟩)

def isHalf (r : Mag) : Bool := eqF (.fin false r) (.fin false ⟨1, -1, false⟩)

def sinPiF (t : FFmt) (r : Rnd) (sat : Bool) (a : FVal) : Nat × Events :=
  match a with
  | .nan => (t.nanBits, [])
  | .inf _ => nanMade t
  | .fin neg m =>
    let (odd, f) := splitF m
    if f.mag = 0 then (withSign t neg 0, [])
    else if isHalf f then packF t r sat (.fin (neg != odd) ⟨1, 0, false⟩)
    else roundF t r sat (neg != odd) (sinPiFrac f)

def cosPiF (t : FFmt) (r : Rnd) (sat : Bool) (a : FVal) : Nat × Events :=
  match a with
  | .nan => (t.nanBits, [])
  | .inf _ => nanMade t
  | .fin _ m =>
    let (odd, f) := splitF m
    if f.mag = 0 then packF t r sat (.fin odd ⟨1, 0, false⟩)
    else if isHalf f then (0, [])
    else
      let half : Mag := ⟨1, -1, false⟩
      let past := ltFin false half false f
      let g := if past then (addMag false f true half).2 else (addMag false half true f).2
      roundF t r sat (odd != past) (sinPiFrac g)

/-! ## Conversion (R149) -/

/-- The value of an integer. -/
def valOfInt (x : Int) : FVal := .fin (decide (x < 0)) ⟨x.natAbs, 0, false⟩

/-- Float to integer: rounded by the mode, then clamped; a NaN gives 0 and one arithmetic event. -/
def intOfF (r : Rnd) (signed : Bool) (w : Nat) (a : FVal) : Int × Events :=
  match a with
  | .nan => (0, [arithEvent])
  | .inf neg => (if neg then intMin signed w else intMax signed w, [])
  | .fin neg m => (clampTo signed w (signedInt neg (roundAt r neg m 0).1), [])

end Sys2Proof.Machine
end

