-- ==== Sys2Proof/Machine/NumLog.lean ====
section
/-!
DEFINITION. Log formats, the log product, the window sum and the conversions among all number types (04_numbers.md R81
to R89, 06_arith.md R149, R150, R153).
-/

set_option linter.unusedVariables false

namespace Sys2Proof.Machine

/-! ## Log formats (R81, R82) -/

/-- A log format: code bits, bias and mantissa table. -/
structure LFmt where
  bits : Nat
  bias : Nat
  table : List Nat
  deriving DecidableEq, Repr

def l4Fmt : LFmt := ⟨3, 4, [4096, 5793]⟩
def l6Fmt : LFmt := ⟨5, 16, [4096, 4871, 5793, 6889]⟩
def l8Fmt : LFmt := ⟨7, 64, [4096, 4467, 4871, 5312, 5793, 6317, 6889, 7512]⟩

def LFmt.steps (t : LFmt) : Nat := t.table.length
def LFmt.top (t : LFmt) : Nat := 2 ^ t.bits - 1
def LFmt.width (t : LFmt) : Nat := t.bits + 1

/-- T[j] * 2^i / 4096 for e = i * F + j. -/
def LFmt.power (t : LFmt) (e : Int) : Mag :=
  let f : Int := t.steps
  ⟨t.table.getD (e % f).toNat 0, e / f - 12, false⟩

/-- The magnitude of a code. -/
def LFmt.mag (t : LFmt) (c : Nat) : Mag := if c = 0 then zeroMag else t.power ((c : Int) - (t.bias : Int))

/-- The value of a pattern. -/
def decodeL (t : LFmt) (x : Nat) : FVal :=
  let c := x % 2 ^ t.bits
  .fin (x / 2 ^ t.bits % 2 == 1) (t.mag c)

/-- R83: the log product of two patterns. -/
def lprod (t : LFmt) (x y : Nat) : FVal :=
  let a := x % 2 ^ t.bits
  let b := y % 2 ^ t.bits
  let neg := x / 2 ^ t.bits % 2 != y / 2 ^ t.bits % 2
  if a = 0 || b = 0 then .fin neg zeroMag
  else .fin neg (t.power ((a : Int) + (b : Int) - 2 * (t.bias : Int)))

/-- The largest code, at most `n`, whose magnitude is not above m. -/
def codeBelow (t : LFmt) (m : Mag) : Nat → Nat
  | 0 => 0
  | n + 1 => if ltFin false m false (t.mag (n + 1)) then codeBelow t m n else n + 1

/-- R84: lround(x, fmt, m). -/
def lround (t : LFmt) (r : Rnd) (x : FVal) : Nat × Events :=
  let with' := fun (neg : Bool) (c : Nat) => if neg then 2 ^ t.bits + c else c
  match x with
  | .nan => (0, [arithEvent])
  | .inf neg => (with' neg t.top, [])
  | .fin neg m =>
    let c := codeBelow t m t.top
    let exact := !ltFin false (t.mag c) false m
    if exact || c = t.top then (with' neg c, [])
    else
      let sum := (addMag false (t.mag c) false (t.mag (c + 1))).2
      let twice : Mag := ⟨2 * m.mag, m.exp, m.more⟩
      let up :=
        match r with
        | .rn => ltFin false sum false twice || (!ltFin false twice false sum && c % 2 == 1)
        | .rz => false
        | .rm => neg
        | .rp => !neg
      (with' neg (if up then c + 1 else c), [])

/-! ## The window sum (R88) -/

/-- A term of a sum group: a value, or 0 × ∞. -/
inductive Term where
  | val (v : FVal)
  | zeroInf
  deriving DecidableEq, Repr

def termOf : Option FVal → Term
  | some v => .val v
  | none => .zeroInf

/-- expo(x) = floor(log2 |x|) of a nonzero magnitude. -/
def Mag.expo (m : Mag) : Int := m.exp + (bitLen m.mag : Int) - 1

/-- The greatest exponent among the nonzero finite members. -/
def topExpo : List FVal → Option Int
  | [] => none
  | .fin _ m :: xs =>
    if m.mag = 0 then topExpo xs
    else
      match topExpo xs with
      | none => some m.expo
      | some e => some (max e m.expo)
  | _ :: xs => topExpo xs

/-- Each member truncated toward zero to multiples of 2^q, in units of 2^q. -/
def windowTotal (q : Int) : List FVal → Int
  | [] => 0
  | .fin neg m :: xs => signedInt neg (roundAt .rz false m q).1 + windowTotal q xs
  | _ :: xs => windowTotal q xs

def f32Fmt : FFmt := FFmt.of .f32

/-- The pattern of type f32 and the events, counted under f32. -/
def windowSum (terms : List Term) (acc : FVal) : Nat × Events :=
  let vals := terms.filterMap (fun t => match t with | .val v => some v | .zeroInf => none) ++ [acc]
  if vals.contains .nan then (f32Fmt.nanBits, [])
  else if terms.contains .zeroInf || (vals.contains (.inf false) && vals.contains (.inf true)) then
    nanMade f32Fmt
  else if vals.contains (.inf false) then (withSign f32Fmt false f32Fmt.infBits, [])
  else if vals.contains (.inf true) then (withSign f32Fmt true f32Fmt.infBits, [])
  else
    match topExpo vals with
    | none => (withSign f32Fmt (vals.all isNeg) 0, [])
    | some e =>
      let q := e - 27
      let total := windowTotal q vals
      if total = 0 then (0, [])
      else roundF f32Fmt .rn false (decide (total < 0)) ⟨total.natAbs, q, false⟩

/-! ## All number types (R53) -/

/-- How the low bits of a register are read. -/
inductive Num where
  | int (signed : Bool) (w : Nat)
  | flt (t : FFmt)
  | log (t : LFmt)
  deriving DecidableEq, Repr

def Num.of : Ty → Num
  | .i8 => .int true 8 | .i16 => .int true 16 | .i32 => .int true 32 | .i64 => .int true 64
  | .n8 => .int false 8 | .n16 => .int false 16 | .n32 => .int false 32 | .n64 => .int false 64
  | .f16 => .flt (FFmt.of .f16) | .bf16 => .flt (FFmt.of .bf16)
  | .f32 => .flt (FFmt.of .f32) | .f64 => .flt (FFmt.of .f64)
  | .l4 => .log l4Fmt | .l6 => .log l6Fmt | .l8 => .log l8Fmt

def Num.width : Num → Nat
  | .int _ w => w
  | .flt t => t.width
  | .log t => t.width

/-- The number of a sub-element: under `.x5` and `.x8` an integer is 6 or 4 bits wide (R91). -/
def Num.sub (ty : Ty) (w : Nat) : Num :=
  match Num.of ty with
  | .int sg _ => .int sg w
  | n => n

/-- Source values of a conversion. -/
inductive NVal where
  | int (x : Int)
  | flt (v : FVal)
  | log (t : LFmt) (bits : Nat)
  deriving DecidableEq, Repr

def Num.read (n : Num) (x : Nat) : NVal :=
  match n with
  | .int sg w => .int (intOf sg w x)
  | .flt t => .flt (decodeF t x)
  | .log t => .log t (x % 2 ^ t.width)

/-- The low bits of the value in the destination's type, with the events (R149, R150, R153). -/
def convertTo (dst : Num) (r : Rnd) (sat : Bool) (x : NVal) : Nat × Events :=
  match dst, x with
  | .int sg w, .int v => (deliver sat sg w v, [])
  | .int sg w, .flt v =>
    let (k, ev) := intOfF r sg w v
    (wrapTo w k, ev)
  | .int sg w, .log t b =>
    let (k, ev) := intOfF r sg w (decodeL t b)
    (wrapTo w k, ev)
  | .flt t, .int v => packF t r sat (valOfInt v)
  | .flt t, .flt v => packF t r sat v
  | .flt t, .log l b => packF t r sat (decodeL l b)
  | .log t, .int v => lround t r (valOfInt v)
  | .log t, .flt v => lround t r v
  | .log t, .log l b => if t = l then (b, []) else lround t r (decodeL l b)

end Sys2Proof.Machine

namespace Sys2Proof

/-- Bits of a type (R53). -/
def Ty.bits (t : Ty) : Nat := (Machine.Num.of t).width

/-- A float type among all types. -/
def FTy.ty : FTy → Ty
  | .f16 => .f16 | .bf16 => .bf16 | .f32 => .f32 | .f64 => .f64

end Sys2Proof
end

