-- ==== Sys2Proof/WellFormed.lean ====
section
/-!
DEFINITION. Which instruction words are legal: the conditions on fields that 03_formats.md calls reserved
encodings when broken (R48, R50, R51, R57 to R59, R62, R63) and the value ranges of each definition.
The bank rule (R65) is no condition on an instruction alone and stands in Decode.lean.
-/

set_option linter.unusedVariables false

namespace Sys2Proof

/-- R48: n = 7 with negate 1 is reserved. -/
def Guard.ok (g : Guard) : Bool := !(g.n == 7 && g.neg)

def BitVec9.even (r : BitVec 9) : Bool := r.toNat % 2 == 0

def Src.isV : Src → Bool | .v _ => true | _ => false
def Src.isLit : Src → Bool | .lit _ => true | _ => false

/-- R50: the condition on a 64-bit operand. -/
def Src.even : Src → Bool
  | .v r => r.toNat % 2 == 0
  | .s r => r.toNat % 2 == 0
  | .c _ w => w.toNat % 2 == 0
  | .lit _ => true

/-- R51: a source that is not read has kind 00 and index 0. -/
def Src.zero (x : Src) : Bool := x == .v 0

/-- A literal, if it is one, lies in lo .. hi. -/
def Src.litIn (x : Src) (lo hi : Int) : Bool :=
  match x with
  | .lit l => decide (lo ≤ l.toInt ∧ l.toInt ≤ hi)
  | _ => true

/-- The source names entry n of a small file, n at most `hi` (16_hypervector.md R299). -/
def Src.small (x : Src) (hi : Nat) : Bool :=
  match x with
  | .v r => decide (r.toNat ≤ hi)
  | _ => false

def Src.sc : Src → Bool | .s _ => true | .c _ _ => true | _ => false
def Src.vOnly : Src → Bool | .v _ => true | _ => false
def Src.noLit (x : Src) : Bool := !x.isLit

def Ty.code : Ty → BitVec 4
  | .i8 => 0 | .i16 => 1 | .i32 => 2 | .i64 => 3 | .n8 => 4 | .n16 => 5 | .n32 => 6 | .n64 => 7
  | .f16 => 8 | .bf16 => 9 | .f32 => 10 | .f64 => 11 | .l4 => 12 | .l6 => 13 | .l8 => 14

def Ty.isInt (t : Ty) : Bool := t.code.toNat ≤ 7
def Ty.isFloat (t : Ty) : Bool := 8 ≤ t.code.toNat && t.code.toNat ≤ 11
def Ty.isLog (t : Ty) : Bool := 12 ≤ t.code.toNat
def Ty.signed (t : Ty) : Bool := t.code.toNat ≤ 3
/-- A 64-bit type reads and writes pairs (R130). -/
def Ty.wide (t : Ty) : Bool := t == .i64 || t == .n64 || t == .f64
/-- How many registers an operand of the type takes: 1 or 2. -/
def Ty.regs (t : Ty) : Nat := if t.wide then 2 else 1
def FTy.wide (t : FTy) : Bool := t == .f64
def FTy.regs (t : FTy) : Nat := if t.wide then 2 else 1

/-- R91: the legal pairs of packed count and type. -/
def packLegal (pk : Pack) (t : Ty) : Bool :=
  match pk with
  | .none => true
  | .x2 => t == .i16 || t == .n16 || t == .f16 || t == .bf16
  | .x4 => t == .i8 || t == .n8 || t == .l8
  | .x5 => t == .i8 || t == .n8 || t == .l6
  | .x8 => t == .i8 || t == .n8 || t == .l4

/-- The format's own packed count (R91, R151). -/
def logPack : Ty → Pack | .l8 => .x4 | .l6 => .x5 | .l4 => .x8 | _ => .none

/-- The packed count as a number of sub-elements; 1 when not packed (R90). -/
def Pack.count : Pack → Nat | .none => 1 | .x2 => 2 | .x4 => 4 | .x5 => 5 | .x8 => 8

/-- A format-F instruction with the widths of its register operands A, B and C: 0 for a field that is
not a register operand, 1 for 32 bits, 2 for a pair (R130). -/
structure Shape where
  f : FForm
  wa : Nat
  wb : Nat
  wc : Nat

/-- Which fields of a format-F instruction are register operands. -/
def Instr.shape : Instr → Option Shape
  | .nop f => some ⟨f, 0, 0, 0⟩
  | .brx f => some ⟨f, 1, 0, 0⟩
  | .callx f => some ⟨f, 1, 0, 0⟩
  | .ret f => some ⟨f, 0, 0, 0⟩
  | .join f => some ⟨f, 2, 0, 0⟩
  | .jwait f b _ => some ⟨f, if b then 1 else 0, 0, 0⟩
  | .jdrop f => some ⟨f, 0, 0, 0⟩
  | .exit f => some ⟨f, 0, 0, 0⟩
  | .yld f => some ⟨f, 1, 0, 0⟩
  | .add f m | .sub f m | .mul f m | .mulh f m | .div f m | .rem f m | .min f m | .max f m
  | .andB f m | .orB f m | .xorB f m => some ⟨f, m.ty.regs, m.ty.regs, 0⟩
  | .mad f m => some ⟨f, m.ty.regs, m.ty.regs, m.ty.regs⟩
  | .abs f m | .neg f m | .notB f m | .clz f m | .popc f m | .brev f m => some ⟨f, m.ty.regs, 0, 0⟩
  | .mulmod f _ => some ⟨f, 2, 2, 0⟩
  | .shl f m | .shr f m | .sra f m | .rol f m | .bfe f m | .bfi f m => some ⟨f, m.ty.regs, 1, 0⟩
  | .cmp f ty _ => some ⟨f, ty.regs, ty.regs, 0⟩
  | .sel f ty _ => some ⟨f, ty.regs, ty.regs, 0⟩
  | .mov f ty _ => some ⟨f, ty.regs, 0, 0⟩
  | .rdsr f _ _ => some ⟨f, 0, 0, 0⟩
  | .fadd f m | .fsub f m | .fmul f m | .fmin f m | .fmax f m | .fdiv f m =>
    some ⟨f, m.ty.regs, m.ty.regs, 0⟩
  | .ffma f m => some ⟨f, m.ty.regs, m.ty.regs, m.ty.regs⟩
  | .fcmp f m _ => some ⟨f, m.ty.regs, m.ty.regs, 0⟩
  | .fabs f m | .fneg f m | .frcp f m | .frsq f m | .fsqrt f m | .fexp2 f m | .flog2 f m | .fsin f m
  | .fcos f m | .fclass f m | .frnd f m => some ⟨f, m.ty.regs, 0, 0⟩
  | .cvt f _ ty2 => some ⟨f, ty2.regs, 0, 0⟩
  | .pack f _ ty2 _ => some ⟨f, ty2.regs, 1, 0⟩
  | .unpack f _ _ _ => some ⟨f, 1, 1, 0⟩
  | .lmul f _ _ _ => some ⟨f, 1, 1, 0⟩
  | .lcvt f _ src => some ⟨f, src.regs, 0, 0⟩
  | .ldot f _ => some ⟨f, 1, 1, 1⟩
  | .vote f ty _ => some ⟨f, ty.regs, 2, 0⟩
  | .shfl f ty _ => some ⟨f, ty.regs, 1, 0⟩
  | .matchK f ty => some ⟨f, ty.regs, 2, 0⟩
  | .lred f m _ _ => some ⟨f, m.ty.regs, 0, 0⟩
  | .lscan f m _ _ _ => some ⟨f, m.ty.regs, 0, 0⟩
  | .wcnt f _ _ _ _ => some ⟨f, 0, 0, 0⟩
  | .peq f => some ⟨f, 2, 2, 0⟩
  | .padd f | .psub f => some ⟨f, 2, 1, 0⟩
  | .pinfo f | .pswz f | .pnam f => some ⟨f, 2, 0, 0⟩
  | .hmov f | .hxor f | .hacc f _ | .hthr f | .hclr f _ | .hpop f | .hdist f | .htie f =>
    some ⟨f, 0, 0, 0⟩
  | .hrot f _ => some ⟨f, 0, 1, 0⟩
  | .hgen f => some ⟨f, 2, 0, 0⟩
  | .hmatch f _ _ => some ⟨f, 2, 1, 0⟩
  | .cnadd f _ | .cnwait f _ | .cnset f _ => some ⟨f, 2, 2, 0⟩
  | .cnget f _ _ => some ⟨f, 2, 0, 0⟩
  | .trig f => some ⟨f, 2, 2, 2⟩
  | .trigx f => some ⟨f, 1, 0, 0⟩
  | .cpy f _ _ _ | .nwr f _ | .nrd f _ | .nlist f _ => some ⟨f, 2, 1, 0⟩
  | .natom f _ _ _ _ => some ⟨f, 2, 2, 0⟩
  | .binit f _ | .barr f _ _ _ | .bwait f _ _ | .btest f _ _ => some ⟨f, 2, 1, 0⟩
  | .elect f role => some ⟨f, if role then 0 else 1, 0, 0⟩
  | .lead f => some ⟨f, 1, 0, 0⟩
  | .leadAdv f => some ⟨f, 0, 0, 0⟩
  | .spawn f => some ⟨f, 1, 2, 0⟩
  | .klaunch f _ => some ⟨f, 1, 2, 2⟩
  | .ktrig f | .kwait f | .idemx f => some ⟨f, 0, 0, 0⟩
  | .idem f n => some ⟨f, if n == 0 then 0 else 1, 0, 0⟩
  | .sys f => some ⟨f, 1, 2, 0⟩
  | .tret f _ => some ⟨f, 0, 0, 0⟩
  | .emget f => some ⟨f, 1, 0, 0⟩
  | .emset f _ => some ⟨f, 2, 0, 0⟩
  | .csrr f _ => some ⟨f, 1, 0, 0⟩
  | .csrw f | .csrwParkThreshold f | .csrwSpawnTimer f => some ⟨f, 1, 2, 0⟩
  | .fexr f _ _ => some ⟨f, 1, 0, 0⟩
  | .halt f => some ⟨f, 1, 0, 0⟩
  | .pgq f => some ⟨f, 2, 0, 0⟩
  | .pginv f _ => some ⟨f, 2, 1, 0⟩
  | .lnkq f _ _ => some ⟨f, 1, 0, 0⟩
  | .wid f _ => some ⟨f, 0, 0, 0⟩
  | .loop f => some ⟨f, 1, 0, 0⟩
  | .lbrk f => some ⟨f, 0, 0, 0⟩
  | .rgrow f | .rshrink f => some ⟨f, 1, 0, 0⟩
  | _ => none

/-- R48, R50, R63 for every format-F instruction: guard, even pairs, and a retain field that names a
vector source the instruction reads; on the words of major 22 too (DEDUCED, log 89). -/
def Shape.ok (s : Shape) : Bool :=
  s.f.g.ok &&
  (s.wa != 2 || s.f.a.even) && (s.wb != 2 || s.f.b.even) && (s.wc != 2 || BitVec9.even s.f.c) &&
  (match s.f.keep with
   | .none => true
   | .a => s.wa != 0 && s.f.a.isV
   | .b => s.wb != 0 && s.f.b.isV
   | .c => s.wc != 0)

/-- R211: the scopes that a space accepts, `.thr` only with `.rlx`. -/
def scopeOk (sp : Space) (sc : Scope) (o : Order) : Bool :=
  (match sp with
   | .gl => true
   | .sp => sc == .thr || sc == .blk
   | .rsp => sc == .cls
   | .const => sc == .thr) && (sc != .thr || o == .rlx)

/-- R48, R57, R223 for every format-M instruction: guard, even base, scope, hints only with `.gl`. -/
def MForm.ok (m : MForm) : Bool :=
  m.g.ok && scopeOk m.space m.scope m.ord &&
  (match m.base with | .v r => BitVec9.even r | .s r => r.toNat % 2 == 0) &&
  (m.hint == .none || m.space == .gl)

def LForm.ok (l : LForm) : Bool := l.g.ok

/-- R59: even address pair and counter pair, and no counter pair without the enable. -/
def TForm.ok (t : TForm) : Bool :=
  t.g.ok && t.p.toNat % 2 == 0 && t.ctr.toNat % 2 == 0 && (t.en || t.ctr == 0)

/-- The destination of a type: an even pair for 64-bit types (R51). -/
def dOk (wide : Bool) (d : BitVec 9) : Bool := !wide || BitVec9.even d
/-- A scalar destination s0 to s63, even for a pair (R51). -/
def dScalar (wide : Bool) (d : BitVec 9) : Bool := decide (d.toNat < 64) && dOk wide d
/-- The destination of an instruction that may write a vector or a scalar register (R142). -/
def dEither (toScalar wide : Bool) (d : BitVec 9) : Bool :=
  if toScalar then dScalar wide d else dOk wide d
/-- A predicate destination p0 to p6 (R51). -/
def dPred (d : BitVec 9) : Bool := decide (d.toNat < 7)
def below (d : BitVec 9) (n : Nat) : Bool := decide (d.toNat < n)

/-- Major 1 and 2 shared conditions (R135, R139). -/
def AMods.ok (m : AMods) (packable satOk : Bool) : Bool :=
  m.ty.isInt && packLegal m.pk m.ty && (packable || m.pk == .none) && (satOk || !m.sat)

def AMods.okL (m : AMods) (satOk : Bool) : Bool :=
  (m.ty == .i32 || m.ty == .n32 || m.ty == .i64 || m.ty == .n64) && m.pk == .none && (satOk || !m.sat)

/-- Majors 4 and 5 shared conditions (R144). -/
def BMods.ok (m : BMods) (rounds : Bool) : Bool :=
  (!m.x2 || m.ty == .f16 || m.ty == .bf16) && (rounds || (m.rnd == .rn && !m.sat))

/-- Types that an atomic operation accepts (R232). -/
def atomTyOk (op : AtomOp) (t : Ty) : Bool :=
  (t == .i32 || t == .n32 || t == .i64 || t == .n64) ||
  ((t == .f32 || t == .f64) && (op == .add || op == .min || op == .max))

/-- Where an atomic executes (R218): the accepted pairings of space and scope. -/
def atomPlaceOk (sp : Space) (sc : Scope) : Bool :=
  match sp, sc with
  | .sp, .blk => true
  | .rsp, .cls => true
  | .gl, .cls => true
  | .gl, .dev => true
  | .gl, .sys => true
  | _, _ => false

/-- R53, R150: a log field that is copied bit for bit to or from the same format neither rounds nor saturates,
so those bits are zero. -/
def CMods.copyOk (m : CMods) (t2 : Ty) : Bool :=
  !(m.ty.isLog && m.ty == t2) || (m.rnd == .rn && !m.sat)

/-- R155. The rounding field of `.min` and `.max` on a float type, which do not round, is accepted with any value and
ignored: DESIGN CHOICE (log 88). -/
def redOk (m : CMods) (op : RedOp) (pk : Pack) : Bool :=
  (m.ty != .i8 && m.ty != .n8 && !m.ty.isLog) &&
  (pk == .none || (pk == .x2 && (m.ty == .i16 || m.ty == .n16 || m.ty == .f16 || m.ty == .bf16))) &&
  (m.ty.isInt || op == .add || op == .min || op == .max) &&
  (m.ty.isFloat || m.rnd == .rn) && (!m.sat || (m.ty.isInt && op == .add))

def noAB (f : FForm) : Bool := f.a.zero && f.b.zero && f.c == 0

def Ctr.ok (x : Ctr) : Bool := x.en || x.idx == 0

def TForm.fmt (t : TForm) : Nat := (t.flags.extractLsb' 0 3).toNat

/-- R60 to R63 for one half: a `nop` half has no other field, and index 511 is never retained. -/
def Half.ok (h : Half) : Bool :=
  (h.op != .nop || (h.h.d == 0 && h.h.s == 0 && !h.h.keep)) && !(h.h.keep && h.h.s == 511)

/-- R62: a legal pair. -/
def pairOk (x y : Half) : Bool :=
  x.ok && y.ok && (x.op == .nop || y.op == .nop || x.h.d != y.h.d) && !(x.h.keep && y.h.keep)

/-- The opcode map (R66): does a cell assign the opcode 32 * major + minor? -/
def assignedOpcode (op : Nat) : Bool :=
  let minor := op % 32
  match op / 32 with
  | 0 => 1 ≤ minor && minor ≤ 11
  | 1 => minor ≤ 11 || minor == 16 || minor == 17
  | 2 => minor ≤ 12 || (16 ≤ minor && minor ≤ 18)
  | 3 => minor ≤ 4
  | 4 => minor ≤ 9 || minor == 16 || minor == 17
  | 5 => minor ≤ 8
  | 6 => minor ≤ 2
  | 7 => minor ≤ 2
  | 8 => minor ≤ 4
  | 9 => minor ≤ 7
  | 10 => minor ≤ 3
  | 11 => minor ≤ 2
  | 12 => minor ≤ 3
  | 13 => minor ≤ 9
  | 14 => minor ≤ 7
  | 15 => minor ≤ 3
  | 16 => minor ≤ 11
  | 17 => minor ≤ 1
  | 18 => minor ≤ 5
  | 19 => minor ≤ 4
  | 20 => minor ≤ 5
  | 21 => minor ≤ 5
  | 22 => minor ≤ 11
  | 23 => minor ≤ 3
  | 31 => minor ≤ 5
  | _ => false

/-- The opcode bits [62:53] of a word with bit [63] zero (R47). -/
def opcodeOf (w : DWord) : Nat := (w.extractLsb' 53 10).toNat

/-- The conditions each definition adds. The saturation bit of `lmul` and `pack` with a log result, of `cvt` from float to
integer and of `unpack` where R150 gives no saturation is accepted and changes nothing (DESIGN CHOICE, log 87); the source field of `kchase` without a test
may be any even register (DESIGN CHOICE, log 92). -/
def Instr.extra : Instr → Bool
  | .nop f => noAB f && f.d == 0
  | .bra l => l.ok && l.d == 0
  | .brx f => f.d == 0 && f.a.noLit && f.b.zero && f.c == 0
  | .call l => l.ok && l.d == 0
  | .callx f => f.d == 0 && f.a.noLit && f.b.zero && f.c == 0
  | .ret f => noAB f && f.d == 0
  | .join f => below f.d 8 && f.b.zero && f.c == 0
  | .jwait f b _ => f.d == 0 && f.b.zero && f.c == 0 && (if b then f.a.litIn 0 255 else f.a.zero)
  | .jdrop f => noAB f && below f.d 8
  | .exit f => noAB f && f.d == 0
  | .yld f => f.d == 0 && f.a.litIn 0 255 && f.b.zero && f.c == 0
  | .add f m | .sub f m | .mul f m | .div f m => m.ok true true && dOk m.ty.wide f.d && f.c == 0
  | .mulh f m | .rem f m | .min f m | .max f m => m.ok true false && dOk m.ty.wide f.d && f.c == 0
  | .mad f m => m.ok true true && dOk m.ty.wide f.d
  | .abs f m | .neg f m => m.ok true true && dOk m.ty.wide f.d && f.b.zero && f.c == 0
  | .mulmod f m => m.ty == .n64 && m.pk == .none && !m.sat && dOk true f.d && f.b.sc && f.c == 0
  | .addL l m | .mulL l m => l.ok && m.okL true && dOk m.ty.wide l.d
  | .andB f m | .orB f m | .xorB f m => m.ok true false && dOk m.ty.wide f.d && f.c == 0
  | .shl f m | .shr f m | .sra f m | .rol f m => m.ok true false && dOk m.ty.wide f.d && f.c == 0
  | .notB f m | .clz f m | .popc f m | .brev f m =>
    m.ok true false && dOk m.ty.wide f.d && f.b.zero && f.c == 0
  | .bfe f m | .bfi f m => m.ok false false && dOk m.ty.wide f.d && f.c == 0
  | .andL l m | .orL l m | .xorL l m => l.ok && m.okL false && dOk m.ty.wide l.d
  | .cmp f ty c => ty.isInt && dPred f.d && f.c == 0 && c != .ord && c != .uno
  | .sel f ty _ => (ty == .n32 || ty == .n64) && dOk ty.wide f.d && f.c == 0
  | .mov f ty sc => (ty == .n32 || ty == .n64) && dEither sc ty.wide f.d && f.b.zero && f.c == 0
  | .movl l ty sc => l.ok && (ty == .n32 || ty == .i64 || ty == .n64) && dEither sc ty.wide l.d
  | .rdsr f ty sc =>
    (ty == .n32 || ty == .n64) && dEither sc ty.wide f.d && f.a.small 8 && f.b.zero && f.c == 0
  | .fadd f m | .fsub f m | .fmul f m | .fdiv f m => m.ok true && dOk m.ty.wide f.d && f.c == 0
  | .ffma f m => m.ok true && dOk m.ty.wide f.d
  | .faddL l m | .fmulL l m => l.ok && m.ok true && !m.x2 && dOk m.ty.wide l.d
  | .fmin f m | .fmax f m => m.ok false && dOk m.ty.wide f.d && f.c == 0
  | .fabs f m | .fneg f m => m.ok false && dOk m.ty.wide f.d && f.b.zero && f.c == 0
  | .fcmp f m _ => m.ok false && !m.x2 && dPred f.d && f.c == 0
  | .frcp f m | .frsq f m | .fsqrt f m | .fexp2 f m | .flog2 f m | .fsin f m | .fcos f m | .frnd f m =>
    m.ok true && dOk m.ty.wide f.d && f.b.zero && f.c == 0
  | .fclass f m => m.ok false && f.b.zero && f.c == 0
  | .cvt f m t2 => !m.ty.isLog && !t2.isLog && dOk m.ty.wide f.d && f.b.zero && f.c == 0 &&
    (!(m.ty.isInt && t2.isInt) || m.rnd == .rn)
  | .pack f m t2 pk => pk != .none && packLegal pk m.ty && f.c == 0 &&
    f.b.litIn 0 (pk.count - 1) && (!(m.ty.isInt && t2.isInt) || m.rnd == .rn) && m.copyOk t2
  | .unpack f m t2 pk => pk != .none && packLegal pk t2 && dOk m.ty.wide f.d && f.c == 0 &&
    f.b.litIn 0 (pk.count - 1) && (!(m.ty.isInt && t2.isInt) || m.rnd == .rn) && m.copyOk t2
  | .lmul f m fmt pk => fmt.isLog && (m.ty.isFloat || m.ty == fmt) && dOk m.ty.wide f.d && f.c == 0 &&
    (pk == .none || (m.ty == fmt && pk == logPack fmt))
  | .lcvt f m src => !m.ty.isInt && !src.isInt && (m.ty.isLog || src.isLog) && !m.sat &&
    dOk m.ty.wide f.d && f.b.zero && f.c == 0
  | .ldot f m => (m.ty.isLog || m.ty == .i8 || m.ty == .n8) && m.rnd == .rn && (!m.sat || m.ty.isInt)
  | .vote f ty op => (ty == .n32 || ty == .n64) && f.c == 0 &&
    (if op == .ballot then dOk true f.d else dPred f.d)
  | .shfl f ty _ => (ty == .n32 || ty == .n64) && f.c == 0 && dOk ty.wide f.d
  | .matchK f ty => (ty == .n32 || ty == .n64) && f.c == 0 && dOk true f.d
  | .lred f m op pk => redOk m op pk && dOk m.ty.wide f.d && f.b.zero && f.c == 0
  | .lscan f m op pk _ => redOk m op pk && dOk m.ty.wide f.d && f.b.zero && f.c == 0
  | .ld m _ => m.ok && m.space == .gl && !m.ty.isLog && dOk m.ty.wide m.data &&
    (m.ord == .rlx || m.ord == .acq)
  | .ldSp m _ => m.ok && m.space != .gl && !m.ty.isLog && dOk m.ty.wide m.data &&
    (m.ord == .rlx || m.ord == .acq)
  | .st m _ => m.ok && m.space == .gl && !m.ty.isLog && dOk m.ty.wide m.data &&
    (m.ord == .rlx || m.ord == .rel)
  | .stSp m _ => m.ok && (m.space == .sp || m.space == .rsp) && !m.ty.isLog && dOk m.ty.wide m.data &&
    (m.ord == .rlx || m.ord == .rel)
  | .ldq m _ => m.ok && m.space == .gl && m.ty == .n64 && m.data.toNat % 4 == 0 &&
    (m.ord == .rlx || m.ord == .acq)
  | .ldqSp m _ => m.ok && m.space != .gl && m.ty == .n64 && m.data.toNat % 4 == 0 &&
    (m.ord == .rlx || m.ord == .acq)
  | .stq m _ => m.ok && m.space == .gl && m.ty == .n64 && m.data.toNat % 4 == 0 &&
    (m.ord == .rlx || m.ord == .rel)
  | .stqSp m _ => m.ok && (m.space == .sp || m.space == .rsp) && m.ty == .n64 &&
    m.data.toNat % 4 == 0 && (m.ord == .rlx || m.ord == .rel)
  | .prf m _ => m.ok && m.space == .gl && m.ty == .i8 && m.data == 0 && m.ord == .rlx &&
    m.scope == .dev && m.hint != .stream
  | .cwb m _ => m.ok && m.space == .gl && m.ty == .i8 && m.data == 0 && m.ord == .rlx &&
    m.scope == .dev && m.hint == .none
  | .cinv m _ => m.ok && m.space == .gl && m.ty == .i8 && m.data == 0 && m.ord == .rlx &&
    (m.scope == .blk || m.scope == .cls || m.scope == .dev) && m.hint == .none
  | .wcnt f _ _ _ _ => noAB f && f.d == 0
  | .atom m op src comb nr => m.ok && atomTyOk op m.ty && atomPlaceOk m.space m.scope &&
    dOk m.ty.wide m.data && dOk m.ty.wide src && (!nr || m.data == 0) &&
    (!comb || (op == .add && m.ty == .f32 && m.space == .gl && (m.scope == .dev || m.scope == .sys)))
  | .cas m src => m.ok && (m.ty == .i32 || m.ty == .i64 || m.ty == .n32 || m.ty == .n64) &&
    atomPlaceOk m.space m.scope && dOk m.ty.wide m.data && dOk m.ty.wide src
  | .fence m => m.ok && m.data == 0 && m.base == .v 0 && m.ty == .i8 && m.space == .gl &&
    m.hint == .none && m.ord != .rlx && m.scope != .thr
  | .kcas m src _ => m.ok && m.ty == .n64 && m.space == .gl && (m.scope == .dev || m.scope == .sys) &&
    m.hint == .none && BitVec9.even m.data && BitVec9.even src
  | .kenq m src => m.ok && m.ty == .n64 && m.space == .gl && (m.scope == .dev || m.scope == .sys) &&
    m.hint == .none && BitVec9.even m.data && BitVec9.even src
  | .kdeq m => m.ok && m.ty == .n64 && m.space == .gl && (m.scope == .dev || m.scope == .sys) &&
    m.hint == .none && BitVec9.even m.data
  | .kchase m src _ _ => m.ok && m.ty == .n64 && m.space == .gl &&
    (m.scope == .dev || m.scope == .sys) && m.hint == .none && m.data.toNat % 4 == 0 &&
    BitVec9.even src && (m.ord == .rlx || m.ord == .acq)
  | .ldn m _ => m.ok && m.ty == .n64 && m.space == .gl && BitVec9.even m.data &&
    (m.ord == .rlx || m.ord == .acq)
  | .stn m _ => m.ok && m.ty == .n64 && m.space == .gl && BitVec9.even m.data &&
    (m.ord == .rlx || m.ord == .rel)
  | .peq f => dPred f.d && f.a.vOnly && (f.b.vOnly || f.b == .lit 0) && f.c == 0
  | .padd f | .psub f => BitVec9.even f.d && f.a.vOnly && f.c == 0
  | .pinfo f | .pswz f => BitVec9.even f.d && f.a.vOnly && f.b.zero && f.c == 0
  | .pfetch m _ => m.ok && m.ty == .n64 && m.space == .gl && m.data == 0 && m.ord == .rlx &&
    m.scope == .thr && m.hint == .none
  | .pnam f => f.d.toNat % 4 == 0 && f.a.vOnly && f.b.zero && f.c == 0
  | .prel m => m.ok && m.ty == .n64 && m.space == .gl && m.data == 0 && m.ord == .rlx &&
    m.scope == .thr && m.hint == .none && (match m.base with | .v _ => true | .s _ => false)
  | .tld t => t.ok && t.ts == 0 && t.cnt == 0 && t.x == 0 && t.y == 0 && t.flags.toNat < 2
  | .tst t => t.ok && t.td == 0 && t.cnt == 0 && t.x == 0 && t.y == 0 && t.flags.toNat < 2
  | .tzero t => t.ok && t.ts == 0 && t.p == 0 && t.cnt == 0 && t.x == 0 && t.y == 0 && t.flags == 0
  | .bsld t => t.ok && t.td == 0 && t.ts == 0 && t.cnt != 0 && t.y == 0
  | .bsinv t => t.ok && t.td == 0 && t.ts == 0 && t.p == 0 && t.cnt != 0 && t.cnt.toNat ≤ 2048 &&
    t.y == 0 && t.flags == 0
  | .tcvt t => t.ok && t.x == 0 && t.y == 0 && t.cnt.toNat < 16 && (!t.cnt.getLsbD 2 || t.fmt ≤ 2)
  | .tact t => t.ok && t.cnt == 0 && t.x.toNat % 2 == 0 && t.y == 0 && t.flags.toNat < 3
  | .tred t => t.ok && t.td == 0 && t.cnt.toNat < 2 && t.x == 0 && t.y == 0 && t.flags.toNat % 4 != 3
  | .tmma t => t.ok && t.cnt == 0 && t.x == 0 && t.y == 0
  | .tloop t => t.ok && t.cnt != 0
  | .tmmod t => t.ok && t.cnt != 0 && t.x.toNat % 2 == 0 && t.y.toNat % 2 == 0 &&
    t.flags.toNat % 8 == 0
  | .tntt t => t.ok && t.cnt.toNat < 64 && 1 ≤ t.cnt.toNat / 8 && t.cnt.toNat / 8 ≤ 6 &&
    t.cnt.toNat % 8 < t.cnt.toNat / 8 && t.x.toNat % 2 == 0 && t.y.toNat % 2 == 0 && t.flags.toNat < 2
  | .hld m _ => m.ok && m.ty == .i8 && (m.space == .gl || m.space == .sp) && below m.data 16 &&
    (m.ord == .rlx || m.ord == .acq)
  | .hst m _ => m.ok && m.ty == .i8 && (m.space == .gl || m.space == .sp) && below m.data 16 &&
    (m.ord == .rlx || m.ord == .rel)
  | .hmov f => below f.d 16 && f.a.small 16 && f.b.zero && f.c == 0
  | .hxor f => below f.d 16 && f.a.small 15 && f.b.small 15 && f.c == 0
  | .hrot f hi => below f.d 16 && f.a.small 15 && f.c == 0 && f.keep == .none && (f.b.isLit || hi == 0)
  | .hacc f _ => below f.d 4 && f.a.small 15 && f.b.zero && f.c == 0
  | .hthr f => below f.d 16 && f.a.small 3 && f.b.zero && f.c == 0
  | .hclr f acc => noAB f && below f.d (if acc then 4 else 16)
  | .hpop f => below f.d 64 && f.a.small 15 && f.b.zero && f.c == 0
  | .hdist f => below f.d 64 && f.a.small 15 && f.b.small 15 && f.c == 0
  | .hgen f => below f.d 16 && f.b.zero && f.c == 0 && f.keep == .none
  | .htie f => f.d == 0 && f.a.small 15 && f.b.zero && f.c == 0
  | .hmatch f _ _ => dScalar true f.d && f.a.noLit && below f.c 64 && f.keep == .none
  | .hmset m _ => m.ok && m.ty == .i8 && (m.space == .gl || m.space == .sp) && below m.data 16 &&
    (m.ord == .rlx || m.ord == .rel)
  | .cnadd f _ | .cnwait f _ | .cnset f _ =>
    f.d == 0 && f.a.noLit && f.b.litIn 0 255 && f.c == 0 && f.keep == .none
  | .cnget f _ sc => dEither sc true f.d && f.a.noLit && f.b.zero && f.c == 0 && f.keep == .none
  | .trig f => f.a.noLit && f.b.litIn 0 255 && f.keep == .none
  | .trigx f => f.a.noLit && f.b.zero && f.c == 0 && f.keep == .none
  | .cpy f x _ _ => x.ok && BitVec9.even f.d && f.a.noLit && f.b.litIn 0 255 && f.c == 0 &&
    f.keep == .none
  | .nwr f x | .nrd f x => x.ok && f.d.toNat % 4 == 0 && f.a.noLit && f.b.litIn 0 255 && f.c == 0 &&
    f.keep == .none
  | .natom f x op ty comb => x.ok && f.d.toNat % 4 == 0 && (f.b.noLit || f.b == .lit 0) && f.c == 0 &&
    f.keep == .none && atomTyOk op ty && ty != .f64 && (!comb || (op == .add && ty == .f32))
  | .nlist f x => x.ok && f.d == 0 && f.a.noLit && f.b.litIn 1 255 &&
    (match f.b with | .c _ _ => false | _ => true) && f.c == 0 && f.keep == .none
  | .binit f _ => f.d == 0 && f.a.noLit && f.b.litIn 1 255 && f.c == 0
  | .barr f _ _ _ => f.d == 0 && f.a.noLit && f.b.litIn 0 255 && f.c == 0
  | .bwait f _ _ => f.d == 0 && f.a.noLit && f.b.litIn 0 255 && f.c == 0
  | .btest f _ _ => dPred f.d && f.a.noLit && f.b.litIn 0 255 && f.c == 0
  | .elect f role => dPred f.d && f.b.zero && f.c == 0 &&
    (if role then f.a.zero else (!f.a.isV && f.a.litIn 0 31))
  | .lead f => f.d == 0 && !f.a.isV && f.a.litIn 0 3 && f.b.zero && f.c == 0
  | .leadAdv f => noAB f && f.d == 0
  | .spawn f => f.d == 0 && f.a.noLit && f.c == 0
  | .klaunch f _ => f.a.litIn 0 255
  | .ktrig f | .kwait f | .idemx f => noAB f && f.d == 0
  | .idem f n => f.d == 0 && f.b.zero && f.c == 0 && n.toNat ≤ 8 &&
    (match f.a with
     | .v r => if n == 0 then r == 0 else decide (r.toNat + n.toNat ≤ 512)
     | _ => false)
  | .sys f => BitVec9.even f.d && !f.a.isV && f.a.litIn 1 12 && f.b.small 500 && f.c == 0
  | .tret f _ => noAB f && f.d == 0
  | .emget f => BitVec9.even f.d && f.a.litIn 0 7 && f.b.zero && f.c == 0
  | .emset f _ => f.d == 0 && f.a.vOnly && f.b.zero && f.c == 0
  | .csrr f sc => dEither sc true f.d && !f.a.isV && f.a.litIn 0 255 && f.b.zero && f.c == 0
  | .csrw f => f.d == 0 && !f.a.isV && f.a.litIn 0 255 && f.c == 0 && f.a != .lit 0x11 && f.a != .lit 0x12
  | .csrwParkThreshold f => f.d == 0 && f.a == .lit 0x11 && f.c == 0
  | .csrwSpawnTimer f => f.d == 0 && f.a == .lit 0x12 && f.c == 0
  | .fexr f _ sc => dEither sc false f.d && f.a.litIn 0 16 && f.b.zero && f.c == 0
  | .halt f => f.d == 0 && f.b.zero && f.c == 0
  | .pgq f => BitVec9.even f.d && f.a.noLit && f.b.zero && f.c == 0
  | .pginv f _ => f.d == 0 && f.a.noLit && f.b.litIn 0 255 && f.c == 0
  | .lnkq f q sc => dEither sc true f.d && f.b.zero && f.c == 0 &&
    (if q == .route then f.a.litIn 1 255
     else f.a.litIn 0 71 && (f.a.litIn 0 47 || f.a.litIn 64 71))
  | .wid f sc => noAB f && dEither sc true f.d
  | .loop f => below f.d 3 && f.a.litIn 0 255 && f.b.isLit && f.b.litIn 1 255 && f.c == 0
  | .lbrk f => noAB f && below f.d 3
  | .rgrow f | .rshrink f => below f.d 64 && f.a.litIn 1 64 && f.b.zero && f.c == 0
  | .nopHalf h x => pairOk ⟨.nop, h⟩ x
  | .addHalf h x => pairOk ⟨.add, h⟩ x
  | .subHalf h x => pairOk ⟨.sub, h⟩ x
  | .mulHalf h x => pairOk ⟨.mul, h⟩ x
  | .andHalf h x => pairOk ⟨.and, h⟩ x
  | .orHalf h x => pairOk ⟨.or, h⟩ x
  | .xorHalf h x => pairOk ⟨.xor, h⟩ x
  | .shlHalf h x => pairOk ⟨.shl, h⟩ x
  | .shrHalf h x => pairOk ⟨.shr, h⟩ x
  | .sraHalf h x => pairOk ⟨.sra, h⟩ x
  | .minI32Half h x => pairOk ⟨.minI, h⟩ x
  | .maxI32Half h x => pairOk ⟨.maxI, h⟩ x
  | .minN32Half h x => pairOk ⟨.minN, h⟩ x
  | .maxN32Half h x => pairOk ⟨.maxN, h⟩ x
  | .movHalf h x => pairOk ⟨.mov, h⟩ x
  | .faddHalf h x => pairOk ⟨.fadd, h⟩ x
  | .fsubHalf h x => pairOk ⟨.fsub, h⟩ x
  | .fmulHalf h x => pairOk ⟨.fmul, h⟩ x
  | .fminHalf h x => pairOk ⟨.fmin, h⟩ x
  | .fmaxHalf h x => pairOk ⟨.fmax, h⟩ x
  | .unassignedOpcodeWord w => !w.getLsbD 63 && !assignedOpcode (opcodeOf w)
  | _ => true

/-- A well-formed instruction: its encoding breaks none of the checks 1 to 3 of R67. The virtual and
the unassigned words have no fields to check (R67, R68); an event row has no encoding. -/
def WellFormed (i : Instr) : Bool :=
  (match i.shape with | some s => s.ok | none => true) && i.extra

end Sys2Proof
end

