-- ==== Sys2Proof/Decode.lean ====
section
/-!
DEFINITION. From a 64-bit word to an instruction or the sub-cause of the illegal-instruction trap
(03_formats.md R47 to R68), and, after it, the encoder written from the same tables. The decoder
reads the fields its opcode names, and accepts the word exactly when the instruction read is well
formed and encodes to the word: so no reserved bit may be set.
-/

set_option linter.unusedVariables false

namespace Sys2Proof

/-- The first check of R67 that a word fails; the sub-cause is `Illegal.code`. -/
inductive Illegal where
  | opcode
  | reservedField
  | bank
  | pair
  deriving DecidableEq, Repr

/-- R67: the sub-causes. -/
def Illegal.code : Illegal → Nat
  | .opcode => 1
  | .reservedField => 2
  | .bank => 3
  | .pair => 4

/-! ## Fields -/

def getGuard (w : DWord) : Guard := ⟨w.extractLsb' 50 3, w.getLsbD 49⟩

def getKeep (w : DWord) : Keep :=
  if w.getLsbD 8 then (if w.getLsbD 7 then .c else .b) else (if w.getLsbD 7 then .a else .none)

/-- R50: a source from its kind tag and its nine bits. -/
def getSrc (kind : BitVec 2) (x : BitVec 9) : Src :=
  if kind == 0 then .v x
  else if kind == 1 then .s (x.extractLsb' 0 6)
  else if kind == 2 then .c (x.extractLsb' 7 2) (x.extractLsb' 0 7)
  else .lit x

/-- R49, with source C read as a register. -/
def getF (w : DWord) : FForm :=
  { g := getGuard w, d := w.extractLsb' 40 9, a := getSrc (w.extractLsb' 38 2) (w.extractLsb' 29 9),
    b := getSrc (w.extractLsb' 27 2) (w.extractLsb' 18 9), c := w.extractLsb' 9 9, keep := getKeep w }

/-- R49 for a definition that puts selectors in source C. -/
def getF0 (w : DWord) : FForm := { getF w with c := 0 }

/-- R49 for the compares, whose destination carries the condition in [48:43] (R141). -/
def getFd3 (w : DWord) : FForm := { getF w with d := (w.extractLsb' 40 3).setWidth 9 }

/-- R54. -/
def getL (w : DWord) : LForm := ⟨getGuard w, w.extractLsb' 40 9, w.extractLsb' 8 32⟩

def getTy (x : BitVec 4) : Option Ty :=
  match x.toNat with
  | 0 => some .i8 | 1 => some .i16 | 2 => some .i32 | 3 => some .i64
  | 4 => some .n8 | 5 => some .n16 | 6 => some .n32 | 7 => some .n64
  | 8 => some .f16 | 9 => some .bf16 | 10 => some .f32 | 11 => some .f64
  | 12 => some .l4 | 13 => some .l6 | 14 => some .l8 | _ => none

def getPack (x : BitVec 3) : Option Pack :=
  match x.toNat with
  | 0 => some .none | 1 => some .x2 | 2 => some .x4 | 3 => some .x5 | 4 => some .x8 | _ => none

def getRnd (x : BitVec 2) : Rnd :=
  match x.toNat with | 0 => .rn | 1 => .rz | 2 => .rm | _ => .rp

def getFTy (x : BitVec 2) : FTy :=
  match x.toNat with | 0 => .f16 | 1 => .bf16 | 2 => .f32 | _ => .f64

/-- Layout A (R52). -/
def getA (w : DWord) : Option AMods := do
  let ty ← getTy ((w.extractLsb' 4 3).setWidth 4)
  let pk ← getPack (w.extractLsb' 1 3)
  some ⟨ty, pk, w.getLsbD 0⟩

/-- Layout A in format L, whose modifiers start at the same bit. -/
def getAL (w : DWord) : Option AMods := getA w

/-- Layout B (R52, R144). -/
def getB (w : DWord) : BMods :=
  ⟨getFTy (w.extractLsb' 5 2), getRnd (w.extractLsb' 3 2), w.getLsbD 2, w.getLsbD 0⟩

/-- Layout C (R52). -/
def getC (w : DWord) : Option CMods := do
  let ty ← getTy (w.extractLsb' 3 4)
  some ⟨ty, getRnd (w.extractLsb' 1 2), w.getLsbD 0⟩

/-- The second type in source C [17:14]. -/
def getTy2 (w : DWord) : Option Ty := getTy (w.extractLsb' 14 4)
/-- The packed count in source C [13:11]. -/
def getPack2 (w : DWord) : Option Pack := getPack (w.extractLsb' 11 3)

def getCond (x : BitVec 6) : Option Cond :=
  match x.toNat with
  | 0 => some .eq | 1 => some .ne | 2 => some .lt | 3 => some .le | 4 => some .gt | 5 => some .ge
  | 6 => some .ord | 7 => some .uno | _ => none

def getRed (x : BitVec 4) : Option RedOp :=
  match x.toNat with
  | 0 => some .add | 1 => some .min | 2 => some .max | 3 => some .and | 4 => some .or
  | 5 => some .xor | _ => none

def getAtom (x : Nat) : Option AtomOp :=
  match x with
  | 0 => some .add | 1 => some .min | 2 => some .max | 3 => some .and | 4 => some .or
  | 5 => some .xor | 6 => some .xchg | _ => none

def getVote (x : BitVec 2) : VoteOp :=
  match x.toNat with | 0 => .any | 1 => .all | 2 => .ballot | _ => .uni

def getShfl (x : BitVec 2) : ShflOp :=
  match x.toNat with | 0 => .idx | 1 => .up | 2 => .down | _ => .xor

def getScope (x : BitVec 3) : Option Scope :=
  match x.toNat with
  | 0 => some .thr | 1 => some .blk | 2 => some .cls | 3 => some .dev | 4 => some .sys | _ => none

def getOrder (x : BitVec 2) : Order :=
  match x.toNat with | 0 => .rlx | 1 => .acq | 2 => .rel | _ => .ar

def getSpace (x : BitVec 2) : Space :=
  match x.toNat with | 0 => .gl | 1 => .sp | 2 => .rsp | _ => .const

def getHint (x : BitVec 3) : Option Hint :=
  match x.toNat with
  | 0 => some .none | 1 => some .stream | 2 => some .keep | 3 => some .home | _ => none

def getBase (kind : Bool) (x : BitVec 9) : Base := if kind then .s (x.extractLsb' 0 6) else .v x

/-- R56. -/
def getM (w : DWord) : Option MForm := do
  let sc ← getScope (w.extractLsb' 13 3)
  let ty ← getTy (w.extractLsb' 7 4)
  let hint ← getHint (w.extractLsb' 2 3)
  some { g := getGuard w, data := w.extractLsb' 40 9,
         base := getBase (w.getLsbD 39) (w.extractLsb' 30 9), scope := sc,
         ord := getOrder (w.extractLsb' 11 2), ty := ty, space := getSpace (w.extractLsb' 5 2),
         hint := hint }

def getOff (w : DWord) : BitVec 14 := w.extractLsb' 16 14
/-- R58: the source register of majors 11 and 12. -/
def getMSrc (w : DWord) : BitVec 9 := w.extractLsb' 21 9

/-- R59. -/
def getT (w : DWord) : TForm :=
  { g := getGuard w, td := w.extractLsb' 45 4, ts := w.extractLsb' 41 4, p := w.extractLsb' 35 6,
    cnt := w.extractLsb' 23 12, x := w.extractLsb' 17 6, y := w.extractLsb' 11 6,
    ctr := w.extractLsb' 5 6, en := w.getLsbD 4, flags := w.extractLsb' 0 4 }

/-- R329: the counter selector of major 19. -/
def getCtr (w : DWord) : Ctr := ⟨w.extractLsb' 2 5, w.getLsbD 1⟩

/-! ## The opcode map (R66), one function per group of majors -/

/-- Majors 0 and 23 (05_group.md R107). -/
def readControl (op : Nat) (w : DWord) : Option Instr :=
  match op with
  | 0x001 => some (.nop (getF w))
  | 0x002 => some (.bra (getL w))
  | 0x003 => some (.brx (getF w))
  | 0x004 => some (.call (getL w))
  | 0x005 => some (.callx (getF w))
  | 0x006 => some (.ret (getF w))
  | 0x007 => some (.join (getF w))
  | 0x008 => some (.jwait (getF w) (w.getLsbD 3) (w.extractLsb' 0 3))
  | 0x009 => some (.jdrop (getF w))
  | 0x00A => some (.exit (getF w))
  | 0x00B => some (.yld (getF w))
  | 0x2E0 => some (.loop (getF w))
  | 0x2E1 => some (.lbrk (getF w))
  | 0x2E2 => some (.rgrow (getF w))
  | 0x2E3 => some (.rshrink (getF w))
  | _ => none

/-- Majors 1 and 2 (06_arith.md R135, R139). -/
def readInteger (op : Nat) (w : DWord) : Option Instr := do
  let m ← getA w
  match op with
  | 0x020 => some (.add (getF w) m)
  | 0x021 => some (.sub (getF w) m)
  | 0x022 => some (.mul (getF w) m)
  | 0x023 => some (.mulh (getF w) m)
  | 0x024 => some (.mad (getF w) m)
  | 0x025 => some (.div (getF w) m)
  | 0x026 => some (.rem (getF w) m)
  | 0x027 => some (.min (getF w) m)
  | 0x028 => some (.max (getF w) m)
  | 0x029 => some (.abs (getF w) m)
  | 0x02A => some (.neg (getF w) m)
  | 0x02B => some (.mulmod (getF w) m)
  | 0x030 => some (.addL (getL w) m)
  | 0x031 => some (.mulL (getL w) m)
  | 0x040 => some (.andB (getF w) m)
  | 0x041 => some (.orB (getF w) m)
  | 0x042 => some (.xorB (getF w) m)
  | 0x043 => some (.notB (getF w) m)
  | 0x044 => some (.shl (getF w) m)
  | 0x045 => some (.shr (getF w) m)
  | 0x046 => some (.sra (getF w) m)
  | 0x047 => some (.rol (getF w) m)
  | 0x048 => some (.clz (getF w) m)
  | 0x049 => some (.popc (getF w) m)
  | 0x04A => some (.brev (getF w) m)
  | 0x04B => some (.bfe (getF w) m)
  | 0x04C => some (.bfi (getF w) m)
  | 0x050 => some (.andL (getL w) m)
  | 0x051 => some (.orL (getL w) m)
  | 0x052 => some (.xorL (getL w) m)
  | _ => none

/-- Major 3 (R142): [3:1] is the destination kind of a move, 0 or 1. -/
def readMove (op : Nat) (w : DWord) : Option Instr := do
  let ty ← getTy ((w.extractLsb' 4 3).setWidth 4)
  match op with
  | 0x060 =>
    let c ← getCond (w.extractLsb' 43 6)
    some (.cmp (getFd3 w) ty c)
  | 0x061 => some (.sel (getF0 w) ty (w.extractLsb' 9 3))
  | 0x062 => some (.mov (getF w) ty (w.getLsbD 1))
  | 0x063 => some (.movl (getL w) ty (w.getLsbD 1))
  | 0x064 => some (.rdsr (getF w) ty (w.getLsbD 1))
  | _ => none

/-- Majors 4 and 5 (R144, R146). -/
def readFloat (op : Nat) (w : DWord) : Option Instr :=
  let m := getB w
  match op with
  | 0x080 => some (.fadd (getF w) m)
  | 0x081 => some (.fsub (getF w) m)
  | 0x082 => some (.fmul (getF w) m)
  | 0x083 => some (.ffma (getF w) m)
  | 0x084 => some (.fmin (getF w) m)
  | 0x085 => some (.fmax (getF w) m)
  | 0x086 => some (.fabs (getF w) m)
  | 0x087 => some (.fneg (getF w) m)
  | 0x088 =>
    match getCond (w.extractLsb' 43 6) with
    | some c => some (.fcmp (getFd3 w) m c)
    | none => none
  | 0x089 => some (.fdiv (getF w) m)
  | 0x090 => some (.faddL (getL w) m)
  | 0x091 => some (.fmulL (getL w) m)
  | 0x0A0 => some (.frcp (getF w) m)
  | 0x0A1 => some (.frsq (getF w) m)
  | 0x0A2 => some (.fsqrt (getF w) m)
  | 0x0A3 => some (.fexp2 (getF w) m)
  | 0x0A4 => some (.flog2 (getF w) m)
  | 0x0A5 => some (.fsin (getF w) m)
  | 0x0A6 => some (.fcos (getF w) m)
  | 0x0A7 => some (.fclass (getF w) m)
  | 0x0A8 => some (.frnd (getF w) m)
  | _ => none

/-- Majors 6, 7 and 8 (R149, R151, R155). -/
def readLayoutC (op : Nat) (w : DWord) : Option Instr := do
  let m ← getC w
  match op with
  | 0x0C0 =>
    let t ← getTy2 w
    some (.cvt (getF0 w) m t)
  | 0x0C1 =>
    let t ← getTy2 w
    let k ← getPack2 w
    some (.pack (getF0 w) m t k)
  | 0x0C2 =>
    let t ← getTy2 w
    let k ← getPack2 w
    some (.unpack (getF0 w) m t k)
  | 0x0E0 =>
    let t ← getTy2 w
    let k ← getPack2 w
    some (.lmul (getF0 w) m t k)
  | 0x0E1 =>
    let t ← getTy2 w
    some (.lcvt (getF0 w) m t)
  | 0x0E2 => some (.ldot (getF w) m)
  | 0x100 => some (.vote (getF0 w) m.ty (getVote (w.extractLsb' 9 2)))
  | 0x101 => some (.shfl (getF0 w) m.ty (getShfl (w.extractLsb' 9 2)))
  | 0x102 => some (.matchK (getF0 w) m.ty)
  | 0x103 =>
    let o ← getRed (w.extractLsb' 14 4)
    let k ← getPack2 w
    some (.lred (getF0 w) m o k)
  | 0x104 =>
    let o ← getRed (w.extractLsb' 14 4)
    let k ← getPack2 w
    some (.lscan (getF0 w) m o k (w.getLsbD 9))
  | _ => none

/-- The M cells of majors 9 to 13, 16 and 17 (R182, R223, R232, R238, R241, R299). -/
def readMemory (op : Nat) (w : DWord) : Option Instr := do
  let m ← getM w
  match op with
  | 0x120 => some (.ld m (getOff w))
  | 0x121 => some (.st m (getOff w))
  | 0x122 => some (.ldq m (getOff w))
  | 0x123 => some (.stq m (getOff w))
  | 0x124 => some (.prf m (getOff w))
  | 0x125 => some (.cwb m (getOff w))
  | 0x126 => some (.cinv m (getOff w))
  | 0x140 => some (.ldSp m (getOff w))
  | 0x141 => some (.stSp m (getOff w))
  | 0x142 => some (.ldqSp m (getOff w))
  | 0x143 => some (.stqSp m (getOff w))
  | 0x160 =>
    let o ← getAtom (w.extractLsb' 16 5).toNat
    some (.atom m o (getMSrc w) (w.getLsbD 1) (w.getLsbD 0))
  | 0x161 => some (.cas m (getMSrc w))
  | 0x162 => some (.fence m)
  | 0x180 => some (.kcas m (getMSrc w) (w.extractLsb' 16 2))
  | 0x181 => some (.kenq m (getMSrc w))
  | 0x182 => some (.kdeq m)
  | 0x183 => some (.kchase m (getMSrc w) (w.extractLsb' 16 4) (w.getLsbD 20))
  | 0x1A0 => some (.ldn m (getOff w))
  | 0x1A1 => some (.stn m (getOff w))
  | 0x1A6 => some (.pfetch m (getOff w))
  | 0x1A9 => some (.prel m)
  | 0x200 => some (.hld m (getOff w))
  | 0x201 => some (.hst m (getOff w))
  | 0x221 => some (.hmset m (getMSrc w))
  | _ => none

/-- Majors 14 and 15 (R271). -/
def readTile (op : Nat) (w : DWord) : Option Instr :=
  let t := getT w
  match op with
  | 0x1C0 => some (.tld t)
  | 0x1C1 => some (.tst t)
  | 0x1C2 => some (.tzero t)
  | 0x1C3 => some (.bsld t)
  | 0x1C4 => some (.bsinv t)
  | 0x1C5 => some (.tcvt t)
  | 0x1C6 => some (.tact t)
  | 0x1C7 => some (.tred t)
  | 0x1E0 => some (.tmma t)
  | 0x1E1 => some (.tloop t)
  | 0x1E2 => some (.tmmod t)
  | 0x1E3 => some (.tntt t)
  | _ => none

/-- The F cells of majors 9, 13 and 16 to 18 (R182, R242, R299, R324). -/
def readNames (op : Nat) (w : DWord) : Option Instr :=
  let f := getF w
  match op with
  | 0x127 => some (.wcnt (getF0 w) (w.extractLsb' 15 3) (w.extractLsb' 12 3) (w.extractLsb' 9 3)
      (w.extractLsb' 4 3))
  | 0x1A2 => some (.peq f)
  | 0x1A3 => some (.padd f)
  | 0x1A4 => some (.psub f)
  | 0x1A5 => some (.pinfo f)
  | 0x1A7 => some (.pswz f)
  | 0x1A8 => some (.pnam f)
  | 0x202 => some (.hmov f)
  | 0x203 => some (.hxor f)
  | 0x204 => some (.hrot f (w.extractLsb' 3 4))
  | 0x205 => some (.hacc f (w.getLsbD 0))
  | 0x206 => some (.hthr f)
  | 0x207 => some (.hclr f (w.getLsbD 0))
  | 0x208 => some (.hpop f)
  | 0x209 => some (.hdist f)
  | 0x20A => some (.hgen f)
  | 0x20B => some (.htie f)
  | 0x220 => some (.hmatch f (w.extractLsb' 3 4) (w.getLsbD 2))
  | 0x240 => some (.cnadd f (w.getLsbD 1))
  | 0x241 => some (.cnwait f (w.getLsbD 0))
  | 0x242 => some (.cnget f (w.getLsbD 0) (w.getLsbD 2))
  | 0x243 => some (.cnset f (w.getLsbD 1))
  | 0x244 => some (.trig f)
  | 0x245 => some (.trigx f)
  | _ => none

/-- Majors 19, 20 and 21 (R329, R346, R365). -/
def readEngine (op : Nat) (w : DWord) : Option Instr :=
  let f := getF w
  match op with
  | 0x260 => some (.cpy (getF0 w) (getCtr w) (w.getLsbD 10) (w.getLsbD 9))
  | 0x261 => some (.nwr f (getCtr w))
  | 0x262 => some (.nrd f (getCtr w))
  | 0x263 =>
    match getAtom (w.extractLsb' 15 3).toNat, getTy (w.extractLsb' 11 4) with
    | some o, some t => some (.natom (getF0 w) (getCtr w) o t (w.getLsbD 10))
    | _, _ => none
  | 0x264 => some (.nlist f (getCtr w))
  | 0x280 => some (.binit f (w.getLsbD 2))
  | 0x281 => some (.barr f (w.getLsbD 2) (w.getLsbD 1) (w.getLsbD 0))
  | 0x282 => some (.bwait f (w.getLsbD 2) (w.getLsbD 0))
  | 0x283 => some (.btest f (w.getLsbD 2) (w.getLsbD 0))
  | 0x284 => some (.elect f (w.getLsbD 0))
  | 0x285 => if w.getLsbD 0 then some (.leadAdv f) else some (.lead f)
  | 0x2A0 => some (.spawn f)
  | 0x2A1 => some (.klaunch f (w.getLsbD 0))
  | 0x2A2 => some (.ktrig f)
  | 0x2A3 => some (.kwait f)
  | 0x2A4 => some (.idem f (w.extractLsb' 0 4))
  | 0x2A5 => some (.idemx f)
  | _ => none

def getExtent (x : BitVec 2) : Extent :=
  match x.toNat with | 0 => .p64k | 1 => .p2m | 2 => .p1g | _ => .all

def getLinkSel (x : BitVec 3) : Option LinkSel :=
  match x.toNat with
  | 0 => some .state | 1 => some .retry | 2 => some .drop | 3 => some .window | 4 => some .route
  | _ => none

def getEm (x : BitVec 2) : Option EmTarget :=
  match x.toNat with | 0 => some .reg | 1 => some .pair | 2 => some .pred | _ => none

/-- A `csrw` whose literal address names a CSR with a row of its own (R412, R396). -/
def readCsrw (f : FForm) : Instr :=
  if f.a == .lit 0x11 then .csrwParkThreshold f
  else if f.a == .lit 0x12 then .csrwSpawnTimer f
  else .csrw f

/-- Majors 22 and 31 (R208, R290, R412, R439, R457). -/
def readSystem (op : Nat) (w : DWord) : Option Instr :=
  let f := getF w
  let v := w.extractLsb' 0 53
  match op with
  | 0x2C0 => some (.sys f)
  | 0x2C1 => some (.tret f (w.getLsbD 0))
  | 0x2C2 => some (.emget f)
  | 0x2C3 =>
    match getEm (w.extractLsb' 0 2) with
    | some t => some (.emset f t)
    | none => none
  | 0x2C4 => some (.csrr f (w.getLsbD 0))
  | 0x2C5 => some (readCsrw f)
  | 0x2C6 => some (.fexr f (w.getLsbD 0) (w.getLsbD 1))
  | 0x2C7 => some (.halt f)
  | 0x2C8 => some (.pgq f)
  | 0x2C9 => some (.pginv f (getExtent (w.extractLsb' 0 2)))
  | 0x2CA =>
    match getLinkSel (w.extractLsb' 0 3) with
    | some q => some (.lnkq f q (w.getLsbD 3))
    | none => none
  | 0x2CB => some (.wid f (w.getLsbD 0))
  | 0x3E0 => some (.vtDecl v)
  | 0x3E1 => some (.vtLd v)
  | 0x3E2 => some (.vtSt v)
  | 0x3E3 => some (.vtMma v)
  | 0x3E4 => some (.vtMap v)
  | 0x3E5 => some (.vtRed v)
  | _ => none

/-- The instruction that the fields of a word name, its reserved bits not looked at. -/
def readWord (w : DWord) : Option Instr :=
  let op := opcodeOf w
  match op / 32 with
  | 0 => readControl op w
  | 1 => readInteger op w
  | 2 => readInteger op w
  | 3 => readMove op w
  | 4 => readFloat op w
  | 5 => readFloat op w
  | 6 => readLayoutC op w
  | 7 => readLayoutC op w
  | 8 => readLayoutC op w
  | 9 => if op == 0x127 then readNames op w else readMemory op w
  | 10 => readMemory op w
  | 11 => readMemory op w
  | 12 => readMemory op w
  | 13 => if op == 0x1A0 || op == 0x1A1 || op == 0x1A6 || op == 0x1A9 then readMemory op w
    else readNames op w
  | 14 => readTile op w
  | 15 => readTile op w
  | 16 => if op == 0x200 || op == 0x201 then readMemory op w else readNames op w
  | 17 => if op == 0x221 then readMemory op w else readNames op w
  | 18 => readNames op w
  | 19 => readEngine op w
  | 20 => readEngine op w
  | 21 => readEngine op w
  | 22 => readSystem op w
  | 23 => readControl op w
  | 31 => readSystem op w
  | _ => none

/-! ## Pair words (R60, R61) -/

/-- R61: the half-opcodes; bit 6 of every legal one is bit [31] of the half. -/
def getHalfOp (x : BitVec 7) : Option HalfOp :=
  match x.toNat with
  | 0x40 => some .nop | 0x41 => some .add | 0x42 => some .sub | 0x43 => some .mul
  | 0x44 => some .and | 0x45 => some .or | 0x46 => some .xor | 0x47 => some .shl
  | 0x48 => some .shr | 0x49 => some .sra | 0x4A => some .minI | 0x4B => some .maxI
  | 0x4C => some .minN | 0x4D => some .maxN | 0x4E => some .mov | 0x50 => some .fadd
  | 0x51 => some .fsub | 0x52 => some .fmul | 0x53 => some .fmin | 0x54 => some .fmax
  | _ => none

def getHalf (x : BitVec 32) : Option Half := do
  let op ← getHalfOp (x.extractLsb' 25 7)
  some ⟨op, ⟨x.extractLsb' 22 3, x.extractLsb' 13 9, x.extractLsb' 4 9, x.getLsbD 3⟩⟩

/-- The instruction of a pair word, named by the operation of its first half. -/
def mkPair (x y : Half) : Instr :=
  match x.op with
  | .nop => .nopHalf x.h y
  | .add => .addHalf x.h y
  | .sub => .subHalf x.h y
  | .mul => .mulHalf x.h y
  | .and => .andHalf x.h y
  | .or => .orHalf x.h y
  | .xor => .xorHalf x.h y
  | .shl => .shlHalf x.h y
  | .shr => .shrHalf x.h y
  | .sra => .sraHalf x.h y
  | .minI => .minI32Half x.h y
  | .maxI => .maxI32Half x.h y
  | .minN => .minN32Half x.h y
  | .maxN => .maxN32Half x.h y
  | .mov => .movHalf x.h y
  | .fadd => .faddHalf x.h y
  | .fsub => .fsubHalf x.h y
  | .fmul => .fmulHalf x.h y
  | .fmin => .fminHalf x.h y
  | .fmax => .fmaxHalf x.h y

/-- The two halves of a pair word's instruction. -/
def Instr.halves : Instr → Option (Half × Half)
  | .nopHalf h y => some (⟨.nop, h⟩, y)
  | .addHalf h y => some (⟨.add, h⟩, y)
  | .subHalf h y => some (⟨.sub, h⟩, y)
  | .mulHalf h y => some (⟨.mul, h⟩, y)
  | .andHalf h y => some (⟨.and, h⟩, y)
  | .orHalf h y => some (⟨.or, h⟩, y)
  | .xorHalf h y => some (⟨.xor, h⟩, y)
  | .shlHalf h y => some (⟨.shl, h⟩, y)
  | .shrHalf h y => some (⟨.shr, h⟩, y)
  | .sraHalf h y => some (⟨.sra, h⟩, y)
  | .minI32Half h y => some (⟨.minI, h⟩, y)
  | .maxI32Half h y => some (⟨.maxI, h⟩, y)
  | .minN32Half h y => some (⟨.minN, h⟩, y)
  | .maxN32Half h y => some (⟨.maxN, h⟩, y)
  | .movHalf h y => some (⟨.mov, h⟩, y)
  | .faddHalf h y => some (⟨.fadd, h⟩, y)
  | .fsubHalf h y => some (⟨.fsub, h⟩, y)
  | .fmulHalf h y => some (⟨.fmul, h⟩, y)
  | .fminHalf h y => some (⟨.fmin, h⟩, y)
  | .fmaxHalf h y => some (⟨.fmax, h⟩, y)
  | _ => none

/-! ## The encoder -/

def bit (b : Bool) : BitVec 1 := if b then 1#1 else 0#1

def Guard.bits (g : Guard) : BitVec 4 := g.n ++ bit g.neg

def Keep.bits : Keep → BitVec 2 | .none => 0 | .a => 1 | .b => 2 | .c => 3

/-- R50: the kind tag and the nine bits of a source. -/
def Src.bits : Src → BitVec 11
  | .v r => 0#2 ++ r
  | .s r => 1#2 ++ (0#3 ++ r)
  | .c k x => 2#2 ++ (k ++ x)
  | .lit x => 3#2 ++ x

/-- R49, with the destination and source C given apart. -/
def encFWith (op : BitVec 10) (f : FForm) (d c : BitVec 9) (m : BitVec 7) : DWord :=
  0#1 ++ op ++ f.g.bits ++ d ++ f.a.bits ++ f.b.bits ++ c ++ f.keep.bits ++ m

/-- R49. -/
def encF (op : BitVec 10) (f : FForm) (m : BitVec 7) : DWord := encFWith op f f.d f.c m

/-- R49 with selectors in source C. -/
def encFc (op : BitVec 10) (f : FForm) (c : BitVec 9) (m : BitVec 7) : DWord :=
  encFWith op f f.d c m

/-- R54; bit [7] is reserved. -/
def encL (op : BitVec 10) (l : LForm) (m : BitVec 7) : DWord :=
  0#1 ++ op ++ l.g.bits ++ l.d ++ l.lit ++ 0#1 ++ m

def Pack.bits : Pack → BitVec 3 | .none => 0 | .x2 => 1 | .x4 => 2 | .x5 => 3 | .x8 => 4
def Rnd.bits : Rnd → BitVec 2 | .rn => 0 | .rz => 1 | .rm => 2 | .rp => 3
def FTy.bits : FTy → BitVec 2 | .f16 => 0 | .bf16 => 1 | .f32 => 2 | .f64 => 3

/-- Layout A: the low three bits of the type code (R52). -/
def Ty.low3 (t : Ty) : BitVec 3 := t.code.extractLsb' 0 3
def AMods.bits (m : AMods) : BitVec 7 := m.ty.low3 ++ m.pk.bits ++ bit m.sat
def BMods.bits (m : BMods) : BitVec 7 := m.ty.bits ++ m.rnd.bits ++ bit m.sat ++ 0#1 ++ bit m.x2
def CMods.bits (m : CMods) : BitVec 7 := m.ty.code ++ m.rnd.bits ++ bit m.sat

def Cond.code : Cond → BitVec 6
  | .eq => 0 | .ne => 1 | .lt => 2 | .le => 3 | .gt => 4 | .ge => 5 | .ord => 6 | .uno => 7
def RedOp.code : RedOp → BitVec 4
  | .add => 0 | .min => 1 | .max => 2 | .and => 3 | .or => 4 | .xor => 5
def AtomOp.code : AtomOp → BitVec 3
  | .add => 0 | .min => 1 | .max => 2 | .and => 3 | .or => 4 | .xor => 5 | .xchg => 6
def VoteOp.code : VoteOp → BitVec 2 | .any => 0 | .all => 1 | .ballot => 2 | .uni => 3
def ShflOp.code : ShflOp → BitVec 2 | .idx => 0 | .up => 1 | .down => 2 | .xor => 3
def Scope.code : Scope → BitVec 3 | .thr => 0 | .blk => 1 | .cls => 2 | .dev => 3 | .sys => 4
def Order.code : Order → BitVec 2 | .rlx => 0 | .acq => 1 | .rel => 2 | .ar => 3
def Space.code : Space → BitVec 2 | .gl => 0 | .sp => 1 | .rsp => 2 | .const => 3
def Hint.code : Hint → BitVec 3 | .none => 0 | .stream => 1 | .keep => 2 | .home => 3
def Extent.code : Extent → BitVec 2 | .p64k => 0 | .p2m => 1 | .p1g => 2 | .all => 3
def LinkSel.code : LinkSel → BitVec 3
  | .state => 0 | .retry => 1 | .drop => 2 | .window => 3 | .route => 4
def EmTarget.code : EmTarget → BitVec 2 | .reg => 0 | .pair => 1 | .pred => 2

def Base.bits : Base → BitVec 10
  | .v r => 0#1 ++ r
  | .s r => 1#1 ++ (0#3 ++ r)

/-- R56: the word with its bits [29:16] and [1:0] given apart. -/
def encM (op : BitVec 10) (m : MForm) (mid : BitVec 14) (low : BitVec 2) : DWord :=
  0#1 ++ op ++ m.g.bits ++ m.data ++ m.base.bits ++ mid ++ m.scope.code ++ m.ord.code ++ m.ty.code ++
    m.space.code ++ m.hint.code ++ low

/-- R59. -/
def encT (op : BitVec 10) (t : TForm) : DWord :=
  0#1 ++ op ++ t.g.bits ++ t.td ++ t.ts ++ t.p ++ t.cnt ++ t.x ++ t.y ++ t.ctr ++ bit t.en ++ t.flags

/-- The compares put the condition in [48:43] above the predicate (R141). -/
def encCmp (op : BitVec 10) (f : FForm) (c : Cond) (m : BitVec 7) : DWord :=
  encFWith op f (c.code ++ f.d.extractLsb' 0 3) f.c m

/-- The second type, packed count and operation selector in source C (R52). -/
def selC (x : BitVec 4) (k : BitVec 3) (o : BitVec 2) : BitVec 9 := x ++ k ++ o

def moveMods (ty : Ty) (sc : Bool) : BitVec 7 := ty.low3 ++ 0#2 ++ bit sc ++ 0#1
def Ctr.bits (x : Ctr) : BitVec 7 := x.idx ++ bit x.en ++ 0#1

def HalfOp.code : HalfOp → BitVec 7
  | .nop => 0x40 | .add => 0x41 | .sub => 0x42 | .mul => 0x43 | .and => 0x44 | .or => 0x45
  | .xor => 0x46 | .shl => 0x47 | .shr => 0x48 | .sra => 0x49 | .minI => 0x4A | .maxI => 0x4B
  | .minN => 0x4C | .maxN => 0x4D | .mov => 0x4E | .fadd => 0x50 | .fsub => 0x51 | .fmul => 0x52
  | .fmin => 0x53 | .fmax => 0x54

/-- R60. -/
def encHalf (x : Half) : BitVec 32 := x.op.code ++ x.h.p ++ x.h.d ++ x.h.s ++ bit x.h.keep ++ 0#3

def encPair (op : HalfOp) (h : HArgs) (y : Half) : DWord := encHalf ⟨op, h⟩ ++ encHalf y

/-- R290: a major-31 word with its low 53 bits. -/
def encV (op : BitVec 10) (v : BitVec 53) : DWord := 0#1 ++ op ++ v

/-- The word of an instruction. An event row has no word and answers 0. -/
def encode : Instr → DWord
  | .nop f => encF 0x001 f 0
  | .bra l => encL 0x002 l 0
  | .brx f => encF 0x003 f 0
  | .call l => encL 0x004 l 0
  | .callx f => encF 0x005 f 0
  | .ret f => encF 0x006 f 0
  | .join f => encF 0x007 f 0
  | .jwait f b j => encF 0x008 f (0#3 ++ bit b ++ j)
  | .jdrop f => encF 0x009 f 0
  | .exit f => encF 0x00A f 0
  | .yld f => encF 0x00B f 0
  | .add f m => encF 0x020 f m.bits
  | .sub f m => encF 0x021 f m.bits
  | .mul f m => encF 0x022 f m.bits
  | .mulh f m => encF 0x023 f m.bits
  | .mad f m => encF 0x024 f m.bits
  | .div f m => encF 0x025 f m.bits
  | .rem f m => encF 0x026 f m.bits
  | .min f m => encF 0x027 f m.bits
  | .max f m => encF 0x028 f m.bits
  | .abs f m => encF 0x029 f m.bits
  | .neg f m => encF 0x02A f m.bits
  | .mulmod f m => encF 0x02B f m.bits
  | .addL l m => encL 0x030 l m.bits
  | .mulL l m => encL 0x031 l m.bits
  | .andB f m => encF 0x040 f m.bits
  | .orB f m => encF 0x041 f m.bits
  | .xorB f m => encF 0x042 f m.bits
  | .notB f m => encF 0x043 f m.bits
  | .shl f m => encF 0x044 f m.bits
  | .shr f m => encF 0x045 f m.bits
  | .sra f m => encF 0x046 f m.bits
  | .rol f m => encF 0x047 f m.bits
  | .clz f m => encF 0x048 f m.bits
  | .popc f m => encF 0x049 f m.bits
  | .brev f m => encF 0x04A f m.bits
  | .bfe f m => encF 0x04B f m.bits
  | .bfi f m => encF 0x04C f m.bits
  | .andL l m => encL 0x050 l m.bits
  | .orL l m => encL 0x051 l m.bits
  | .xorL l m => encL 0x052 l m.bits
  | .cmp f ty c => encCmp 0x060 f c (ty.low3 ++ 0#4)
  | .sel f ty p => encFc 0x061 f (0#6 ++ p) (ty.low3 ++ 0#4)
  | .mov f ty sc => encF 0x062 f (moveMods ty sc)
  | .movl l ty sc => encL 0x063 l (moveMods ty sc)
  | .rdsr f ty sc => encF 0x064 f (moveMods ty sc)
  | .fadd f m => encF 0x080 f m.bits
  | .fsub f m => encF 0x081 f m.bits
  | .fmul f m => encF 0x082 f m.bits
  | .ffma f m => encF 0x083 f m.bits
  | .fmin f m => encF 0x084 f m.bits
  | .fmax f m => encF 0x085 f m.bits
  | .fabs f m => encF 0x086 f m.bits
  | .fneg f m => encF 0x087 f m.bits
  | .fcmp f m c => encCmp 0x088 f c m.bits
  | .fdiv f m => encF 0x089 f m.bits
  | .faddL l m => encL 0x090 l m.bits
  | .fmulL l m => encL 0x091 l m.bits
  | .frcp f m => encF 0x0A0 f m.bits
  | .frsq f m => encF 0x0A1 f m.bits
  | .fsqrt f m => encF 0x0A2 f m.bits
  | .fexp2 f m => encF 0x0A3 f m.bits
  | .flog2 f m => encF 0x0A4 f m.bits
  | .fsin f m => encF 0x0A5 f m.bits
  | .fcos f m => encF 0x0A6 f m.bits
  | .fclass f m => encF 0x0A7 f m.bits
  | .frnd f m => encF 0x0A8 f m.bits
  | .cvt f m t => encFc 0x0C0 f (selC t.code 0 0) m.bits
  | .pack f m t k => encFc 0x0C1 f (selC t.code k.bits 0) m.bits
  | .unpack f m t k => encFc 0x0C2 f (selC t.code k.bits 0) m.bits
  | .lmul f m t k => encFc 0x0E0 f (selC t.code k.bits 0) m.bits
  | .lcvt f m t => encFc 0x0E1 f (selC t.code 0 0) m.bits
  | .ldot f m => encF 0x0E2 f m.bits
  | .vote f ty o => encFc 0x100 f (selC 0 0 o.code) (ty.code ++ 0#3)
  | .shfl f ty o => encFc 0x101 f (selC 0 0 o.code) (ty.code ++ 0#3)
  | .matchK f ty => encFc 0x102 f 0 (ty.code ++ 0#3)
  | .lred f m o k => encFc 0x103 f (selC o.code k.bits 0) m.bits
  | .lscan f m o k x => encFc 0x104 f (selC o.code k.bits (0#1 ++ bit x)) m.bits
  | .ld m o => encM 0x120 m o 0
  | .st m o => encM 0x121 m o 0
  | .ldq m o => encM 0x122 m o 0
  | .stq m o => encM 0x123 m o 0
  | .prf m o => encM 0x124 m o 0
  | .cwb m o => encM 0x125 m o 0
  | .cinv m o => encM 0x126 m o 0
  | .wcnt f ld st cp tl => encFc 0x127 f (ld ++ st ++ cp) (tl ++ 0#4)
  | .ldSp m o => encM 0x140 m o 0
  | .stSp m o => encM 0x141 m o 0
  | .ldqSp m o => encM 0x142 m o 0
  | .stqSp m o => encM 0x143 m o 0
  | .atom m o r comb nr => encM 0x160 m (r ++ (0#2 ++ o.code)) (bit comb ++ bit nr)
  | .cas m r => encM 0x161 m (r ++ 0#5) 0
  | .fence m => encM 0x162 m 0 0
  | .kcas m r n => encM 0x180 m (r ++ (0#3 ++ n)) 0
  | .kenq m r => encM 0x181 m (r ++ 0#5) 0
  | .kdeq m => encM 0x182 m 0 0
  | .kchase m r k t => encM 0x183 m (r ++ (bit t ++ k)) 0
  | .ldn m o => encM 0x1A0 m o 0
  | .stn m o => encM 0x1A1 m o 0
  | .peq f => encF 0x1A2 f 0
  | .padd f => encF 0x1A3 f 0
  | .psub f => encF 0x1A4 f 0
  | .pinfo f => encF 0x1A5 f 0
  | .pfetch m o => encM 0x1A6 m o 0
  | .pswz f => encF 0x1A7 f 0
  | .pnam f => encF 0x1A8 f 0
  | .prel m => encM 0x1A9 m 0 0
  | .tld t => encT 0x1C0 t
  | .tst t => encT 0x1C1 t
  | .tzero t => encT 0x1C2 t
  | .bsld t => encT 0x1C3 t
  | .bsinv t => encT 0x1C4 t
  | .tcvt t => encT 0x1C5 t
  | .tact t => encT 0x1C6 t
  | .tred t => encT 0x1C7 t
  | .tmma t => encT 0x1E0 t
  | .tloop t => encT 0x1E1 t
  | .tmmod t => encT 0x1E2 t
  | .tntt t => encT 0x1E3 t
  | .hld m o => encM 0x200 m o 0
  | .hst m o => encM 0x201 m o 0
  | .hmov f => encF 0x202 f 0
  | .hxor f => encF 0x203 f 0
  | .hrot f hi => encF 0x204 f (hi ++ 0#3)
  | .hacc f n => encF 0x205 f (0#6 ++ bit n)
  | .hthr f => encF 0x206 f 0
  | .hclr f a => encF 0x207 f (0#6 ++ bit a)
  | .hpop f => encF 0x208 f 0
  | .hdist f => encF 0x209 f 0
  | .hgen f => encF 0x20A f 0
  | .htie f => encF 0x20B f 0
  | .hmatch f q sp => encF 0x220 f (q ++ bit sp ++ 0#2)
  | .hmset m r => encM 0x221 m (r ++ 0#5) 0
  | .cnadd f r => encF 0x240 f (0#5 ++ bit r ++ 0#1)
  | .cnwait f a => encF 0x241 f (0#6 ++ bit a)
  | .cnget f a sc => encF 0x242 f (0#4 ++ bit sc ++ 0#1 ++ bit a)
  | .cnset f r => encF 0x243 f (0#5 ++ bit r ++ 0#1)
  | .trig f => encF 0x244 f 0
  | .trigx f => encF 0x245 f 0
  | .cpy f x s d => encFc 0x260 f (0#7 ++ bit s ++ bit d) x.bits
  | .nwr f x => encF 0x261 f x.bits
  | .nrd f x => encF 0x262 f x.bits
  | .natom f x o t k => encFc 0x263 f (o.code ++ t.code ++ bit k ++ 0#1) x.bits
  | .nlist f x => encF 0x264 f x.bits
  | .binit f rsp => encF 0x280 f (0#4 ++ bit rsp ++ 0#2)
  | .barr f rsp grp rlx => encF 0x281 f (0#4 ++ bit rsp ++ bit grp ++ bit rlx)
  | .bwait f rsp rlx => encF 0x282 f (0#4 ++ bit rsp ++ 0#1 ++ bit rlx)
  | .btest f rsp rlx => encF 0x283 f (0#4 ++ bit rsp ++ 0#1 ++ bit rlx)
  | .elect f role => encF 0x284 f (0#6 ++ bit role)
  | .lead f => encF 0x285 f 0
  | .leadAdv f => encF 0x285 f 1
  | .spawn f => encF 0x2A0 f 0
  | .klaunch f dep => encF 0x2A1 f (0#6 ++ bit dep)
  | .ktrig f => encF 0x2A2 f 0
  | .kwait f => encF 0x2A3 f 0
  | .idem f n => encF 0x2A4 f (0#3 ++ n)
  | .idemx f => encF 0x2A5 f 0
  | .sys f => encF 0x2C0 f 0
  | .tret f n => encF 0x2C1 f (0#6 ++ bit n)
  | .emget f => encF 0x2C2 f 0
  | .emset f t => encF 0x2C3 f (0#5 ++ t.code)
  | .csrr f sc => encF 0x2C4 f (0#6 ++ bit sc)
  | .csrw f => encF 0x2C5 f 0
  | .csrwParkThreshold f => encF 0x2C5 f 0
  | .csrwSpawnTimer f => encF 0x2C5 f 0
  | .fexr f ctx sc => encF 0x2C6 f (0#5 ++ bit sc ++ bit ctx)
  | .halt f => encF 0x2C7 f 0
  | .pgq f => encF 0x2C8 f 0
  | .pginv f e => encF 0x2C9 f (0#5 ++ e.code)
  | .lnkq f q sc => encF 0x2CA f (0#3 ++ bit sc ++ q.code)
  | .wid f sc => encF 0x2CB f (0#6 ++ bit sc)
  | .loop f => encF 0x2E0 f 0
  | .lbrk f => encF 0x2E1 f 0
  | .rgrow f => encF 0x2E2 f 0
  | .rshrink f => encF 0x2E3 f 0
  | .vtDecl v => encV 0x3E0 v
  | .vtLd v => encV 0x3E1 v
  | .vtSt v => encV 0x3E2 v
  | .vtMma v => encV 0x3E3 v
  | .vtMap v => encV 0x3E4 v
  | .vtRed v => encV 0x3E5 v
  | .unassignedOpcodeWord w => w
  | .nopHalf h y => encPair .nop h y
  | .addHalf h y => encPair .add h y
  | .subHalf h y => encPair .sub h y
  | .mulHalf h y => encPair .mul h y
  | .andHalf h y => encPair .and h y
  | .orHalf h y => encPair .or h y
  | .xorHalf h y => encPair .xor h y
  | .shlHalf h y => encPair .shl h y
  | .shrHalf h y => encPair .shr h y
  | .sraHalf h y => encPair .sra h y
  | .minI32Half h y => encPair .minI h y
  | .maxI32Half h y => encPair .maxI h y
  | .minN32Half h y => encPair .minN h y
  | .maxN32Half h y => encPair .maxN h y
  | .movHalf h y => encPair .mov h y
  | .faddHalf h y => encPair .fadd h y
  | .fsubHalf h y => encPair .fsub h y
  | .fmulHalf h y => encPair .fmul h y
  | .fminHalf h y => encPair .fmin h y
  | .fmaxHalf h y => encPair .fmax h y
  | _ => 0

/-! ## The bank rule (R63 to R65) -/

/-- The vector registers of a source of `width` registers. -/
def Src.vregs (x : Src) (width : Nat) : List Nat :=
  match x with
  | .v r => if width == 0 then [] else if width == 2 then [r.toNat, r.toNat + 1] else [r.toNat]
  | _ => []

/-- The vector sources of a format-F instruction, each as the registers it reads. -/
def Shape.vsources (s : Shape) : List (List Nat) :=
  [s.f.a.vregs s.wa, s.f.b.vregs s.wb, (Src.v s.f.c).vregs s.wc].filter (fun l => !l.isEmpty)

/-- R63: the registers a word retains: of a source that names more than a pair the first ones, the first pair of `sys` and the first
register of `idem` (DESIGN CHOICE, log 111). A word of major 31, whose fields the decoder does not check (R68), retains
none: DESIGN CHOICE (log 90). -/
def Instr.retained (i : Instr) : List Nat :=
  match i.halves with
  | some (x, y) =>
    (if x.h.keep then [x.h.s.toNat] else []) ++ (if y.h.keep then [y.h.s.toNat] else [])
  | none =>
    match i.shape with
    | none => []
    | some s =>
      match s.f.keep with
      | .none => []
      | .a => s.f.a.vregs s.wa
      | .b => s.f.b.vregs s.wb
      | .c => (Src.v s.f.c).vregs s.wc

/-- The registers a half reads (R65): d and s, but none for `nop` and not index 511 in s. -/
def Half.reads (h : Half) : List (List Nat) :=
  if h.op == .nop then [] else
    [h.h.d.toNat] :: (if h.h.s == 511 then [] else [[h.h.s.toNat]])

/-- Two sources clash when they share no register and lie in one bank (R65). -/
def clash (pairBank : Bool) (x y : List Nat) : Bool :=
  !(x.any (fun r => y.contains r)) &&
  (let bank := fun r => if pairBank then r / 2 % 4 else r % 4
   bank (x.headD 0) == bank (y.headD 0))

/-- No two of the sources clash. -/
def noClash (pairBank : Bool) : List (List Nat) → Bool
  | [] => true
  | x :: xs => !(xs.any (clash pairBank x)) && noClash pairBank xs

/-- R64, R65: the bank rule, given the registers the preceding word retains. -/
def bankOk (exempt : List Nat) (i : Instr) : Bool :=
  let keep := fun (l : List Nat) => !(l.all (fun r => exempt.contains r))
  match i.halves with
  | some (x, y) => noClash false ((x.reads ++ y.reads).filter keep)
  | none =>
    match i.shape with
    | none => true
    | some s => noClash (s.wa == 2 || s.wb == 2 || s.wc == 2) (s.vsources.filter keep)

/-! ## The checks in order (R67) -/

/-- Checks 1 to 3. A word with an unassigned opcode is the instruction `unassignedOpcodeWord`, which
raises sub-cause 1 when it executes. -/
def decode3 (w : DWord) : Except Illegal Instr :=
  if w.getLsbD 63 then
    match getHalf (w.extractLsb' 32 32), getHalf (w.extractLsb' 0 32) with
    | some x, some y =>
      let i := mkPair x y
      if (x.op != .nop && y.op != .nop && x.h.d == y.h.d) || (x.h.keep && y.h.keep) ||
          (x.op == .nop && (x.h.d != 0 || x.h.s != 0 || x.h.keep)) ||
          (y.op == .nop && (y.h.d != 0 || y.h.s != 0 || y.h.keep)) then .error .pair
      else if WellFormed i && encode i == w then .ok i else .error .reservedField
    | _, _ => .error .pair
  else if assignedOpcode (opcodeOf w) then
    match readWord w with
    | some i => if WellFormed i && encode i == w then .ok i else .error .reservedField
    | none => .error .reservedField
  else .ok (.unassignedOpcodeWord w)

/-- The registers exempt from the bank rule because the word at PC - 1 retains them (R64). -/
def exemptOf (prev : Option DWord) : List Nat :=
  match prev with
  | none => []
  | some p =>
    match decode3 p with
    | .ok i => i.retained
    | .error _ => []

/-- R67: the four checks; `prev` is the word at the preceding word index, if there is one. -/
def decode (prev : Option DWord) (w : DWord) : Except Illegal Instr :=
  match decode3 w with
  | .error e => .error e
  | .ok i => if bankOk (exemptOf prev) i then .ok i else .error .bank

/-- Eight bytes, the first at the lowest address, as a word (00_scope.md R5). -/
def wordOfBytes : List Byte → DWord
  | [] => 0
  | b :: bs => (b.setWidth 64) ||| (wordOfBytes bs <<< 8)

/-- The bytes of a word, the least significant first. -/
def bytesOfWord (w : DWord) : List Byte :=
  [w.extractLsb' 0 8, w.extractLsb' 8 8, w.extractLsb' 16 8, w.extractLsb' 24 8,
   w.extractLsb' 32 8, w.extractLsb' 40 8, w.extractLsb' 48 8, w.extractLsb' 56 8]

/-- A `nop` half that always acts: 0x81C0_0000. -/
def nopHalfWord : BitVec 32 := 0x81C00000#32

/-- The word that a row of the opcode table stands for. A row of at most 32 bits is a pair half: it
is the first half of a pair whose second half is `nop` (log 13). -/
def tableWord (nbits w : Nat) : DWord :=
  if nbits ≤ 32 then (BitVec.ofNat 32 w ++ nopHalfWord) else BitVec.ofNat 64 w

/-- The instruction read from the bits `w` of a row of the opcode table. -/
def decodeTableWord (nbits w : Nat) : Option Instr :=
  match decode none (wordOfBytes (bytesOfWord (tableWord nbits w))) with
  | .ok i => some i
  | .error _ => none

/-- The words a core can fetch: every row but the event rows. -/
def Instr.isWord (i : Instr) : Bool := decode3 (encode i) == .ok i

end Sys2Proof
end

