-- ==== Sys2Proof/Machine/Ops.lean ====
section
/-!
DEFINITION. Registers, lanes and the program counter; taking a trap, the return from one, the end of a
context, a violation; and the frame every instruction word runs in.
-/

set_option linter.unusedVariables false

namespace Sys2Proof.Machine

/-! ## Vector registers (05_group.md R98, 08_name.md R169) -/

/-- R98: the register that an index addresses. -/
def regIx (n i : Nat) : Nat := if n = 0 then i else i % n

/-- The register after it, for a pair. -/
def regIx2 (n i : Nat) : Nat := regIx n (regIx n i + 1)

def Lane.reg (l : Lane) (n i : Nat) : Word := Cells.get l.v (regIx n i)

/-- The pair at an index, the even register in the low half (00_scope.md R5). -/
def Lane.pair (l : Lane) (n i : Nat) : DWord :=
  Cells.get l.v (regIx2 n i) ++ Cells.get l.v (regIx n i)

/-- The tag of the pair at an index. A pair whose first register is odd after the reduction mod n
straddles two pairs and carries no tag (log 21). -/
def Lane.tag (l : Lane) (n i : Nat) : Bool := l.tags.contains (regIx n i)

/-- The tags when register `r` is written: those of the pairs that hold it are cleared (R169). With an odd count `n`, register 0
is also the high half of the pair that begins at the last register (R98). -/
def dropTag (n r : Nat) (tags : List Nat) : List Nat :=
  let left := without (r - r % 2) tags
  if r = 0 then without (n - 1) left else left

/-- Writes a register and clears the tags of the pairs that hold it (R169). -/
def Lane.setReg (l : Lane) (n i : Nat) (x : Word) : Lane :=
  let r := regIx n i
  { l with v := Cells.set l.v r x, tags := dropTag n r l.tags }

/-- Writes a pair; its tag is cleared. -/
def Lane.setPair (l : Lane) (n i : Nat) (x : DWord) : Lane :=
  let r := regIx n i
  let r2 := regIx2 n i
  { l with v := Cells.set (Cells.set l.v r (x.extractLsb' 0 32)) r2 (x.extractLsb' 32 32),
           tags := dropTag n r (dropTag n r2 l.tags) }

/-- Gives the pair at an index a tag. -/
def Lane.setTag (l : Lane) (n i : Nat) (t : Bool) : Lane :=
  let r := regIx n i
  if t && r % 2 == 0 then { l with tags := insertNat r l.tags } else l

/-- Writes a pair with a tag (08_name.md R168, R169). -/
def Lane.setTagged (l : Lane) (n i : Nat) (x : DWord) (t : Bool) : Lane := (l.setPair n i x).setTag n i t

/-- `k` registers from an index. -/
def Lane.regs (l : Lane) (n i : Nat) : Nat → List Word
  | 0 => []
  | k + 1 => l.reg n i :: Lane.regs l n (i + 1) k

def Lane.setRegs (l : Lane) (n i : Nat) : List Word → Lane
  | [] => l
  | x :: xs => Lane.setRegs (l.setReg n i x) n (i + 1) xs

/-! ## Scalars, masks, predicates -/

def Group.sreg (g : Group) (i : Nat) : Word := Cells.get g.s i
def Group.spair (g : Group) (i : Nat) : DWord := Cells.get g.s (i + 1) ++ Cells.get g.s i
def Group.setS (g : Group) (i : Nat) (x : Word) : Group := { g with s := Cells.set g.s i x }
def Group.setSPair (g : Group) (i : Nat) (x : DWord) : Group :=
  (g.setS i (x.extractLsb' 0 32)).setS (i + 1) (x.extractLsb' 32 32)

/-- p7 reads true (02_notation.md R27). -/
def Lane.pred (l : Lane) (n : Nat) : Bool := if n = 7 then true else l.p.getLsbD n
def Lane.setPred (l : Lane) (n : Nat) (b : Bool) : Lane :=
  if 7 ≤ n then l
  else { l with p := if b then l.p ||| (1#7 <<< n) else l.p &&& ~~~(1#7 <<< n) }

/-- R48: does the word act in this lane? -/
def Lane.acts (l : Lane) (g : Guard) : Bool := l.pred g.n.toNat != g.neg

/-- Bits at or above the width cleared (05_group.md R111). -/
def laneMask (width : Nat) (m : DWord) : DWord :=
  if 64 ≤ width then m else m &&& BitVec.ofNat 64 (2 ^ width - 1)

def bitAt (m : DWord) (l : Nat) : Bool := m.getLsbD l

/-- The mask of a list of lanes. -/
def maskOf (ls : List Nat) : DWord := ls.foldl (fun m l => m ||| (1#64 <<< l)) 0

/-! ## The path in focus -/

def State.fgroup (s : State) (f : Focus) : Group := s.group f.blk f.grp
def State.fblock (s : State) (f : Focus) : Block := s.block f.blk
def State.flane (s : State) (f : Focus) (l : Nat) : Lane := s.lane f.blk f.grp l
def State.fctx (s : State) (f : Focus) : Nat := (s.fblock f).ctx
def State.fdie (s : State) (f : Focus) : Nat := dieOfCore (s.fblock f).core

/-- The kernel whose code and constants the path uses (21_context.md R399). -/
def State.fkern (s : State) (f : Focus) : Kern := (s.kern (s.fctx f) f.kern).getD {}

/-- The active lanes in which the word acts (R48, R105). -/
def State.acting (s : State) (f : Focus) (g : Guard) : List Nat :=
  f.lanes.filter (fun l => (s.flane f l).acts g)

/-- Changes the listed lanes of the path in focus. -/
def State.onLanes (s : State) (f : Focus) (ls : List Nat) (k : Nat → Lane → Lane) : State :=
  s.modLanes f.blk f.grp ls k

def State.onGroup (s : State) (f : Focus) (k : Group → Group) : State := s.modGroup f.blk f.grp k

/-! ## The end of a context (21_context.md R394, R400, R411) -/

/-- R395: does the context refuse every enqueue and fire no trigger? -/
def Context.ended (c : Context) : Bool := c.st == .trapped || c.st == .frozen || c.exited

def Lane.exit (l : Lane) : Lane := { l with st := .exited, pend := [], gran := none, res := none }

/-- A generation runs 1 to 65,535, then wraps to 1 (17_counter.md R321). -/
def nextGen (g : Nat) : Nat := if 65535 ≤ g then 1 else g + 1

/-- R320: the entry free again. -/
def TrigEntry.freed (e : TrigEntry) : TrigEntry := { gen := nextGen e.gen }

/-- The trigger entries of a context freed: the firing ones whose actions have not started, and with
`armed` the armed ones too (R320, R400). -/
def freeTriggers (c : Nat) (armed : Bool) (es : Tbl TrigEntry) : Tbl TrigEntry :=
  es.map (fun e => (e.1, if e.2.ctx == c && (e.2.st == .firing || (armed && e.2.st == .armed))
    then e.2.freed else e.2))

/-- Does a queued tile command of a block remain? -/
def State.hasTile (s : State) (b : Nat) : Bool :=
  s.cores.any (fun e => e.2.tileQ.any (fun t => t.blk == b))

/-- R400: every block of the context dropped with no save; a block whose issued tile commands still run
stays, with every lane exited, until they complete. -/
def dropBlocks (s : State) (c : Nat) : Tbl Block :=
  s.blocks.filterMap (fun e =>
    if e.2.ctx != c then some e
    else if s.hasTile e.1 then
      some (e.1, { e.2 with st := .retiring,
                            groups := e.2.groups.map (fun g =>
                              { g with trap := none, waits := [], execs := [],
                                       lanes := g.lanes.map Lane.exit }) })
    else none)

/-- R400: the context's blocks, queued instances, bins, triggers and queues are gone. -/
def State.dropContext (s : State) (c : Nat) : State :=
  let blocks := dropBlocks s c
  let isInst := fun i => (Tbl.at s.insts i).any (fun x => x.ctx == c)
  let gone := fun b => (Tbl.at s.blocks b).any (fun x => x.ctx == c)
  { s with
    blocks := blocks
    insts := s.insts.filter (fun e => e.2.ctx != c)
    resolutions := s.resolutions.filter (fun r => r.ctx != c || r.lane.isNone)
    cores := s.cores.map (fun (e : Nat × Core) => (e.1,
      { e.2 with bins := e.2.bins.filter (fun b => !isInst b.inst),
                 luna := e.2.luna.filter (fun j => !gone j.blk),
                 owner := e.2.owner.filter (fun o => (Tbl.at blocks o.2).isSome),
                 grows := e.2.grows.filter (fun g => !gone g.blk) }))
    dies := s.dies.map (fun (e : Nat × Die) => (e.1,
      { e.2 with entries := freeTriggers c true e.2.entries,
                 waiters := e.2.waiters.filter (fun w => w.ctx != c),
                 relaunch := e.2.relaunch.filter (fun b => !gone b),
                 blocking := e.2.blocking.filter (fun b => if b.fresh then !isInst b.unit else !gone b.unit),
                 holds := e.2.holds.filter (fun h => if h.fresh then !isInst h.unit else !gone h.unit),
                 queues := e.2.queues.filter (fun q => q.2.bound.all (fun p => p.1 != c)) })) }

/-- R400: the context ends TRAPPED. -/
def State.endTrapped (s : State) (c : Nat) (t : Trap) (code : Word) (nested vecInvalid : Bool) : State :=
  (s.dropContext c).modCtx c (fun x =>
    { x with st := .trapped, code := code, cause := t.cause, sub := t.sub, nested := nested,
             vecInvalid := vecInvalid })

/-- Where a record of the journal lies in a die's copy: in the upper half of Levain's first region there, in places of 64 bytes that come
round again (log 115). -/
def journalAt (die n : Nat) : Nat := die * 2 ^ 38 + 2 ^ 29 + 64 * (n % 2 ^ 23)

/-- R456: a change of device state or a reply enters the journal, in both copies, in the step in which it takes effect. -/
def State.record (s : State) (kind a b : Nat) (values : List Nat) : State :=
  let d := s.mgmt.leader.getD 0
  let dies := [d, (d + 1) % 4]
  { s with mgmt := { s.mgmt with journal := s.mgmt.journal ++
      [({ kind := kind, a := a, b := b, values := values, copies := dies,
          places := dies.map (fun d => journalAt d s.mgmt.journal.length) } : JournalRec)] } }

def State.note (s : State) (kind a b : Nat) : State := s.record kind a b []

/-- R382: a block can still run when it is resident on a core that is not frozen. -/
def State.canRun (s : State) (b : Block) : Bool :=
  (b.st == .resident || b.st == .retiring) && !(s.core b.core).frozen

/-- R382: is a queue bound to the context, with no instance of which a block can still run? -/
def State.queueOver (s : State) (c : Nat) (q : HwQueue) : Bool :=
  q.bound.any (fun p => p.1 == c) && !s.blocks.any (fun e => q.insts.contains e.2.inst && s.canRun e.2)

/-- R382: each queue of a context that has ended is freed once no block of its own instances can still run, and they are gone, with
nothing reported for them. -/
def State.freeEndedQueues (s : State) (c : Nat) : State :=
  if (s.ctx c).ended then
    let gone := fun (i : Nat) => s.dies.any (fun e => e.2.queues.any (fun q => q.2.insts.contains i && s.queueOver c q.2))
    { s with
      insts := s.insts.map (fun (e : Nat × Instance) => (e.1, if gone e.1 then { e.2 with st := .gone } else e.2))
      dies := s.dies.map (fun (e : Nat × Die) => (e.1, { e.2 with queues := e.2.queues.filter (fun q => !s.queueOver c q.2) })) }
  else s

/-- A violation is counted by a die (R409). -/
def State.countViolation (s : State) (d : Nat) : State :=
  s.modDie d (fun x => x.count (fun n => { n with violations := n.violations + 1 }))

/-- The granules that `n` bytes from an address touch. -/
def granules (a n : Nat) : List Nat :=
  if n = 0 then [] else (List.range ((a + n - 1) / 16 - a / 16 + 1)).map (fun i => a / 16 + i)

/-- One data-loss event of a context (21_context.md R410). -/
def State.loseData (s : State) (c : Nat) : State :=
  s.modCtx c (fun x => { x.count (fun n => { n with dataLoss := sat32 (n.dataLoss + 1) }) with lossFlag := true })

/-- Is memory of the range struck by an error that cannot be corrected? -/
def State.struck (s : State) (a n : Nat) : Bool := (granules a n).any (fun g => s.poison.contains g)

/-- A read of memory that an uncorrectable error has struck has zeros, and counts as data loss for its context (R410); the die has
counted the error itself (R409). -/
def State.readLoss (s : State) (c : Nat) (p : Place) (n : Nat) : State :=
  match p with
  | .mem pa => if s.struck pa n then s.loseData c else s
  | _ => s

/-- R394, R395: the context becomes FROZEN, if it is LIVE or COMPLETE. -/
def State.freezeCtx (s : State) (c kind : Nat) : State :=
  match s.ctx? c with
  | none => s
  | some x =>
    if x.st == .trapped || x.st == .frozen then s
    else
      let s := s.modCtx c (fun x => { x with st := .frozen, cause := kind, sub := 0 })
      let s := { s with dies := s.dies.map (fun (e : Nat × Die) =>
        (e.1, { e.2 with entries := freeTriggers c false e.2.entries })) }
      s.freeEndedQueues c

/-- R411: a violation by a core for a context: the core and the context freeze, and the die counts it. -/
def State.violate (s : State) (core c kind : Nat) : State :=
  let s := s.countViolation (dieOfCore core)
  let s := s.modCore core (fun x => { x with frozenBy := insertNat c x.frozenBy })
  s.freezeCtx c kind

/-! ## Taking a trap and returning from one (R399 to R401) -/

/-- R399: the vector's word, when the vector is usable. -/
def Context.vector (c : Context) : Option (Nat × Nat) :=
  let w := (c.trapVector.extractLsb' 0 32).toNat
  let k := (c.trapVector.extractLsb' 32 16).toNat
  if c.trapVector.getLsbD 63 then
    match Tbl.at c.kernels k with
    | some x => if w < x.size then some (w, k) else none
    | none => none
  else none

/-- Taking a trap: with a usable vector the record is written, the trapping lanes jump to the handler and
the group is trapped; with none, or in a handler, the context ends TRAPPED. The trapped word changes
nothing. A stale-pointer trap is counted (08_name.md R181). -/
def takeTrap (s : State) (f : Focus) (t : Trap) : State :=
  let c := s.fctx f
  let lanes := if t.lanes.isEmpty then f.lanes else t.lanes
  let t := { t with lanes := lanes }
  let s := if t.cause == 4 then
      s.modCtx c (fun x => x.count (fun n => { n with stale := sat32 (n.stale + 1) }))
    else s
  if (s.fgroup f).trap.isSome then s.endTrapped c t 0 true false
  else
    match (s.ctx c).vector with
    | none => s.endTrapped c t 0 false true
    | some (w, k) =>
      s.onGroup f (fun g =>
        { (g.modLanes f.lanes (fun _ l => { l with gran := none, res := none })).modLanes lanes (fun _ l => { l with pc := w, kern := k, st := .ready, gran := none, res := none })
          with trap := some ⟨t, f.word, f.pc, f.kern, lanes⟩ })

/-! ## The next address (R110, R122) -/

/-- R122: the loop slots whose stop is the address, newest first. -/
def loopStep (a : Nat) : List LoopSlot → Cells 32 → List LoopSlot × Cells 32 × Nat
  | [], lc => ([], lc, a)
  | x :: xs, lc =>
    if x.stop == a then
      let n := Cells.get lc x.n - 1
      let lc := Cells.set lc x.n n
      if n != 0 then (x :: xs, lc, x.start) else loopStep a xs lc
    else
      let (ys, lc, b) := loopStep a xs lc
      (x :: ys, lc, b)

/-- The address at which a lane goes on after a word with next address `a`. -/
def Lane.landing (l : Lane) (a : Nat) : Nat := (loopStep a l.slots l.lc).2.2

/-- The lane goes on at `a`, through the loops that stop there. -/
def Lane.advance (l : Lane) (a : Nat) : Lane :=
  let (slots, lc, b) := loopStep a l.slots l.lc
  { l with slots := slots, lc := lc, pc := b, st := .ready, gran := none, res := none }

/-- R401: lanes that leave the handler; one that would fall through the end of the code stands at the trapped word again
(R110). When none remains inside, the group runs again and the record
is cleared. -/
def trapReturn (size : Nat) (g : Group) (r : TrapRec) (ls : List Nat) (next : Bool) : Group :=
  let inside := r.inside.filter (fun l => !ls.contains l && (g.lane l).st != .exited)
  let g := g.modLanes ls (fun _ l =>
    let l := { l with kern := r.kern, pc := r.pc, st := .ready, gran := none, res := none }
    if next && decide (l.landing (r.pc + 1) < size) then l.advance (r.pc + 1) else l)
  { g with trap := if inside.isEmpty then none else some { r with inside := inside } }

/-! ## The frame of an instruction word -/

/-- Where a lane stands after a word. -/
inductive Next where
  | go (a : Nat)
  | wait (w : Wait)
  | goWait (a : Nat) (w : Wait)
  | hold (j : Nat)
  | stay
  deriving DecidableEq, Repr

/-- What a word does on its path. -/
inductive Eff where
  /-- The new state and the lanes that do not simply go on at the next word. -/
  | ok (s : State) (nx : List (Nat × Next))
  /-- A precise trap: nothing has changed. -/
  | trap (t : Trap)
  /-- A precise trap of a word for which falling through the end of the code is no matter. -/
  | trapNow (t : Trap)
  /-- The word ends with the state as given: the context has ended, or the core froze. -/
  | stop (s : State)

def nextOf (f : Focus) (nx : List (Nat × Next)) (l : Nat) : Next :=
  match nx.lookup l with
  | some n => n
  | none => .go (f.pc + 1)

/-- R110: the lanes that would stand at or above the code size. -/
def outside (s : State) (f : Focus) (size : Nat) (nx : List (Nat × Next)) : List Nat :=
  f.lanes.filter (fun l =>
    match nextOf f nx l with
    | .go a => size ≤ (s.flane f l).landing a
    | .goWait a _ => size ≤ (s.flane f l).landing a
    | .wait _ => size ≤ (s.flane f l).landing (f.pc + 1)
    | .hold _ => size ≤ (s.flane f l).landing (f.pc + 1)
    | .stay => false)

def placeLane (f : Focus) (nx : List (Nat × Next)) (i : Nat) (l : Lane) : Lane :=
  match nextOf f nx i with
  | .go a => l.advance a
  | .wait w => { l with st := .waiting w }
  | .goWait a w => { l.advance a with st := .waiting w }
  | .hold j => { l with st := .held j }
  | .stay => l

/-- Registers with a reply outstanding that the word names, in one lane (R101). -/
def pendHit (n : Nat) (use : List Nat) (l : Lane) : Bool :=
  use.any (fun r => l.pend.contains (regIx n r))

/-- Registers that the reply fills. -/
def Dest.named : Dest → List Nat
  | .reg d ty => if ty.wide then [d, d + 1] else [d]
  | .regs d n => (List.range n).map (d + ·)
  | _ => []

/-- The requests whose replies the lane awaits in the registers of a word. -/
def pendIds (s : State) (f : Focus) (n : Nat) (use : List Nat) (i : Nat) : List Nat :=
  (s.reqs.filter (fun r => r.blk == f.blk && r.grp == f.grp && r.lane == i &&
    r.dest.named.any (fun d => use.any (fun u => regIx n u == regIx n d)))).map Req.id

/-- R101: lanes that need a result not yet delivered wait, and the others issue. -/
def splitPend (s : State) (f : Focus) (use : List Nat) : List Nat × List Nat :=
  let n := (s.fgroup f).nregs
  f.lanes.partition (fun l => pendHit n use (s.flane f l))

/-- Runs a word on the path in focus: lanes that need a pending register wait; the fall-through check of
R110 comes before the word acts, but after that for an external effect in an idempotent region (19_kernel.md R377); a trap
changes nothing; otherwise every lane goes where the word sends it. `use` lists the vector registers the word names. -/
def runWord (s : State) (use : List Nat) (act : State → Focus → Eff) :
    Host.Outcome State Fault Refusal :=
  match s.focus with
  | none => .next s
  | some f0 =>
    let (late, now) := splitPend s f0 use
    let s := s.onLanes f0 late (fun i l =>
      { l with st := .waiting (.reqs (pendIds s f0 (s.fgroup f0).nregs use i)) })
    let f := { f0 with lanes := now }
    if now.isEmpty then .next s
    else
      let size := (s.fkern f).size
      match act s f with
      | .stop t => .next t
      | .trapNow t => .next (takeTrap s f t)
      | .trap t =>
        let bad := if t.cause = 7 then [] else outside s f size []
        if bad.isEmpty then .next (takeTrap s f t)
        else .next (takeTrap s f { cause := 5, lanes := bad })
      | .ok t nx =>
        let bad := outside t f size nx
        if bad.isEmpty then .next (t.onLanes f f.lanes (placeLane f nx))
        else .next (takeTrap s f { cause := 5, lanes := bad })

/-- A trap of lanes that wait or are held, found outside the issue of a word: in a group that another path has trapped they
are held (R103, R400), so they stand at their word again, to issue it when the group runs. -/
def trapPath (s : State) (f : Focus) (t : Trap) : State :=
  match (s.fgroup f).trap with
  | none => takeTrap s f t
  | some r =>
    if f.lanes.any r.inside.contains then takeTrap s f t
    else s.onLanes f f.lanes (fun _ l => { l with st := .ready, gran := none, res := none })

/-- A word that raises a trap whatever its predicate (03_formats.md R67, R68). -/
def runTrap (s : State) (t : Trap) : Host.Outcome State Fault Refusal :=
  match s.focus with
  | none => .next s
  | some f => .next (takeTrap s f t)

/-- An event whose condition holds takes place; otherwise nothing changes. -/
def event (s : State) (ok : Bool) (t : State) : Host.Outcome State Fault Refusal :=
  .next (if ok then t else s)

end Sys2Proof.Machine
end

