-- ==== Sys2Proof/Machine/Flags.lean ====
section
/-!
DEFINITION. The event counters and the status word: the arithmetic and floating-point events of a word (04_numbers.md
R74, R79, R80), the context status (21_context.md R394), predicates of comparisons.
-/

set_option linter.unusedVariables false

namespace Sys2Proof.Machine

/-- The threshold CSR of a floating-point event counter (R396). -/
def Context.threshold (c : Context) (i : Nat) : DWord := (Tbl.at c.fexThreshold i).getD 0xFFFFFFFF

/-- One increment of a floating-point event counter of an instance; the step past the threshold posts one message for
Levain (R80). -/
def bumpFex (s : State) (c i idx : Nat) : State :=
  let x := s.inst i
  let old := (Cells.get x.fex idx).toNat
  let new := sat32 (old + 1)
  let lim := ((s.ctx c).threshold idx).toNat
  let s := s.modInst i (fun x => { x with fex := Cells.set x.fex idx (BitVec.ofNat 32 new) })
  if old ≤ lim && lim < new then
    s.modCtx c (fun y => { y with msgs := y.msgs ++ [.threshold x.kern idx new lim s.ns] })
  else s

/-- One event of a word of an instance. -/
def bumpEvent (s : State) (c i e : Nat) : State :=
  if e = arithEvent then s.modCtx c (fun x => x.count (fun n => { n with arith := sat32 (n.arith + 1) }))
  else bumpFex s c i e

/-- The events of a word of an instance, one increment each. -/
def countEvents (s : State) (c i : Nat) (es : Events) : State := es.foldl (fun s e => bumpEvent s c i e) s

/-- The events of a triggered action: they go to the context's totals alone (R79). -/
def countTotals (s : State) (c : Nat) (es : Events) : State :=
  es.foldl (fun s e =>
    if e = arithEvent then s.modCtx c (fun x => x.count (fun n => { n with arith := sat32 (n.arith + 1) }))
    else s.modCtx c (fun x =>
      { x with fexTotal := Cells.set x.fexTotal e (BitVec.ofNat 32 (sat32 ((Cells.get x.fexTotal e).toNat + 1))) })) s

/-- The events of a word of the path in focus. -/
def State.tally (s : State) (f : Focus) (es : Events) : State :=
  countEvents s (s.fblock f).ctx (s.fblock f).inst es

def CtxSt.code : CtxSt → BitVec 3
  | .live => 0
  | .complete => 1
  | .frozen => 2
  | .trapped => 3

/-- R394: `ctx.status`. -/
def Context.status (c : Context) : DWord :=
  c.code ++ 0#8 ++ BitVec.ofNat 8 c.sub ++ BitVec.ofNat 8 c.cause ++ bit c.lossFlag ++ bit c.nested ++
    bit c.vecInvalid ++ bit c.exited ++ 0#1 ++ c.st.code

end Sys2Proof.Machine
end

