-- ==== Sys2Proof/Machine/Home.lean ====
section
/-!
DEFINITION. Performing reads and writes at the place that orders them: home slices with numbers and notices, counter SRAM,
scratchpads, remote places; the triggers and waiters of counters; the checks of the die port and the firewall
(13_ordering.md R251 to R255, 17_counter.md R315 to R320, 23_world.md R442, R444).
-/

set_option linter.unusedVariables false

namespace Sys2Proof.Machine

/-! ## Places -/

/-- Do `n` bytes at one place and `m` bytes at another meet? -/
def Place.meets (p : Place) (n : Nat) (q : Place) (m : Nat) : Bool :=
  let cut := fun (a b : Nat) => decide (a < b + m) && decide (b < a + n)
  match p, q with
  | .mem a, .mem b => cut a b
  | .sram d a, .sram e b => d == e && cut a b
  | .host k a, .host l b => k == l && cut a b
  | .dev x a, .dev y b => x == y && cut a b
  | .tray x a, .tray y b => x == y && cut a b
  | .rsp x a, .rsp y b => x == y && cut a b
  | _, _ => false

/-- The place `n` bytes further on. -/
def Place.plus (p : Place) (n : Nat) : Place :=
  match p with
  | .mem a => .mem (a + n)
  | .sram d a => .sram d (a + n)
  | .host k a => .host k (a + n)
  | .dev x a => .dev x (a + n)
  | .tray x a => .tray x (a + n)
  | .rsp b a => .rsp b (a + n)

/-- Is the place outside this device (R216)? -/
def Place.remote : Place → Bool
  | .host _ _ | .dev _ _ | .tray _ _ => true
  | _ => false

def Place.isRsp : Place → Bool
  | .rsp _ _ => true
  | _ => false

/-- The line of device memory that a place lies in. -/
def Place.line? : Place → Option Nat
  | .mem pa => some (pa / 64)
  | _ => none

/-- The key of a byte of a remote place, and its domain. -/
def Place.remoteKey : Place → Nat × Nat
  | .host k a => (0x1000000 + k, a)
  | .dev x a => (x, a)
  | .tray x a => (x, a)
  | _ => (0, 0)

def remoteKeyOf (domain a : Nat) : Nat := domain * 2 ^ 64 + a

/-- A byte of a remote place, as this device's accesses have left it (log 7). -/
def State.remoteByte (s : State) (domain a : Nat) : Byte :=
  (Tbl.at s.remote (remoteKeyOf domain a)).getD (Config.remoteByte domain a)

/-- Bytes of counter SRAM from an offset (17_counter.md R316). -/
def sramByte (d : Die) (off : Nat) : Byte := (Cells.get d.sram (off / 8)).extractLsb' (8 * (off % 8)) 8

def setSramByte (c : Cells 64) (off : Nat) (b : Byte) : Cells 64 :=
  let w := Cells.get c (off / 8)
  let sh := 8 * (off % 8)
  Cells.set c (off / 8) ((w &&& ~~~(0xFF#64 <<< sh)) ||| (b.setWidth 64 <<< sh))

/-- One byte at a place. -/
def State.byteAt (s : State) (p : Place) : Byte :=
  match p with
  | .mem a => Memory.byte s.mem a
  | .sram d off => sramByte (s.die d) off
  | .rsp b off => Cells.get (s.block b).spad off
  | p => s.remoteByte p.remoteKey.1 p.remoteKey.2

/-- `n` bytes from a place on. -/
def State.bytesAt (s : State) (p : Place) (n : Nat) : List Byte := (List.range n).map (fun i => s.byteAt (p.plus i))

def State.natAt (s : State) (p : Place) (n : Nat) : Nat := natOfBytes (s.bytesAt p n)

/-- The tray object that holds an address of a tray's store. -/
def State.trayObjAt (s : State) (domain a : Nat) : Option TrayObj :=
  s.trayObjs.find? (fun o => o.domain == domain && o.addr ≤ a && a < o.addr + o.size)

/-- The tag of the granule at a place (R163): host memory carries none; a tray's store keeps a body's tags. -/
def State.tagAt (s : State) (p : Place) : Bool :=
  match p with
  | .mem a => s.gtags.contains (a / 16)
  | .dev x a => (Tbl.at s.remoteTags (remoteKeyOf x (a / 16))).getD (Config.remoteTag x (a / 16))
  | .tray x a =>
    match s.trayObjAt x a with
    | some o => o.tags.contains ((a - o.addr) / 16)
    | none => (Tbl.at s.remoteTags (remoteKeyOf x (a / 16))).getD (Config.remoteTag x (a / 16))
  | _ => false

/-! ## The latest write of a location (R255) -/

/-- The vector that a read at the home of `n` bytes raises D by: the vectors and numbers of their latest writes. -/
def State.latest (s : State) (pa n : Nat) : VecD :=
  (List.range n).foldl (fun v i =>
    match Tbl.at s.writes (pa + i) with
    | some (k, w) => v.max (w.raise (dieOfAddr pa) k)
    | none => v) {}

/-- What the latest writes of scratchpad bytes depend on. -/
def Block.spadLatest (b : Block) (off n : Nat) : VecD :=
  (List.range n).foldl (fun v i => v.max ((Tbl.at b.spadVec (off + i)).getD {})) {}

/-- The same for any place: counter SRAM and scratchpads keep a vector and no number; a remote place raises nothing. -/
def State.latestAt (s : State) (p : Place) (n : Nat) : VecD :=
  match p with
  | .mem a => s.latest a n
  | .sram d off => (Tbl.at (s.die d).ctrVec (off / 8)).getD {}
  | .rsp b off => (s.block b).spadLatest off n
  | _ => {}

/-- The numbers of all four homes. -/
def State.seqs (s : State) : VecD := ⟨(s.die 0).seq, (s.die 1).seq, (s.die 2).seq, (s.die 3).seq⟩

/-! ## Counters, triggers and waiters (17_counter.md R315 to R320, R327) -/

/-- The key of a counter at its die: a physical address, or 2^64 + the offset in counter SRAM. -/
def ctrKey : Place → Nat
  | .mem a => a
  | .sram _ off => 2 ^ 64 + off
  | _ => 0

/-- Is the counter registered with the Proofer (R315)? -/
def Die.registered (d : Die) (key : Nat) : Bool :=
  d.entries.any (fun e => e.2.st == .armed && e.2.ctr == key) || d.waiters.any (fun w => w.ctr == key)

/-- Does a line hold a registered counter (R317)? -/
def Die.lineRegistered (d : Die) (line : Nat) : Bool :=
  d.entries.any (fun e => e.2.st == .armed && e.2.ctr / 64 == line) || d.waiters.any (fun w => w.ctr / 64 == line)

/-- The unit of a block: itself, or the blocks of its cluster (18_barrier.md R355). -/
def State.unitOf (s : State) (b : Nat) : List Nat :=
  match s.block? b with
  | none => []
  | some x =>
    let c := (s.blockKern x).cluster
    if c ≤ 1 then [b]
    else (s.blocks.filter (fun e => e.2.inst == x.inst && e.2.index / c == x.index / c)).map Prod.fst

/-- R355: the parked blocks of a unit are queued for relaunch, at its instance's queue manager; a mate that was saved alone stands there
for itself (20_queue.md R389). -/
def State.queueRelaunch (s : State) (b : Nat) : State :=
  let unit := s.unitOf b
  let d := (s.inst (s.block b).inst).die
  if unit.any (fun u => (s.block u).st == .parked && (s.die d).relaunch.contains u) then s
  else s.modDie d (fun x => { x with relaunch := x.relaunch ++ [b] })

/-- The parked blocks of a block's unit are queued together. -/
def State.queueParked (s : State) (b : Nat) : State :=
  match (s.unitOf b).find? (fun u => (s.block u).st == .parked) with
  | some u => s.queueRelaunch u
  | none => s

/-- The signal of a parked unit, whose waiter entries are free again: at once when its save is complete, otherwise when it completes (R355). -/
def State.wakeUnit (s : State) (b : Nat) : State :=
  match s.block? b with
  | none => s
  | some x =>
    let unit := s.unitOf b
    let freed := { s with dies := s.dies.map (fun (e : Nat × Die) =>
      (e.1, { e.2 with waiters := e.2.waiters.filter (fun w => !unit.contains w.blk) })) }
    if unit.any (fun u => (s.block u).st == .parking) then
      unit.foldl (fun s u => s.modBlock u (fun y => { y with signalled := true })) freed
    else if unit.any (fun u => (s.block u).st == .parked) then freed.queueParked b
    else s

/-- R261: what a counter's raise adds for an action that it fires: the homes' numbers, when an arrival from outside has raised
the counter. -/
def State.sampleFor (s : State) (d key : Nat) : VecD :=
  if 2 ^ 64 ≤ key ∧ (s.die d).arrived.contains ((key - 2 ^ 64) / 8) then s.seqs else {}

/-- R317, R319: a write to a counter, with its old and new values and the vector that covers it. A raising write
fires every armed entry it reaches, and releases the waiters it reaches. -/
def State.raised (s : State) (d key old new : Nat) (vec : VecD) : State :=
  if new ≤ old then s
  else
    let die := s.die d
    let vec := vec.max (s.sampleFor d key)
    let hits := die.entries.filter (fun e => e.2.st == .armed && e.2.ctr == key && e.2.threshold ≤ new &&
      !(s.ctx e.2.ctx).ended)
    let woken := die.waiters.filter (fun w => w.ctr == key && w.value ≤ new)
    let s := s.modDie d (fun x =>
      { x with
        entries := x.entries.map (fun e =>
          (e.1, if hits.any (fun h => h.1 == e.1) then { e.2 with st := .firing, vec := vec, firing := x.fireSeq } else e.2))
        fireSeq := if hits.isEmpty then x.fireSeq else x.fireSeq + 1
        waiters := x.waiters.filter (fun w => !(w.ctr == key && w.value ≤ new)) })
    let s := hits.foldl (fun s h => s.modCtx h.2.ctx (fun c => c.count (fun n => { n with fire := sat32 (n.fire + 1) }))) s
    woken.foldl (fun s w => s.wakeUnit w.blk) s

/-- The 8-byte words that `n` bytes from an address touch. -/
def wordsOf (a n : Nat) : List Nat :=
  if n = 0 then [] else (List.range ((a + n - 1) / 8 - a / 8 + 1)).map (fun i => 8 * (a / 8 + i))

/-! ## Writes -/

/-- The granules, and the 8-byte words, that a write touches. -/
def cellGranules (cs : List (Nat × Byte)) : List Nat := (cs.map (fun c => c.1 / 16)).eraseDups
def cellWords (cs : List (Nat × Byte)) : List Nat := (cs.map (fun c => 8 * (c.1 / 8))).eraseDups

/-- A write notice goes to each of the other dies; how long it takes is not said (R253; log 100). -/
def State.sendNotices (s : State) (note : Notice) : State :=
  [0, 1, 2, 3].foldl (fun (s : State) d =>
    if d = note.home then s
    else s.modDie d (fun x =>
      { x with notices := x.notices ++ [{ note with due := s.clock + Config.noticeDelay note.home note.n d }] })) s

/-- A write performed at the home of its addresses, all in one line: it takes the home's next number, its granules' tags are
cleared or set, a notice goes to each of the other dies, and each counter it touches is compared once (R251, R253, R317, R318).
A write of nothing changes nothing (10_memory.md R222). -/
def State.commitCells (s : State) (cs : List (Nat × Byte)) (tagOn : Bool) (vec : VecD) : State × VecD :=
  match cs with
  | [] => (s, {})
  | (pa, _) :: _ =>
    let h := dieOfAddr pa
    let n := (s.die h).seq + 1
    let words := (cellWords cs).filter (fun w => (s.die h).registered w)
    let olds := words.map (fun w => (w, Memory.readNat s.mem w 8))
    let vec := words.foldl (fun v w => v.max (s.latest w 8)) vec
    let gs := cellGranules cs
    let s := { s with
      mem := cs.foldl (fun m (c : Nat × Byte) => Memory.setByte m c.1 c.2) s.mem
      poison := s.poison.filter (fun g => !gs.contains g)
      gtags := if tagOn then gs.foldl (fun t g => insertNat g t) s.gtags else gs.foldl (fun t g => without g t) s.gtags
      writes := cs.foldl (fun t (c : Nat × Byte) => Tbl.put t c.1 (n, vec)) s.writes }
    let s := s.modDie h (fun d => { d with seq := n, applied := d.applied.set h n })
    let s := s.sendNotices { home := h, n := n, cells := cs, setTags := if tagOn then gs else [], vec := vec }
    let up := vec.raise h n
    (olds.foldl (fun s o => s.raised h o.1 o.2 (Memory.readNat s.mem o.1 8) up) s, VecD.set {} h n)

/-- The bytes of a run, each with its address. -/
def runCells (pa : Nat) (bytes : List Byte) : List (Nat × Byte) := (List.range bytes.length).map (fun i => (pa + i, bytes.getD i 0))

/-- A write of a run of bytes that lie in one line. -/
def State.commitMem (s : State) (pa : Nat) (bytes : List Byte) (tagOn : Bool) (vec : VecD) : State × VecD :=
  s.commitCells (runCells pa bytes) tagOn vec

/-- Cells of any lines: one write for each line, in rising order (R253: a notice spans one line). -/
def State.commitLines (s : State) (cs : List (Nat × Byte)) (vec : VecD) : State :=
  ((cs.map (fun c => c.1 / 64)).eraseDups).foldl (fun s l => (s.commitCells (cs.filter (fun c => c.1 / 64 == l)) false vec).1) s

/-- A write within one word of counter SRAM, performed at its Proofer; it takes no number, and its vector stays with
the word (log 24). -/
def State.commitSramWord (s : State) (d off : Nat) (bytes : List Byte) (vec : VecD) : State :=
  let w := off / 8
  let old := (Cells.get (s.die d).sram w).toNat
  let vec := vec.max ((Tbl.at (s.die d).ctrVec w).getD {})
  let cells := (List.range bytes.length).foldl (fun c i => setSramByte c (off + i) (bytes.getD i 0)) (s.die d).sram
  let s := s.modDie d (fun x => { x with sram := cells, ctrVec := Tbl.put x.ctrVec w vec })
  s.raised d (2 ^ 64 + 8 * w) old (Cells.get cells w).toNat vec

/-- A write to counter SRAM, word by word. -/
def State.commitSram (s : State) (d off : Nat) (bytes : List Byte) (vec : VecD) : State :=
  (wordsOf off bytes.length).foldl (fun s w =>
    let lo := Nat.max off w
    let hi := Nat.min (off + bytes.length) (w + 8)
    s.commitSramWord d lo ((bytes.drop (lo - off)).take (hi - lo)) vec) s

/-- An entry of a table of vectors, in which an absent one is zero. -/
def putVec (t : Tbl VecD) (k : Nat) (v : VecD) : Tbl VecD := if v = {} then Tbl.del t k else Tbl.put t k v

/-- A scratchpad write, with what it depends on. -/
def setSpad (b : Block) (off : Nat) (bytes : List Byte) (vec : VecD) : Block :=
  { b with spad := (List.range bytes.length).foldl (fun c i => Cells.set c (off + i) (bytes.getD i 0)) b.spad
           spadVec := (List.range bytes.length).foldl (fun t i => putVec t (off + i) vec) b.spadVec }

/-- The tags of a tray body after a write of `n` bytes at an address of it (08_name.md R163). -/
def TrayObj.tagged (o : TrayObj) (a n : Nat) (tagOn : Bool) : TrayObj :=
  { o with tags := (granules (a - o.addr) n).foldl (fun t g => if tagOn then insertNat g t else without g t) o.tags }

/-- A write at any place: the state, and what the writer's D is raised by (R255). -/
def State.commitAt (s : State) (p : Place) (bytes : List Byte) (tagOn : Bool) (vec : VecD) : State × VecD :=
  match p with
  | .mem a => s.commitMem a bytes tagOn vec
  | .sram d off => (s.commitSram d off bytes vec, {})
  | .rsp b off => (s.modBlock b (fun x => setSpad x off bytes vec), {})
  | p =>
    let (x, a) := p.remoteKey
    let gs := granules a bytes.length
    ({ s with
        remote := (List.range bytes.length).foldl (fun t i => Tbl.put t (remoteKeyOf x (a + i)) (bytes.getD i 0)) s.remote
        trayObjs := s.trayObjs.map (fun (o : TrayObj) =>
          if o.domain = x ∧ o.addr ≤ a ∧ a < o.addr + o.size then o.tagged a bytes.length tagOn else o)
        remoteTags := if 0x1000000 ≤ x || (s.trayObjAt x a).isSome then s.remoteTags
          else gs.foldl (fun t g => Tbl.put t (remoteKeyOf x g) tagOn) s.remoteTags }, {})

/-! ## Lines that a holder has taken (10_memory.md R219) -/

/-- One held write takes its number at the home, and its request learns what D is raised by: the latest writes of every byte that
the atomic or compare read, and its own (R251, R255). -/
def numberHeld (s : State) (w : HeldWrite) : State :=
  let size := ((s.req? w.req).map Req.size).getD 1
  let before := s.latest w.addr (Nat.max w.bytes.length size)
  let (s, v) := s.commitMem w.addr w.bytes false w.vec
  s.updReq w.req (fun q => { q with raises := before.max v })

/-- The home has the line with every atomic performed (R219). -/
def State.writeBack (s : State) (h : Held) : State :=
  h.writes.foldl numberHeld { s with held := s.held.filter (fun k => k.line != h.line) }

/-- Memory that is about to have another owner or other contents: what holders have of it is written back, and no die keeps a copy
of a line of it, so that a later read on any die begins at the home (R252, 08_name.md R184). -/
def State.freshRange (s : State) (pa size : Nat) : State :=
  let out := fun (line : Nat) => !(decide (pa ≤ 64 * line) && decide (64 * line < pa + size))
  let s := (s.held.filter (fun h => !out h.line)).foldl State.writeBack s
  { s with
    dies := s.dies.map (fun (e : Nat × Die) => (e.1, { e.2 with replica := e.2.replica.filter (fun l => out l.1),
                                                                 fills := e.2.fills.filter (fun f => out f.line) })) }

/-! ## The die port and the firewall (R442 to R444) -/

/-- What a home says of a request of a world. -/
inductive Port where
  | pass
  /-- A world breach (1) or a firewall breach (2). -/
  | breach (kind : Nat)
  /-- The die is scrubbing: an error reply. -/
  | errorReply
  deriving DecidableEq, Repr

def State.regionWorld (s : State) (pa : Nat) : Nat := (Cells.get (n := 8) s.mgmt.firewall (pa / 2 ^ 30)).toNat % 16
def State.regionOpen (s : State) (pa : Nat) : Bool := (Cells.get (n := 8) s.mgmt.firewall (pa / 2 ^ 30)).getLsbD 4

def State.port (s : State) (world : Nat) (p : Place) : Port :=
  if world = 0 then .pass
  else
    match p.home? with
    | none => .pass
    | some d =>
      match (s.die d).latch with
      | .assigned w =>
        if w != world then .breach 1
        else
          match p with
          | .mem pa => if s.regionWorld pa == world then .pass else .breach 2
          | _ => .pass
      | .scrubbing w => if w == world then .errorReply else .breach 1
      | .unassigned => .breach 1

/-! ## Atomic operations (10_memory.md R232 to R234) -/

/-- The new value of a location and the events: floats round to nearest, minimum and maximum by R145. -/
def atomNew (op : AtomOp) (ty : Ty) (old x : Nat) : Nat × Events :=
  let w := ty.bits
  match Num.of ty with
  | .flt t =>
    match op with
    | .add => sumF t .rn false (decodeF t old) (decodeF t x)
    | .min => (minMaxF t false old x, [])
    | .max => (minMaxF t true old x, [])
    | _ => (x, [])
  | _ =>
    let a := intOf ty.signed w old
    let b := intOf ty.signed w x
    (match op with
      | .add => wrapTo w (a + b)
      | .min => if a ≤ b then old else x
      | .max => if a ≤ b then x else old
      | .and => old &&& x
      | .or => old ||| x
      | .xor => old ^^^ x
      | .xchg => x, [])

end Sys2Proof.Machine
end

