-- ==== Sys2Proof/Machine/Translate.lean ====
section
/-!
DEFINITION. From a virtual address to the place where an access is performed: the four-level walk, page-table
entries, regions and rights (09_page.md R194 to R202).
-/

set_option linter.unusedVariables false

namespace Sys2Proof.Machine

/-- A page-table entry's fields (R196). -/
structure Pte where
  valid : Bool
  leaf : Bool
  r : Bool
  w : Bool
  x : Bool
  measured : Bool
  kind : Nat
  addr : Nat
  target : Nat
  res1 : BitVec 2
  res2 : BitVec 2
  deriving DecidableEq, Repr

def pteOf (e : DWord) : Pte :=
  { valid := e.getLsbD 0, leaf := e.getLsbD 1, r := e.getLsbD 2, w := e.getLsbD 3, x := e.getLsbD 4,
    measured := e.getLsbD 5, kind := (e.extractLsb' 8 2).toNat,
    addr := (e.extractLsb' 12 40).toNat * 4096, target := (e.extractLsb' 52 12).toNat,
    res1 := e.extractLsb' 6 2, res2 := e.extractLsb' 10 2 }

/-- The entry that maps a page. -/
def mkPte (r w x measured : Bool) (kind addr target : Nat) : DWord :=
  BitVec.ofNat 12 target ++ BitVec.ofNat 40 (addr / 4096) ++ 0#2 ++ BitVec.ofNat 2 kind ++ 0#2 ++
    bit measured ++ bit x ++ bit w ++ bit r ++ 1#1 ++ 1#1

/-- The entry that points to a table. -/
def mkTable (addr : Nat) : DWord := BitVec.ofNat 52 (addr / 4096) ++ 1#12

/-- Page size of a leaf at a level (R195). -/
def leafSize (level : Nat) : Nat :=
  match level with
  | 1 => 2 ^ 30
  | 2 => 2 ^ 21
  | _ => 2 ^ 16

/-- Alignment of the table below a level: every table but the root is 4 KiB. -/
def tableAlign : Nat := 4096

/-- R197. -/
def Pte.malformed (level : Nat) (e : Pte) : Bool :=
  e.res1 != 0 || e.res2 != 0 ||
  (if e.leaf then
    level == 0 || e.kind == 3 || e.addr % leafSize level != 0 ||
    (e.kind == 0 && (e.target != 0 || 2 ^ 40 ≤ e.addr)) ||
    (e.kind == 1 && 8 ≤ e.target) ||
    (e.kind == 2 && !isDevice e.target)
  else
    level == 3 || e.r || e.w || e.x || e.measured || e.kind != 0 || e.target != 0 ||
    e.addr % tableAlign != 0 || 2 ^ 40 ≤ e.addr)

/-- The index of a level (R195). -/
def levelIndex (level va : Nat) : Nat :=
  match level with
  | 0 => va / 2 ^ 39 % 2 ^ 18
  | 1 => va / 2 ^ 30 % 512
  | 2 => va / 2 ^ 21 % 512
  | _ => va / 2 ^ 16 % 32

/-- What a walk finds. -/
inductive Walk where
  | leaf (level : Nat) (e : Pte) (bits : DWord)
  | notMapped
  | malformed
  deriving DecidableEq, Repr

/-- R195: from a level on, with `fuel` levels left. -/
def walkFrom (m : Memory) (va : Nat) : Nat → Nat → Nat → Walk
  | 0, _, _ => .malformed
  | fuel + 1, level, table =>
    let bits := BitVec.ofNat 64 (Memory.readNat m (table + 8 * levelIndex level va) 8)
    let e := pteOf bits
    if !e.valid then .notMapped
    else if e.malformed level then .malformed
    else if e.leaf then .leaf level e bits
    else walkFrom m va fuel (level + 1) e.addr

def walk (m : Memory) (root va : Nat) : Walk := walkFrom m va 4 0 root

/-- R194. -/
def inWindow (va : Nat) : Bool := va / 2 ^ 60 % 16 == 14
def canonical (va : Nat) : Bool := va < 2 ^ 57

/-- The cached entry of an address, if the agent holds one (R198). -/
def cached (tlb : List TlbEntry) (c va : Nat) : Option TlbEntry :=
  tlb.find? (fun t => t.ctx == c && t.base ≤ va && va < t.base + t.size)

def Context.region (c : Context) (va : Nat) : Option Region :=
  c.regions.find? (fun r => !r.part && r.base ≤ va && va < r.base + r.size)

/-- Rights an access needs (R199). -/
inductive Need where
  | read | write | fetch
  deriving DecidableEq, Repr

/-- What translation answers: a place with the page's rights and its cached form, an unresolvable
fault by its sub-cause (R200), or a page to be filled (R201). -/
inductive Xlat where
  | at (p : Place) (t : Option TlbEntry)
  | fault (sub : Nat)
  | fill (f : PageFill)
  deriving DecidableEq, Repr

def granted (r w x : Bool) (n : Need) : Bool :=
  match n with
  | .read => r
  | .write => w
  | .fetch => x

/-- The place of an address on the page of an entry (10_memory.md R216). -/
def placeOn (e : Pte) (base va : Nat) : Place :=
  let a := e.addr + (va - base)
  match e.kind with
  | 0 => .mem a
  | 1 => .host e.target a
  | _ => .dev e.target a

/-- What a page's entry answers. -/
def answerOf (e : Pte) (base va : Nat) (n : Need) (t : TlbEntry) : Xlat :=
  if granted e.r e.w e.x n then .at (placeOn e base va) (some t) else .fault 2

/-- Translation of one address outside the window, with the entries the agent has cached: a cached entry stands until its
invalidation is received (R198). -/
def translate (m : Memory) (tlb : List TlbEntry) (c : Nat) (ctx : Context) (va : Nat) (n : Need) : Xlat :=
  if !canonical va then .fault 3
  else
    match cached tlb c va with
    | some t => answerOf (pteOf t.entry) t.base va n t
    | none =>
      match ctx.region va with
      | none => .fault 1
      | some g =>
        if g.kind == .sram then
          if granted g.r g.w g.x n then .at (.sram (g.target.getD 0) (8 * g.addr + (va - g.base))) none
          else .fault 2
        else
          match walk m ctx.ptRoot va with
          | .malformed => .fault 4
          | .leaf level e bits =>
            let size := leafSize level
            let base := va - va % size
            answerOf e base va n ⟨c, base, size, bits⟩
          | .notMapped =>
            if g.kind == .device then
              .fill { ctx := c, page := va - va % g.page, size := g.page, die := g.target }
            else .fault 1

/-- The entry an agent caches. -/
def addTlb (t : Option TlbEntry) (tlb : List TlbEntry) : List TlbEntry :=
  match t with
  | none => tlb
  | some t => if tlb.contains t then tlb else t :: tlb

/-- Has the fill of a page failed, so that what waits for it now meets sub-cause 5 (R201)? -/
def State.fillFailed (s : State) (f : PageFill) : Bool :=
  s.pageFills.any (fun g => g.ctx == f.ctx && g.page == f.page && g.failed.isSome)

/-- A page's fill is asked for once (R202). -/
def State.askFill (s : State) (f : PageFill) : State :=
  if s.pageFills.any (fun g => g.ctx == f.ctx && g.page == f.page) then s
  else { s with pageFills := s.pageFills ++ [f] }

end Sys2Proof.Machine
end

