-- ==== Sys2Proof/Machine/Levain.lean ====
section
/-!
DEFINITION. What Levain does with memory: its own tables, frames for a world, page tables and regions
(09_page.md R195, R201, R202, R207, 23_world.md R444; log 8).
-/

set_option linter.unusedVariables false

namespace Sys2Proof.Machine

def alignUp (a n : Nat) : Nat := if n = 0 then a else (a + n - 1) / n * n

/-- Levain's own memory begins here, in region 0 of die 0, a region of world 0. -/
def levainBase : Nat := 0x100000

/-- The first 1 GiB region of each die is Levain's; a world's frames begin above it. -/
def framesFrom : Nat := 2 ^ 30

/-- The regions that a range of a die touches, as firewall entries. -/
def regionsOf (pa size : Nat) : List Nat :=
  if size = 0 then [] else (List.range ((pa + size - 1) / 2 ^ 30 - pa / 2 ^ 30 + 1)).map (fun i => pa / 2 ^ 30 + i)

def State.firewallAt (s : State) (region : Nat) : BitVec 8 := Cells.get (n := 8) s.mgmt.firewall region

/-- Has Levain something of its own in a region: the first of each die, where its tables, rings, save areas and journal lie (log 115), and
those that its tables have grown into (R196, 23_world.md R444)? -/
def State.levainHas (s : State) (region : Nat) : Bool :=
  region % 256 == 0 || ((s.firewallAt region).toNat % 16 == 0 && decide (region * 2 ^ 30 < s.levainNext))

/-- May frames of a world lie in the regions of a range: they are the world's, or nobody's and not Levain's own, none is part of a pool
exported to hosts (R196, 22_link.md R427), and none is being taken from a world (23_world.md R445)? -/
def State.regionsFree (s : State) (world pa size : Nat) : Bool :=
  (regionsOf pa size).all (fun r =>
    let w := (s.firewallAt r).toNat % 16
    (w == world || (w == 0 && !s.levainHas r)) && !(s.firewallAt r).getLsbD 4 && !s.mgmt.reassign.any (fun x => x.1 == r))

/-- The regions of a range become a world's. -/
def State.claim (s : State) (world pa size : Nat) : State :=
  let s := s.note 13 world pa
  { s with mgmt := { s.mgmt with firewall := (regionsOf pa size).foldl (fun c r =>
      Cells.set (n := 8) c r ((Cells.get (n := 8) c r &&& 0xF0) ||| BitVec.ofNat 8 (world % 16))) s.mgmt.firewall } }

/-- Frames of a die for a world, from its next free byte on, past the regions of other worlds. -/
def State.frameFrom (s : State) (d world size align : Nat) : Nat → Nat → Option (Nat × Nat)
  | 0, _ => none
  | fuel + 1, o =>
    let o := alignUp o align
    if 2 ^ 38 < o + size then none
    else if s.regionsFree world (d * 2 ^ 38 + o) size then some (d * 2 ^ 38 + o, o + size)
    else s.frameFrom d world size align fuel ((o / 2 ^ 30 + 1) * 2 ^ 30)

/-- A frame that has been given back, of the same size, comes first. No die keeps a copy of what the frame held before. -/
def State.takeFrame (s : State) (d world size align : Nat) : Option (Nat × State) :=
  match s.frames.find? (fun f => f.2 == size && f.1 % align == 0 && dieOfAddr f.1 == d && s.regionsFree world f.1 size) with
  | some f => some (f.1, { (s.freshRange f.1 size).claim world f.1 size with frames := s.frames.erase f })
  | none =>
    match s.frameFrom d world size align 260 (Nat.max framesFrom (s.levainFrame.getD d 0)) with
    | none => none
    | some (pa, next) => some (pa, { (s.freshRange pa size).claim world pa size with levainFrame := s.levainFrame.set d next })

/-- The dies of a world. -/
def State.diesOf (s : State) (world : Nat) : List Nat :=
  [0, 1, 2, 3].filter (fun d => (s.die d).latch == .assigned world)

/-- A die for a world's memory where none is named. -/
def State.anyDie (s : State) (world : Nat) : Nat := (s.diesOf world).headD 0

/-- R202, R443: memory zeroed, every granule tag 0. -/
def State.zero (s : State) (pa size : Nat) : State :=
  { s with
    mem := s.mem.filter (fun e => !(pa ≤ e.1 && e.1 < pa + size))
    gtags := s.gtags.filter (fun g => !(pa ≤ 16 * g && 16 * g < pa + size))
    poison := s.poison.filter (fun g => !(pa ≤ 16 * g && 16 * g < pa + size)) }

/-- Does a range meet the upper half of a die's first region, which the journal has? -/
def meetsJournal (a size : Nat) : Option Nat :=
  [0, 1, 2, 3].find? (fun d => decide (a < d * 2 ^ 38 + 2 ^ 30) && decide (d * 2 ^ 38 + 2 ^ 29 < a + size))

/-- The next range of Levain's own memory, past the regions that worlds have: its tables lie in world-0 memory (R196). -/
def State.levainFrom (s : State) (size align : Nat) : Nat → Nat → Nat
  | 0, a => a
  | fuel + 1, a =>
    let a := alignUp a align
    match (regionsOf a size).find? (fun r => (s.firewallAt r).toNat % 16 != 0), meetsJournal a size with
    | none, none => a
    | none, some d => s.levainFrom size align fuel (d * 2 ^ 38 + 2 ^ 30)
    | some r, _ => s.levainFrom size align fuel ((r + 1) * 2 ^ 30)

def State.levainAt (s : State) (size align : Nat) : Nat := s.levainFrom size align 1025 (Nat.max levainBase s.levainNext)

/-- Is there memory left for Levain itself? -/
def State.levainRoom (s : State) (size align : Nat) : Bool := decide (s.levainAt size align + size ≤ 2 ^ 40)

/-- Zeroed memory for Levain itself. -/
def State.takeLevain (s : State) (size align : Nat) : Nat × State :=
  let a := s.levainAt size align
  (a, { s.zero a size with levainNext := a + size })

/-! ## Page tables -/

def writeEntry (s : State) (a : Nat) (e : DWord) : State :=
  { s with mem := Memory.write s.mem a (bytesOfNat e.toNat 8) }

/-- The leaf level of a page size. -/
def leafLevel (size : Nat) : Nat := if size = 2 ^ 30 then 1 else if size = 2 ^ 21 then 2 else 3

/-- The most memory that the tables of pages mapped at a range take. -/
def tableBytes (size : Nat) : Nat := 4096 * (size / 2 ^ 21 + size / 2 ^ 30 + size / 2 ^ 39 + 6)

/-- Writes the leaf entry of a page, with the tables above it, from a level down; Levain has looked first whether it has memory for the
tables (`State.levainRoom`). -/
def mapFrom (va leaf : Nat) (e : DWord) : Nat → Nat → Nat → State → State
  | 0, _, _, s => s
  | fuel + 1, level, table, s =>
    let a := table + 8 * levelIndex level va
    if level = leaf then writeEntry s a e
    else
      let x := pteOf (BitVec.ofNat 64 (Memory.readNat s.mem a 8))
      if x.valid && !x.leaf then mapFrom va leaf e fuel (level + 1) x.addr s
      else if !s.levainRoom 4096 4096 then s
      else
        let (t, s) := s.takeLevain 4096 4096
        mapFrom va leaf e fuel (level + 1) t (writeEntry s a (mkTable t))

def State.mapPage (s : State) (ctx va size : Nat) (e : DWord) : State :=
  mapFrom va (leafLevel size) e 4 0 (s.ctx ctx).ptRoot s

/-- The leaf entry of a page cleared, where it has one. -/
def unmapFrom (va : Nat) : Nat → Nat → Nat → State → State
  | 0, _, _, s => s
  | fuel + 1, level, table, s =>
    let a := table + 8 * levelIndex level va
    let x := pteOf (BitVec.ofNat 64 (Memory.readNat s.mem a 8))
    if !x.valid then s
    else if x.leaf || level = 3 then writeEntry s a 0
    else unmapFrom va fuel (level + 1) x.addr s

def State.unmapPage (s : State) (ctx va : Nat) : State := unmapFrom va 4 0 (s.ctx ctx).ptRoot s

/-- Every page of a range. -/
def pagesOf (base size page : Nat) : List Nat :=
  if page = 0 then [] else (List.range ((size + page - 1) / page)).map (fun i => base + i * page)

def regionPte (g : Region) (kind addr target : Nat) : DWord := mkPte g.r g.w g.x g.measured kind addr target

def State.addRegion (s : State) (ctx : Nat) (g : Region) : State :=
  s.modCtx ctx (fun c => { c with regions := c.regions ++ [g] })

/-- Maps a range of frames that lie together. -/
def State.mapRange (s : State) (ctx : Nat) (g : Region) (kind addr target : Nat) : State :=
  (pagesOf g.base g.size g.page).foldl (fun s va =>
    s.mapPage ctx va g.page (regionPte g kind (addr + (va - g.base)) target)) (s.addRegion ctx g)

/-- The lowest address at or above `from`, aligned, at which `size` bytes meet no range of a list. -/
def roomFor (used : List (Nat × Nat)) (size align : Nat) : Nat → Nat → Nat
  | 0, a => a
  | fuel + 1, a =>
    let a := alignUp a align
    match used.find? (fun g => decide (a < g.1 + g.2) && decide (g.1 < a + size)) with
    | none => a
    | some g => roomFor used size align fuel (g.1 + g.2)

/-- Virtual addresses that Levain gives out begin here. -/
def vaFrom : Nat := 0x100000000

/-- The addresses that a context's regions have, and those of pages whose invalidation is not complete (R201). -/
def State.usedVa (s : State) (c : Nat) : List (Nat × Nat) :=
  (s.ctx c).regions.map (fun g => (g.base, g.size)) ++
    s.invals.filterMap (fun v => if v.ctx = c then v.size.map (fun n => (v.base, n)) else none)

def State.freeVa (s : State) (c size align : Nat) : Nat := roomFor (s.usedVa c) size align ((s.usedVa c).length + 1) vaFrom

/-- An invalidation under way: the agents that translate for the context (R205). -/
def agents : List Nat := List.range 264

def State.startInval (s : State) (ctx base : Nat) (size : Option Nat) : Nat × State :=
  (s.nextId, { s with nextId := s.nextId + 1,
                      invals := s.invals ++ [{ id := s.nextId, ctx := ctx, base := base, size := size,
                                               toReceive := agents, waiting := [] }] })

end Sys2Proof.Machine
end

