-- ==== Sys2Proof/Machine/Operands.lean ====
section
/-!
DEFINITION. Operand forms of the register words: sources by kind and width, literals, packed sub-elements, and the
writing of results (02_notation.md R28, R30, 03_formats.md R50, R55, 06_arith.md R130 to R133).
-/

set_option linter.unusedVariables false

namespace Sys2Proof

/-- Sub-element width under a packed count (R90). -/
def Pack.width : Pack → Nat
  | .none => 32 | .x2 => 16 | .x4 => 8 | .x5 => 6 | .x8 => 4

/-- The element width of an integer operation. -/
def AMods.width (m : AMods) : Nat := if m.pk = .none then m.ty.bits else m.pk.width

namespace Machine

/-- What a lane's word reads from: constants of the path's kernel, the group and the lane. -/
structure View where
  k : Kern
  g : Group
  l : Lane

def State.view (s : State) (f : Focus) (i : Nat) : View := ⟨s.fkern f, s.fgroup f, s.flane f i⟩

def Kern.const (k : Kern) (bank word : Nat) : Word := Cells.get k.consts (128 * bank + word)

/-- A 32-bit source; a literal is sign-extended (R28). -/
def View.src (v : View) : Src → Word
  | .v r => v.l.reg v.g.nregs r.toNat
  | .s r => v.g.sreg r.toNat
  | .c b w => v.k.const b.toNat w.toNat
  | .lit x => x.signExtend 32

/-- A 64-bit source (R130). -/
def View.src64 (v : View) : Src → DWord
  | .v r => v.l.pair v.g.nregs r.toNat
  | .s r => v.g.spair r.toNat
  | .c b w => v.k.const b.toNat (w.toNat + 1) ++ v.k.const b.toNat w.toNat
  | .lit x => x.signExtend 64

/-- The tag of a 64-bit source: only a vector pair has one (R133). -/
def View.tagOf (v : View) : Src → Bool
  | .v r => v.l.tag v.g.nregs r.toNat
  | _ => false

/-- Sub-element j of a register. -/
def subEl (w x j : Nat) : Nat := x / 2 ^ (w * j) % 2 ^ w

/-- A register from its sub-elements, the lowest first. -/
def joinEls (w : Nat) : List Nat → Nat
  | [] => 0
  | x :: xs => x % 2 ^ w + 2 ^ w * joinEls w xs

/-- An integer literal in every sub-element (R28). -/
def litEls (pk : Pack) (x : BitVec 9) : Nat :=
  joinEls pk.width (List.replicate pk.count (wrapTo pk.width x.toInt))

/-- A source of an integer operation: 64 or 32 bits as they stand, a literal in every element (R92, R130). -/
def View.intSrc (v : View) (m : AMods) (a : Src) : Nat :=
  if m.ty.wide then (v.src64 a).toNat
  else
    match a with
    | .lit x => if m.pk = .none then (v.src a).toNat else litEls m.pk x
    | _ => (v.src a).toNat

/-- A float literal: the integer in the type, exactly (R28). -/
def litF (t : FFmt) (x : BitVec 9) : Nat := (packF t .rn false (valOfInt x.toInt)).1

/-- A source of a float operation, as its pattern; with the packed flag both halves. -/
def View.fltSrc (v : View) (m : BMods) (a : Src) : Nat :=
  match a with
  | .lit x =>
    let y := litF (FFmt.of m.ty) x
    if m.x2 then y + 65536 * y else y
  | _ => if m.ty = .f64 then (v.src64 a).toNat else (v.src a).toNat

/-- R55: the literal of an L form widened to 64 bits. -/
def litL64 (signed : Bool) (x : Word) : DWord := if signed then x.signExtend 64 else x.setWidth 64

/-- R55: the literal of a float L form in the type, by the instruction's rounding, uncounted. -/
def litLF (t : FFmt) (r : Rnd) (x : Word) : Nat := (packF t r false (decodeF f32Fmt x.toNat)).1

/-- A lane with a 32-bit or 64-bit result in its destination; the pair's tag is cleared (R133). -/
def View.put (v : View) (wide : Bool) (d : BitVec 9) (x : Nat) : Lane :=
  if wide then v.l.setPair v.g.nregs d.toNat (BitVec.ofNat 64 x)
  else v.l.setReg v.g.nregs d.toNat (BitVec.ofNat 32 x)

/-- The old value of a destination that is also read (R131). -/
def View.old (v : View) (wide : Bool) (d : BitVec 9) : Nat :=
  if wide then (v.l.pair v.g.nregs d.toNat).toNat else (v.l.reg v.g.nregs d.toNat).toNat

/-! ## Registers a word names (R101) -/

def srcUse (wide : Bool) : Src → List Nat
  | .v r => if wide then [r.toNat, r.toNat + 1] else [r.toNat]
  | _ => []

def regUse (wide : Bool) (d : BitVec 9) : List Nat := if wide then [d.toNat, d.toNat + 1] else [d.toNat]

def baseUse : Base → List Nat
  | .v r => [r.toNat, r.toNat + 1]
  | .s _ => []

/-! ## The frame of a word that works lane by lane -/

/-- Runs a lane-by-lane word: in every active lane whose predicate is true the lane becomes what `k` gives, with the
events counted; every source is read before anything is written (R131). -/
def eachLane (g : Guard) (k : View → Nat → Lane × Events) (s : State) (f : Focus) : Eff :=
  let ls := s.acting f g
  let out := ls.map (fun i => (i, k (s.view f i) i))
  let s1 := s.onLanes f ls (fun i l => match out.lookup i with | some x => x.1 | none => l)
  .ok (s1.tally f (out.flatMap (fun x => x.2.2))) []

/-- A word that works lane by lane. -/
def runLanes (g : Guard) (use : List Nat) (s : State) (k : View → Nat → Lane × Events) :
    Host.Outcome State Fault Refusal :=
  runWord s use (eachLane g k)

/-- The lowest active lane whose predicate is true (R132). -/
def lowestActing (s : State) (f : Focus) (g : Guard) : Option Nat := (s.acting f g).head?

/-- A word whose scalar destination takes the value of the lowest acting lane (R132). -/
def runScalar (g : Guard) (use : List Nat) (s : State) (wide : Bool) (d : BitVec 9) (val : State → View → Nat → DWord) :
    Host.Outcome State Fault Refusal :=
  runWord s use (fun s f =>
    match lowestActing s f g with
    | none => .ok s []
    | some i =>
      let x := val s (s.view f i) i
      .ok (s.onGroup f (fun gr =>
        if wide then gr.setSPair d.toNat x else gr.setS d.toNat (x.setWidth 32))) [])

end Machine
end Sys2Proof
end

