-- ==== Sys2Proof/Machine/Route.lean ====
section
/-!
DEFINITION. Routing at the source: queue depths, route health and the choice between the minimal route and one through an
intermediate (22_link.md R432, R434).
-/

set_option linter.unusedVariables false

namespace Sys2Proof.Machine

/-- Is the link healthy (R420)? -/
def Link.healthy (l : Link) : Bool := l.st == .up || l.st == .half

/-- Is the link of a device healthy, as the router's table has it? -/
def State.hopHealthy (s : State) (dev link : Nat) : Bool :=
  !s.mgmt.unhealthy.contains (dev, link) && (dev != s.devNum || (s.link link).healthy)

def routeHealthy (s : State) (p : Nat) (r : Route) : Bool :=
  s.hopHealthy p r.first && (match r.via with | some m => s.hopHealthy m r.second | none => true)

def Route.hops (r : Route) : Nat := if r.via.isNone then 1 else 2

/-- The link that a packet takes first. -/
def State.firstLink (s : State) (p : Packet) : Nat := (minimalRoute s.devNum (p.via.getD p.dst)).first

/-- Does the packet stand at a link that is not healthy? A void marker is not held (log 32). -/
def State.stuck (s : State) (p : Packet) : Bool := !p.void && p.dst != s.devNum && !(s.link (s.firstLink p)).healthy

/-- The flits of a packet: a header, and what it carries in 64-byte flits (R418). -/
def Packet.flits (p : Packet) : Nat := 1 + (if p.kind = .load || p.void then 0 else (p.len + 63) / 64)

/-- The output queue of a link in flits: the packets that have left over it and are not acknowledged (log 31). -/
def State.depth (s : State) (n : Nat) : Nat :=
  if n < 48 then ((s.packets.filter (fun p => p.dst != s.devNum && s.firstLink p == n)).map Packet.flits).sum
  else ((s.link n).outbound.map (fun h => 1 + h.units)).sum

/-- Flits enter a link, each with the next link sequence number (R418). -/
def Link.putFlits (what : FlitOf) : Nat → Link → Link
  | 0, l => l
  | n + 1, l => Link.putFlits what n { l with flits := l.flits ++ [{ seq := l.txSeq, what := what }], txSeq := (l.txSeq + 1) % 2 ^ 32 }

/-- The flits of a packet, a request or an answer are acknowledged, or gone with it. -/
def Link.dropFlits (what : FlitOf) (l : Link) : Link := { l with flits := l.flits.filter (fun f => f.what != what) }

/-- No link has flits of it any more. -/
def State.dropFlits (s : State) (what : FlitOf) : State :=
  { s with links := s.links.map (fun (e : Nat × Link) => (e.1, if e.2.flits.any (fun f => f.what == what) then e.2.dropFlits what else e.2)) }

/-- A world's key of a link, established unless it has one; a retired one is established again (23_world.md R447). -/
def Link.keyed (w : Nat) (l : Link) : Link :=
  { l with keys := if (Tbl.at l.keys w).isSome then l.keys else Tbl.put l.keys w (0, 0), retired := without w l.retired }

/-- The secured session between two devices' Levains gives a world its keys on every fabric link by which packets between them may leave
or come in: those of any route through an intermediate (23_world.md R446; log 116). -/
def State.keyFabric (s : State) (w : Nat) : State := (List.range 48).foldl (fun s n => s.modLink n (Link.keyed w)) s

/-- The packets of a flow that are not acknowledged: never more than 2^20 (R433). -/
def State.flowRoom (s : State) (dst world : Nat) : Bool :=
  decide ((s.packets.filter (fun p => p.dst == dst && p.world == world)).length < 2 ^ 20)

/-- The devices that may be drawn as the intermediate of a packet. -/
def State.intermediates (s : State) (dst : Nat) : List Nat :=
  ((List.range 2257).map (· + 1)).filter (fun i => i != s.devNum && i != dst &&
    routeHealthy s s.devNum (minimalRoute s.devNum i) && routeHealthy s i (minimalRoute i dst))

/-- A draw of an intermediate (log 16). -/
def State.drawVia (s : State) (dst : Nat) : Option Nat × State :=
  let (n, t) := s.draw
  let l := s.intermediates dst
  (l[Config.intermediate n % l.length]?, t)

/-- R432: minimal, unless a hop of the minimal route is unhealthy or its queue is much longer. -/
def State.chooseVia (s : State) (dst : Nat) : Option Nat × State :=
  if dst = s.devNum then (none, s)
  else
    match s.drawVia dst with
    | (none, t) => (none, t)
    | (some i, t) =>
      let r := minimalRoute s.devNum dst
      let a := minimalRoute s.devNum i
      let long := (s.depth a.first) * (a.hops + (minimalRoute i dst).hops)
      (if routeHealthy s s.devNum r && decide (s.depth r.first * r.hops ≤ long + 64) then none else some i, t)

end Sys2Proof.Machine
end

