-- ==== Sys2Proof/Machine/Access.lean ====
section
/-!
DEFINITION. Memory words: what a thread's accesses wait for, the checks of one word over its lanes, and the requests they
make (10_memory.md R211 to R228, R245, 13_ordering.md R255 to R258, 08_name.md R173, R174).
-/

set_option linter.unusedVariables false

namespace Sys2Proof.Machine

/-! ## Outstanding work (R243) -/

def State.outstanding (s : State) (ids : List Nat) : List Nat := ids.filter (fun i => (s.req? i).isSome)

/-- The requests of a thread that have no reply yet. -/
def State.laneReqs (s : State) (b g l : Nat) : List Req :=
  s.reqs.filter (fun r => r.blk == b && r.grp == g && r.lane == l)

def Req.ofGroup (b g : Nat) (r : Req) : Bool := r.blk == b && r.grp == g

/-- The applied vector of the die of a block. -/
def State.appliedOf (s : State) (b : Nat) : VecD := (s.die (dieOfCore (s.block b).core)).applied

/-! ## What a later access waits for (R257) -/

/-- What an acquire of the lane waits to see applied: D, and what the scratchpad writes that it has read depend on. -/
def Lane.seen (l : Lane) : VecD := l.D.max l.spD

/-- What a release of the lane orders before it: D, joined by what an acquire before it still waits to see applied, so that the order is
passed on (26_ordering_table.md R466; log 99). -/
def Lane.known (l : Lane) : VecD := if l.order.cover then l.seen else l.D

/-- The wait of an access of a lane, if it may not leave yet: acquires and fences before it, for a load also the stores
of a `fence.all`, for a scratchpad access its earlier remote scratchpad accesses, and for a scratchpad write what a
`fence.rel` or a release names. -/
def State.gate (s : State) (f : Focus) (i : Nat) (ld wr rel : Bool) (sp : Space) : Option Wait :=
  let o := (s.flane f i).order
  let a := s.appliedOf f.blk
  let all := s.outstanding o.all
  let loads := s.outstanding o.loads
  let mine := s.laneReqs f.blk f.grp i
  let rsp := (mine.filter (fun r => match r.place with | .rsp _ _ => true | _ => false)).map Req.id
  let early := if rel then mine.map Req.id else s.outstanding o.writes
  if !all.isEmpty then some (.reqs all)
  else if o.cover && !a.covers (s.flane f i).seen then some .cover
  else if ld && !loads.isEmpty then some (.reqs loads)
  else if ld && !a.covers o.loadCover then some .cover
  else if sp == .sp && !rsp.isEmpty then some (.reqs rsp)
  else if sp == .sp && wr && !early.isEmpty then some (.reqs early)
  else none

/-- An access of the lane has passed its gate; an acquire that it waited for joins what the scratchpad writes read depend on to
D (log 99). -/
def Lane.passGate (l : Lane) (ld : Bool) : Lane :=
  { l with D := l.known
           order := { l.order with all := [], cover := false,
                                   loads := if ld then [] else l.order.loads,
                                   loadCover := if ld then {} else l.order.loadCover } }

/-! ## Checks (R245) -/

/-- What an agent caches of the translation it used (08_name.md R172, 09_page.md R198). -/
inductive Seen where
  | nothing
  | page (t : TlbEntry)
  | slot (idx : Nat)
  deriving DecidableEq, Repr

/-- The core's translation and slot caches take it in; the slot cache holds 64 entries (01_device.md R10), and a full one drops the
entry used least recently: DESIGN CHOICE (log 119). -/
def State.see (s : State) (core ctx : Nat) (t : Seen) : State :=
  match t with
  | .nothing => s
  | .page t => s.modCore core (fun x => { x with tlb := addTlb (some t) x.tlb })
  | .slot i => s.modCore core (fun x =>
      { x with slotCache := ((ctx, i) :: x.slotCache.filter (fun k => k != (ctx, i))).take 64 })

/-- What the checks of one lane's access find: a place, a failed check with its rank in the order, or a page to fill. -/
inductive Chk where
  | ok (p : Place) (t : Seen)
  | const (a : Nat)
  | bad (rank : Nat) (t : Trap)
  | fill (p : PageFill) (kind : AccKind) (addr : DWord)
  deriving DecidableEq, Repr

/-- The ranks of the checks in the order of R245; the four window checks of R173 stand in their own order. -/
def rankAlign : Nat := 20
def rankBounds : Nat := 30
def rankTag : Nat := 40
def rankStale : Nat := 41
def rankWindowBounds : Nat := 42
def rankRight : Nat := 43
def rankTranslate : Nat := 50
def rankLock : Nat := 60

/-- A base: its value, its tag and the even register that names it; a scalar base has no tag. -/
structure BaseVal where
  val : DWord
  tag : Bool
  named : Nat
  deriving DecidableEq, Repr

def View.base (v : View) : Base → BaseVal
  | .v r => ⟨v.l.pair v.g.nregs r.toNat, v.l.tag v.g.nregs r.toNat, r.toNat⟩
  | .s r => ⟨v.g.spair r.toNat, false, 0⟩

/-- The address, in 64 bits, of an exact sum. -/
def addrBits (x : Int) : DWord := BitVec.ofInt 64 x

def ptrColour (p : DWord) : Nat := (p.extractLsb' 52 8).toNat
def ptrSlot (p : DWord) : Nat := (p.extractLsb' 32 20).toNat
def ptrOffset (p : DWord) : Nat := (p.extractLsb' 0 32).toNat

/-- The entry of a slot (08_name.md R170). -/
def Context.slot (c : Context) (n : Nat) : Slot := (Tbl.at c.slots n).getD {}

/-- Where a slot's storage lies (R174). -/
def Slot.place (x : Slot) (off : Nat) : Place :=
  if x.state = 4 then
    (if isDevice x.home then .dev x.home (x.storage + off) else .tray x.home (x.storage + off))
  else .mem (x.storage + off)

/-- The window checks of R173 for `len` bytes at a pointer plus an exact offset. -/
def checkWindow (c : Context) (b : BaseVal) (off : Int) (len : Nat) (needs : List Need) (kind : AccKind)
    (addr : DWord) : Chk :=
  let x := c.slot (ptrSlot b.val)
  let o : Int := (ptrOffset b.val : Int) + off
  let t : Trap := { cause := 3, sub := 3, kind := kind, named := b.named, addr := addr }
  if !b.tag then .bad rankTag t
  else if ptrColour b.val != x.colour || x.state == 6 then .bad rankStale { t with cause := 4, sub := 0 }
  else if o < 0 || (x.size : Int) < o + (len : Int) then .bad rankWindowBounds { t with cause := 5, sub := 0 }
  else if needs.any (fun n => !granted x.r x.w x.x n) then .bad rankRight { t with sub := 5 }
  else .ok (x.place o.toNat) (.slot (ptrSlot b.val))

/-- Translation of an address with every right it needs. -/
def checkPage (s : State) (core ctx va : Nat) (needs : List Need) (kind : AccKind) (addr : DWord) : Chk :=
  needs.foldr (fun n (r : Chk) =>
    match translate s.mem (s.core core).tlb ctx (s.ctx ctx) va n with
    | .fault sub => .bad rankTranslate { cause := 8, sub := sub, kind := kind, addr := addr }
    | .fill p => .fill p kind addr
    | .at p t => match r with
        | .ok _ _ => .ok p (match t with | some t => .page t | none => .nothing)
        | e => e) (.ok (.mem 0) .nothing)

/-- R221: does an access of the core meet a registered range? -/
def State.lockHit (s : State) (core ctx : Nat) (spBlk : Option Nat) (lo len : Nat) (stLike : Bool) : Bool :=
  (s.core core).locks.any (fun k => k.spBlk == spBlk && (spBlk.isSome || k.ctx == ctx) && (k.dest || stLike) &&
    decide (lo < k.lo + k.len) && decide (k.lo < lo + len))

def rangeTrap (kind : AccKind) (addr : DWord) : Trap := { cause := 6, kind := kind, addr := addr }

/-- The range-lock check, last of all (R245). -/
def withLocks (s : State) (core ctx : Nat) (spBlk : Option Nat) (lo len : Nat) (stLike : Bool) (kind : AccKind)
    (addr : DWord) (c : Chk) : Chk :=
  match c with
  | .ok p t => if s.lockHit core ctx spBlk lo len stLike then .bad rankLock (rangeTrap kind addr) else .ok p t
  | c => c

/-- Is the address, or the base it is formed from, in the object window (08_name.md R169)? -/
def windowed (b : BaseVal) (off : Int) : Bool :=
  inWindow b.val.toNat || inWindow (addrBits ((b.val.toNat : Int) + off)).toNat

/-- The checks of a `.gl` access of `size` bytes, aligned to `align` (1 for the words that never check it). -/
def checkGl (s : State) (core ctx : Nat) (b : BaseVal) (off : Int) (align size : Nat) (needs : List Need)
    (kind : AccKind) (stLike : Bool) : Chk :=
  let x : Int := (b.val.toNat : Int) + off
  let addr := addrBits x
  if addr.toNat % align != 0 then .bad rankAlign { cause := 11, kind := kind, addr := addr }
  else
    withLocks s core ctx none addr.toNat size stLike kind addr
      (if windowed b off then checkWindow (s.ctx ctx) b off size needs kind addr
       else if x < 0 || 2 ^ 64 ≤ x then .bad rankTranslate { cause := 8, sub := 3, kind := kind, addr := addr }
       else checkPage s core ctx addr.toNat needs kind addr)

/-- R213: a scratchpad address of a block. -/
def checkSp (s : State) (blk : Nat) (x : Int) (align size : Nat) (kind : AccKind) (stLike : Bool) : Chk :=
  let b := s.block blk
  let addr := addrBits x
  if addr.toNat % align != 0 then .bad rankAlign { cause := 11, kind := kind, addr := addr }
  else if x < 0 || 2 ^ 32 ≤ x || b.scratch * 16384 ≤ addr.toNat then
    .bad rankBounds { cause := 5, kind := kind, addr := addr }
  else withLocks s b.core b.ctx (some blk) addr.toNat size stLike kind addr (.ok (.rsp blk addr.toNat) .nothing)

/-- R214: the block of a rank of the cluster. -/
def State.rankBlock (s : State) (blk rank : Nat) : Option Nat :=
  let b := s.block blk
  let c := (s.blockKern b).cluster
  if c ≤ rank then none
  else ((s.blocks.find? (fun e => e.2.inst == b.inst && e.2.index == b.index / c * c + rank)).map Prod.fst)

def checkRsp (s : State) (blk : Nat) (x : Int) (align size : Nat) (kind : AccKind) (stLike : Bool) : Chk :=
  let addr := addrBits x
  let off := addr.toNat % 2 ^ 32
  let out : Trap := { cause := 5, kind := kind, addr := addr }
  if addr.toNat % align != 0 then .bad rankAlign { cause := 11, kind := kind, addr := addr }
  else if x < 0 || 2 ^ 34 ≤ x then .bad rankBounds out
  else
    match s.rankBlock blk (addr.toNat / 2 ^ 32) with
    | none => .bad rankBounds out
    | some t =>
      if (s.block t).scratch * 16384 ≤ off then .bad rankBounds out
      else withLocks s (s.block blk).core (s.block blk).ctx (some t) off size stLike kind addr (.ok (.rsp t off) .nothing)

/-- R215. -/
def checkConst (x : Int) (align : Nat) (kind : AccKind) : Chk :=
  let addr := addrBits x
  if addr.toNat % align != 0 then .bad rankAlign { cause := 11, kind := kind, addr := addr }
  else if x < 0 || 2048 ≤ x then .bad rankBounds { cause := 5, kind := kind, addr := addr }
  else .const addr.toNat

/-- The exact address offset of a format-M word (R226). -/
def scaled (off : BitVec 14) (scale : Nat) : Int := off.toInt * (scale : Int)

/-- The checks of one lane of a format-M word. -/
def checkM (m : MForm) (off : Int) (size : Nat) (needs : List Need) (kind : AccKind) (stLike : Bool) (s : State)
    (f : Focus) (i : Nat) : Chk :=
  let b := (s.view f i).base m.base
  let blk := s.fblock f
  let x : Int := (b.val.toNat : Int) + off
  match m.space with
  | .gl => checkGl s blk.core blk.ctx b off size size needs kind stLike
  | .sp => checkSp s f.blk x size size kind stLike
  | .rsp => checkRsp s f.blk x size size kind stLike
  | .const => checkConst x size kind

/-- The trap of the first check in the order that any lane fails: its lanes are those that fail that check, and it
records what the lowest of them met (R245). -/
def firstBad (cs : List (Nat × Chk)) : Option Trap :=
  let ranks := cs.filterMap (fun c => match c.2 with | .bad r _ => some r | _ => none)
  match ranks.min? with
  | none => none
  | some r =>
    let hit := cs.filterMap (fun c => match c.2 with | .bad q t => if q == r then some (c.1, t) else none | _ => none)
    match hit with
    | [] => none
    | (_, t) :: _ => some { t with lanes := hit.map Prod.fst }

/-- R377: the trap of an external effect inside an idempotent region. -/
def idemTrap (ls : List Nat) : Trap := { cause := 7, sub := 1, lanes := ls }

/-- The host link, 64 to 71, over which a place is reached: that of its page, or for a tray's object store the one whose table
entry names the tray (22_link.md R421, R422). -/
def State.hostLinkOf (s : State) (p : Place) : Option Nat :=
  match p with
  | .host k _ => some (64 + k)
  | .tray d _ => ((List.range 8).find? (fun h => (Cells.get s.mgmt.trayTable h).toNat == d)).map (64 + ·)
  | _ => none

/-- Is the place reached over a host link? -/
def Place.hosted : Place → Bool
  | .host _ _ | .tray _ _ => true
  | _ => false

/-- The window of the place's host link has room for `n` more units of 64 bytes (R424). -/
def State.unitRoom (s : State) (p : Place) (n : Nat) : Bool :=
  match s.hostLinkOf p with
  | some k => decide (((s.link k).outbound.map HostReq.units).sum + n ≤ 16384)
  | none => true

/-- The window of the place's host link has room for a request of 64 bytes or less. -/
def State.windowRoom (s : State) (p : Place) : Bool := s.unitRoom p 1

/-- Is the place behind a host link that is not healthy (22_link.md R421)? -/
def State.cutOff (s : State) (p : Place) : Bool :=
  p.hosted && !((s.hostLinkOf p).any (fun k => (s.link k).healthy))

/-- The frame of a word that accesses memory in each lane: lanes whose earlier accesses hold them back wait; then every
check is made over the lanes; lanes that need a page filled wait, and the others act in ascending order. -/
def memWord (g : Guard) (ext : Bool) (gate : State → Focus → Nat → Option Wait)
    (chk : State → Focus → Nat → Chk) (go : Focus → State → Nat → Chk → State × Option Next)
    (s : State) (f : Focus) : Eff :=
  let ls := s.acting f g
  if ls.isEmpty then .ok s []
  else if ext && (s.fgroup f).region.isSome then .trap (idemTrap ls)
  else
    let gated := ls.filterMap (fun i => (gate s f i).map (fun w => (i, Next.wait w)))
    let now := ls.filter (fun i => (gate s f i).isNone)
    let cs := now.map (fun i => (i, chk s f i))
    match firstBad cs with
    | some t => .trap t
    | none =>
      cs.foldl (fun (e : Eff) c =>
        match e with
        | .ok s nx =>
          (match c.2 with
           | .fill p kind addr => .ok (s.askFill p) (nx ++ [(c.1, .wait (.page p.ctx p.page kind addr))])
           | .ok p t =>
             if !s.windowRoom p then .ok s (nx ++ [(c.1, .wait .room)])
             else
               let s := s.see (s.fblock f).core (s.fctx f) t
               let (s, n) := go f s c.1 c.2
               .ok s (nx ++ (match n with | some n => [(c.1, n)] | none => []))
           | _ =>
             let (s, n) := go f s c.1 c.2
             .ok s (nx ++ (match n with | some n => [(c.1, n)] | none => [])))
        | e => e) (.ok s gated)

/-! ## Making a request -/

/-- Identity of a word: its cycle, core and scheduler, and its slot (R106). -/
def State.cycleWord (s : State) (f : Focus) : Nat :=
  2 * ((s.clock * 256 + (s.fblock f).core) * 4 + (s.fgroup f).sched) + (if f.second then 1 else 0)

/-- A request of a lane, with nothing special about it. -/
def State.blankReq (s : State) (f : Focus) (i : Nat) (kind : ReqKind) (p : Place) (size : Nat) (ty : Ty) : Req :=
  let b := s.fblock f
  { id := s.nextId, kind := kind, ctx := b.ctx, world := (s.ctx b.ctx).world, core := b.core, blk := f.blk,
    grp := f.grp, lane := i, inst := b.inst, wordId := s.cycleWord f, place := p, size := size, ty := ty,
    data := 0, cmp := 0, scope := .dev, ord := .rlx, atHome := true, dest := .none, isLd := false, after := [],
    vec := (s.flane f i).D, stage := 2, performed := false, reply := 0, tag := false, raises := {}, lost := false,
    due := s.clock + Config.requestDelay (s.cycleWord f) }

def isAcq : Order → Bool
  | .acq | .ar => true
  | _ => false
def isRel : Order → Bool
  | .rel | .ar => true
  | _ => false

/-- What a write of the lane waits for before it leaves (R228, R236). -/
def State.before (s : State) (f : Focus) (i : Nat) (rel : Bool) : List Nat :=
  if rel then (s.laneReqs f.blk f.grp i).map Req.id else s.outstanding (s.flane f i).order.writes

/-- The next sequence number of a flow (22_link.md R433). -/
def State.takeSeq (s : State) (dst world : Nat) : Nat × State :=
  match s.flows.find? (fun f => f.dst == dst && f.world == world) with
  | some f => (f.next, { s with flows := s.flows.map (fun (g : Flow) =>
      if g.dst == dst && g.world == world then { g with next := (g.next + 1) % 2 ^ 32 } else g) })
  | none => (0, { s with flows := s.flows ++ [{ dst := dst, world := world, next := 1 }] })

/-- A packet counts under the key of its link and world (R446). -/
def Link.sentUnder (world : Nat) (l : Link) : Link := { l with keys := Tbl.upd l.keys world (fun k => (k.1 + 1, k.2)) }

/-- The packet goes onto its first link. -/
def State.ontoLink (s : State) (p : Packet) : State :=
  if p.dst = s.devNum then s
  else s.modLink (s.firstLink p) (fun l => (l.sentUnder p.world).putFlits (.packet p.id) p.flits)

/-- A packet enters its flow, on the route that its source chooses (R432, R433). Its identity is the next one. -/
def State.addPacket (s : State) (p : Packet) : State :=
  let (n, s) := s.takeSeq p.dst p.world
  let (via, s) := s.chooseVia p.dst
  let p := { p with id := s.nextId, seq := n, via := via }
  let s := s.ontoLink p
  { s with packets := s.packets ++ [p], nextId := s.nextId + 1 }

/-- Does the request carry its data on the way out? -/
def ReqKind.sends : ReqKind → Bool
  | .load | .cwb => false
  | _ => true

/-- A request for another device becomes a packet of its flow; one for a host tray takes its units of the link's window,
or is lost at once while the link is not healthy (R421, R424). -/
def State.launchReq (s : State) (r : Req) : State :=
  match r.place with
  | .dev n a =>
    s.addPacket { id := 0, dst := n, world := r.world, seq := 0, cmd := none, req := some r.id, kind := r.kind, addr := a,
                  bytes := [], len := r.size, arrival := 0, via := none, returns := 0, void := false }
  | .host _ _ | .tray _ _ =>
    match (s.hostLinkOf r.place).filter (fun k => (s.link k).healthy) with
    | some k =>
      let units := (r.size + 63) / 64
      s.modLink k (fun l =>
        let l := (l.sentUnder r.world).putFlits (.request r.id) (1 + if r.kind.sends then units else 0)
        { l with outbound := l.outbound ++ [{ tag := l.nextTag, units := units, req := r.id }],
                 nextTag := (l.nextTag + 1) % 2 ^ 14 })
    | none => { s with reqs := s.reqs.map (fun (q : Req) => if q.id == r.id then { q with performed := true, lost := true } else q) }
  | _ => s

/-- Is an earlier request performed before this one: same thread or word and a common byte (R106, R216), the first slot's word
before the second's of the same cycle (R106), the thread's remote scratchpad accesses (R214), a thread's accesses to one line over a
host link (22_link.md R425)? -/
def Req.follows (r q : Req) : Bool :=
  let sameLane := q.blk == r.blk && q.grp == r.grp && q.lane == r.lane
  let sameWord := q.core == r.core && q.wordId == r.wordId
  let line := fun (a b : Nat) => a / 64 == b / 64
  decide (q.id < r.id) && !q.performed &&
    (((sameLane || sameWord) && q.place.meets q.size r.place r.size) || (q.wordId % 2 == 0 && q.wordId + 1 == r.wordId) ||
     (match q.place, r.place with
      | .rsp _ _, .rsp _ _ => sameLane
      | .host k a, .host l b => sameLane && k == l && line a b
      | .tray x a, .tray y b => sameLane && x == y && line a b
      | _, _ => false))

/-- Has a request for a remote place left this device? -/
def State.launched (s : State) (r : Req) : Bool :=
  r.performed || s.packets.any (fun p => p.req == some r.id || p.leaves.any (fun l => !l.cmd && l.tag == r.id)) ||
  (List.range 8).any (fun h => (s.link (64 + h)).outbound.any (fun o => o.req == r.id))

/-- May a request leave this device now: nothing that it comes after stays behind, and its flow or its link's window has room
(R424, R433)? -/
def State.mayLaunch (s : State) (r : Req) : Bool :=
  r.place.remote && r.stage == 2 && r.after.isEmpty && !s.launched r &&
  (match r.place with
   | .dev n _ => s.flowRoom n r.world
   | p => s.unitRoom p ((r.size + 63) / 64)) &&
  !s.reqs.any (fun q => r.follows q && q.place.remote && !s.launched q)

/-- Requests that have waited leave, the oldest first. -/
def State.launchWaiting (s : State) : State :=
  s.reqs.foldl (fun s r => if s.mayLaunch r then s.launchReq r else s) s

/-- The request leaves, or waits to: it joins the requests in flight; its registers are marked; an acquire holds back
the lane's later accesses. -/
def State.send (s : State) (f : Focus) (r : Req) : State :=
  let n := (s.fgroup f).nregs
  let s := { s with reqs := s.reqs ++ [r], nextId := s.nextId + 1 }
  let s := if s.mayLaunch r then s.launchReq r else s
  s.modLane f.blk f.grp r.lane (fun l =>
    { l with
      pend := (r.dest.named.map (regIx n)).foldl (fun p x => insertNat x p) l.pend
      order := if isAcq r.ord then { l.order with all := l.order.all ++ [r.id], cover := true } else l.order })

/-! ## When a request is performed -/

/-- A packet that holds back no later one: it is void, or its request is performed. -/
def State.packetOver (s : State) (q : Packet) : Bool :=
  q.void || (match q.req with
    | some id => (s.req? id).all Req.performed
    | none => false)

/-- Are the packet's addresses those of a command's peer? -/
def Packet.ofCmd (p : Packet) : Bool := p.cmd.isSome || p.leaves.any Leaf.cmd

/-- A packet may be performed: earlier packets of its flow to the same line, and for one with an arrival the rest of its
message, are performed (22_link.md R433). -/
def State.packetTurn (s : State) (p : Packet) : Bool :=
  let last := fun (q : Packet) => (q.addr + Nat.max q.len 1 - 1) / 64
  let lines := fun (q : Packet) => q.ofCmd == p.ofCmd && decide (q.addr / 64 ≤ last p) && decide (p.addr / 64 ≤ last q)
  !s.packets.any (fun q => decide (q.id < p.id) && q.dst == p.dst && q.world == p.world && !s.packetOver q &&
    (lines q || (q.cmd.isSome && q.cmd == p.cmd && q.msg == p.msg && p.arrival.getLsbD 31)))

def State.free (s : State) (r : Req) : Bool :=
  !r.performed && r.after.isEmpty && r.stage == 2 && !s.reqs.any (fun q => r.follows q)

/-- May the load read its die's replica (R216, R254)? An acquire at `.sys` has its value from the home (R228). -/
def Req.replicable (r : Req) : Bool :=
  match r.place with
  | .mem pa => r.kind == .load && !r.atHome && !(isAcq r.ord && r.scope == .sys) && dieOfAddr pa != dieOfCore r.core
  | _ => false

/-- The holder of a line, if one holds it (R219). -/
def State.heldLine (s : State) (line : Nat) : Option Held := s.held.find? (fun h => h.line == line)

def State.isHeld (s : State) (p : Place) : Bool := p.line?.any (fun l => (s.heldLine l).isSome)

/-! ## Replies -/

/-- A `fence.all`'s stores: when the last of them is acknowledged, the homes are sampled (R257). -/
def ackOrder (s : State) (id : Nat) (l : Lane) : Lane :=
  if l.order.loads.contains id then
    let rest := without id l.order.loads
    { l with order := { l.order with loads := rest,
                                     sample := l.order.sample && !rest.isEmpty,
                                     loadCover := if rest.isEmpty && l.order.sample then s.seqs else l.order.loadCover } }
  else l

def dropAfter (id : Nat) (m : TrigMark) : TrigMark :=
  match m with
  | .releasing a ls => .releasing (without id a) ls
  | m => m

/-- The commands of the copy engines. -/
def State.cmd? (s : State) (id : Nat) : Option CopyCmd := s.dies.findSome? (fun e => e.2.copyQ.find? (fun c => c.id == id))

def State.updCmd (s : State) (id : Nat) (k : CopyCmd → CopyCmd) : State :=
  { s with dies := s.dies.map (fun (e : Nat × Die) =>
      (e.1, { e.2 with copyQ := e.2.copyQ.map (fun (c : CopyCmd) => if c.id == id then k c else c) })) }

/-- The command that a packet or a constituent of that identity belongs to. -/
def State.cmdOf (s : State) (tag : Nat) : Option CopyCmd :=
  s.dies.findSome? (fun e => e.2.copyQ.find? (fun c => c.packets.contains tag))

/-- A packet of a command takes its place in its flow, and its command knows it by its identity there. -/
def State.enterPacket (s : State) (p : Packet) : State :=
  let id := s.nextId
  let s := s.addPacket p
  match p.cmd with
  | some c => s.updCmd c (fun c => { c with packets := c.packets.map (fun i => if i = p.id then id else i) })
  | none => s

/-- Packets that wait for room in their flow enter it in order, as far as there is room (22_link.md R433). -/
def State.fillFlows (s : State) : State :=
  s.queued.foldl (fun (s : State) p =>
    if s.flowRoom p.dst p.world then { s with queued := s.queued.filter (fun q => q.id != p.id) }.enterPacket p else s) s

/-- The packet of a request, or its units of a host link's window, are free again. -/
def State.acked (s : State) (r : Req) : State :=
  if !r.place.remote then s
  else
    let s := (s.packets.filter (fun p => p.req == some r.id)).foldl (fun s p => s.dropFlits (.packet p.id)) s
    { s with packets := s.packets.filter (fun p => p.req != some r.id)
             links := s.links.map (fun (e : Nat × Link) => (e.1, if e.2.outbound.any (fun h => h.req == r.id) then
               { e.2.dropFlits (.request r.id) with outbound := e.2.outbound.filter (fun h => h.req != r.id) } else e.2)) }.fillFlows

/-- A command that waits for a request no longer waits for it; one that a release orders goes with D as it stands when the last
of them is acknowledged (R257, R259). -/
def State.released (s : State) (id : Nat) (c : CopyCmd) : CopyCmd :=
  if c.after.contains id then
    let rest := without id c.after
    { c with after := rest, vec := match c.owner with
        | some (b, g, l) => if c.rel && rest.isEmpty then c.vec.max (s.lane b g l).D else c.vec
        | none => c.vec }
  else c

def State.releasedTile (s : State) (id : Nat) (c : TileCmd) : TileCmd :=
  if c.after.contains id then
    let rest := without id c.after
    { c with after := rest, vec := if c.rel && rest.isEmpty then c.vec.max (s.lane c.blk c.grp c.lane).D else c.vec }
  else c

/-- A request is over: it is gone, and what waited for it goes on. A request that it held back leaves with D as it then
stands; a `fence.all` samples the homes once its last store is acknowledged (R257). -/
def State.complete (s : State) (r : Req) : State :=
  let s := s.acked r
  let s := { s with reqs := s.reqs.filter (fun q => q.id != r.id) }
  let s := { s with reqs := s.reqs.map (fun (q : Req) =>
    if q.after.contains r.id then
      let rest := without r.id q.after
      { q with after := rest, vec := if rest.isEmpty then (s.lane q.blk q.grp q.lane).D else q.vec,
               due := s.clock + Config.requestDelay q.wordId }
    else q) }
  let s := s.modGroup r.blk r.grp (fun g => { g with lanes := g.lanes.map (ackOrder s r.id) })
  { s with
    blocks := s.blocks.map (fun (e : Nat × Block) => (e.1, { e.2 with mark := dropAfter r.id e.2.mark,
                                                                      savedCmds := e.2.savedCmds.map (s.releasedTile r.id) }))
    dies := s.dies.map (fun (e : Nat × Die) =>
      (e.1, { e.2 with copyQ := e.2.copyQ.map (fun (c : CopyCmd) => s.released r.id c) }))
    cores := s.cores.map (fun (e : Nat × Core) =>
      (e.1, { e.2 with tileQ := e.2.tileQ.map (fun (c : TileCmd) => s.releasedTile r.id c) })) }

/-- The low `size` bytes of a reply as the type widens them to a register or pair (R226). -/
def widen (ty : Ty) (x : Nat) : Nat :=
  match Num.of ty with
  | .int sg w => if ty.wide then x % 2 ^ 64 else (extend32 sg w x).toNat
  | n => x % 2 ^ n.width

/-- Registers from a wide value, 32 bits each. -/
def regsOf (x : BitVec 512) (n : Nat) : List Word := (List.range n).map (fun i => x.extractLsb' (32 * i) 32)

/-- A value reaches its destination, a register by its index modulo the register count of that moment: DESIGN CHOICE where `rgrow` or
`rshrink` has changed the count since the load was issued (log 109). An exited lane takes none (05_group.md R116). -/
def State.deliver (s : State) (r : Req) (x : BitVec 512) (tag : Bool) : State :=
  let onLane := fun (k : Nat → Lane → Lane) =>
    s.modGroup r.blk r.grp (fun g => g.modLane r.lane (fun l =>
      if l.st == .exited then l
      else
        let l := k g.nregs l
        { l with pend := (r.dest.named.map (regIx g.nregs)).foldl (fun p y => without y p) l.pend }))
  match r.dest with
  | .none => s
  | .reg d ty => onLane (fun n l =>
      let y := widen ty x.toNat
      if ty.wide then l.setPair n d (BitVec.ofNat 64 y) else l.setReg n d (BitVec.ofNat 32 y))
  | .regs d k => onLane (fun n l => l.setRegs n d (regsOf x k))
  | .granule => onLane (fun _ l => { l with gran := some ⟨x.extractLsb' 0 128, tag⟩ })
  | .hyper h k => s.modGroup r.blk r.grp (fun g =>
      let old := Cells.get g.h h
      let keep := old &&& ~~~(BitVec.ofNat 8192 (2 ^ 128 - 1) <<< (128 * k))
      let more := s.reqs.any (fun q => q.id != r.id && q.ofGroup r.blk r.grp &&
        (match q.dest with | .hyper j _ => j == h | _ => false))
      { g with h := Cells.set g.h h (keep ||| ((x.extractLsb' 0 128).setWidth 8192 <<< (128 * k))),
               hpend := if more then g.hpend else without h g.hpend })
  | .scalar d k => s.modGroup r.blk r.grp (fun g => if k = 2 then g.setSPair d (x.extractLsb' 0 64) else g.setS d (x.extractLsb' 0 32))

/-- A reply reaches the core: the value is delivered, D is raised, and the request is over. At `.sys`, and from a remote
place, an acquire raises D to the numbers of all four homes (R258). A lost reply gives zeros and is counted. -/
def State.reply (s : State) (r : Req) : State :=
  let sample := isAcq r.ord && (r.scope == .sys || r.place.remote)
  let up := if sample then r.raises.max s.seqs else r.raises
  let s := if r.lost then s.loseData r.ctx else s
  let s := s.deliver r (if r.lost then 0 else r.reply) (r.tag && !r.lost)
  let s := s.modLane r.blk r.grp r.lane (fun l =>
    if r.place.isRsp then { l with spD := l.spD.max r.raises, D := if sample then l.D.max s.seqs else l.D }
    else { l with D := l.D.max up })
  s.complete r

end Sys2Proof.Machine
end

