-- ==== Sys2Proof/Machine/LoadStore.lean ====
section
/-!
DEFINITION. Majors 9 and 10, loads, stores, prefetch, write-back, code invalidation and `wcnt` (10_memory.md R226 to R231,
R242 to R244).
-/

set_option linter.unusedVariables false

namespace Sys2Proof.Machine

/-- Bytes of constant space (R215). -/
def Kern.constBytes (k : Kern) (a n : Nat) : List Byte :=
  (List.range n).map (fun i =>
    (Cells.get k.consts ((a + i) / 4)).extractLsb' (8 * ((a + i) % 4)) 8)

/-- The registers that a format-M word names besides its base. -/
def quadUse (d : BitVec 9) : List Nat := [d.toNat, d.toNat + 1, d.toNat + 2, d.toNat + 3]

/-- The data of a store: the low bytes of the register, pair or quad. -/
def storeData (v : View) (d : BitVec 9) (size : Nat) : Nat :=
  if size = 16 then
    (v.l.pair v.g.nregs d.toNat).toNat + 2 ^ 64 * (v.l.pair v.g.nregs (d.toNat + 2)).toNat
  else if size = 8 then (v.l.pair v.g.nregs d.toNat).toNat
  else (v.l.reg v.g.nregs d.toNat).toNat % 2 ^ (8 * size)

/-- Hints that read at the home (R224). -/
def atHomeHint : Hint → Bool
  | .home | .stream => true
  | _ => false

/-- A value that is there at once goes to its destination. -/
def putNow (s : State) (f : Focus) (i : Nat) (dest : Dest) (x : Nat) : State :=
  s.deliver { (s.blankReq f i .load (.mem 0) 0 .n32) with dest := dest } (BitVec.ofNat 512 x) false

/-- A read at the scratchpad banks: the lane has seen what the writes it read depend on, and an acquire holds its later accesses
until that is applied; at `.sys` it raises D to the homes' numbers (R228, 13_ordering.md R258). -/
def spRead (m : MForm) (f : Focus) (s : State) (i : Nat) (p : Place) (n : Nat) : State :=
  s.modLane f.blk f.grp i (fun l =>
    { l with spD := l.spD.max (s.latestAt p n)
             D := if isAcq m.ord && m.scope == .sys then l.D.max s.seqs else l.D
             order := if isAcq m.ord then { l.order with cover := true } else l.order })

/-- One lane of a load of `size` bytes. -/
def loadLane (m : MForm) (size : Nat) (dest : Dest) (f : Focus) (s : State) (i : Nat) (c : Chk) :
    State × Option Next :=
  let s := s.modLane f.blk f.grp i (fun l => l.passGate true)
  match c with
  | .const a => (putNow s f i dest (natOfBytes ((s.fkern f).constBytes a size)), none)
  | .ok p _ =>
    if m.space == .sp then (putNow (spRead m f s i p size) f i dest (s.natAt p size), none)
    else
      let r := { s.blankReq f i .load p size m.ty with
        scope := m.scope, ord := m.ord, atHome := atHomeHint m.hint, dest := dest, isLd := true }
      (s.send f r, none)
  | _ => (s, none)

/-- A load word. -/
def loadWord (m : MForm) (off : BitVec 14) (size : Nat) (dest : Dest) (use : List Nat) (s : State) :
    Host.Outcome State Fault Refusal :=
  runWord s (baseUse m.base ++ use)
    (memWord m.g false (fun s f i => s.gate f i true false false m.space)
      (checkM m (scaled off size) size [.read] .load false) (loadLane m size dest))

/-- One lane of a store. -/
def storeLane (m : MForm) (kind : ReqKind) (size : Nat) (f : Focus) (s : State) (i : Nat) (c : Chk) :
    State × Option Next :=
  let x := storeData (s.view f i) m.data size
  let s := s.modLane f.blk f.grp i (fun l => l.passGate false)
  match c with
  | .ok p _ =>
    if m.space == .sp then ((s.commitAt p (bytesOfNat x size) false (s.flane f i).D).1, none)
    else
      let r := { s.blankReq f i kind p size m.ty with
        scope := m.scope, ord := m.ord, data := BitVec.ofNat 512 x, after := s.before f i (isRel m.ord) }
      (s.send f r, none)
  | _ => (s, none)

/-- Is the space one whose writes are external effects of an idempotent region (R246)? -/
def externalSpace (sp : Space) : Bool := sp == .gl || sp == .rsp

def storeWord (m : MForm) (off : BitVec 14) (size : Nat) (use : List Nat) (s : State) :
    Host.Outcome State Fault Refusal :=
  runWord s (baseUse m.base ++ use)
    (memWord m.g (externalSpace m.space) (fun s f i => s.gate f i false true (isRel m.ord) m.space)
      (checkM m (scaled off size) size [.write] .store true) (storeLane m .store size))

def tySize (ty : Ty) : Nat := ty.bits / 8

def execLd (m : MForm) (off : BitVec 14) (s : State) : Host.Outcome State Fault Refusal :=
  loadWord m off (tySize m.ty) (.reg m.data.toNat m.ty) (regUse m.ty.wide m.data) s

def execLdSp (m : MForm) (off : BitVec 14) (s : State) : Host.Outcome State Fault Refusal :=
  loadWord m off (tySize m.ty) (.reg m.data.toNat m.ty) (regUse m.ty.wide m.data) s

def execSt (m : MForm) (off : BitVec 14) (s : State) : Host.Outcome State Fault Refusal :=
  storeWord m off (tySize m.ty) (regUse m.ty.wide m.data) s

def execStSp (m : MForm) (off : BitVec 14) (s : State) : Host.Outcome State Fault Refusal :=
  storeWord m off (tySize m.ty) (regUse m.ty.wide m.data) s

def execLdq (m : MForm) (off : BitVec 14) (s : State) : Host.Outcome State Fault Refusal :=
  loadWord m off 16 (.regs m.data.toNat 4) (quadUse m.data) s

def execLdqSp (m : MForm) (off : BitVec 14) (s : State) : Host.Outcome State Fault Refusal :=
  loadWord m off 16 (.regs m.data.toNat 4) (quadUse m.data) s

def execStq (m : MForm) (off : BitVec 14) (s : State) : Host.Outcome State Fault Refusal :=
  storeWord m off 16 (quadUse m.data) s

def execStqSp (m : MForm) (off : BitVec 14) (s : State) : Host.Outcome State Fault Refusal :=
  storeWord m off 16 (quadUse m.data) s

/-! ## Prefetch, write-back, invalidation of code (R229 to R231) -/

/-- The bytes and tags of a line of memory. -/
def State.lineAt (s : State) (line : Nat) : RLine :=
  { bytes := Memory.read s.mem (64 * line) 64,
    tags := (List.range 4).map (fun i => s.gtags.contains (4 * line + i)) }

/-- A line leaves its home for a die's replica with the number of the home's latest write (13_ordering.md R254). It is a read of
memory for the context that asks (21_context.md R410). -/
def State.startFill (s : State) (c d line : Nat) : State :=
  let h := dieOfAddr (64 * line)
  let x := s.die d
  if d == h || (Tbl.at x.replica line).isSome || x.fills.any (fun y => y.line == line) then s
  else (s.setDie d { x with fills := x.fills ++ [{ line := line, home := h, m := (s.die h).seq, data := s.lineAt line }] }).readLoss c
    (.mem (64 * line)) 64

/-- The checks of the words that act on a line: it is never misaligned, it needs one right at its address (R217), and a range
conflict is one with any byte of the line (R221). -/
def checkLine (m : MForm) (off : BitVec 14) (n : Need) (kind : AccKind) (s : State) (f : Focus) (i : Nat) : Chk :=
  let b := s.fblock f
  let x := (s.view f i).base m.base
  let a := addrBits ((x.val.toNat : Int) + scaled off 1)
  withLocks s b.core b.ctx none (a.toNat / 64 * 64) 64 false kind a (checkGl s b.core b.ctx x (scaled off 1) 1 1 [n] kind false)

/-- The checks of a lane's prefetch. -/
def prefetchCheck (m : MForm) (off : BitVec 14) (s : State) (f : Focus) (i : Nat) : Chk := checkLine m off .read .load s f i

/-- R229: the line comes toward the die; a lane whose address does not translate does nothing. -/
def prefetchLane (m : MForm) (off : BitVec 14) (f : Focus) (s : State) (i : Nat) : State :=
  let b := s.fblock f
  match prefetchCheck m off s f i with
  | .ok (.mem pa) _ =>
    if m.hint == .home || s.port (s.ctx b.ctx).world (.mem pa) != .pass || (s.heldLine (pa / 64)).isSome then s
    else s.startFill b.ctx (dieOfCore b.core) (pa / 64)
  | _ => s

def execPrf (m : MForm) (off : BitVec 14) (s : State) : Host.Outcome State Fault Refusal :=
  runWord s (baseUse m.base) (fun s f =>
    let hit := (s.acting f m.g).filterMap (fun i => match prefetchCheck m off s f i with
      | .bad r t => if r = rankLock then some (i, t) else none
      | _ => none)
    match hit with
    | (_, t) :: _ => .trap { t with lanes := hit.map Prod.fst }
    | [] => .ok ((s.acting f m.g).foldl (prefetchLane m off f) s) [])

/-- R230: an ordered store of nothing that ends the line's hold. -/
def cwbLane (m : MForm) (f : Focus) (s : State) (i : Nat) (c : Chk) : State × Option Next :=
  let s := s.modLane f.blk f.grp i (fun l => l.passGate false)
  match c with
  | .ok p _ => (s.send f { s.blankReq f i .cwb p 1 .n8 with after := s.before f i false }, none)
  | _ => (s, none)

def execCwb (m : MForm) (off : BitVec 14) (s : State) : Host.Outcome State Fault Refusal :=
  runWord s (baseUse m.base)
    (memWord m.g true (fun s f i => s.gate f i false true false .gl) (checkLine m off .write .store) (cwbLane m))

/-- The physical address of a virtual one, whatever its rights; none when it is not mapped in device memory. -/
def State.physOf (s : State) (core ctx va : Nat) : Option Nat :=
  match cached (s.core core).tlb ctx va with
  | some t => if (pteOf t.entry).kind = 0 then some ((pteOf t.entry).addr + (va - t.base)) else none
  | none =>
    match walk s.mem (s.ctx ctx).ptRoot va with
    | .leaf level e _ => if e.kind = 0 then some (e.addr + va % leafSize level) else none
    | _ => none

/-- Drops a line from the instruction caches, reserved ways and loop buffers of the listed cores (R231). -/
def State.dropCode (s : State) (cores : List Nat) (line : Nat) : State :=
  { s with cores := s.cores.map (fun (e : Nat × Core) =>
      if cores.contains e.1 then
        (e.1, { e.2 with icache := e.2.icache.filter (fun x => x.2.line != line), loopBuf := e.2.loopBuf.filter (fun x => x.1 != line) })
      else e) }

/-- The cores that a `cinv` of a scope reaches. -/
def cinvCores (s : State) (f : Focus) (sc : Scope) : List Nat :=
  match sc with
  | .blk => [(s.fblock f).core]
  | .cls => (s.unitOf f.blk).map (fun b => (s.block b).core)
  | _ => List.range 256

/-- The address in device memory of a lane's `cinv`. It needs no right; a window address is that of its slot's storage, where R173
lets it be used (R216). -/
def cinvAt (m : MForm) (off : BitVec 14) (s : State) (f : Focus) (i : Nat) : Option Nat :=
  let b := s.fblock f
  let x := (s.view f i).base m.base
  let a : Int := (x.val.toNat : Int) + scaled off 1
  if windowed x (scaled off 1) then
    match checkWindow (s.ctx b.ctx) x (scaled off 1) 1 [] .load (addrBits a) with
    | .ok (.mem pa) _ => some pa
    | _ => none
  else if a < 0 || !canonical a.toNat then none
  else s.physOf b.core b.ctx a.toNat

def cinvLane (m : MForm) (off : BitVec 14) (f : Focus) (s : State) (i : Nat) : State :=
  match cinvAt m off s f i with
  | some pa => s.dropCode (cinvCores s f m.scope) (pa / 64)
  | none => s

/-- What a lane's `cinv` waits for: earlier acquires, and the stores that a release has ordered before it. -/
def cinvGate (s : State) (f : Focus) (i : Nat) : Option Wait :=
  match s.gate f i false true false .gl with
  | some w => some w
  | none =>
    let ids := s.outstanding (s.flane f i).order.writes
    if ids.isEmpty then none else some (.reqs ids)

/-- R231: every cache has dropped the line when the word completes. -/
def execCinv (m : MForm) (off : BitVec 14) (s : State) : Host.Outcome State Fault Refusal :=
  runWord s (baseUse m.base) (fun s f =>
    let ls := s.acting f m.g
    .ok ((ls.filter (fun i => (cinvGate s f i).isNone)).foldl (cinvLane m off f) s)
      (ls.filterMap (fun i => (cinvGate s f i).map (fun w => (i, Next.wait w)))))

/-! ## Counts (R242 to R244) -/

/-- The requests of one word of one lane are one access: an `hld` is one load and an `hst` one store (R308). -/
def countWords (rs : List Req) : Nat := ((rs.map (fun r => (r.wordId, r.lane))).eraseDups).length

/-- The ld class; an `ldn` counts until its word has its value, so its granule that has come counts too. -/
def State.countLd (s : State) (b g : Nat) : Nat :=
  countWords (s.reqs.filter (fun r => r.ofGroup b g && r.isLd)) +
  ((s.group b g).lanes.filter (fun l => l.gran.isSome)).length +
  (s.cores.map (fun e => (e.2.luna.filter (fun j => j.blk == b && j.grp == g)).length)).sum +
  ((s.block b).savedLuna.filter (fun j => j.grp == g)).length
def State.countSt (s : State) (b g : Nat) : Nat := countWords (s.reqs.filter (fun r => r.ofGroup b g && !r.isLd))
def State.countCp (s : State) (b g : Nat) : Nat :=
  (s.dies.map (fun e => (e.2.copyQ.filter (fun c => c.owner.any (fun o => o.1 == b && o.2.1 == g))).length)).sum
def State.countTl (s : State) (b g : Nat) : Nat :=
  (s.cores.map (fun e => (e.2.tileQ.filter (fun t => t.blk == b && t.grp == g)).length)).sum +
  ((s.block b).savedCmds.filter (fun t => t.grp == g)).length

/-- Is a count at or below its bound? 7 is no bound. -/
def withinBound (lim : Nat) (n : Nat) : Bool := lim == 7 || decide (n ≤ lim)

def State.countsOk (s : State) (b g ld st cp tl : Nat) : Bool :=
  withinBound ld (s.countLd b g) && withinBound st (s.countSt b g) && withinBound cp (s.countCp b g) &&
  withinBound tl (s.countTl b g)

/-- The completed `wcnt`: what it waited for counts as earlier accesses of each thread of the path, and an engine's
completion is acquired (R244, R255). -/
def wcntDone (ld st cp tl : Nat) (g : Group) (l : Lane) : Lane :=
  let mem := if ld != 7 || st != 7 then g.lanes.foldl (fun v k => v.max k.D) {} else {}
  let sp := if ld != 7 then g.lanes.foldl (fun v k => v.max k.spD) l.spD else l.spD
  let c := if cp != 7 then g.cpVec else {}
  let t := if tl != 7 then g.tlVec else {}
  { l with D := ((l.D.max mem).max c).max t
           spD := sp
           order := if cp != 7 || tl != 7 then { l.order with cover := true } else l.order }

def execWcnt (f : FForm) (ld st cp tl : BitVec 3) (s : State) : Host.Outcome State Fault Refusal :=
  runWord s [] (fun s x =>
    if (s.acting x f.g).isEmpty then .ok s []
    else if s.countsOk x.blk x.grp ld.toNat st.toNat cp.toNat tl.toNat then
      .ok (s.onLanes x x.lanes (fun _ l => wcntDone ld.toNat st.toNat cp.toNat tl.toNat (s.fgroup x) l)) []
    else .ok s (x.lanes.map (fun i => (i, .wait (.counts ld.toNat st.toNat cp.toNat tl.toNat)))))

end Sys2Proof.Machine
end

