-- ==== Sys2Proof/Machine/Atomics.lean ====
section
/-!
DEFINITION. Major 11, atomics and fences (10_memory.md R218, R232 to R236).
-/

set_option linter.unusedVariables false

namespace Sys2Proof.Machine

/-- R218, R233: does the atomic pass through a combining station (17_counter.md R334)? There is a device-scope one before each die's
home slices, and a system-scope one toward each other device. -/
def combinable (op : AtomOp) (ty : Ty) (scope : Scope) (comb : Bool) (p : Place) : Bool :=
  let station := match p with
    | .mem _ | .sram _ _ => scope == .dev
    | .dev _ _ => scope == .dev || scope == .sys
    | _ => false
  station && op == .add && (ty.isInt || (ty == .f32 && comb))

/-- The value that the source register of an atomic holds. -/
def View.operand (v : View) (ty : Ty) (r : BitVec 9) : Nat :=
  if ty.wide then (v.l.pair v.g.nregs r.toNat).toNat else (v.l.reg v.g.nregs r.toNat).toNat

/-- One lane of an `atom`: at the scratchpad banks at once, elsewhere by a request. -/
def atomLane (m : MForm) (op : AtomOp) (src : BitVec 9) (comb nr : Bool) (f : Focus) (s : State) (i : Nat) (c : Chk) :
    State × Option Next :=
  let x := (s.view f i).operand m.ty src
  let size := tySize m.ty
  let dest : Dest := if nr then .none else .reg m.data.toNat m.ty
  let s := s.modLane f.blk f.grp i (fun l => l.passGate true)
  match c with
  | .ok p _ =>
    if m.space == .sp then
      let old := s.natAt p size
      let (new, es) := atomNew op m.ty old (x % 2 ^ (8 * size))
      let s := ((spRead m f s i p size).commitAt p (bytesOfNat new size) false (s.flane f i).D).1
      ((putNow s f i dest old).tally f es, none)
    else
      let r := { s.blankReq f i (.atomic op comb) p size m.ty with
        scope := m.scope, ord := m.ord, data := BitVec.ofNat 512 (x % 2 ^ (8 * size)), dest := dest, isLd := !nr,
        after := s.before f i (isRel m.ord), stage := if combinable op m.ty m.scope comb p then 0 else 2 }
      (s.send f r, none)
  | _ => (s, none)

def execAtom (m : MForm) (op : AtomOp) (src : BitVec 9) (comb nr : Bool) (s : State) : Host.Outcome State Fault Refusal :=
  let size := tySize m.ty
  runWord s (baseUse m.base ++ regUse m.ty.wide src ++ (if nr then [] else regUse m.ty.wide m.data))
    (memWord m.g (externalSpace m.space) (fun s f i => s.gate f i true true (isRel m.ord) m.space)
      (checkM m 0 size [.read, .write] .atomic true) (atomLane m op src comb nr))

/-- One lane of a `cas`: the destination register holds the compare value. -/
def casLane (m : MForm) (src : BitVec 9) (f : Focus) (s : State) (i : Nat) (c : Chk) : State × Option Next :=
  let size := tySize m.ty
  let new := (s.view f i).operand m.ty src
  let old := (s.view f i).operand m.ty m.data
  let dest : Dest := .reg m.data.toNat m.ty
  let s := s.modLane f.blk f.grp i (fun l => l.passGate true)
  match c with
  | .ok p _ =>
    if m.space == .sp then
      let was := s.natAt p size
      let t := spRead m f s i p size
      let s := if was = old then (t.commitAt p (bytesOfNat new size) false (s.flane f i).D).1 else t
      (putNow s f i dest was, none)
    else
      let r := { s.blankReq f i .cas p size m.ty with
        scope := m.scope, ord := m.ord, data := BitVec.ofNat 512 new, cmp := BitVec.ofNat 512 old, dest := dest,
        isLd := true, after := s.before f i (isRel m.ord) }
      (s.send f r, none)
  | _ => (s, none)

def execCas (m : MForm) (src : BitVec 9) (s : State) : Host.Outcome State Fault Refusal :=
  runWord s (baseUse m.base ++ regUse m.ty.wide src ++ regUse m.ty.wide m.data)
    (memWord m.g (externalSpace m.space) (fun s f i => s.gate f i true true (isRel m.ord) m.space)
      (checkM m 0 (tySize m.ty) [.read, .write] .atomic true) (casLane m src))

/-- R236, R257: what a fence makes the lane's later accesses wait for. In a `fence`, `.ar` stands for `.all`. -/
def fenceLane (m : MForm) (f : Focus) (s : State) (i : Nat) : State :=
  let mine := s.laneReqs f.blk f.grp i
  let reads := (mine.filter (fun r => r.dest != .none || r.isLd)).map Req.id
  let all := mine.map Req.id
  let writes := (mine.filter (fun r => r.kind != .load)).map Req.id
  let acq := isAcq m.ord
  s.modLane f.blk f.grp i (fun l =>
    let o := l.order
    let o := if acq then { o with all := o.all ++ reads, cover := o.cover || m.scope != .sys } else o
    let o := if isRel m.ord then { o with writes := o.writes ++ all } else o
    let o := if m.ord == .ar then
        (if writes.isEmpty then { o with loadCover := o.loadCover.max s.seqs }
         else { o with loads := o.loads ++ writes, sample := true })
      else o
    { l with order := o })

def execFence (m : MForm) (s : State) : Host.Outcome State Fault Refusal :=
  runWord s [] (fun s f => .ok ((s.acting f m.g).foldl (fenceLane m f) s) [])

end Sys2Proof.Machine
end

