-- ==== Sys2Proof/Machine/Kneader.lean ====
section
/-!
DEFINITION. Major 12, Kneader commands: their issue, and what a Kneader does with a packet (10_memory.md R237 to R241,
13_ordering.md R260).
-/

set_option linter.unusedVariables false

namespace Sys2Proof.Machine

/-! ## Issue -/

/-- `n` registers from one on, as a number. -/
def View.wideRegs (v : View) (r : BitVec 9) (n : Nat) : Nat :=
  joinEls 32 ((v.l.regs v.g.nregs r.toNat n).map BitVec.toNat)

def manyUse (r : BitVec 9) (n : Nat) : List Nat := (List.range n).map (fun i => r.toNat + i)

/-- The checks of a command's own address, with what its alignment asks besides the address's own. -/
def checkK (m : MForm) (align size : Nat) (extra : Nat → View → Bool) (s : State) (f : Focus) (i : Nat) : Chk :=
  let v := s.view f i
  let b := s.fblock f
  let x := v.base m.base
  let a := x.val.toNat
  let bad : Trap := { cause := 11, kind := .atomic, addr := x.val }
  if a % align != 0 || !extra a v then .bad rankAlign bad
  else
    match checkGl s b.core b.ctx x 0 align size [.write] .atomic true with
    | .ok p t =>
      if inWindow a || a % 65536 + size ≤ 65536 then .ok p t
      else (match checkPage s b.core b.ctx (a / 65536 * 65536 + 65536) [.write] .atomic x.val with | .ok _ _ => .ok p t | c => c)
    | c => c

/-- The command leaves as one packet, and the lane waits for the reply (R237). -/
def sendK (m : MForm) (kind : ReqKind) (size : Nat) (data cmp : Nat) (dest : Dest) (f : Focus) (s : State) (i : Nat)
    (c : Chk) : State × Option Next :=
  let s := s.modLane f.blk f.grp i (fun l => l.passGate true)
  match c with
  | .ok p _ =>
    let r := { s.blankReq f i kind p size .n64 with
      scope := m.scope, ord := m.ord, data := BitVec.ofNat 512 data, cmp := BitVec.ofNat 512 cmp, dest := dest,
      isLd := true, after := s.before f i (isRel m.ord) }
    (s.send f r, some (.goWait (f.pc + 1) (.reqs [r.id])))
  | _ => (s, none)

def kGate (m : MForm) (s : State) (f : Focus) (i : Nat) : Option Wait := s.gate f i true true (isRel m.ord) .gl

/-- R238: the n words lie in one line. -/
def oneLine (n a : Nat) : Bool := decide (a % 64 + 8 * n ≤ 64)

def execKcas (m : MForm) (src : BitVec 9) (n : BitVec 2) (s : State) : Host.Outcome State Fault Refusal :=
  let k := n.toNat + 1
  runWord s (baseUse m.base ++ manyUse src (2 * k) ++ manyUse m.data (2 * k))
    (memWord m.g true (kGate m) (checkK m 8 (8 * k) (fun a _ => oneLine k a)) (fun f s i c =>
      let v := s.view f i
      sendK m (.kcas k) (8 * k) (v.wideRegs src (2 * k)) (v.wideRegs m.data (2 * k)) (.regs m.data.toNat (2 * k)) f s i c))

/-- R239: the node is 8-byte aligned and not 0. -/
def nodeOk (x : Nat) : Bool := x != 0 && x % 8 == 0

def execKenq (m : MForm) (src : BitVec 9) (s : State) : Host.Outcome State Fault Refusal :=
  runWord s (baseUse m.base ++ regUse true src ++ regUse true m.data)
    (memWord m.g true (kGate m) (checkK m 16 16 (fun _ v => nodeOk (v.wideRegs src 2))) (fun f s i c =>
      sendK m .kenq 16 ((s.view f i).wideRegs src 2) 0 (.regs m.data.toNat 2) f s i c))

def execKdeq (m : MForm) (s : State) : Host.Outcome State Fault Refusal :=
  runWord s (baseUse m.base ++ regUse true m.data)
    (memWord m.g true (kGate m) (checkK m 16 16 (fun _ _ => true)) (fun f s i c =>
      sendK m .kdeq 16 0 0 (.regs m.data.toNat 2) f s i c))

/-- The node address of a chase goes with the packet: the reply names it (R241). -/
def execKchase (m : MForm) (src : BitVec 9) (steps : BitVec 4) (testKey : Bool) (s : State) :
    Host.Outcome State Fault Refusal :=
  runWord s (baseUse m.base ++ (if testKey then regUse true src else []) ++ quadUse m.data)
    (memWord m.g true (kGate m) (checkK m 16 (if testKey then 24 else 16) (fun _ _ => true)) (fun f s i c =>
      let v := s.view f i
      sendK m (.kchase (steps.toNat + 1) testKey) 24 (v.wideRegs src 2) (v.base m.base).val.toNat
        (.regs m.data.toNat 4) f s i c))

/-! ## Performance at the Kneader -/

/-- What comes of an address that a Kneader follows. -/
inductive Follow where
  | at (p : Place)
  | bad
  | fill (f : PageFill)
  /-- The line is held: the command waits for its write-back. -/
  | held (line : Nat)
  deriving DecidableEq, Repr

/-- A place on a line that nobody holds. -/
def State.unheld (s : State) (p : Place) : Follow :=
  match p.line? with
  | some l => if s.isHeld p then .held l else .at p
  | none => .at p

/-- Where a link of a command from another device leads: what the tables there make of it is a free value (log 114), and the die ports of
this device let its world in. -/
def followFar (s : State) (src world a : Nat) (need : Need) : Follow :=
  match Config.farPage src world (a / 65536) (need == .write) with
  | none => .bad
  | some (dev, frame) =>
    if dev = s.devNum then
      let p : Place := .mem (frame % 2 ^ 24 * 65536 + a % 65536)
      if s.port world p == .pass then s.unheld p else .bad
    else .at (.dev dev (frame * 65536 + a % 65536))

/-- R240, R241: an address must be aligned, outside the window, translate and carry the right. A line that a holder of atomics
has is waited for (R219); a page whose fill has failed cannot be followed (09_page.md R201). -/
def follow (s : State) (r : Req) (a align : Nat) (need : Need) : Follow :=
  if a % align != 0 || inWindow a then .bad
  else if 65536 ≤ r.core then followFar s (r.core / 65536) r.world a need
  else
    match translate s.mem (s.core r.core).tlb r.ctx (s.ctx r.ctx) a need with
    | .at p _ => s.unheld p
    | .fill p => if s.fillFailed p then .bad else .fill p
    | .fault _ => .bad

/-- What a Kneader answers: the state, the reply, and the vector of the writes it read or made. -/
inductive KOut where
  | done (s : State) (reply : Nat) (vec : VecD)
  | fill (f : PageFill)
  | held (line : Nat)

/-- Writes at a place, with the vector of the command, and raises the command's own vector. -/
def kWrite (s : State) (p : Place) (x n : Nat) (vec acc : VecD) : State × VecD :=
  let (s, v) := s.commitAt p (bytesOfNat x n) false vec
  (s, acc.max v)

/-- All ones: the answer when a header field cannot be followed; the Kneader that refuses counts it (R240). One on another
device counts at its own. -/
def kRefuse (s : State) (p : Place) (acc : VecD) : KOut :=
  .done (match p.home? with
    | some d => s.modDie d (fun x => x.count (fun n => { n with kneaderFaults := n.kneaderFaults + 1 }))
    | none => s) (2 ^ 64 - 1) acc

/-- R239: `kenq` at the header. A node that cannot be written refuses the command as a bad tail does (log 25). -/
def kenqAt (s : State) (r : Req) : KOut :=
  let p := r.place
  let tail := s.natAt (p.plus 8) 8
  let acc := s.latestAt p 16
  let t := s.readLoss r.ctx p 16
  let node := r.data.toNat % 2 ^ 64
  match follow s r node 8 .write with
  | .bad => kRefuse t p acc
  | .fill f => .fill f
  | .held l => .held l
  | .at pn =>
    if tail = 0 then
      let (s, acc) := kWrite t pn 0 8 r.vec acc
      let (s, acc) := kWrite s p (node + 2 ^ 64 * node) 16 r.vec acc
      .done s tail acc
    else
      match follow s r tail 8 .write with
      | .bad => kRefuse t p acc
      | .fill f => .fill f
      | .held l => .held l
      | .at pt =>
        let (s, acc) := kWrite t pn 0 8 r.vec acc
        let (s, acc) := kWrite s pt node 8 r.vec acc
        let (s, acc) := kWrite s (p.plus 8) node 8 r.vec acc
        .done s tail acc

/-- R239: `kdeq` at the header. -/
def kdeqAt (s : State) (r : Req) : KOut :=
  let p := r.place
  let head := s.natAt p 8
  let acc := s.latestAt p 16
  let t := s.readLoss r.ctx p 16
  if head = 0 then .done t 0 acc
  else
    match follow s r head 8 .read with
    | .bad => kRefuse t p acc
    | .fill f => .fill f
    | .held l => .held l
    | .at ph =>
      let link := s.natAt ph 8
      let acc := acc.max (s.latestAt ph 8)
      let t := t.readLoss r.ctx ph 8
      let (s, acc) := if link = 0 then kWrite t p 0 16 r.vec acc else kWrite t p link 8 r.vec acc
      .done s head acc

/-- R238. -/
def kcasAt (s : State) (r : Req) (n : Nat) : KOut :=
  let old := s.natAt r.place (8 * n)
  let acc := s.latestAt r.place (8 * n)
  let s := s.readLoss r.ctx r.place (8 * n)
  if old = r.cmp.toNat then
    let (s, acc) := kWrite s r.place r.data.toNat (8 * n) r.vec acc
    .done s old acc
  else .done s old acc

/-- The four registers of a chase's reply (R241). -/
def chaseReply (node status n : Nat) : Nat := node + 2 ^ 64 * status + 2 ^ 96 * n

/-- Where the key of a node lies: after its link, or at its own place when a page ends between them (R468). -/
def keyPlace (s : State) (r : Req) (testKey : Bool) (node : Nat) (p : Place) : Follow :=
  if !testKey then .at p
  else if inWindow node || node % 65536 + 24 ≤ 65536 then s.unheld (p.plus 16)
  else follow s r (node + 16) 8 .read

/-- R241: the walk from a node whose link and key lie at two places, with the steps still allowed. -/
def kchaseFrom (s : State) (r : Req) (testKey : Bool) : Nat → Nat → Nat → Place → Place → VecD → KOut
  | left, n, node, p, k, acc =>
    let acc := (acc.max (s.latestAt p 16)).max (if testKey then s.latestAt k 8 else {})
    let s := (s.readLoss r.ctx p 16).readLoss r.ctx k (if testKey then 8 else 0)
    if testKey && s.natAt k 8 == r.data.toNat % 2 ^ 64 then .done s (chaseReply node 0 n) acc
    else
      let g := s.natAt p 16
      if s.tagAt p then .done s (chaseReply node 2 n) acc
      else if g = 0 then .done s (chaseReply node 1 n) acc
      else
        match left with
        | 0 => .done s (chaseReply node 3 n) acc
        | left + 1 =>
          match follow s r (g % 2 ^ 64) 16 .read with
          | .bad => .done s (chaseReply node 4 n) acc
          | .fill f => .fill f
          | .held l => .held l
          | .at q =>
            match keyPlace s r testKey (g % 2 ^ 64) q with
            | .bad => .done s (chaseReply node 4 n) acc
            | .fill f => .fill f
            | .held l => .held l
            | .at k => kchaseFrom s r testKey left (n + 1) (g % 2 ^ 64) q k acc

def kneadAt (s : State) (r : Req) : KOut :=
  match r.kind with
  | .kcas n => kcasAt s r n
  | .kenq => kenqAt s r
  | .kdeq => kdeqAt s r
  | .kchase steps testKey =>
    let node := r.cmp.toNat % 2 ^ 64
    match keyPlace s r testKey node r.place with
    | .bad => .done s (chaseReply node 4 0) {}
    | .fill f => .fill f
    | .held l => .held l
    | .at k => kchaseFrom s r testKey steps 0 node r.place k {}
  | _ => .done s 0 {}

/-- Is the request a Kneader command? -/
def ReqKind.kneads : ReqKind → Bool
  | .kcas _ | .kenq | .kdeq | .kchase _ _ => true
  | _ => false

end Sys2Proof.Machine
end

