-- ==== Sys2Proof/Machine/Perform.lean ====
section
/-!
DEFINITION. Requests at their ordering points: what a home, a holder of a line and a remote place do with a request
(10_memory.md R206, R218, R219, 13_ordering.md R251 to R256).
-/

set_option linter.unusedVariables false

namespace Sys2Proof.Machine

/-- What performing a request answers: the state, the reply, the tag read, and what D is raised by. -/
structure Done where
  s : State
  reply : Nat
  tag : Bool
  raises : VecD

/-- A read, write, atomic or compare and swap performed at its place. -/
def performAt (s : State) (r : Req) : Done :=
  let p := r.place
  let before := s.latestAt p r.size
  match r.kind with
  | .load => ⟨s.readLoss r.ctx p r.size, s.natAt p r.size, s.tagAt p, before⟩
  | .store =>
    let (s, v) := s.commitAt p (bytesOfNat r.data.toNat r.size) false r.vec
    ⟨s, 0, false, v⟩
  | .stn =>
    let (s, v) := s.commitAt p (bytesOfNat r.data.toNat r.size) true r.vec
    ⟨s, 0, false, v⟩
  | .atomic op _ =>
    let old := s.natAt p r.size
    let (new, es) := atomNew op r.ty old r.data.toNat
    let (t, v) := (s.readLoss r.ctx p r.size).commitAt p (bytesOfNat new r.size) false r.vec
    ⟨countEvents t r.ctx r.inst es, old, false, before.max v⟩
  | .cas =>
    let old := s.natAt p r.size
    let s := s.readLoss r.ctx p r.size
    if old = r.cmp.toNat then
      let (s, v) := s.commitAt p (bytesOfNat r.data.toNat r.size) false r.vec
      ⟨s, old, false, before.max v⟩
    else ⟨s, old, false, before⟩
  | _ => ⟨s, 0, false, {}⟩

/-- The request has reached its ordering point; its reply is on its way. -/
def State.markPerformed (s : State) (id : Nat) (reply : Nat) (tag : Bool) (raises : VecD) : State :=
  s.updReq id (fun q => { q with performed := true, reply := BitVec.ofNat 512 reply, tag := tag, raises := raises,
                                 due := s.clock + Config.replyDelay q.wordId })

/-- A home keeps what it answered to a combinable request for 4 µs (17_counter.md R338). -/
def State.keepDup (s : State) (r : Req) (old : Nat) : State :=
  match r.kind, r.place.home? with
  | .atomic op comb, some d =>
    if combinable op r.ty r.scope comb r.place then
      s.modDie d (fun x => { x with dups := x.dups ++ [{ source := r.core, tag := r.id, old := BitVec.ofNat 64 old, till := s.ns + 4000 }] })
    else s
  | _, _ => s

/-- What a home still knows of a constituent that comes again: its old value (R338). -/
def State.dupOf (s : State) (d source tag : Nat) : Option Dup := (s.die d).dups.find? (fun x => x.source == source && x.tag == tag)

/-- A request is performed, once: a home that has kept its old value answers with that (R338). -/
def State.performReq (s : State) (r : Req) : State :=
  match r.place.home?.bind (fun d => s.dupOf d r.core r.id) with
  | some x => s.markPerformed r.id x.old.toNat false {}
  | none =>
    let o := performAt s r
    (o.s.markPerformed r.id o.reply o.tag o.raises).keepDup r o.reply

/-- The line's hold ends: its holder writes it back (R219). -/
def State.beginWriteBack (s : State) (line : Nat) : State :=
  { s with held := s.held.map (fun h => if h.line == line then { h with writingBack := true } else h) }

/-- An access that is performed at once ends the hold of every line it touches first. -/
def State.flush (s : State) (p : Place) (n : Nat) : State :=
  match p with
  | .mem pa =>
    if n = 0 then s
    else ((List.range ((pa + n - 1) / 64 - pa / 64 + 1)).map (fun i => pa / 64 + i)).foldl (fun s l =>
      match s.heldLine l with
      | some h => s.writeBack h
      | none => s) s
  | _ => s

/-- A request that a port refuses: its context's master freezes (21_context.md R411), or on a scrubbing die an error
reply comes back and is counted (23_world.md R443). -/
def State.refuseReq (s : State) (r : Req) (p : Port) : State :=
  match p with
  | .breach k => (s.violate r.core r.ctx k).complete r
  | .errorReply =>
    (s.countViolation (r.place.home?.getD 0)).markPerformed r.id 0 false {}
  | .pass => s

/-- The first port that refuses an access of the path (21_context.md R411). -/
def portStop (s : State) (f : Focus) (ps : List Place) : Option State :=
  let b := s.fblock f
  ps.findSome? (fun p =>
    match s.port (s.ctx b.ctx).world p with
    | .breach k => some (s.violate b.core b.ctx k)
    | _ => none)

def placesOf (s : State) (f : Focus) (ls : List Nat) (chk : State → Focus → Nat → Chk) : List Place :=
  ls.filterMap (fun i => match chk s f i with | .ok p _ => some p | _ => none)

/-- Is the atomic executed by its die's cluster atomic unit (R218, 17_counter.md R317)? -/
def State.atUnit (s : State) (r : Req) : Bool :=
  match r.place, r.kind with
  | .mem pa, .atomic _ _ => r.scope == .cls && !(s.die (dieOfAddr pa)).lineRegistered (pa / 64)
  | .mem pa, .cas => r.scope == .cls && !(s.die (dieOfAddr pa)).lineRegistered (pa / 64)
  | _, _ => false

/-- The replica of the issuing die, when the load may read it: a line that a holder has taken is read at the home. -/
def State.readsReplica (s : State) (r : Req) : Bool := r.replicable && !s.isHeld r.place

def State.replicaLine (s : State) (r : Req) : Option RLine :=
  match r.place with
  | .mem pa => Tbl.at (s.die (dieOfCore r.core)).replica (pa / 64)
  | _ => none

/-- May a load be performed on its die's replica now (R216, R252, R254, R256)? -/
def State.replicaReady (s : State) (r : Req) : Bool :=
  match r.place with
  | .mem pa =>
    let d := s.die (dieOfCore r.core)
    let h := dieOfAddr pa
    s.readsReplica r && s.free r && (s.replicaLine r).isSome &&
      decide ((s.lane r.blk r.grp r.lane).D.get h ≤ d.applied.get h) &&
      !s.reqs.any (fun q => q.id < r.id && q.blk == r.blk && q.grp == r.grp && q.lane == r.lane &&
        q.place.meets q.size r.place r.size)
  | _ => false

/-- A replica read: the bytes as last applied, and D raised to the applied vector (R254, R255). -/
def State.readReplica (s : State) (r : Req) : Req :=
  match r.place, s.replicaLine r with
  | .mem pa, some l =>
    { r with performed := true, reply := BitVec.ofNat 512 (natOfBytes ((l.bytes.drop (pa % 64)).take r.size)),
             tag := l.tags.getD (pa % 64 / 16) false, raises := (s.die (dieOfCore r.core)).applied }
  | _, _ => r

/-- Does the reply still wait for the write-back that numbers it (R251)? -/
def State.unnumbered (s : State) (id : Nat) : Bool := s.held.any (fun h => h.writes.any (fun w => w.req == id))

/-- Is the request a constituent of a combined request whose reply has not been split? -/
def State.inRecord (s : State) (id : Nat) : Bool :=
  s.stations.any (fun e => e.2.records.any (fun x => x.leaves.any (fun l => !l.cmd && l.tag == id)))

/-- A place of another device, whose accesses travel as packets. -/
def Place.far : Place → Bool
  | .dev _ _ => true
  | _ => false

/-- Has the request's packet reached its target and its turn there (22_link.md R433, R434)? -/
def State.packetThere (s : State) (r : Req) : Bool :=
  match s.packets.find? (fun p => p.req == some r.id) with
  | some p => !s.stuck p && s.packetTurn p
  | none => false

/-- A remote request performed at its target, a Kneader command included. -/
def State.performFar (s : State) (r : Req) : Option State :=
  if r.kind.kneads then
    match kneadAt s r with
    | .done t x v => some (t.markPerformed r.id x false v)
    | .fill f => some (s.askFill f)
    | .held l => some (s.beginWriteBack l)
  else some (s.performReq r)

/-- A reply or acknowledgement comes in, if it can (LOAD_REPLY, STORE_ACK). -/
def State.replyIn (s : State) (r : Req) : Option State :=
  if r.performed then
    if s.unnumbered r.id || s.inRecord r.id then none else some (s.reply r)
  else if s.replicaReady r then some (s.reply (s.readReplica r))
  else if r.place.far && s.free r && s.packetThere r then
    match s.performFar r with
    | some t => (match t.req? r.id with
        | some q => some (if q.performed then t.reply q else t)
        | none => some t)
    | none => none
  else none

end Sys2Proof.Machine
end

