-- ==== Sys2Proof/Machine/Counter.lean ====
section
/-!
DEFINITION. Major 18, counters and triggers (17_counter.md R315 to R328, R340).
-/

set_option linter.unusedVariables false

namespace Sys2Proof.Machine

/-! ## The counter operand (R325) -/

/-- The kind of the page of an address; 0 where it has none yet. -/
def State.pageKind (s : State) (core ctx va : Nat) : Nat :=
  match (s.ctx ctx).region va with
  | some g => if g.kind == .sram then 0
    else
      match cached (s.core core).tlb ctx va with
      | some t => (pteOf t.entry).kind
      | none =>
        match walk s.mem (s.ctx ctx).ptRoot va with
        | .leaf _ e _ => e.kind
        | _ => 0
  | none => 0

/-- The checks of a counter operand, in their order; the range locks come last. -/
def checkCounter (s : State) (core ctx : Nat) (a : DWord) (need : Need) (kind : AccKind) : Chk :=
  let va := a.toNat
  if inWindow va || (canonical va && s.pageKind core ctx va != 0) then .bad 10 { cause := 5, kind := kind, addr := a }
  else if va % 8 != 0 then .bad rankAlign { cause := 11, kind := kind, addr := a }
  else withLocks s core ctx none va 8 (need == .write) kind a (checkPage s core ctx va [need] kind a)

def counterChk (a : Src) (need : Need) (kind : AccKind) (s : State) (f : Focus) (i : Nat) : Chk :=
  let b := s.fblock f
  checkCounter s b.core b.ctx ((s.view f i).src64 a) need kind

/-- An access made at once comes after the lane's earlier ones to the same bytes (10_memory.md R106, R216). -/
def overlapGate (n : Nat) (chk : State → Focus → Nat → Chk) (s : State) (f : Focus) (i : Nat) : Option Wait :=
  match chk s f i with
  | .ok p _ =>
    let ids := ((s.laneReqs f.blk f.grp i).filter (fun r => r.place.meets r.size p n)).map Req.id
    if ids.isEmpty then none else some (.reqs ids)
  | _ => none

def orGate (a b : State → Focus → Nat → Option Wait) (s : State) (f : Focus) (i : Nat) : Option Wait :=
  (a s f i).orElse (fun _ => b s f i)

/-! ## `cnadd`, `cnset`, `cnget` (R326, R327) -/

def ctrOrd (rel : Bool) : Order := if rel then .rel else .rlx

/-- A write of a counter as a request of the lane. -/
def counterWrite (x : FForm) (rel : Bool) (kind : ReqKind) (stage : Nat) (f : Focus) (s : State) (i : Nat) (c : Chk) :
    State × Option Next :=
  let v := (s.view f i).src64 x.b
  let s := s.modLane f.blk f.grp i (fun l => l.passGate false)
  match c with
  | .ok p _ =>
    (s.send f { s.blankReq f i kind p 8 .n64 with
      ord := ctrOrd rel, data := v.setWidth 512, after := s.before f i rel, stage := stage }, none)
  | _ => (s, none)

def counterUse (x : FForm) : List Nat := srcUse true x.a ++ srcUse true x.b

def execCnadd (x : FForm) (rel : Bool) (s : State) : Host.Outcome State Fault Refusal :=
  runWord s (counterUse x)
    (memWord x.g true (fun s f i => s.gate f i false true rel .gl) (counterChk x.a .write .atomic)
      (counterWrite x rel (.atomic .add false) 0))

def execCnset (x : FForm) (rel : Bool) (s : State) : Host.Outcome State Fault Refusal :=
  runWord s (counterUse x)
    (memWord x.g true (fun s f i => s.gate f i false true rel .gl) (counterChk x.a .write .store)
      (counterWrite x rel .store 2))

/-- A read of a counter at its home. -/
def counterRead (acq : Bool) (dest : Dest) (next : Option Next) (f : Focus) (s : State) (i : Nat) (c : Chk) :
    State × Option Next :=
  let s := s.modLane f.blk f.grp i (fun l => l.passGate true)
  match c with
  | .ok p _ =>
    (s.send f { s.blankReq f i .load p 8 .n64 with
      ord := if acq then .acq else .rlx, atHome := true, dest := dest, isLd := true }, next)
  | _ => (s, none)

/-- With a scalar destination every lane is checked, the lowest acting lane reads, and the path waits for the value
(05_group.md R101, 06_arith.md R132); a path saved meanwhile issues the word again (R340). -/
def execCnget (x : FForm) (acq toScalar : Bool) (s : State) : Host.Outcome State Fault Refusal :=
  let gate := fun (s : State) (f : Focus) (i : Nat) => s.gate f i true false false .gl
  let chk := counterChk x.a .read .load
  if toScalar then
    runWord s (srcUse true x.a) (fun s f =>
      let low := (lowestActing s f x.g).getD 0
      match memWord x.g false gate chk (fun f s i c =>
          if i = low then counterRead acq (.scalar x.d.toNat 2) none f s i c else (s, none)) s f with
      | .ok t nx =>
        if t.nextId = s.nextId then .ok t nx
        else .ok t (f.lanes.map (fun l => match nx.lookup l with
          | some n => (l, n)
          | none => (l, .wait (.cnget s.nextId))))
      | e => e)
  else
    runWord s (srcUse true x.a ++ regUse true x.d)
      (memWord x.g false gate chk (counterRead acq (.reg x.d.toNat .n64) none))

/-! ## `cnwait` (R327) -/

/-- A lane goes on when its counter has reached its value; the last read is an acquire with `.acq`. -/
def cnwaitLane (x : FForm) (acq : Bool) (f : Focus) (s : State) (i : Nat) (c : Chk) : State × Option Next :=
  let v := s.view f i
  let need := (v.src64 x.b).toNat
  match c with
  | .ok p _ =>
    if s.port (s.ctx (s.fctx f)).world p != .pass then (s, none)
    else
      let s := (s.flush p 8).readLoss (s.fctx f) p 8
      if s.natAt p 8 < need then (s, some (.wait (.counter (v.src64 x.a).toNat need)))
      else
        let up := s.latestAt p 8
        (s.modLane f.blk f.grp i (fun l =>
          let l := l.passGate true
          { l with D := l.D.max up, order := if acq then { l.order with cover := true } else l.order }), none)
  | _ => (s, none)

def execCnwait (x : FForm) (acq : Bool) (s : State) : Host.Outcome State Fault Refusal :=
  let chk := counterChk x.a .read .load
  runWord s (counterUse x) (fun s f =>
    match memWord x.g false (orGate (fun s f i => s.gate f i true false false .gl) (overlapGate 8 chk)) chk
        (cnwaitLane x acq) s f with
    | .ok t nx =>
      (match portStop s f (placesOf s f (s.acting f x.g) chk) with
       | some u => .stop u
       | none => .ok t nx)
    | e => e)

/-! ## Triggers (R319 to R322, R328) -/

/-- Bytes `lo` to `hi - 1` of a record as a number. -/
def recNat (r : BitVec 512) (lo hi : Nat) : Nat := r.toNat / 2 ^ (8 * lo) % 2 ^ (8 * (hi - lo))

/-- An operation and type that `natom` accepts (R232, R329). -/
def natomOk (op ty : Nat) : Bool :=
  op ≤ 6 && (ty == 2 || ty == 3 || ty == 6 || ty == 7 || (ty == 10 && op ≤ 2))

/-- The byte ranges that a kind of action uses beside its header; the completion counter where the flag says so. -/
def usedBytes (kind : Nat) (flag : Bool) : List (Nat × Nat) :=
  let ctr := if flag then [(32, 40)] else []
  match kind with
  | 1 => [(40, 54), (56, 60)]
  | 2 => [(4, 24)] ++ ctr
  | 3 => [(4, 32)] ++ ctr
  | 4 => [(4, 28)] ++ ctr
  | 5 => [(8, 32), (40, 48)] ++ ctr
  | 6 => [(8, 16), (40, 48)]
  | 7 => [(8, 16)]
  | 8 => [(48, 64)]
  | _ => []

/-- R322. -/
def recMalformed (r : BitVec 512) : Bool :=
  let kind := recNat r 0 1
  let flags := recNat r 1 2
  let sel := recNat r 2 4
  let used := usedBytes kind (flags == 1)
  kind == 0 || 8 < kind || 1 < flags || (flags == 1 && !(2 ≤ kind && kind ≤ 5)) ||
  (if kind = 5 then 128 ≤ sel || !natomOk (sel % 8) (sel / 8 % 16) else sel != 0) ||
  (List.range 60).any (fun i => !used.any (fun u => u.1 ≤ i + 4 && i + 4 < u.2) && recNat r (i + 4) (i + 5) != 0) ||
  (kind == 1 && (63 < recNat r 52 53 || 3 < recNat r 53 54))

/-- The type of a code that `natom` accepts. -/
def natomTy (ty : Nat) : Ty :=
  match ty with
  | 2 => .i32
  | 3 => .i64
  | 6 => .n32
  | 7 => .n64
  | _ => .f32

def natomOp (op : Nat) : AtomOp :=
  match op with
  | 0 => .add
  | 1 => .min
  | 2 => .max
  | 3 => .and
  | 4 => .or
  | 5 => .xor
  | _ => .xchg

def Die.entry (d : Die) (i : Nat) : TrigEntry := (Tbl.at d.entries i).getD {}

/-- R321. -/
def handleOf (gen die idx : Nat) : Word := BitVec.ofNat 32 (gen * 65536 + die * 4096 + idx)

/-- R328: an arm at a counter's Proofer: the handle or status. It takes the lowest free entry: DESIGN CHOICE (log 120). An entry armed at or below the counter's value fires at
once. -/
def State.arm (s : State) (ctx : Nat) (p : Place) (threshold : Nat) (r : BitVec 512) (vec : VecD) : State × Word :=
  let d := p.home?.getD 0
  let die := s.die d
  if recMalformed r then (s, 2)
  else
    match (List.range 4096).find? (fun i => (die.entry i).st == .free) with
    | none => (s, 1)
    | some i =>
      let e := die.entry i
      let s := (s.flush p 8).readLoss ctx p 8
      let now := s.natAt p 8
      let fires := decide (threshold ≤ now)
      let new : TrigEntry :=
        { st := if fires then .firing else .armed, gen := e.gen, ctx := ctx, ctr := ctrKey p, threshold := threshold,
          record := r, order := die.armSeq, vec := if fires then (vec.max (s.latestAt p 8)).max (s.sampleFor d (ctrKey p)) else {},
          firing := if fires then die.fireSeq else 0 }
      let s := s.modDie d (fun x =>
        { x with entries := Tbl.put x.entries i new, armSeq := x.armSeq + 1,
                 fireSeq := if fires then x.fireSeq + 1 else x.fireSeq })
      let s := if fires then s.modCtx ctx (fun c => c.count (fun n => { n with fire := sat32 (n.fire + 1) })) else s
      (s, handleOf e.gen d i)

/-- R328: the record's address of a lane: 64-byte aligned, then readable and of kind 00 (log 27). -/
def recordChk (c : BitVec 9) (s : State) (f : Focus) (i : Nat) : Chk :=
  let b := s.fblock f
  let v := s.view f i
  let a := v.l.pair v.g.nregs c.toNat
  if a.toNat % 64 != 0 then .bad 51 { cause := 11, kind := .load, addr := a }
  else if inWindow a.toNat || (canonical a.toNat && s.pageKind b.core b.ctx a.toNat != 0) then
    .bad 52 { cause := 8, sub := 2, kind := .load, addr := a }
  else
    match checkPage s b.core b.ctx a.toNat [.read] .load a with
    | .bad _ t => .bad 52 t
    | k => k

/-- The counter's checks, then the record's. -/
def trigChk (x : FForm) (s : State) (f : Focus) (i : Nat) : Chk :=
  match counterChk x.a .write .store s f i with
  | .ok p t =>
    (match recordChk x.c s f i with
     | .ok _ _ => .ok p t
     | k => k)
  | k => k

/-- R328: a release: every earlier access of the lane comes first. -/
def quietGate (s : State) (f : Focus) (i : Nat) : Option Wait :=
  let ids := (s.laneReqs f.blk f.grp i).map Req.id
  if ids.isEmpty then none else some (.reqs ids)

def trigLane (x : FForm) (f : Focus) (s : State) (i : Nat) (c : Chk) : State × Option Next :=
  let v := s.view f i
  let s := s.modLane f.blk f.grp i (fun l => l.passGate true)
  match c, recordChk x.c s f i with
  | .ok p _, .ok q _ =>
    let s := (s.flush q 64).readLoss (s.fctx f) q 64
    let (s, h) := s.arm (s.fctx f) p (v.src64 x.b).toNat (BitVec.ofNat 512 (s.natAt q 64)) (s.flane f i).D
    (s.modLane f.blk f.grp i (fun l => l.setReg v.g.nregs x.d.toNat h), none)
  | _, _ => (s, none)

def execTrig (x : FForm) (s : State) : Host.Outcome State Fault Refusal :=
  runWord s (counterUse x ++ regUse true x.c ++ regUse false x.d) (fun s f =>
    match memWord x.g true (orGate (fun s f i => s.gate f i true true false .gl) quietGate) (trigChk x) (trigLane x) s f with
    | .ok t nx =>
      (match portStop s f (placesOf s f (s.acting f x.g) (trigChk x)) with
       | some u => .stop u
       | none => .ok t nx)
    | e => e)

/-- R328: the entry that a handle names, when it is armed in that generation for the context. -/
def State.armedAt (s : State) (ctx : Nat) (h : Word) : Option (Nat × Nat) :=
  let d := (h.extractLsb' 12 2).toNat
  let i := (h.extractLsb' 0 12).toNat
  let e := (s.die d).entry i
  if h.extractLsb' 14 2 == 0 && e.st == .armed && e.ctx == ctx && e.gen == (h.extractLsb' 16 16).toNat then some (d, i)
  else none

def execTrigx (x : FForm) (s : State) : Host.Outcome State Fault Refusal :=
  runWord s (srcUse false x.a ++ regUse false x.d) (fun s f =>
    let ls := s.acting f x.g
    if !ls.isEmpty && (s.fgroup f).region.isSome then .trap (idemTrap ls)
    else
      .ok (ls.foldl (fun s i =>
        let v := s.view f i
        let put := fun (s : State) (y : Word) => s.modLane f.blk f.grp i (fun l => l.setReg v.g.nregs x.d.toNat y)
        match s.armedAt (s.fctx f) (v.src x.a) with
        | some (d, e) =>
          put (s.modDie d (fun y => { y with entries := Tbl.put y.entries e (y.entry e).freed })) 1
        | none => put s 0) s) [])

end Sys2Proof.Machine
end

