-- ==== Sys2Proof/Machine/Station.lean ====
section
/-!
DEFINITION. Combining stations: their tables, merging, the combined requests that leave them and the records that split the replies
(17_counter.md R334 to R339). Stations 0 to 3 are the device-scope ones of the dies, 16 + n is the system-scope one toward device n.
-/

set_option linter.unusedVariables false

namespace Sys2Proof.Machine

def State.station (s : State) (k : Nat) : Station := (Tbl.at s.stations k).getD {}
def State.setStation (s : State) (k : Nat) (x : Station) : State := { s with stations := Tbl.put s.stations k x }

/-- The station that a place's combinable requests meet. -/
def stationOf (p : Place) : Nat :=
  match p with
  | .dev n _ => 16 + n % 8192
  | p => p.home?.getD 0

/-- The die that counts for a station; the system-scope ones stand in the base die, which counts with die 0 (log 32). -/
def dieOfStation (k : Nat) : Nat := if k < 16 then k else 0

/-- The constituent that a request is; a core's port has its number (log 101). -/
def leafOf (r : Req) : Leaf := { source := r.core, tag := r.id, inc := r.data.setWidth 64, port := r.core }

/-- The entry of a request that waits alone. -/
def entryOf (r : Req) (id : Nat) : StEntry :=
  { id := id, place := r.place, ty := r.ty, scope := r.scope, world := r.world, sum := r.data.setWidth 64, leaves := [leafOf r] }

/-- The sum of two increments, as the type adds (R335). -/
def addInc (ty : Ty) (a b : BitVec 64) : BitVec 64 := BitVec.ofNat 64 (atomNew .add ty a.toNat b.toNat).1

/-- R334, R335: do two requests merge? Same address, type, scope and world, at most four constituents. -/
def StEntry.takes (e x : StEntry) : Bool :=
  e.place == x.place && e.ty == x.ty && e.scope == x.scope && e.world == x.world && decide (e.leaves.length + x.leaves.length ≤ 4)

/-- The earlier request's list, followed by the later one's. -/
def StEntry.merge (e x : StEntry) : StEntry := { e with sum := addInc e.ty e.sum x.sum, leaves := e.leaves ++ x.leaves }

/-- A request meets a station: it joins a waiting one or takes a free entry, and the station has it; or it passes a full table. -/
def State.meetStation (s : State) (k : Nat) (x : StEntry) : State × Bool :=
  let st := s.station k
  let d := dieOfStation k
  if st.table.any (fun e => e.takes x) then
    ((s.setStation k { st with table := st.table.map (fun e => if e.takes x then e.merge x else e) }).modDie d
      (fun d => d.count (fun n => { n with combMerge := n.combMerge + 1 })), true)
  else if 64 ≤ st.table.length then (s.modDie d (fun d => d.count (fun n => { n with combFull := n.combFull + 1 })), false)
  else (s.setStation k { st with table := st.table ++ [x] }, true)

/-- A request on its way to its station arrives there, once nothing of its own word or thread that it follows is still on the way. -/
def combineArrive (s : State) (r : Req) : Option State :=
  if r.stage != 0 || !r.after.isEmpty ||
      s.reqs.any (fun q => r.follows q && (q.stage == 0 || (q.stage == 2 && q.place.remote && !s.launched q))) then none
  else
    let (t, kept) := { s with nextId := s.nextId + 1 }.meetStation (stationOf r.place) (entryOf r s.nextId)
    let u := t.updReq r.id (fun q => { q with stage := if kept then 1 else 2 })
    let q := { r with stage := 2 }
    some (if !kept && u.mayLaunch q then u.launchReq q else u)

/-- Does the output port take the entry? Toward another device its packet waits for room in its flow (22_link.md R433). -/
def State.entryRoom (s : State) (e : StEntry) : Bool :=
  match e.place with
  | .dev n _ => s.flowRoom (n % 8192) e.world
  | _ => true

/-- The output port takes an entry. A combined one leaves a decombining record behind; toward another device it is one packet of
its flow (R339), which carries the sum of the increments and the list of the constituents (R335). -/
def State.forwardEntry (s : State) (k : Nat) (e : StEntry) : State :=
  let st := s.station k
  let s := s.setStation k { table := st.table.filter (fun y => y.id != e.id),
                            records := if 1 < e.leaves.length then st.records ++ [e] else st.records }
  let s := e.leaves.foldl (fun s l => if l.cmd then s else s.updReq l.tag (fun q => { q with stage := 2 })) s
  match e.place, e.leaves with
  | .dev n a, l :: more =>
    if more.isEmpty && !l.cmd then (match s.req? l.tag with | some r => s.launchReq r | none => s)
    else
      let cmd := if more.isEmpty then (s.cmdOf l.tag).map CopyCmd.id else none
      let id := s.nextId
      let s := s.addPacket
        { id := 0, dst := n % 8192, world := e.world, seq := 0, cmd := cmd, req := none, kind := .atomic .add true, addr := a,
          bytes := bytesOfNat e.sum.toNat (tySize e.ty), len := tySize e.ty, arrival := 0, via := none, returns := 0, void := false,
          leaves := if more.isEmpty then [] else e.leaves }
      match cmd with
      | some c => s.updCmd c (fun c => { c with packets := c.packets.map (fun i => if i = l.tag then id else i) })
      | none => s
  | _, _ => s

/-- Has a constituent its old value? -/
def State.leafDone (s : State) (l : Leaf) : Bool :=
  if l.cmd then !s.packets.any (fun p => p.leaves.any (fun k => k.cmd && k.tag == l.tag)) else (s.req? l.tag).all Req.performed

def State.entryDone (s : State) (e : StEntry) : Bool := e.leaves.all s.leafDone

/-- The station splits the reply, from its record or, when that is lost, from the reply's own list: every constituent has its own
old value, and its reply goes on (R336, R337). -/
def State.splitReply (s : State) (k : Nat) (e : StEntry) : State :=
  let st := s.station k
  let s := s.setStation k { st with records := st.records.filter (fun y => y.id != e.id) }
  e.leaves.foldl (fun s l =>
    if l.cmd then
      match s.cmdOf l.tag with
      | some c => s.updCmd c.id (fun c => { c with packets := without l.tag c.packets })
      | none => s
    else s) s

end Sys2Proof.Machine
end

