-- ==== Sys2Proof/Machine/Engine.lean ====
section
/-!
DEFINITION. Major 19, the copy engines and network commands, with their event rows (10_memory.md R220 to R222,
13_ordering.md R259, 17_counter.md R329 to R333).
-/

set_option linter.unusedVariables false

namespace Sys2Proof.Machine

/-! ## Operands and checks (R330, R331) -/

/-- A local range of a command: its base, whether it is in the scratchpad, its length and the right it needs. -/
structure LocalRange where
  base : BaseVal
  sp : Bool
  len : Nat
  need : Need
  deriving DecidableEq, Repr

/-- What a command is given, by a lane or by an action record. -/
structure CmdArgs where
  op : CopyOp
  src : Option LocalRange
  dst : Option LocalRange
  len : Nat
  dev : Nat
  raddr : Nat
  /-- Bytes that the command touches at the remote address; none for a local command. -/
  rlen : Option Nat
  arrival : Word
  ctr : Option Nat
  /-- The address to record when a reserved field is not zero or a count is out of range (R331, 1). -/
  malformed : Option DWord
  /-- The first operand that is not aligned (R331, 2). -/
  misaligned : Option DWord
  deriving DecidableEq, Repr

def engTrap (cause sub : Nat) (a : DWord) : Trap := { cause := cause, sub := sub, kind := .engine, addr := a }

/-- The addresses at which a range meets a 64 KiB page for the first time. -/
def spanStarts (a len : Nat) : List Nat :=
  let n := Nat.max len 1
  a :: (List.range ((a + n - 1) / 65536 - a / 65536)).map (fun i => (a / 65536 + i + 1) * 65536)

/-- The addresses that decide whether every byte of a range translates: the first of each page, and the first after each region
that ends inside it (10_memory.md R468). -/
def spanPoints (c : Context) (a len : Nat) : List Nat :=
  spanStarts a len ++ (c.regions.map (fun r => r.base + r.size)).filter (fun e => decide (a < e) && decide (e < a + len))

/-- The first failure of a list of checks, by rank; otherwise the first page to fill; otherwise the first place. -/
def worst (cs : List Chk) : Chk :=
  match (cs.filterMap (fun c => match c with | .bad r _ => some r | _ => none)).min? with
  | some r => (cs.find? (fun c => match c with | .bad q _ => q == r | _ => false)).getD (.const 0)
  | none =>
    match cs.find? (fun c => match c with | .fill _ _ _ => true | _ => false) with
    | some c => c
    | none => cs.headD (.const 0)

/-- A range outside the window: every byte of it. -/
def checkSpan (s : State) (core ctx a len : Nat) (needs : List Need) : Chk :=
  worst ((spanPoints (s.ctx ctx) a len).map (fun x => checkPage s core ctx x needs .engine (BitVec.ofNat 64 x)))

/-- R331, 1 and 3, for one local range; a scratchpad range beyond the partition fails at the rank given. -/
def checkLocal (rank : Nat) (s : State) (core ctx : Nat) (blk : Option Nat) (r : LocalRange) : Chk :=
  let a := r.base.val.toNat
  if r.sp then
    match blk with
    | some b => if 2 ^ 32 ≤ a || (s.block b).scratch * 16384 < a + Nat.max r.len 1 then .bad rank (engTrap 5 0 r.base.val)
                else .ok (.rsp b a) .nothing
    | none => .bad rank (engTrap 5 0 r.base.val)
  else if inWindow a then checkWindow (s.ctx ctx) r.base 0 (Nat.max r.len 1) [r.need] .engine r.base.val
  else checkSpan s core ctx a r.len [r.need]

/-- R331, 4: has the target a peer, with the remote range inside one fixed range? The issuing device itself needs none
(log 28). -/
def State.peerOk (s : State) (ctx dev a len : Nat) : Bool :=
  dev == s.devNum ||
  (s.ctx ctx).channels.any (fun c => c.dev == dev && decide (c.base ≤ a) && decide (a + Nat.max len 1 ≤ c.base + c.size))

/-- The rights that a command needs at its remote address. -/
def CopyOp.needs : CopyOp → List Need
  | .nrd => [.read]
  | .natom _ _ _ _ => [.read, .write]
  | _ => [.write]

/-- The checks of one command (R331). A target equal to the issuing device is a local range too (R330, 10_memory.md R468). -/
def checkCmd (s : State) (core ctx : Nat) (blk : Option Nat) (c : CmdArgs) : Chk :=
  let remote := BitVec.ofNat 64 c.raddr
  worst (
    (match c.malformed with | some a => [.bad 10 (engTrap 5 0 a)] | none => []) ++
    (match c.misaligned with | some a => [.bad rankAlign (engTrap 11 0 a)] | none => []) ++
    (c.src.toList ++ c.dst.toList).map (checkLocal 10 s core ctx blk) ++
    (match c.ctr with
     | some a =>
       if a % 8 != 0 then [.bad rankAlign (engTrap 11 0 (BitVec.ofNat 64 a))]
       else [checkPage s core ctx a [.write] .engine (BitVec.ofNat 64 a)]
     | none => []) ++
    (match c.rlen with
     | some n =>
       if c.dev == s.devNum then [checkSpan s core ctx c.raddr n c.op.needs]
       else if s.peerOk ctx c.dev c.raddr n then [] else [.bad 55 (engTrap 8 1 remote)]
     | none => []))

/-- Where a range lies once it has been checked. -/
def locOf (s : State) (core ctx : Nat) (blk : Option Nat) (r : Option LocalRange) : Loc :=
  match r with
  | none => .none
  | some r =>
    if r.sp || inWindow r.base.val.toNat then
      match checkLocal 10 s core ctx blk r with
      | .ok p _ => .at p
      | _ => .none
    else .va r.base.val.toNat

/-- The remote range of a command whose target is this device itself (R330): it is one of the context's own. -/
def CmdArgs.own (c : CmdArgs) (devNum : Nat) : Option (Nat × Nat) :=
  match c.rlen with
  | some n => if c.dev = devNum then some (c.raddr, n) else none
  | none => none

/-- The ranges that a command registers (R220). -/
def locksOf (id ctx devNum : Nat) (blk : Option Nat) (c : CmdArgs) : List Lock :=
  (c.src.toList ++ c.dst.toList).filterMap (fun r =>
    if r.len = 0 then none
    else some { cmd := id, ctx := ctx, spBlk := if r.sp then blk else none, lo := r.base.val.toNat, len := r.len,
                dest := r.need == .write }) ++
  (c.own devNum).toList.filterMap (fun r =>
    if r.2 = 0 then none else some { cmd := id, ctx := ctx, spBlk := none, lo := r.1, len := r.2, dest := c.op.needs.contains .write })

/-! ## Reading and writing a range -/

/-- Who accesses memory for an engine: the core and the die of the command, its context, and the world that the requests carry
(23_world.md R442). -/
structure Agent where
  core : Nat
  die : Nat
  ctx : Nat
  world : Nat
  deriving DecidableEq, Repr

/-- The engines of a core or Proofer, for a context. -/
def State.agent (s : State) (core die ctx : Nat) : Agent := ⟨core, die, ctx, (s.ctx ctx).world⟩

def CopyCmd.who (c : CopyCmd) : Agent := ⟨c.core, c.die, c.ctx, c.world⟩

/-- The place of a byte of a range, `i` bytes in, for a right; none when it does not translate now. -/
def State.locPlace (s : State) (w : Agent) (l : Loc) (i : Nat) (n : Need) : Option Place :=
  match l with
  | .none => none
  | .at p => some (p.plus i)
  | .va a =>
    match translate s.mem (s.die w.die).engineTlb w.ctx (s.ctx w.ctx) (a + i) n with
    | .at p _ => some p
    | _ => none

/-- The pieces of a range: no piece crosses a 16-byte boundary of its addresses (R332). -/
def pieces (a : Nat) : Nat → Nat → Nat → List (Nat × Nat)
  | 0, _, _ => []
  | fuel + 1, i, len =>
    if len ≤ i then []
    else
      let n := Nat.min (len - i) (16 - (a + i) % 16)
      (i, n) :: pieces a fuel (i + n) len

def Loc.base : Loc → Nat
  | .none => 0
  | .va a => a
  | .at (.mem a) => a
  | .at (.sram _ a) => a
  | .at (.host _ a) => a
  | .at (.dev _ a) => a
  | .at (.tray _ a) => a
  | .at (.rsp _ a) => a

def Loc.pieces (l : Loc) (len : Nat) : List (Nat × Nat) := Machine.pieces l.base (len / 16 + 2) 0 len

/-- An engine's access is refused at a port: the context freezes, and with it the core whose command it was (R411). -/
def State.engineBreach (s : State) (w : Agent) (kind : Nat) : State :=
  if w.core < 256 then s.violate w.core w.ctx kind
  else (s.countViolation w.die).freezeCtx w.ctx kind

/-- A range as the tables stand now: a page to fill, a fault, or its first place (09_page.md R207). -/
def State.rangeNow (s : State) (w : Agent) (l : Loc) (len : Nat) (need : Need) : Chk :=
  match l with
  | .va a =>
    worst ((spanPoints (s.ctx w.ctx) a len).map (fun x =>
      let addr := BitVec.ofNat 64 x
      match translate s.mem (s.die w.die).engineTlb w.ctx (s.ctx w.ctx) x need with
      | .fault sub => .bad rankTranslate (engTrap 8 sub addr)
      | .fill p => if s.fillFailed p then .bad rankTranslate (engTrap 8 5 addr) else .fill p .engine addr
      | .at p _ => .ok p .nothing))
  | .at p => .ok p .nothing
  | .none => .const 0

/-- Has the window of each host link that a range is reached over room (22_link.md R424)? A page lies behind one link. -/
def State.rangeRoom (s : State) (w : Agent) (l : Loc) (len : Nat) (need : Need) : Bool :=
  match l with
  | .va a => (spanPoints (s.ctx w.ctx) a len).all (fun x => (s.locPlace w (.va x) 0 need).all s.windowRoom)
  | l => (s.locPlace w l 0 need).all s.windowRoom

/-- An engine's access at a place: a port that refuses it makes it a violation, one of a scrubbing die answers with an error that
it counts (23_world.md R443), and a host link that is not healthy loses it (22_link.md R421). -/
def State.engineAt {α : Type} (s : State) (w : Agent) (p : Place) (none' : State → α) (go : State → α) : α :=
  match s.port w.world p with
  | .breach k => none' (s.engineBreach w k)
  | .errorReply => none' (s.countViolation (p.home?.getD 0))
  | .pass => if s.cutOff p then none' (s.loseData w.ctx) else go s

/-- The bytes of a range; what is refused or lost reads zero. -/
def State.readLoc (s : State) (w : Agent) (l : Loc) (len : Nat) : List Byte :=
  (l.pieces len).flatMap (fun x =>
    match s.locPlace w l x.1 .read with
    | some p => if s.port w.world p == .pass && !s.cutOff p then s.bytesAt p x.2 else List.replicate x.2 0
    | none => List.replicate x.2 0)

/-- Every line of a range that a holder has taken is written back before the engine reads it. -/
def State.flushLoc (s : State) (w : Agent) (l : Loc) (len : Nat) : State :=
  (l.pieces len).foldl (fun s x =>
    match s.locPlace w l x.1 .read with
    | some p => s.engineAt w p id (fun s => (s.flush p x.2).readLoss w.ctx p x.2)
    | none => s) s

/-- Bytes written to a range, each piece with the vector that the command carries (R259); and the writes' numbers. -/
def State.writeLoc (s : State) (w : Agent) (l : Loc) (bytes : List Byte) (vec : VecD) : State × VecD :=
  (l.pieces bytes.length).foldl (fun (sv : State × VecD) x =>
    match sv.1.locPlace w l x.1 .write with
    | some p => sv.1.engineAt w p (fun s => (s, sv.2)) (fun s =>
        let (s, v) := (s.flush p x.2).commitAt p ((bytes.drop x.1).take x.2) false vec
        (s, sv.2.max v))
    | none => sv) (s, {})

/-! ## Issue -/

def State.copyCount (s : State) (die core : Nat) : Nat := ((s.die die).copyQ.filter (fun c => c.core == core)).length

/-- Requests of a lane that a command on ranges comes after: its writes that meet one of them (R259). -/
def State.meetsRange (s : State) (w : Agent) (r : Req) (x : Loc × Nat × Need) : Bool :=
  (x.1.pieces x.2.1).any (fun y => (s.locPlace w x.1 y.1 x.2.2).any (fun p => r.place.meets r.size p y.2))

def State.cmdAfter (s : State) (f : Focus) (i : Nat) (w : Agent) (ranges : List (Loc × Nat × Need)) : List Nat :=
  ((s.laneReqs f.blk f.grp i).filter (fun r =>
    (s.flane f i).order.writes.contains r.id || (r.kind != .load && ranges.any (s.meetsRange w r)))).map Req.id

/-- Does a release of the lane still hold back its later writes and commands (R257)? -/
def State.releases (s : State) (f : Focus) (i : Nat) : Bool := !(s.outstanding (s.flane f i).order.writes).isEmpty

/-- A command enters its die's queue with its range locks; `rel` says that a release orders it. -/
def State.queueCmd (s : State) (core die ctx : Nat) (blk : Option Nat) (owner : Option (Nat × Nat × Nat)) (inst : Option Nat)
    (c : CmdArgs) (vec : VecD) (after : List Nat) (rel : Bool) : State :=
  let cmd : CopyCmd :=
    { id := s.nextId, op := c.op, ctx := ctx, world := (s.ctx ctx).world, owner := owner, core := core, die := die, inst := inst,
      src := locOf s core ctx blk c.src, dst := locOf s core ctx blk c.dst, len := c.len, dev := c.dev, raddr := c.raddr,
      arrival := c.arrival, ctr := c.ctr, vec := vec, after := after, started := false, next := 0, packets := [],
      got := [], rel := rel }
  let s := { s with nextId := s.nextId + 1 }
  let s := s.modDie die (fun d => { d with copyQ := d.copyQ ++ [cmd] })
  if core < 256 then s.modCore core (fun x => { x with locks := x.locks ++ locksOf cmd.id ctx s.devNum blk c }) else s

/-- Is there room in the queue and the range-lock table of 16 entries? -/
def State.cmdRoom (s : State) (core die ctx : Nat) (blk : Option Nat) (c : CmdArgs) : Bool :=
  decide (s.copyCount die core < 64) && decide ((s.core core).locks.length + (locksOf 0 ctx s.devNum blk c).length ≤ 16)

/-- Lanes issue what they are given in ascending order while there is room; the rest wait for room, and the path goes on
together (R220, R331). -/
def issueInTurn (room : State → Nat → Bool) (put : State → Nat → State) (f : Focus) :
    State → List Nat → State × List Nat
  | s, [] => (s, [])
  | s, i :: is => if room s i then issueInTurn room put f (put s i) is else (s, i :: is)

/-- Where the lanes of the path stand when some of them still wait for room. -/
def roomNext (f : Focus) (late : List Nat) : List (Nat × Next) :=
  if late.isEmpty then []
  else f.lanes.map (fun l => (l, if late.contains l then .wait .room else .goWait (f.pc + 1) (.mates f.kern f.pc late)))

/-- A word that gives an engine one command for each acting lane, or with `one` a single command for the path. -/
def engineWord (g : Guard) (one : Bool) (args : State → View → CmdArgs) (s : State) (f : Focus) : Eff :=
  let all := s.acting f g
  let ls := if one then all.take 1 else all
  let b := s.fblock f
  let die := dieOfCore b.core
  if ls.isEmpty then .ok s []
  else if (s.fgroup f).region.isSome then .trap (idemTrap ls)
  else
    match ls.findSome? (fun i => s.gate f i true true false .gl) with
    | some w => .ok s (f.lanes.map (fun l => (l, .wait w)))
    | none =>
      let arg := fun (s : State) (i : Nat) => args s (s.view f i)
      let cs := ls.map (fun i => (i, checkCmd s b.core b.ctx (some f.blk) (arg s i)))
      match firstBad cs with
      | some t => .trap t
      | none =>
        match cs.findSome? (fun c => match c.2 with | .fill p k a => some (p, k, a) | _ => none) with
        | some (p, k, a) => .ok (s.askFill p) (f.lanes.map (fun l => (l, .wait (.page p.ctx p.page k a))))
        | none =>
          let put := fun (s : State) (i : Nat) =>
            let c := arg s i
            let r := fun (x : Option LocalRange) => x.toList.map (fun y => (locOf s b.core b.ctx (some f.blk) (some y), y.len, y.need))
            let s := s.modLane f.blk f.grp i (fun l => l.passGate true)
            s.queueCmd b.core die b.ctx (some f.blk) (some (f.blk, f.grp, i)) (some b.inst) c (s.flane f i).D
              (s.cmdAfter f i (s.agent b.core die b.ctx) (r c.src ++ r c.dst ++ (c.own s.devNum).toList.map (fun x => (.va x.1, x.2, .write))))
              (s.releases f i)
          let (t, late) := issueInTurn (fun s i => s.cmdRoom b.core die b.ctx (some f.blk) (arg s i)) put f s ls
          .ok t (roomNext f late)

def srcBase (v : View) (a : Src) : BaseVal := ⟨v.src64 a, v.tagOf a, match a with | .v r => r.toNat | _ => 0⟩

/-- The counter pair of a command (R329). -/
def ctrOf (v : View) (x : Ctr) : Option Nat := if x.en then some (v.g.spair (2 * x.idx.toNat)).toNat else none

/-- The fields of a remote quad (R330). -/
structure Quad where
  addr : Nat
  dev : Nat
  arrival : Word
  bad : Bool
  deriving DecidableEq, Repr

/-- The address that the bounds trap of a bad quad records. -/
def Quad.bad? (q : Quad) : Option DWord := if q.bad then some (BitVec.ofNat 64 q.addr) else none

def View.quad (v : View) (d : BitVec 9) (useTag : Bool) : Quad :=
  let q := d.toNat
  let dev := (v.l.reg v.g.nregs (q + 2)).toNat
  let tag := v.l.reg v.g.nregs (q + 3)
  { addr := (v.l.pair v.g.nregs q).toNat, dev := dev, arrival := if useTag then tag else 0,
    bad := !isDevice dev || (useTag && tag.extractLsb' 15 16 != 0) }

def cpyArgs (x : FForm) (c : Ctr) (srcSp dstSp : Bool) (_s : State) (v : View) : CmdArgs :=
  let n := (v.src x.b).toNat
  { op := .cpy, src := some ⟨srcBase v x.a, srcSp, n, .read⟩,
    dst := some ⟨⟨v.l.pair v.g.nregs x.d.toNat, v.l.tag v.g.nregs x.d.toNat, x.d.toNat⟩, dstSp, n, .write⟩,
    len := n, dev := 0, raddr := 0, rlen := none, arrival := 0, ctr := ctrOf v c, malformed := none, misaligned := none }

def nwrArgs (x : FForm) (c : Ctr) (_s : State) (v : View) : CmdArgs :=
  let q := v.quad x.d true
  let n := (v.src x.b).toNat
  { op := .nwr, src := some ⟨srcBase v x.a, false, n, .read⟩, dst := none, len := n, dev := q.dev, raddr := q.addr,
    rlen := some n, arrival := q.arrival, ctr := ctrOf v c, malformed := q.bad?, misaligned := none }

def nrdArgs (x : FForm) (c : Ctr) (_s : State) (v : View) : CmdArgs :=
  let q := v.quad x.d false
  let n := (v.src x.b).toNat
  { op := .nrd, src := none, dst := some ⟨srcBase v x.a, false, n, .write⟩, len := n, dev := q.dev, raddr := q.addr,
    rlen := some n, arrival := 0, ctr := ctrOf v c, malformed := q.bad?, misaligned := none }

def isLit : Src → Bool
  | .lit _ => true
  | _ => false

def natomArgs (x : FForm) (c : Ctr) (op : AtomOp) (ty : Ty) (comb : Bool) (_s : State) (v : View) : CmdArgs :=
  let q := v.quad x.d true
  let n := tySize ty
  let res := if isLit x.b then none else some (⟨srcBase v x.b, false, n, .write⟩ : LocalRange)
  { op := .natom op ty comb (v.src64 x.a), src := none, dst := res, len := n, dev := q.dev, raddr := q.addr, rlen := some n,
    arrival := q.arrival, ctr := ctrOf v c, malformed := q.bad?,
    misaligned := ((BitVec.ofNat 64 q.addr) :: res.toList.map (fun r => r.base.val)).find? (fun a => a.toNat % n != 0) }

def nlistArgs (x : FForm) (c : Ctr) (_s : State) (v : View) : CmdArgs :=
  let n := (v.src x.b).toNat
  { op := .nlist, src := if n = 0 then none else some ⟨srcBase v x.a, false, 64 * n, .read⟩, dst := none, len := n,
    dev := 0, raddr := 0, rlen := none, arrival := 0, ctr := ctrOf v c,
    malformed := if 4096 < n then some (v.src64 x.a) else none,
    misaligned := if (v.src64 x.a).toNat % 64 != 0 then some (v.src64 x.a) else none }

def execCpy (x : FForm) (c : Ctr) (srcSp dstSp : Bool) (s : State) : Host.Outcome State Fault Refusal :=
  runWord s (srcUse true x.a ++ srcUse false x.b ++ regUse true x.d) (engineWord x.g false (cpyArgs x c srcSp dstSp))

def execNwr (x : FForm) (c : Ctr) (s : State) : Host.Outcome State Fault Refusal :=
  runWord s (srcUse true x.a ++ srcUse false x.b ++ quadUse x.d) (engineWord x.g false (nwrArgs x c))

def execNrd (x : FForm) (c : Ctr) (s : State) : Host.Outcome State Fault Refusal :=
  runWord s (srcUse true x.a ++ srcUse false x.b ++ quadUse x.d) (engineWord x.g false (nrdArgs x c))

def execNatom (x : FForm) (c : Ctr) (op : AtomOp) (ty : Ty) (comb : Bool) (s : State) : Host.Outcome State Fault Refusal :=
  runWord s (srcUse true x.a ++ srcUse true x.b ++ quadUse x.d) (engineWord x.g false (natomArgs x c op ty comb))

def execNlist (x : FForm) (c : Ctr) (s : State) : Host.Outcome State Fault Refusal :=
  runWord s (srcUse true x.a ++ srcUse false x.b) (engineWord x.g true (nlistArgs x c))

/-! ## Commands under way (R259, R332, R333) -/

/-- The 256-byte blocks of a remote range, as offset and length; a range of nothing has one. -/
def blocksOf (a : Nat) : Nat → Nat → Nat → List (Nat × Nat)
  | 0, _, _ => []
  | fuel + 1, i, len =>
    let n := Nat.min (len - i) (256 - (a + i) % 256)
    if len ≤ i + n then [(i, n)] else (i, n) :: blocksOf a fuel (i + n) len

/-- The packets of one message of a command, which enter their flow as far as it has room (22_link.md R433); the last carries the
arrival. -/
def sendMessage (s : State) (c : CopyCmd) (kind : ReqKind) (dev raddr len : Nat) (bytes : List Byte) (arrival : Word)
    (msg : Nat) : State :=
  let bs := blocksOf raddr (len / 256 + 2) 0 len
  bs.foldl (fun s b =>
    let last := b.1 + b.2 == len
    let p : Packet :=
      { id := s.nextId, dst := dev, world := c.world, seq := 0, cmd := some c.id, req := none, kind := kind,
        addr := raddr + b.1, bytes := (bytes.drop b.1).take b.2, len := b.2, arrival := if last then arrival else 0,
        msg := msg, via := none, returns := 0, void := false }
    let s := { s with nextId := s.nextId + 1 }.updCmd c.id (fun c => { c with packets := c.packets ++ [p.id] })
    if s.flowRoom dev c.world then s.enterPacket p else { s with queued := s.queued ++ [p] }) s

/-- A command starts once what it comes after is done and its die has applied its vector; commands of a core start in
order. -/
def State.mayStart (s : State) (c : CopyCmd) : Bool :=
  !c.started && c.after.isEmpty && (s.die c.die).applied.covers c.vec &&
  !(s.die c.die).copyQ.any (fun k => k.core == c.core && decide (k.id < c.id) && !k.started)

/-! ## Faults of a command under way (R323, 09_page.md R200, R207) -/

def State.countFault (s : State) (c : Nat) : State :=
  s.modCtx c (fun x => x.count (fun n => { n with fault := sat32 (n.fault + 1) }))

/-- A fault of an action is posted to Levain and counted (R323). -/
def State.actionFault (s : State) (ctx cause sub : Nat) (addr : DWord) : State :=
  (s.countFault ctx).modCtx ctx (fun x => { x with msgs := x.msgs ++ [.fault cause sub addr] })

/-- A command is gone from its die's queue, and its range locks with it, those of a saved block too (R331). -/
def State.removeCmd (s : State) (id : Nat) : State :=
  { s with
    dies := s.dies.map (fun (e : Nat × Die) => (e.1, { e.2 with copyQ := e.2.copyQ.filter (fun k => k.id != id) }))
    cores := s.cores.map (fun (e : Nat × Core) => (e.1, { e.2 with locks := e.2.locks.filter (fun k => k.cmd != id) }))
    blocks := s.blocks.map (fun (e : Nat × Block) => (e.1, { e.2 with savedLocks := e.2.savedLocks.filter (fun k => k.cmd != id) })) }

/-- An engine's command under way goes on once the pages of the given ranges are there and its host links have room; a range that no
longer translates is a fault (09_page.md R207). -/
def State.rangesThere {α : Type} (s : State) (w : Agent) (rs : List (Loc × Nat × Need)) (fill : State → α) (fault : Trap → State → α)
    (go : State → α) : Option α :=
  match worst (rs.map (fun r => s.rangeNow w r.1 r.2.1 r.2.2)) with
  | .fill p _ _ => if s.pageFills.any (fun g => g.ctx == p.ctx && g.page == p.page) then none else some (fill (s.askFill p))
  | .bad _ t => some (fault t s)
  | _ => if rs.all (fun r => s.rangeRoom w r.1 r.2.1 r.2.2) then some (go s) else none

/-- A command goes on as `rangesThere` says; a fault is posted and counted as that of an action is, and ends the command there: no rule
names a path for it (log 102). -/
def State.whenThere (s : State) (c : CopyCmd) (rs : List (Loc × Nat × Need)) (go : State → Option State) : Option State :=
  (s.rangesThere c.who rs some (fun t s => some ((s.actionFault c.ctx t.cause t.sub t.addr).removeCmd c.id)) go).join

/-- An atomic add of a command meets the station toward its target: it waits there with others, or goes at once (R334, R339). One
with an arrival always goes alone (log 101). -/
def sendAtomic (s : State) (c : CopyCmd) (op : AtomOp) (ty : Ty) (comb : Bool) (x : BitVec 64) : State :=
  let alone := fun (s : State) =>
    sendMessage s c (.atomic op comb) c.dev c.raddr c.len (bytesOfNat x.toNat c.len) c.arrival 0
  let p : Place := .dev (8192 + c.dev) c.raddr
  if c.dev = s.devNum || !combinable op ty .sys comb p || c.arrival.getLsbD 31 then alone s
  else
    let l : Leaf := { source := 256 + c.die, tag := s.nextId, inc := x, port := 256 + c.die, cmd := true }
    let e : StEntry := { id := s.nextId + 1, place := p, ty := ty, scope := .sys, world := c.world, sum := x, leaves := [l] }
    let (t, kept) := { s with nextId := s.nextId + 2 }.meetStation (stationOf p) e
    if kept then t.updCmd c.id (fun c => { c with packets := c.packets ++ [l.tag] }) else alone t

def startCmd (s : State) (c : CopyCmd) : Option State :=
  let started := fun (s : State) => s.updCmd c.id (fun c => { c with started := true, got := match c.op with
    | .nrd | .natom _ _ _ _ => List.replicate c.len 0
    | _ => [] })
  match c.op with
  | .cpy => some (started s)
  | .nlist => some (started s)
  | .nwr => s.whenThere c [(c.src, c.len, .read)] (fun s =>
      let s := (started s).flushLoc c.who c.src c.len
      some (sendMessage s c .store c.dev c.raddr c.len (s.readLoc c.who c.src c.len) c.arrival 0))
  | .nrd => some (sendMessage (started s) c .load c.dev c.raddr c.len [] 0 0)
  | .natom op ty comb x => some (sendAtomic (started s) c op ty comb x)

def execCopyEngineCommandStart (cmd : Nat) (s : State) : Host.Outcome State Fault Refusal :=
  .next (((s.cmd? cmd).bind (fun c => if s.mayStart c then startCmd s c else none)).getD s)

/-! ## Send lists (R333) -/

/-- The fields of a send-list entry. -/
structure ListEntry where
  src : Nat
  raddr : Nat
  len : Nat
  dev : Nat
  arrival : Word
  header : List Byte
  /-- A field that must be zero is not, or names no device. -/
  bad : Bool
  deriving DecidableEq, Repr

def listEntry (e : List Byte) : ListEntry :=
  let num := fun (lo hi : Nat) => natOfBytes ((e.drop lo).take (hi - lo))
  { src := num 0 8, raddr := num 8 16, len := num 16 20, dev := num 20 24, arrival := BitVec.ofNat 32 (num 24 28),
    header := (e.drop 32).take 16,
    bad := num 28 32 != 0 || num 48 64 != 0 || !isDevice (num 20 24) || num 24 28 / 2 ^ 15 % 2 ^ 16 != 0 }

/-- The ranges of this device that an entry reads and writes: a write of nothing is one of a byte (R222). -/
def ListEntry.ranges (e : ListEntry) (devNum : Nat) : List (Loc × Nat × Need) :=
  (.va e.src, e.len, .read) :: (if e.dev = devNum then [(.va e.raddr, 16 + Nat.max e.len 1, .write)] else [])

/-- Does an earlier write of the command's thread still meet what an entry reads, or writes on this device (R259)? -/
def State.payloadWaits (s : State) (c : CopyCmd) (e : ListEntry) : Bool :=
  match c.owner with
  | some (b, g, l) =>
    (s.laneReqs b g l).any (fun r => decide (r.id < c.id) && r.kind != .load && (e.ranges s.devNum).any (s.meetsRange c.who r))
  | none => false

/-- The engine reads and checks one entry, and sends it; one that may not be sent is counted. An entry whose page or payload is
still to come waits. -/
def sendEntry (s : State) (c : CopyCmd) : Option State :=
  let at' : Loc := match c.src with
    | .va a => .va (a + 64 * c.next)
    | .at p => .at (p.plus (64 * c.next))
    | .none => .none
  s.whenThere c [(at', 64, .read)] (fun s =>
    let t := s.flushLoc c.who at' 64
    let e := listEntry (t.readLoc c.who at' 64)
    let src : LocalRange := ⟨⟨BitVec.ofNat 64 e.src, false, 0⟩, false, e.len, .read⟩
    let past := fun (s : State) => s.updCmd c.id (fun c => { c with next := c.next + 1 })
    let reach : Chk :=
      if e.dev == s.devNum then s.rangeNow c.who (.va e.raddr) (16 + Nat.max e.len 1) .write
      else if s.peerOk c.ctx e.dev e.raddr (16 + Nat.max e.len 1) then .const 0 else .bad 55 (engTrap 8 1 0)
    let payload := if inWindow e.src then checkLocal 10 s c.core c.ctx none src else s.rangeNow c.who (.va e.src) e.len .read
    if e.bad then some (past (t.countFault c.ctx))
    else
      match worst [payload, reach] with
      | .bad _ _ => some (past (t.countFault c.ctx))
      | .fill p _ _ => if s.pageFills.any (fun g => g.ctx == p.ctx && g.page == p.page) then none else some (s.askFill p)
      | _ =>
        if s.payloadWaits c e || !s.rangeRoom c.who (.va e.src) e.len .read then none
        else
          let from' := Loc.va e.src
          let s := (past t).flushLoc c.who from' e.len
          some (sendMessage s c .store e.dev e.raddr (16 + e.len) (e.header ++ s.readLoc c.who from' e.len) e.arrival c.next))

def execSendListEntry (cmd : Nat) (s : State) : Host.Outcome State Fault Refusal :=
  .next (((s.cmd? cmd).bind (fun c =>
    if c.started && c.op == .nlist && decide (c.next < c.len) then sendEntry s c else none)).getD s)

/-! ## At the target (R332) -/

/-- A packet that performs nothing, in the place of one that is not to be performed (22_link.md R433). -/
def Packet.voided (p : Packet) : Packet := { p with cmd := none, req := none, leaves := [], void := true, returns := 0 }

/-- No further bytes of a command's message move: void markers take the place of its packets, and those that have no number yet never
leave. For any command but a send list the message is all of it. -/
def State.voidMessage (s : State) (c : CopyCmd) (msg : Nat) : State :=
  let hit := fun (p : Packet) => p.cmd == some c.id && (c.op != .nlist || p.msg == msg)
  let ids := ((s.packets ++ s.queued).filter hit).map Packet.id
  let s := { s with packets := s.packets.map (fun (p : Packet) => if hit p then p.voided else p)
                    queued := s.queued.filter (fun p => !hit p) }
  s.updCmd c.id (fun c => { c with packets := c.packets.filter (fun i => !ids.contains i) })

/-- R332: a remote fault: no further bytes move, the command completes, and one counter moves. -/
def remoteFaultOf (s : State) (c : CopyCmd) (msg : Nat) : State :=
  let s := s.voidMessage c msg
  match c.op with
  | .nrd => s.loseData c.ctx
  | _ => s.countFault c.ctx

/-- The oldest packet of a command that is on its way to another device, a combined one that carries a constituent of it included. -/
def State.packetAway (s : State) (c : CopyCmd) : Option Packet :=
  s.packets.find? (fun p => p.dst != s.devNum && (p.cmd == some c.id || p.leaves.any (fun l => l.cmd && c.packets.contains l.tag)))

/-- A request is lost: its reply is zeros, or an acknowledgement of nothing, and counts as data loss (22_link.md R419). -/
def State.loseReq (s : State) (id : Nat) : State :=
  s.updReq id (fun q => if q.performed then { q with lost := true } else { q with performed := true, lost := true })

/-- The packet is acknowledged, no link keeps its flits, and its flow has room for another. -/
def State.packetGone (s : State) (id : Nat) : State :=
  ({ s with packets := s.packets.filter (fun q => q.id != id) }.dropFlits (.packet id)).fillFlows

/-- A packet, or a constituent, of a command is no longer out. -/
def State.packetBack (s : State) (cmd id : Nat) : State := s.updCmd cmd (fun c => { c with packets := without id c.packets })

/-- A constituent of a combined packet that its target refuses: an `natom` ends with a fault counted, a thread's atomic as lost. -/
def State.refuseLeaf (s : State) (l : Leaf) : State :=
  if l.cmd then
    match s.cmdOf l.tag with
    | some c => (s.packetBack c.id l.tag).countFault c.ctx
    | none => s
  else s.loseReq l.tag

/-- A target on another device refuses a packet of a command, the oldest of it that is out, with every constituent that it carries
(log 7). -/
def execRemoteFault (cmd : Nat) (s : State) : Host.Outcome State Fault Refusal :=
  .next (((s.cmd? cmd).bind (fun c => (s.packetAway c).map (fun p =>
    if p.leaves.isEmpty then remoteFaultOf s c p.msg else p.leaves.foldl State.refuseLeaf (s.packetGone p.id)))).getD s)

/-- R330, R332: an arrival adds 1 to a counter SRAM word that lies in a counter region of the peer. An action that it
fires samples the homes (13_ordering.md R261). -/
def arriveAt (s : State) (peer : Nat) (arrival : Word) (vec : VecD) : Option State :=
  let d := (arrival.extractLsb' 13 2).toNat
  let w := (arrival.extractLsb' 0 13).toNat
  if (s.ctx peer).ctrRegions.any (fun r => r.die == d && decide (r.first ≤ w) && decide (w < r.first + r.count)) then
    let old := s.natAt (.sram d (8 * w)) 8
    some ((s.modDie d (fun x => { x with arrived := insertNat w x.arrived })).commitSram d (8 * w) (bytesOfNat (old + 1) 8) vec)
  else none

/-- Where the bytes of a packet of a command lie: the peer's addresses on another device, or this context's own. -/
def packetLoc (s : State) (p : Packet) : Loc := if p.dst = s.devNum then .va p.addr else .at (.dev (8192 + p.dst) p.addr)

def packetPlace (s : State) (c : CopyCmd) (p : Packet) (n : Need) : Option Place := s.locPlace c.who (packetLoc s p) 0 n

/-- The packet's range at its target, as the tables stand. -/
def packetNow (s : State) (c : CopyCmd) (p : Packet) : Chk :=
  worst (c.op.needs.map (fun n => s.rangeNow c.who (packetLoc s p) p.len n))

/-- Has the host link behind the packet's range room (22_link.md R424)? -/
def packetRoom (s : State) (c : CopyCmd) (p : Packet) : Bool := c.op.needs.all (s.rangeRoom c.who (packetLoc s p) p.len)

def putGot (got : List Byte) (off : Nat) (bytes : List Byte) : List Byte :=
  got.take off ++ bytes ++ got.drop (off + bytes.length)

/-- An atomic of a command performed at a place (R232), with its floating-point events. -/
def commandAtomic (s : State) (c : CopyCmd) (op : AtomOp) (ty : Ty) (x : BitVec 64) (q : Place) : State :=
  let n := tySize ty
  s.engineAt c.who q id fun s =>
  let s := (s.flush q n).readLoss c.ctx q n
  let old := s.natAt q n
  let (new, es) := atomNew op ty old (x.toNat % 2 ^ (8 * n))
  let (s, v) := s.commitAt q (bytesOfNat new n) false (if q.remote then {} else c.vec)
  let s := match c.inst with
    | some i => countEvents s c.ctx i es
    | none => countTotals s c.ctx es
  s.updCmd c.id (fun c => { c with got := bytesOfNat old n, made := c.made.max v })

/-- The packet's reads, writes or atomic at its target. -/
def packetEffect (s : State) (c : CopyCmd) (p : Packet) : State :=
  let loc := packetLoc s p
  match c.op with
  | .nrd =>
    let s := s.flushLoc c.who loc p.len
    let bytes := s.readLoc c.who loc p.len
    s.updCmd c.id (fun c => { c with got := putGot c.got (p.addr - c.raddr) bytes })
  | .natom op ty _ x => ((packetPlace s c p .write).map (commandAtomic s c op ty x)).getD s
  | _ =>
    let (s, v) := s.writeLoc c.who loc p.bytes (if p.dst = s.devNum then c.vec else {})
    s.updCmd c.id (fun c => { c with made := if p.dst = s.devNum then c.made.max v else c.made })

/-- A constituent of a combined packet, performed as its own atomic (R336). -/
def performLeaf (s : State) (e : Packet) (l : Leaf) : State :=
  if l.cmd then
    match s.cmdOf l.tag with
    | some c => (match c.op with
        | .natom op ty _ x => commandAtomic s c op ty x (.dev (8192 + e.dst) e.addr)
        | _ => s)
    | none => s
  else
    match s.req? l.tag with
    | some q => if q.performed then s else s.performReq q
    | none => s

/-- A packet performed in its turn at its target; none while it waits. A request's own packet is performed with its reply. -/
def networkArrive (s : State) (p : Packet) : Option State :=
  if p.void then some (s.packetGone p.id)
  else if p.req.isSome || !s.packetTurn p || s.stuck p then none
  else if !p.leaves.isEmpty then some (p.leaves.foldl (fun s l => performLeaf s p l) (s.packetGone p.id))
  else
    match p.cmd.bind s.cmd? with
    | none => some (s.packetGone p.id)
    | some c =>
      match packetNow s c p with
      | .fill f _ _ => if s.pageFills.any (fun g => g.ctx == f.ctx && g.page == f.page) then none else some (s.askFill f)
      | .bad _ _ => some (remoteFaultOf ((s.packetGone p.id).packetBack c.id p.id) c p.msg)
      | _ =>
        if !packetRoom s c p then none else
        let t := packetEffect ((s.packetGone p.id).packetBack c.id p.id) c p
        if !p.arrival.getLsbD 31 then some t
        else if p.dst == s.devNum then some ((arriveAt t c.ctx p.arrival c.vec).getD (t.countFault c.ctx))
        else some (if Config.arrivalRefused p.id then t.countFault c.ctx else t)

def execNetworkArrival (pkt : Nat) (s : State) : Host.Outcome State Fault Refusal :=
  .next (((s.packets.find? (fun p => p.id == pkt)).bind (networkArrive s)).getD s)

/-! ## Completion (R331) -/

/-- The write that raises a completion counter by 1; its vector covers the command's writes (R259). -/
def raiseCounter (s : State) (w : Agent) (ctr : Option Nat) (vec : VecD) : State × VecD :=
  match ctr with
  | none => (s, vec)
  | some a =>
    match s.locPlace w (.va a) 0 .write with
    | none => (s, vec)
    | some p => s.engineAt w p (fun s => (s, vec)) (fun s =>
        let s := (s.flush p 8).readLoss w.ctx p 8
        let (s, v) := s.commitAt p (bytesOfNat (s.natAt p 8 + 1) 8) false vec
        (s, vec.max v))

/-- A command that is over: its counter is raised, its locks and its place in the queue are free. -/
def finishCmd (s : State) (c : CopyCmd) (made : VecD) : State :=
  let (s, vec) := raiseCounter s c.who c.ctr ((c.vec.max c.made).max made)
  let s := s.removeCmd c.id
  match c.owner with
  | some (b, g, _) => s.modGroup b g (fun x => { x with cpVec := x.cpVec.max vec })
  | none => s

/-- The ranges that a command reads and writes when its bytes are there, its counter among them. -/
def CopyCmd.ends (c : CopyCmd) : List (Loc × Nat × Need) :=
  (match c.op with
   | .cpy => [(c.src, c.len, Need.read), (c.dst, c.len, Need.write)]
   | .nrd | .natom _ _ _ _ => [(c.dst, c.len, Need.write)]
   | _ => []) ++ (match c.ctr with | some a => [(.va a, 8, Need.write)] | none => [])

def completeCmd (s : State) (c : CopyCmd) : Option State :=
  if !c.started || !c.packets.isEmpty || (c.op == .nlist && decide (c.next < c.len)) then none
  else
    s.whenThere c c.ends (fun s =>
      match c.op with
      | .cpy =>
        let s := s.flushLoc c.who c.src c.len
        let (s, v) := s.writeLoc c.who c.dst (s.readLoc c.who c.src c.len) c.vec
        some (finishCmd s c v)
      | .nrd | .natom _ _ _ _ =>
        let (s, v) := s.writeLoc c.who c.dst c.got c.vec
        some (finishCmd s c v)
      | _ => some (finishCmd s c {}))

def execCopyEngineCommandComplete (cmd : Nat) (s : State) : Host.Outcome State Fault Refusal :=
  .next (((s.cmd? cmd).bind (completeCmd s)).getD s)

end Sys2Proof.Machine
end

