-- ==== Sys2Proof/Machine/EventsMemory.lean ====
section
/-!
DEFINITION. The event rows of memory: home slices, notices, replicas, replies, held lines, combining stations, Kneaders
(10_memory.md R206, R219, R237, 13_ordering.md R251 to R256, 17_counter.md R334 to R338).
-/

set_option linter.unusedVariables false

namespace Sys2Proof.Machine

/-- An event that may take place: its state, if its condition holds. -/
def eventOpt (s : State) (t : Option State) : Host.Outcome State Fault Refusal := .next (t.getD s)

/-! ## Home slices (R251) -/

/-- The record of which a request is the first constituent. -/
def State.recordOf (s : State) (id : Nat) : Option StEntry :=
  s.stations.findSome? (fun e => e.2.records.find? (fun x => x.leaves.head?.any (fun l => !l.cmd && l.tag == id)))

/-- A combined request at the home: its constituents in list order, consecutively (17_counter.md R336). -/
def State.performAll (s : State) (x : StEntry) : State :=
  x.leaves.foldl (fun s l =>
    match s.req? l.tag with
    | some q => if q.performed then s else s.performReq q
    | none => s) s

/-- May every constituent be performed: what it follows is performed or stands in the same list? -/
def State.allFree (s : State) (x : StEntry) : Bool :=
  x.leaves.all (fun l =>
    match s.req? l.tag with
    | some r => r.after.isEmpty && !s.reqs.any (fun q => r.follows q && !x.leaves.any (fun k => k.tag == q.id))
    | none => true)

def homeSlice (s : State) (r : Req) : Option State :=
  if r.place.home?.isNone || r.kind.kneads || r.performed || r.stage != 2 || s.atUnit r then none
  else
    let port := s.port r.world r.place
    let combined := if s.inRecord r.id then s.recordOf r.id else none
    if s.inRecord r.id && combined.isNone then none
    else if !(match combined with | some x => s.allFree x | none => s.free r) then none
    else if port != .pass then some (s.refuseReq r port)
    else if s.readsReplica r then
      match r.place with
      | .mem pa =>
        if (s.replicaLine r).isSome || (s.die (dieOfCore r.core)).fills.any (fun y => y.line == pa / 64) then none
        else some (s.startFill r.ctx (dieOfCore r.core) (pa / 64))
      | _ => none
    else if s.isHeld r.place then some (s.beginWriteBack (r.place.line?.getD 0))
    else
      match combined with
      | some x => some (s.performAll x)
      | none => some (s.performReq r)

def execHomeSliceRequest (req : Nat) (s : State) : Host.Outcome State Fault Refusal :=
  eventOpt s ((s.req? req).bind (homeSlice s))

/-! ## Notices and replicas (R253, R254) -/

/-- Is a notice applicable on a die with applied vector A? -/
def Notice.applicable (x : Notice) (a : VecD) : Bool :=
  a.get x.home + 1 == x.n && [0, 1, 2, 3].all (fun k => k == x.home || decide (x.vec.get k ≤ a.get k))

/-- A line with the bytes and granule tags of a notice. -/
def patchLine (line : Nat) (l : RLine) (x : Notice) : RLine :=
  if x.cells.all (fun c => c.1 / 64 != line) then l
  else
    { bytes := (List.range 64).map (fun i => (x.cells.lookup (64 * line + i)).getD (l.bytes.getD i 0)),
      tags := (List.range 4).map (fun i =>
        if x.cells.any (fun c => c.1 / 16 == 4 * line + i) then x.setTags.contains (4 * line + i)
        else l.tags.getD i false) }

/-- The write of a notice taken in: replica copies and lines on their way that are older than it change, and the applied
vector moves to it, as one step. -/
def Die.apply (d : Die) (x : Notice) : Die :=
  { d with
    notices := d.notices.filter (fun y => !(y.home == x.home && y.n == x.n))
    applied := d.applied.set x.home x.n
    replica := d.replica.map (fun e => (e.1, patchLine e.1 e.2 x))
    fills := d.fills.map (fun (y : Fill) =>
      if y.home == x.home && y.m < x.n then { y with data := patchLine y.line y.data x } else y) }

def execNoticeApply (die home : Nat) (s : State) : Host.Outcome State Fault Refusal :=
  let d := s.die die
  eventOpt s ((d.notices.find? (fun x => x.home == home && x.applicable d.applied)).map (fun x =>
    s.setDie die (d.apply x)))

/-- R254: the line is installed once the applied vector has reached its number. -/
def execReplicaLineInstall (die line : Nat) (s : State) : Host.Outcome State Fault Refusal :=
  let d := s.die die
  eventOpt s ((d.fills.find? (fun y => y.line == line && decide (y.m ≤ d.applied.get y.home))).map (fun y =>
    s.setDie die { d with replica := Tbl.put d.replica line y.data, fills := d.fills.filter (fun z => z.line != line) }))

/-! ## Replies -/

def execLoadReply (req : Nat) (s : State) : Host.Outcome State Fault Refusal :=
  eventOpt s ((s.req? req).bind (fun r => if r.isLd || r.dest != .none then s.replyIn r else none))

def execStoreAck (req : Nat) (s : State) : Host.Outcome State Fault Refusal :=
  eventOpt s ((s.req? req).bind (fun r => if r.isLd || r.dest != .none then none else s.replyIn r))

/-! ## Held lines (R219) -/

/-- An atomic performed at the holder of its line: memory holds its value at once; its number comes with the
write-back. -/
def State.performHeld (s : State) (r : Req) (pa : Nat) : State :=
  let s := s.readLoss r.ctx (.mem pa) r.size
  let old := Memory.readNat s.mem pa r.size
  let put := fun (s : State) (bytes : List Byte) =>
    ({ s with
      mem := Memory.write s.mem pa bytes
      gtags := if bytes.isEmpty then s.gtags else (granules pa r.size).foldl (fun t g => without g t) s.gtags
      held := s.held.map (fun (h : Held) =>
        if h.line == pa / 64 then { h with writes := h.writes ++ [(⟨r.id, pa, bytes, r.vec⟩ : HeldWrite)] } else h) } : State)
  match r.kind with
  | .atomic op _ =>
    let (new, es) := atomNew op r.ty old r.data.toNat
    countEvents ((put s (bytesOfNat new r.size)).markPerformed r.id old false {}) r.ctx r.inst es
  | .cas =>
    (put s (if old = r.cmp.toNat then bytesOfNat r.data.toNat r.size else [])).markPerformed r.id old false {}
  | _ => s

/-- A cluster-scope atomic at its die's unit: performed on the held line, or the line is taken first. -/
def clusterAtomic (s : State) (r : Req) : Option State :=
  match r.place with
  | .mem pa =>
    if !s.atUnit r || !s.free r then none
    else
      let port := s.port r.world r.place
      let unit := dieOfCore r.core
      if port != .pass then some (s.refuseReq r port)
      else
        match s.heldLine (pa / 64) with
        | none =>
          let h : Held := { line := pa / 64, holder := unit, till := s.ns + 1000, writingBack := false, writes := [] }
          some ({ s with held := s.held ++ [h] }.performHeld r pa)
        | some h =>
          if h.holder == unit && !h.writingBack && s.ns < h.till then some (s.performHeld r pa)
          else if h.writingBack then none
          else some (s.beginWriteBack h.line)
  | _ => none

def execClusterAtomicUnitRequest (req : Nat) (s : State) : Host.Outcome State Fault Refusal :=
  eventOpt s ((s.req? req).bind (clusterAtomic s))

def execAtomicLeaseExpiry (line : Nat) (s : State) : Host.Outcome State Fault Refusal :=
  event s ((s.heldLine line).any (fun h => !h.writingBack && decide (h.till ≤ s.ns))) (s.beginWriteBack line)

def execAtomicWriteBackComplete (line : Nat) (s : State) : Host.Outcome State Fault Refusal :=
  eventOpt s (((s.heldLine line).filter (fun h => h.writingBack)).map (fun h =>
    s.writeBack h))

/-! ## Combining stations (R334 to R338) -/

def execCombiningArrival (req : Nat) (s : State) : Host.Outcome State Fault Refusal :=
  eventOpt s ((s.req? req).bind (combineArrive s))

def execCombinedRequestForward (station entry : Nat) (s : State) : Host.Outcome State Fault Refusal :=
  eventOpt s (((s.station station).table.find? (fun e => e.id == entry && s.entryRoom e)).map (s.forwardEntry station))

def execDecombineReply (station rcd : Nat) (s : State) : Host.Outcome State Fault Refusal :=
  eventOpt s (((s.station station).records.find? (fun e => e.id == rcd && s.entryDone e)).map (s.splitReply station))

def execCombiningRecordExpiry (die req : Nat) (s : State) : Host.Outcome State Fault Refusal :=
  event s ((s.die die).dups.any (fun p => p.tag == req && decide (p.till ≤ s.ns)))
    (s.modDie die (fun x => { x with dups := x.dups.filter (fun p => !(p.tag == req && decide (p.till ≤ s.ns))) }))

/-! ## Kneaders (R237) -/

def kneadPacket (s : State) (r : Req) : Option State :=
  if !r.kind.kneads || r.place.home?.isNone || !s.free r then none
  else
    let port := s.port r.world r.place
    if port != .pass then some (s.refuseReq r port)
    else if s.isHeld r.place then some (s.beginWriteBack (r.place.line?.getD 0))
    else
      match kneadAt s r with
      | .done t x v => some (t.markPerformed r.id x false v)
      | .fill f => some (s.askFill f)
      | .held l => some (s.beginWriteBack l)

def execKneaderPacketPerform (req : Nat) (s : State) : Host.Outcome State Fault Refusal :=
  eventOpt s ((s.req? req).bind (kneadPacket s))

end Sys2Proof.Machine
end

