-- ==== Sys2Proof/Machine/Convert.lean ====
section
/-!
DEFINITION. Major 6, conversion and packing, and major 7, the log formats (06_arith.md R149 to R154).
-/

set_option linter.unusedVariables false

namespace Sys2Proof.Machine

/-- The pattern of a source of any type: a literal of a float type is the integer in that type; any other literal
supplies its low bits after sign extension (R28, R81). -/
def View.numSrc (v : View) (ty : Ty) (a : Src) : Nat :=
  match a, Num.of ty with
  | .lit x, .flt t => litF t x
  | a, _ => if ty.wide then (v.src64 a).toNat else (v.src a).toNat

/-- A result of a type as it is written: an integer widened to the register (R70), anything else with zeros above. -/
def View.putNum (v : View) (ty : Ty) (d : BitVec 9) (x : Nat) : Lane :=
  match Num.of ty with
  | .int sg w => v.put ty.wide d (if ty.wide then x else (extend32 sg w x).toNat)
  | _ => v.put ty.wide d x

def execCvt (f : FForm) (m : CMods) (ty2 : Ty) (s : State) : Host.Outcome State Fault Refusal :=
  runLanes f.g (srcUse ty2.wide f.a ++ regUse m.ty.wide f.d) s (fun v i =>
    let (x, es) := convertTo (Num.of m.ty) m.rnd m.sat ((Num.of ty2).read (v.numSrc ty2 f.a))
    (v.putNum m.ty f.d x, es))

/-- R150: sub-element `j` of `n` replaced in a register; bits above the last one are written zero (04_numbers.md R90). -/
def setEl (w n x j y : Nat) : Nat :=
  (x % 2 ^ (w * j) + 2 ^ (w * j) * (y % 2 ^ w) + 2 ^ (w * (j + 1)) * (x / 2 ^ (w * (j + 1)))) % 2 ^ (w * n)

def execPack (f : FForm) (m : CMods) (ty2 : Ty) (pk : Pack) (s : State) : Host.Outcome State Fault Refusal :=
  runLanes f.g (srcUse ty2.wide f.a ++ srcUse false f.b ++ regUse false f.d) s (fun v i =>
    let w := pk.width
    let j := (v.src f.b).toNat % pk.count
    let (x, es) := convertTo (Num.sub m.ty w) m.rnd m.sat ((Num.of ty2).read (v.numSrc ty2 f.a))
    (v.put false f.d (setEl w pk.count (v.old false f.d) j x), es))

def execUnpack (f : FForm) (m : CMods) (ty2 : Ty) (pk : Pack) (s : State) : Host.Outcome State Fault Refusal :=
  runLanes f.g (srcUse false f.a ++ srcUse false f.b ++ regUse m.ty.wide f.d) s (fun v i =>
    let w := pk.width
    let a := match f.a with
      | .lit x => (match Num.of ty2 with
          | .flt t => joinEls 16 [litF t x, litF t x]
          | _ => litEls pk x)
      | a => (v.src a).toNat
    let j := (v.src f.b).toNat % pk.count
    let (x, es) := convertTo (Num.of m.ty) m.rnd m.sat ((Num.sub ty2 w).read (subEl w a j))
    (v.putNum m.ty f.d x, es))

/-! ## Log formats -/

/-- A log format by its type. -/
def LFmt.of : Ty → LFmt
  | .l4 => l4Fmt
  | .l6 => l6Fmt
  | _ => l8Fmt

/-- A source of log elements; a packed literal fills every sub-element. -/
def View.logSrc (v : View) (pk : Pack) (a : Src) : Nat :=
  match a with
  | .lit x => if pk = .none then (v.src a).toNat else litEls pk x
  | _ => (v.src a).toNat

/-- R152. -/
def lmulEl (m : CMods) (fmt : Ty) (a b : Nat) : Nat × Events :=
  let t := LFmt.of fmt
  convertTo (Num.of m.ty) m.rnd m.sat (.flt (lprod t a b))

def execLmul (f : FForm) (m : CMods) (fmt : Ty) (pk : Pack) (s : State) : Host.Outcome State Fault Refusal :=
  runLanes f.g (srcUse false f.a ++ srcUse false f.b ++ regUse m.ty.wide f.d) s (fun v i =>
    let a := v.logSrc pk f.a
    let b := v.logSrc pk f.b
    if pk = .none then
      let (x, es) := lmulEl m fmt a b
      (v.put m.ty.wide f.d x, es)
    else
      let w := pk.width
      let out := (List.range pk.count).map (fun j => lmulEl m fmt (subEl w a j) (subEl w b j))
      (v.put false f.d (joinEls w (out.map Prod.fst)), out.flatMap Prod.snd))

/-- R153. -/
def execLcvt (f : FForm) (m : CMods) (src : Ty) (s : State) : Host.Outcome State Fault Refusal :=
  runLanes f.g (srcUse src.wide f.a ++ regUse m.ty.wide f.d) s (fun v i =>
    let x := match (Num.of src).read (v.numSrc src f.a) with
      | .log t b => .flt (decodeL t b)
      | y => y
    let (y, es) := convertTo (Num.of m.ty) m.rnd m.sat x
    (v.put m.ty.wide f.d y, es))

/-- The packed count of `ldot`'s elements (R154). -/
def dotPack : Ty → Pack
  | .l6 => .x5
  | .l4 => .x8
  | _ => .x4

/-- R154: the k products of same-numbered sub-elements, summed with the accumulator. -/
def ldotEl (m : CMods) (a b c : Nat) : Nat × Events :=
  let pk := dotPack m.ty
  let w := pk.width
  let el := fun (j : Nat) => (subEl w a j, subEl w b j)
  match Num.of m.ty with
  | .log t =>
    windowSum ((List.range pk.count).map (fun j => .val (lprod t (el j).1 (el j).2))) (decodeF f32Fmt c)
  | _ =>
    let sg := m.ty.signed
    let sum := (List.range pk.count).foldl (fun x j => x + intOf sg 8 (el j).1 * intOf sg 8 (el j).2) (intOf sg 32 c)
    (deliver m.sat sg 32 sum, [])

def execLdot (f : FForm) (m : CMods) (s : State) : Host.Outcome State Fault Refusal :=
  let pk := dotPack m.ty
  runLanes f.g (srcUse false f.a ++ srcUse false f.b ++ regUse false f.c ++ regUse false f.d) s (fun v i =>
    let (x, es) := ldotEl m (v.logSrc pk f.a) (v.logSrc pk f.b) (v.old false f.c)
    (v.put false f.d x, es))

end Sys2Proof.Machine
end

