-- ==== Sys2Proof/Machine/Fetch.lean ====
section
/-!
DEFINITION. Fetching the word of a candidate: its address, the execute right, the instruction cache and the
decoder's checks (09_page.md R199, R204, 03_formats.md R47, R67, 05_group.md R104).
-/

set_option linter.unusedVariables false

namespace Sys2Proof.Machine

/-- What comes of a candidate's issue. -/
inductive Fetched where
  /-- Nothing issues, or the path waits or traps: the state as it then is. -/
  | none (s : State)
  /-- The instruction, with the path in focus. -/
  | word (s : State) (i : Instr)

/-- R103: may the lane issue? In a trapped group only the handler's lanes do. -/
def Group.mayIssue (g : Group) (l : Nat) : Bool :=
  match g.trap with
  | none => true
  | some r => r.inside.contains l

/-- The lanes of the candidate that are still ready at its address. -/
def readyLanes (s : State) (c : Candidate) : List Nat :=
  match s.block? c.blk with
  | none => []
  | some b =>
    if b.st == .resident && !(s.core b.core).frozen then
      let g := b.group c.grp
      c.lanes.filter (fun l => (g.lane l).st == .ready && (g.lane l).pc == c.pc &&
        (g.lane l).kern == c.kern && g.mayIssue l)
    else []

/-- The eight words of a line of memory. -/
def lineWords (m : Memory) (line : Nat) : List DWord :=
  (List.range 8).map (fun i => BitVec.ofNat 64 (Memory.readNat m (64 * line + 8 * i) 8))

/-! ## The instruction cache and the loop buffer (01_device.md R10, 20_queue.md R390) -/

/-- The set of a line, of 128: R10 gives the size and the ways, and that consecutive lines take consecutive sets is the model's choice
(log 15). -/
def codeSet (line : Nat) : Nat := line % 128

/-- R390: the ways that instruction fetch uses. -/
def Core.fetchWays (k : Core) : List Nat := List.range (if k.prefetch.isSome then 6 else 8)

/-- A line as the ways of its set that fetch uses hold it. -/
def Core.cachedCode (k : Core) (line : Nat) : Option (List DWord) :=
  k.fetchWays.findSome? (fun w =>
    match Tbl.at k.icache (8 * codeSet line + w) with
    | some x => if x.line = line then some x.words else none
    | none => none)

/-- A line as the core has it: in its loop buffer, or in its instruction cache. -/
def Core.codeLine (k : Core) (line : Nat) : Option (List DWord) :=
  match Tbl.at k.loopBuf line with
  | some x => some x
  | none => k.cachedCode line

def Core.putLine (k : Core) (way line : Nat) (words : List DWord) : Core :=
  { k with icache := Tbl.put k.icache (8 * codeSet line + way) { line := line, words := words } }

/-- A line enters a free way of its set, or, when there is none, takes the place of another line: which one is a free value. -/
def State.fillLine (s : State) (core line : Nat) (words : List DWord) : State :=
  let k := s.core core
  match k.fetchWays.find? (fun w => (Tbl.at k.icache (8 * codeSet line + w)).isNone) with
  | some w => s.modCore core (fun k => k.putLine w line words)
  | none =>
    let (n, s) := s.draw
    s.modCore core (fun k => k.putLine (Config.icacheWay n % k.fetchWays.length) line words)

/-- The word at a physical address as the core's instruction cache gives it: a line is cached when it is
first fetched, which is a read of memory for the context (21_context.md R410); when memory has changed since, the core sees old or
new bytes (R204). -/
def fetchWord (s : State) (core ctx pa : Nat) : State × DWord :=
  let line := pa / 64
  let i := pa / 8 % 8
  let now := lineWords s.mem line
  match (s.core core).codeLine line with
  | none => ((s.fillLine core line now).readLoss ctx (.mem (64 * line)) 64, now.getD i 0)
  | some old =>
    if old == now then (s, now.getD i 0)
    else
      let (k, s) := s.draw
      (s, if Config.fetchSeesOld k then old.getD i 0 else now.getD i 0)

/-- The loop buffer takes in the line of a word inside an open loop; a `loop` word empties it, so that each
loop entry fetches afresh (10_memory.md R231). R10 gives its 256 instructions; that it holds whole lines, the first 32 that are fetched
inside the loop, is the model's choice (log 15). -/
def State.loopFetch (s : State) (f : Focus) (core pa : Nat) (i : Instr) : State :=
  match i with
  | .loop _ => if (s.core core).loopBuf.isEmpty then s else s.modCore core (fun k => { k with loopBuf := [] })
  | _ =>
    let inside := f.lanes.any (fun l => (s.flane f l).slots.any (fun x => decide (x.start ≤ f.pc) && decide (f.pc < x.stop)))
    let k := s.core core
    if inside && decide (k.loopBuf.length < 32) && (Tbl.at k.loopBuf (pa / 64)).isNone then
      match k.cachedCode (pa / 64) with
      | some ws => s.modCore core (fun k => { k with loopBuf := Tbl.put k.loopBuf (pa / 64) ws })
      | none => s
    else s

/-- The word that a kernel has at an index where its code reads `w`: in a translated image the word of the virtual image, for which
the native code stands (15_tile.md R291; log 18). -/
def Kern.wordAs (k : Kern) (pc : Nat) (w : DWord) : DWord := (k.virt[pc]?).getD w

/-- The word at a word index of a kernel, read from memory without the cache: the word that the bank
exemption looks at (03_formats.md R64: judged from the code alone). -/
def codeWord (s : State) (core ctx : Nat) (k : Kern) (pc : Nat) : Option DWord :=
  match translate s.mem (s.core core).tlb ctx (s.ctx ctx) (k.codeVa + 8 * pc) .fetch with
  | .at (.mem pa) _ => some (k.wordAs pc (BitVec.ofNat 64 (Memory.readNat s.mem pa 8)))
  | _ => none

/-- The candidate's word, decoded with the path in focus. -/
def fetch (s : State) (c : Candidate) : Fetched :=
  let lanes := readyLanes s c
  if lanes.isEmpty then .none s
  else
    let b := s.block c.blk
    match s.kern b.ctx c.kern with
    | none => .none s
    | some k =>
      let f : Focus := { blk := c.blk, grp := c.grp, kern := c.kern, pc := c.pc, lanes := lanes, word := 0, second := c.second }
      let va := k.codeVa + 8 * c.pc
      let stop := fun (sub : Nat) => Fetched.none
        (takeTrap s f { cause := 8, sub := sub, kind := .fetch, addr := BitVec.ofNat 64 va, lanes := lanes })
      match translate s.mem (s.core b.core).tlb b.ctx (s.ctx b.ctx) va .fetch with
      | .fault sub => stop sub
      | .fill p => .none ((s.askFill p).onLanes f lanes (fun _ l => { l with st := .waiting (.page p.ctx p.page .fetch (BitVec.ofNat 64 va)) }))
      | .at (.mem pa) t =>
        let s := s.modCore b.core (fun x => { x with tlb := addTlb t x.tlb })
        let (s, m) := fetchWord s b.core b.ctx pa
        let w := k.wordAs c.pc m
        let prev := if c.pc = 0 then none else codeWord s b.core b.ctx k (c.pc - 1)
        let f := { f with word := w }
        match decode prev w with
        | .error e => .none (takeTrap s f { cause := 1, sub := e.code, lanes := lanes })
        | .ok i => .word { s.loopFetch f b.core pa i with focus := some f } i
      | .at _ _ => stop 2

end Sys2Proof.Machine
end

