-- ==== Sys2Proof/Machine/Control.lean ====
section
/-!
DEFINITION. Majors 0 and 23, control, loops and pool: branches, rejoin masks, exit, return stacks, yield, hardware loops and
register growth (05_group.md R107 to R126).
-/

set_option linter.unusedVariables false

namespace Sys2Proof.Machine

/-! ## Lanes that are gone (R99, R116, R401) -/

def Group.live (g : Group) : List Nat := (List.range g.lanes.length).filter (fun i => (g.lane i).st != .exited)

/-- Slices of a group whose lanes have all exited and which are not yet freed (R99). -/
def Group.emptySlices (g : Group) : List Nat :=
  (List.range (g.width / 16)).filter (fun k =>
    !g.freed.contains k && ((List.range 16).all (fun i => (g.lane (16 * k + i)).st == .exited)))

/-- R99: the registers of freed slices go to the block's reserve, and whole 16 KiB units to the pool. Those of a group that
has no lane left return only once the block's tile work has drained (R103, R116). -/
def freeSlices (drained : Bool) (b : Block) (gi : Nat) : Block :=
  let g := b.group gi
  let ks := if g.live.isEmpty && !drained then [] else g.emptySlices
  let total := b.reserve + ks.length * 16 * g.nregs * 4
  { b.modGroup gi (fun g => { g with freed := g.freed ++ ks }) with
    reserve := total % 16384, returned := b.returned + total / 16384 }

/-- Lanes that leave the handler by exiting leave the trapping set (R401). -/
def settleTrap (g : Group) : Group :=
  match g.trap with
  | none => g
  | some r => trapReturn 0 g r [] false

/-- A block whose last lane has exited retires once its work drains (R116). -/
def settleBlock (b : Block) : Block :=
  if b.st == .resident && b.groups.all (fun g => g.live.isEmpty) then { b with st := .retiring } else b

/-- R116: a lane's loads still outstanding are discarded. -/
def State.discardLoads (s : State) (b g l : Nat) : State :=
  ((s.laneReqs b g l).filter (fun r => r.kind == .load && (match r.dest with | .hyper _ _ => false | _ => true))).foldl
    State.complete s

/-- R116: lanes of the path exit. -/
def retireLanes (s : State) (f : Focus) (ls : List Nat) : State :=
  if ls.isEmpty then s
  else
    let s := ls.foldl (fun s l => s.discardLoads f.blk f.grp l) s
    let s := s.onLanes f ls (fun _ l => l.exit)
    s.modBlock f.blk (fun b => settleBlock ((freeSlices (!s.hasTile f.blk) b f.grp).modGroup f.grp settleTrap))

/-- The tile work of a block has drained: the registers of its retired groups return (R103). -/
def State.freeDrained (s : State) (blk : Nat) : State :=
  if s.hasTile blk then s
  else s.modBlock blk (fun b => (List.range b.groups.length).foldl (freeSlices true) b)

/-! ## Waits on rejoin masks (R112 to R115) -/

def Group.heldAt (g : Group) (j : Nat) : List Nat := g.live.filter (fun i => (g.lane i).st == .held j)

/-- Every lane named in the mask is arrived. -/
def Group.allArrived (g : Group) (w : JWait) : Bool :=
  let m := Cells.get g.j w.j
  (List.range g.lanes.length).all (fun i =>
    !bitAt m i || (g.lane i).st == .held w.j || (g.lane i).st == .exited || w.timed.contains i)

/-- Held lanes go on at the word after their `jwait` (R113). -/
def Group.release (g : Group) (ls : List Nat) : Group := g.modLanes ls (fun _ l => l.advance (l.pc + 1))

/-- R112: a lane arrives at a wait: it opens it, or after a timeout restarts its bound. -/
def Group.arrive (g : Group) (j : Nat) (bound : Option Nat) : Group :=
  if g.waits.any (fun w => w.j == j) then
    { g with waits := g.waits.map (fun (w : JWait) =>
        if w.j == j && !w.timed.isEmpty then { w with bound := bound } else w) }
  else { g with waits := g.waits ++ [{ j := j, bound := bound, timed := [] }] }

/-- R115: every live lane is held at a wait without a bound, and none can close. -/
def Group.deadlocked (g : Group) : Bool :=
  !g.live.isEmpty &&
  g.live.all (fun i => match (g.lane i).st with
    | .held j => g.waits.any (fun w => w.j == j && w.bound.isNone)
    | _ => false) &&
  g.waits.all (fun w => !g.allArrived w)

/-- R115: the held path of the oldest open wait takes the member-exited trap. Where its lanes are held at several words,
that path is the one at the lowest word (log 26). In a trapped group only a path in the handler can trap (R103, R400). -/
def State.rejoinDeadlock (s : State) (blk grp : Nat) : State :=
  let b := s.block blk
  let g := b.group grp
  if !g.deadlocked || b.st != .resident then s
  else
    let held := fun (w : JWait) => (g.heldAt w.j).filter (fun i => g.trap.all (fun r => r.inside.contains i))
    match g.waits.find? (fun w => !(held w).isEmpty) with
    | none => s
    | some w =>
      let ls := held w
      let key := fun i => (g.lane i).kern * 2 ^ 32 + (g.lane i).pc
      let low := ((ls.map key).min?).getD 0
      let ls := ls.filter (fun i => key i == low)
      let kern := low / 2 ^ 32
      let pc := low % 2 ^ 32
      let k := (s.kern b.ctx kern).getD {}
      let word := (codeWord s b.core b.ctx k pc).getD 0
      takeTrap s { blk := blk, grp := grp, kern := kern, pc := pc, lanes := ls, word := word } { cause := 9, lanes := ls }

/-- After a word that may leave every lane held, the test of R115. -/
def thenDeadlock (s : State) (o : Host.Outcome State Fault Refusal) : Host.Outcome State Fault Refusal :=
  match s.focus, o with
  | some f, .next t => .next (t.rejoinDeadlock f.blk f.grp)
  | _, o => o

/-! ## Branches (R109, R110) -/

/-- A word index in 32 bits. -/
def wordIx (x : Nat) : Nat := x % 2 ^ 32

/-- PC + 1 + a signed offset. -/
def relTarget (pc : Nat) (off : BitVec 32) : Nat := (BitVec.ofNat 32 (pc + 1) + off).toNat

def boundsTrap (ls : List Nat) : Trap := { cause := 5, lanes := ls }

/-- Lanes in which the word does not act and which would fall through the end of the code (R110). -/
def idleOutside (s : State) (f : Focus) (g : Guard) : List Nat :=
  let size := (s.fkern f).size
  f.lanes.filter (fun l => !(s.flane f l).acts g && size ≤ (s.flane f l).landing (f.pc + 1))

/-- The lanes with targets at or above the code size (R110). -/
def badTargets (s : State) (f : Focus) (ts : List (Nat × Nat)) : List Nat :=
  (ts.filter (fun t => (s.fkern f).size ≤ t.2)).map Prod.fst

/-- A branch to the targets of the acting lanes. The lanes with targets outside trap alone, before lanes of the word that
would fall through the end: DESIGN CHOICE (log 94). -/
def branch (s : State) (f : Focus) (ts : List (Nat × Nat)) : Eff :=
  let bad := badTargets s f ts
  if bad.isEmpty then .ok s (ts.map (fun t => (t.1, .go t.2))) else .trapNow (boundsTrap bad)

def execNop (f : FForm) (s : State) : Host.Outcome State Fault Refusal := runWord s [] (fun s _ => .ok s [])

def execBra (l : LForm) (s : State) : Host.Outcome State Fault Refusal :=
  runWord s [] (fun s f => branch s f ((s.acting f l.g).map (fun i => (i, relTarget f.pc l.lit))))

def execBrx (x : FForm) (s : State) : Host.Outcome State Fault Refusal :=
  runWord s (srcUse false x.a) (fun s f =>
    branch s f ((s.acting f x.g).map (fun i => (i, ((s.view f i).src x.a).toNat))))

/-! ## Rejoin masks -/

def execJoin (x : FForm) (s : State) : Host.Outcome State Fault Refusal :=
  thenDeadlock s (runWord s (srcUse true x.a) (fun s f =>
    match lowestActing s f x.g with
    | none => .ok s []
    | some i =>
      let m := (s.view f i).src64 x.a
      .ok (s.onGroup f (fun g => { g with j := Cells.set g.j x.d.toNat (laneMask g.width m) })) []))

def execJwait (x : FForm) (bounded : Bool) (j : BitVec 3) (s : State) : Host.Outcome State Fault Refusal :=
  thenDeadlock s (runWord s (if bounded then srcUse false x.a else []) (fun s f =>
    let m := Cells.get (s.fgroup f).j j.toNat
    let ls := (s.acting f x.g).filter (bitAt m)
    match ls, lowestActing s f x.g with
    | _ :: _, some i =>
      let bound := if bounded then some (s.clock + ((s.view f i).src x.a).toNat) else none
      .ok (s.onGroup f (fun g => g.arrive j.toNat bound)) (ls.map (fun l => (l, .hold j.toNat)))
    | _, _ => .ok s []))

/-- R114: a lane dropped while it is held at the mask's wait is released at once. -/
def execJdrop (x : FForm) (s : State) : Host.Outcome State Fault Refusal :=
  thenDeadlock s (runWord s [] (fun s f =>
    let ls := s.acting f x.g
    let j := x.d.toNat
    .ok (s.onGroup f (fun g =>
      let free := (g.heldAt j).filter ls.contains
      { g.release free with j := Cells.set g.j j (Cells.get g.j j &&& ~~~maskOf ls) })) []))

/-! ## Exit (R116) -/

def execExit (x : FForm) (s : State) : Host.Outcome State Fault Refusal :=
  thenDeadlock s (runWord s [] (fun s f =>
    let ls := s.acting f x.g
    .ok (retireLanes s f ls) (ls.map (fun l => (l, .stay)))))

/-! ## Calls and returns (R117 to R119) -/

/-- A control word that accesses memory for its return stacks: a trap of such an access stands before anything is
changed, after the lanes that would fall through. -/
def stackWord (g : Guard) (chk : State → Focus → Nat → Chk) (gate : State → Focus → Nat → Option Wait)
    (go : Focus → State → Nat → Chk → State × Option Next) (s : State) (f : Focus) : Eff :=
  match memWord g false gate chk go s f with
  | .trap t =>
    let bad := idleOutside s f g
    .trapNow (if bad.isEmpty then t else boundsTrap bad)
  | e => e

/-- Outstanding requests of the lane that meet its return-stack access come first. -/
def stackGate (chk : State → Focus → Nat → Chk) (s : State) (f : Focus) (i : Nat) : Option Wait :=
  match chk s f i with
  | .ok p _ =>
    let ids := ((s.laneReqs f.blk f.grp i).filter (fun r => r.place.meets r.size p 16)).map Req.id
    if ids.isEmpty then none else some (.reqs ids)
  | _ => none

/-- The 16 bytes of a spill or refill at an address. -/
def stackCheck (s : State) (f : Focus) (a : DWord) (n : Need) (kind : AccKind) : Chk :=
  let b := s.fblock f
  checkGl s b.core b.ctx ⟨a, false, 0⟩ 0 1 16 [n] kind (n == .write)

/-- R118: the checks of a push: only a full stack spills. -/
def pushCheck (s : State) (f : Focus) (i : Nat) : Chk :=
  let l := s.flane f i
  if l.stack.length < 4 then .const 0
  else if l.sp.toNat < l.stackBase.toNat + 16 then
    .bad rankBounds { cause := 5, kind := .store, addr := l.sp - 16 }
  else stackCheck s f (l.sp - 16) .write .store

/-- A full stack gives its two oldest entries to memory, the second oldest lower. -/
def spill (f : Focus) (s : State) (i : Nat) (p : Place) : State :=
  let l := s.flane f i
  let bytes := bytesOfNat (l.stack.getD 1 0) 8 ++ bytesOfNat (l.stack.getD 0 0) 8
  let (s, v) := (s.flush p 16).commitAt p bytes false l.D
  s.modLane f.blk f.grp i (fun l =>
    { l with sp := l.sp - 16, depth := l.depth + 1, stack := l.stack.drop 2, D := l.D.max v })

def pushLane (ts : List (Nat × Nat)) (f : Focus) (s : State) (i : Nat) (c : Chk) : State × Option Next :=
  let s := match c with
    | .ok p _ => spill f s i p
    | _ => s
  (s.modLane f.blk f.grp i (fun l => { l with stack := l.stack ++ [f.pc + 1] }), (ts.lookup i).map Next.go)

/-- Calls of the acting lanes to their targets. -/
def callTo (g : Guard) (ts : List (Nat × Nat)) (s : State) (f : Focus) : Eff :=
  let bad := badTargets s f ts
  if !bad.isEmpty then .trapNow (boundsTrap bad)
  else
    match stackWord g pushCheck (stackGate pushCheck) (pushLane ts) s f with
    | .ok t nx =>
      (match portStop s f (placesOf s f (s.acting f g) pushCheck) with
       | some u => .stop u
       | none => .ok t nx)
    | e => e

def execCall (l : LForm) (s : State) : Host.Outcome State Fault Refusal :=
  runWord s [] (fun s f => callTo l.g ((s.acting f l.g).map (fun i => (i, relTarget f.pc l.lit))) s f)

def execCallx (x : FForm) (s : State) : Host.Outcome State Fault Refusal :=
  runWord s (srcUse false x.a) (fun s f =>
    callTo x.g ((s.acting f x.g).map (fun i => (i, ((s.view f i).src x.a).toNat))) s f)

/-- R119: does the lane refill? -/
def Lane.refills (l : Lane) : Bool := l.stack.isEmpty && decide (0 < l.depth)

/-- The checks of a return: the refill, then the target it goes to. -/
def popCheck (s : State) (f : Focus) (i : Nat) : Chk :=
  let l := s.flane f i
  if l.refills then
    match stackCheck s f l.sp .read .load with
    | .ok p t =>
      if (s.fkern f).size ≤ wordIx (s.natAt p 8) then .bad 70 (boundsTrap []) else .ok p t
    | c => c
  else
    match l.stack.getLast? with
    | some a => if (s.fkern f).size ≤ a then .bad 70 (boundsTrap []) else .const 0
    | none => .const 0

/-- The lane returns, refilled from memory first where its stack is empty. -/
def popLane (f : Focus) (s : State) (i : Nat) (c : Chk) : State × Option Next :=
  let s := match c with
    | .ok p _ =>
      let s := (s.flush p 16).readLoss (s.fctx f) p 16
      let v := s.latestAt p 16
      s.modLane f.blk f.grp i (fun l =>
        { l with stack := [wordIx (s.natAt (p.plus 8) 8), wordIx (s.natAt p 8)], sp := l.sp + 16, depth := l.depth - 1,
                 D := l.D.max v })
    | _ => s
  match (s.flane f i).stack.getLast? with
  | some a => (s.modLane f.blk f.grp i (fun l => { l with stack := l.stack.dropLast }), some (.go a))
  | none => (s, some .stay)

/-- R377: the lanes whose return would go below the depth they had at `idem`. -/
def belowIdem (s : State) (f : Focus) (ls : List Nat) : List Nat :=
  match (s.fgroup f).region with
  | none => []
  | some r => ls.filter (fun i =>
      let l := s.flane f i
      let d := l.stack.length + 2 * l.depth
      let base := match r.lanes[i]? with
        | some x => x.stack.length + 2 * x.depth
        | none => 0
      decide (0 < d) && decide (d ≤ base))

def execRet (x : FForm) (s : State) : Host.Outcome State Fault Refusal :=
  thenDeadlock s (runWord s [] (fun s f =>
    let ls := s.acting f x.g
    let under := belowIdem s f ls
    if !under.isEmpty then .trapNow { cause := 7, sub := 3, lanes := under }
    else
      let done := ls.filter (fun i => (s.flane f i).stack.isEmpty && (s.flane f i).depth == 0)
      match stackWord x.g popCheck (stackGate popCheck) popLane s f with
      | .ok t nx =>
        (match portStop s f (placesOf s f ls popCheck) with
         | some u => .stop u
         | none => .ok (retireLanes t f done) nx)
      | e => e))

/-! ## Yield (R120) -/

/-- The path's passed-over count is reset; the counts of the group's other candidates stay. -/
def Group.restartCount (g : Group) (f : Focus) : Group :=
  let key := f.kern * 2 ^ 32 + f.pc
  { g with passed := Tbl.del g.passed key, aged := g.aged.filter (fun k => k != key) }

/-- R120: the lanes that act wait; those whose predicate is false go on at once: DESIGN CHOICE (log 110). -/
def execYld (x : FForm) (s : State) : Host.Outcome State Fault Refusal :=
  runWord s (srcUse false x.a) (fun s f =>
    match lowestActing s f x.g with
    | none => .ok s []
    | some i =>
      let n := ((s.view f i).src x.a).toNat
      if n = 0 then .ok s []
      else
        .ok (s.onGroup f (fun g => g.restartCount f))
          ((s.acting f x.g).map (fun l => (l, .goWait (f.pc + 1) (.yielded (s.clock + n))))))

/-! ## Hardware loops (R121, R123) -/

/-- Each acting lane becomes what `k` gives and goes where it says. -/
def eachNext (g : Guard) (k : View → Lane × Next) (s : State) (f : Focus) : Eff :=
  let out := (s.acting f g).map (fun i => (i, k (s.view f i)))
  .ok (s.onLanes f (s.acting f g) (fun i l => match out.lookup i with | some x => x.1 | none => l))
    (out.map (fun x => (x.1, x.2.2)))

def execLoop (x : FForm) (s : State) : Host.Outcome State Fault Refusal :=
  runWord s (srcUse false x.a) (fun s f =>
    eachNext x.g (fun v =>
      let n := (v.src x.a).toNat
      let stop := f.pc + 1 + (v.src x.b).toNat
      let i := x.d.toNat
      if n = 0 then (v.l, .go stop)
      else
        ({ v.l with lc := Cells.set v.l.lc i (BitVec.ofNat 32 n),
                    slots := ⟨i, f.pc + 1, stop⟩ :: v.l.slots.filter (fun y => y.n != i) }, .go (f.pc + 1))) s f)

def execLbrk (x : FForm) (s : State) : Host.Outcome State Fault Refusal :=
  runWord s [] (fun s f =>
    eachNext x.g (fun v =>
      let i := x.d.toNat
      match v.l.slots.find? (fun y => y.n == i) with
      | none => (v.l, .go (f.pc + 1))
      | some y =>
        ({ v.l with lc := Cells.set v.l.lc i 0, slots := v.l.slots.filter (fun z => z.n != i) }, .go y.stop)) s f)

/-! ## Register growth (R124 to R126) -/

/-- The share of the block's register units that a group draws on: its role's, or the whole (18_barrier.md R352). -/
def shareOf (k : Kern) (g : Group) : Nat := if k.roleGroups.isEmpty then 0 else g.role

/-- Groups that draw on a share. -/
def shareGroups (k : Kern) (share : Nat) : Nat :=
  if k.roleGroups.isEmpty then k.groups else k.roleGroups.getD share 0

/-- R98: the register count of a share of `a` units; the units given at launch give a role the count it names. -/
def shareCount (k : Kern) (b : Block) (share a : Nat) : Nat :=
  if !k.roleGroups.isEmpty && a == b.baseUnits.getD share 0 then k.roleRegs.getD share 0
  else Nat.min 512 (a * 4096 / (k.width * shareGroups k share))

/-- The pairs that are the same pairs when the register count goes from `old` to `n`. -/
def keptTags (old n : Nat) (tags : List Nat) : List Nat :=
  tags.filter (fun t => old == n || (decide (t + 1 < n) && decide (t + 1 < old)))

/-- Registers at or above a count are gone. -/
def Lane.trimRegs (l : Lane) (old n : Nat) : Lane :=
  { l with v := l.v.filter (fun e => e.1 < n), tags := keptTags old n l.tags }

/-- A share becomes `a` units: every group that draws on it has the new register count. Units that the reserve of freed slices
has returned count neither here nor in the floor of `rshrink` (log 109). -/
def Block.setShare (k : Kern) (b : Block) (share a : Nat) : Block :=
  let n := shareCount k b share a
  { b with
    regUnits := b.regUnits.set share a
    groups := b.groups.map (fun (g : Group) =>
      if shareOf k g == share then { g with nregs := n, lanes := g.lanes.map (fun l => l.trimRegs g.nregs n) } else g) }

/-- The registers of a lane that replies on their way will fill, when it has `n` registers: an index counts modulo the number
that there are when the reply comes (R98; log 109). -/
def State.pendOf (s : State) (b g l n : Nat) : List Nat :=
  ((s.laneReqs b g l).flatMap (fun r => r.dest.named.map (regIx n))).foldl (fun p x => insertNat x p) []

/-- A block's share becomes `a` units. -/
def State.setShare (s : State) (k : Kern) (blk share a : Nat) : State :=
  s.modBlock blk (fun b =>
    let b := b.setShare k share a
    { b with groups := b.groups.zipIdx.map (fun (g : Group × Nat) =>
        { g.1 with lanes := g.1.lanes.zipIdx.map (fun (l : Lane × Nat) =>
            if l.1.pend.isEmpty then l.1 else { l.1 with pend := s.pendOf blk g.2 l.2 g.1.nregs }) }) })

/-! ## Halting a block to save it (10_memory.md R245, 19_kernel.md R375) -/

/-- Does a word that waits so issue again when its block has been saved? -/
def Wait.again : Wait → Bool
  | .room | .page _ _ _ _ | .counter _ _ | .cnget _ | .rgrow _ | .barrier _ _ _ _ | .lead _ | .producers | .object _
  | .counts _ _ _ _ | .member => true
  | _ => false

/-- The issues of `lead.adv` that a group still waits in. -/
def Group.leadWaits (g : Group) : List Nat :=
  (g.lanes.filterMap (fun l => match l.st with | .waiting (.lead i) => some i | _ => none)).eraseDups

/-- A group as it is saved: words that wait before they act are not executed, those of open cross-lane executions among them,
which issue again and whose bounds restart (06_arith.md R158); the bounds of open waits run on later from what remains of them. -/
def haltGroup (clock : Nat) (g : Group) : Group :=
  { g with
    adv := g.adv - g.leadWaits.length
    execs := []
    waits := g.waits.map (fun (w : JWait) => { w with bound := w.bound.map (fun b => b - clock) })
    lanes := g.lanes.map (fun (l : Lane) =>
      match l.st with
      | .waiting w => if w.again then { l with st := .ready, gran := none, res := none } else l
      | _ => l) }

def matrixLoop (c : TileCmd) : Bool := c.kind == .tloop || c.kind == .tmmod

/-- A search stops at an entry boundary: the entry it is reading is read again (16_hypervector.md R311). -/
def LunaJob.atEntry (j : LunaJob) : LunaJob := { j with gran := 0, diff := 0 }

/-- A core's part in halting a block: from the block's first `tloop` or `tmmod` on, its tile commands are saved (R286); its
searches stop (16_hypervector.md R311). -/
def haltCore (blk : Nat) (k : Core) : Core × List TileCmd × List LunaJob :=
  let mine := k.tileQ.filter (fun c => c.blk == blk)
  let kept := mine.takeWhile (fun c => !matrixLoop c)
  let saved := mine.drop kept.length
  ({ k with tileQ := k.tileQ.filter (fun c => !saved.any (fun d => d.id == c.id)), luna := k.luna.filter (fun j => j.blk != blk),
            grows := k.grows.filter (fun g => g.blk != blk) },
   saved, k.luna.filter (fun j => j.blk == blk))

def Dest.isScalar : Dest → Bool
  | .scalar _ _ => true
  | _ => false

/-- A block halts at a word boundary, to be saved whole. A scalar read that its path still waits for is made again
(17_counter.md R340). -/
def State.haltBlock (s : State) (blk : Nat) (st : BlockSt) : State :=
  let core := (s.block blk).core
  let (k, cmds, jobs) := haltCore blk (s.core core)
  let s := s.setCore core k
  let s := { s with
    resolutions := s.resolutions.filter (fun r => !(r.blk == blk && r.lane.isSome))
    reqs := s.reqs.map (fun (r : Req) => if r.blk == blk && r.dest.isScalar then { r with dest := .none } else r) }
  s.modBlock blk (fun b =>
    { b with st := st, halting := false, waitSince := none, groups := b.groups.map (haltGroup s.clock),
             savedCmds := b.savedCmds ++ cmds, savedLuna := b.savedLuna ++ jobs.map LunaJob.atEntry })

/-- R355: a parking unit begins to be saved whole. `signalled` says that nothing more need happen before its
relaunch. -/
def State.parkUnit (s : State) (blk : Nat) (signalled : Bool) : State :=
  let ctx := (s.block blk).ctx
  let s := (s.unitOf blk).foldl (fun s u =>
    if (s.block u).st == .resident then
      (s.haltBlock u .parking).modBlock u (fun b => { b with signalled := b.signalled || signalled })
    else s) s
  s.modCtx ctx (fun c => c.count (fun n => { n with park := sat32 (n.park + 1) }))

/-- The first request of each block in issue order. -/
def firstGrows : List GrowReq → List GrowReq
  | [] => []
  | g :: gs => g :: (firstGrows gs).filter (fun x => x.blk != g.blk)

/-- R126: every resident block has a request that the free units cannot meet: the youngest is parked. -/
def State.regDeadlock (s : State) (core : Nat) : State :=
  let bs := s.residents core
  let gs := (s.core core).grows
  let free := s.freeUnits core
  if !bs.isEmpty && bs.all (fun e => e.2.st == .resident && gs.any (fun g => g.blk == e.1)) &&
      (firstGrows gs).all (fun g => decide (free < g.units)) then
    match (bs.map (fun e => e.2.age)).max? with
    | none => s
    | some a =>
      match bs.find? (fun e => e.2.age == a) with
      | none => s
      | some e => s.parkUnit e.1 true
  else s

def thenRegDeadlock (s : State) (o : Host.Outcome State Fault Refusal) : Host.Outcome State Fault Refusal :=
  match s.focus, o with
  | some f, .next t => .next (t.regDeadlock (s.fblock f).core)
  | _, o => o

/-- R124: the acting lanes wait for the grant; those whose predicate is false go on at once: DESIGN CHOICE (log 110). -/
def execRgrow (x : FForm) (s : State) : Host.Outcome State Fault Refusal :=
  thenRegDeadlock s (runWord s (srcUse false x.a) (fun s f =>
    match lowestActing s f x.g with
    | none => .ok s []
    | some i =>
      let n := ((s.view f i).src x.a).toNat
      let b := s.fblock f
      if n = 0 || 64 < n || 192 < b.units + n then
        .ok (s.onGroup f (fun g => g.setS x.d.toNat (BitVec.ofNat 32 g.nregs))) []
      else
        let ls := s.acting f x.g
        let r : GrowReq := { id := s.nextId, blk := f.blk, grp := f.grp, lanes := ls, sreg := x.d.toNat, units := n }
        .ok { s.modCore b.core (fun c => { c with grows := c.grows ++ [r] }) with nextId := s.nextId + 1 }
          (ls.map (fun l => (l, .wait (.rgrow r.id))))))

def execRshrink (x : FForm) (s : State) : Host.Outcome State Fault Refusal :=
  runWord s (srcUse false x.a) (fun s f =>
    match lowestActing s f x.g with
    | none => .ok s []
    | some i =>
      let n := ((s.view f i).src x.a).toNat
      let k := s.shareKern (s.fblock f)
      let share := shareOf k (s.fgroup f)
      let b := s.fblock f
      let s := s.setShare k f.blk share (Nat.max (b.baseUnits.getD share 0) (b.regUnits.getD share 0 - n))
      .ok (s.onGroup f (fun g => g.setS x.d.toNat (BitVec.ofNat 32 g.nregs))) [])

/-- R124: the request of a core that is granted next: those of one block in issue order, the oldest block first. -/
def State.nextGrow (s : State) (core : Nat) : Option GrowReq :=
  let free := s.freeUnits core
  let fit := (firstGrows (s.core core).grows).filter (fun g => decide (g.units ≤ free) && (s.block g.blk).st == .resident)
  match (fit.map (fun g => (s.block g.blk).age)).min? with
  | none => none
  | some a => fit.find? (fun g => (s.block g.blk).age == a)

def execRgrowGrant (core : Nat) (s : State) : Host.Outcome State Fault Refusal :=
  match s.nextGrow core with
  | none => .next s
  | some r =>
    let k := s.shareKern (s.block r.blk)
    let share := shareOf k (s.group r.blk r.grp)
    let s := s.setShare k r.blk share ((s.block r.blk).regUnits.getD share 0 + r.units)
    let s := s.modGroup r.blk r.grp (fun g =>
      (g.setS r.sreg (BitVec.ofNat 32 g.nregs)).modLanes (r.lanes.filter (fun i => (g.lane i).st == .waiting (.rgrow r.id)))
        (fun _ l => l.advance (l.pc + 1)))
    let s := s.modCore core (fun c => { c with grows := c.grows.filter (fun g => g.id != r.id) })
    .next (s.regDeadlock core)

end Sys2Proof.Machine
end

