-- ==== Sys2Proof/Machine/Move.lean ====
section
/-!
DEFINITION. Major 3, compare, select and move (06_arith.md R141 to R143).
-/

set_option linter.unusedVariables false

namespace Sys2Proof.Machine

/-- The integer value of a source of a type (R130). -/
def View.intVal (v : View) (ty : Ty) (a : Src) : Int :=
  intOf ty.signed ty.bits (if ty.wide then (v.src64 a).toNat else (v.src a).toNat)

def execCmp (f : FForm) (ty : Ty) (c : Cond) (s : State) : Host.Outcome State Fault Refusal :=
  runLanes f.g (srcUse ty.wide f.a ++ srcUse ty.wide f.b) s (fun v i =>
    (v.l.setPred f.d.toNat (condI c (v.intVal ty f.a) (v.intVal ty f.b)), []))

/-- A pair or register copied, a pair with its tag (R133). -/
def View.copy (v : View) (wide : Bool) (d : BitVec 9) (a : Src) : Lane :=
  if wide then v.l.setTagged v.g.nregs d.toNat (v.src64 a) (v.tagOf a)
  else v.l.setReg v.g.nregs d.toNat (v.src a)

def execSel (f : FForm) (ty : Ty) (p : BitVec 3) (s : State) : Host.Outcome State Fault Refusal :=
  runLanes f.g (srcUse ty.wide f.a ++ srcUse ty.wide f.b ++ regUse ty.wide f.d) s (fun v i =>
    (v.copy ty.wide f.d (if v.l.pred p.toNat then f.a else f.b), []))

/-- A source read at a type's width, as 64 bits. -/
def View.wideSrc (v : View) (wide : Bool) (a : Src) : DWord :=
  if wide then v.src64 a else (v.src a).setWidth 64

def execMov (f : FForm) (ty : Ty) (toScalar : Bool) (s : State) : Host.Outcome State Fault Refusal :=
  if toScalar then
    runScalar f.g (srcUse ty.wide f.a) s ty.wide f.d (fun _ v _ => v.wideSrc ty.wide f.a)
  else
    runLanes f.g (srcUse ty.wide f.a ++ regUse ty.wide f.d) s (fun v i => (v.copy ty.wide f.d f.a, []))

def execMovl (l : LForm) (ty : Ty) (toScalar : Bool) (s : State) : Host.Outcome State Fault Refusal :=
  let x := litL64 ty.signed l.lit
  if toScalar then runScalar l.g [] s ty.wide l.d (fun _ _ _ => x)
  else runLanes l.g (regUse ty.wide l.d) s (fun v i => (v.put ty.wide l.d x.toNat, []))

/-- R143: the special registers. -/
def specialReg (s : State) (f : Focus) (n : Nat) (v : View) (i : Nat) : DWord :=
  let b := s.fblock f
  match n with
  | 0 => BitVec.ofNat 64 i
  | 1 => BitVec.ofNat 64 v.g.num
  | 2 => BitVec.ofNat 64 b.index
  | 3 => BitVec.ofNat 64 (b.index / (s.blockKern b).cluster)
  | 4 => BitVec.ofNat 64 b.core
  | 5 => BitVec.ofNat 64 (dieOfCore b.core)
  | 6 => BitVec.ofNat 64 v.g.width
  | 7 => BitVec.ofNat 64 s.clock
  | _ => v.l.sp

/-- The number of the special register stands in source A (R143). -/
def specialNum : Src → Nat
  | .v r => r.toNat
  | _ => 0

def execRdsr (f : FForm) (ty : Ty) (toScalar : Bool) (s : State) : Host.Outcome State Fault Refusal :=
  let n := specialNum f.a
  if toScalar then
    runWord s [] (fun s x =>
      match lowestActing s x f.g with
      | none => .ok s []
      | some i =>
        let y := specialReg s x n (s.view x i) i
        .ok (s.onGroup x (fun gr => if ty.wide then gr.setSPair f.d.toNat y else gr.setS f.d.toNat (y.setWidth 32))) [])
  else
    runWord s (regUse ty.wide f.d) (fun s x =>
      eachLane f.g (fun v i => (v.put ty.wide f.d (specialReg s x n v i).toNat, [])) s x)

end Sys2Proof.Machine
end

