-- ==== Sys2Proof/Machine/Cross.lean ====
section
/-!
DEFINITION. Major 8, cross-lane instructions: member sets and their completion, votes, matches, shuffles, reductions and
scans (04_numbers.md R93 to R95, 06_arith.md R155 to R161).
-/

set_option linter.unusedVariables false

namespace Sys2Proof.Machine

/-! ## Executions (R156, R157) -/

/-- R160: the source of a shuffle's lane. -/
def shflSource (op : ShflOp) (w l b : Nat) : Nat :=
  let inside := fun (s : Nat) => if s < w then s else l
  match op with
  | .idx => b % w
  | .up => if b ≤ l then l - b else l
  | .down => inside (l + b)
  | .xor => inside (l ^^^ b)

/-- The open execution of a word. -/
def Group.execAt (g : Group) (kern pc : Nat) : Option Execution := g.execs.find? (fun x => x.kern == kern && x.pc == pc)

/-- What the lanes of a path supply as their word issues. -/
def membersOf (s : State) (f : Focus) (g : Guard) (wide : Bool) (a : Src) (b : View → Nat → DWord) : List Member :=
  f.lanes.map (fun i =>
    let v := s.view f i
    { lane := i, acts := v.l.acts g, a := v.wideSrc wide a, b := b v i, tag := wide && v.tagOf a })

/-- R156: a path issues the word: it opens the word's execution, with the lanes that `first` names, or joins it. Each acting
lane of a shuffle adds its source. -/
def joinExec (s : State) (f : Focus) (i : Instr) (ms : List Member) (first : List Nat) (shuffle : Bool) : Eff :=
  let more := f.lanes ++ (if shuffle then (ms.filter Member.acts).map (fun m => m.b.toNat) else [])
  let union := fun (old : List Nat) => more.foldl (fun l x => insertNat x l) old
  .ok (s.onGroup f (fun g =>
    match g.execAt f.kern f.pc with
    | some _ => { g with execs := g.execs.map (fun (x : Execution) =>
        if x.kern == f.kern && x.pc == f.pc then { x with members := union x.members, issued := x.issued ++ ms } else x) }
    | none => { g with execs := g.execs ++ [{ kern := f.kern, pc := f.pc, instr := i, word := f.word,
                                              members := union first, issued := ms, cycles := 0 }] }))
    (f.lanes.map (fun l => (l, .wait .member)))

/-- The lanes that the mask of a `vote` or `match` names, from the lowest active lane of the path. -/
def maskLanes (s : State) (f : Focus) (b : Src) : List Nat :=
  match f.lanes.head? with
  | none => []
  | some i => (List.range (s.fgroup f).width).filter (bitAt ((s.view f i).src64 b))

def Execution.member? (x : Execution) (l : Nat) : Option Member := x.issued.find? (fun m => m.lane == l)

/-- Every member that has not exited has issued the word. -/
def Execution.complete (x : Execution) (g : Group) : Bool :=
  x.members.all (fun l => (x.member? l).isSome || (g.lane l).st == .exited)

/-- R157: what a member supplies to a vote. -/
def Execution.voteOf (x : Execution) (l : Nat) : DWord :=
  match x.member? l with
  | some m => if m.acts then m.a else 0
  | none => 0

/-- R159. -/
def voteResult (op : VoteOp) (x : Execution) : DWord :=
  let vs := x.members.map (fun l => (l, x.voteOf l))
  let one := fun (b : Bool) => if b then 1#64 else 0#64
  match op with
  | .any => one (vs.any (fun v => v.2 != 0))
  | .all => one (vs.all (fun v => v.2 != 0))
  | .ballot => maskOf ((vs.filter (fun v => v.2 != 0)).map Prod.fst)
  | .uni => one (vs.all (fun v => some v.2 == (vs.head?.map Prod.snd)))

/-- R159: the members with a member's key. -/
def matchMask (x : Execution) (key : DWord) : DWord := maskOf ((x.issued.filter (fun m => m.a == key)).map Member.lane)

/-- The result of the execution in a member whose predicate is true. -/
def Execution.result (x : Execution) (n : Nat) (m : Member) (l : Lane) : Lane :=
  match x.instr with
  | .vote f _ .ballot => l.setPair n f.d.toNat (voteResult .ballot x)
  | .vote f _ op => l.setPred f.d.toNat (voteResult op x != 0)
  | .matchK f _ => l.setPair n f.d.toNat (matchMask x m.a)
  | .shfl f ty _ =>
    let (y, t) := match x.member? m.b.toNat with
      | some k => (k.a, k.tag)
      | none => (0, false)
    if ty.wide then l.setTagged n f.d.toNat y t else l.setReg n f.d.toNat (y.setWidth 32)
  | _ => l

/-- R156: a complete execution gives its results, and its members go on together. -/
def finishExec (g : Group) (x : Execution) : Group :=
  let g := { g with execs := g.execs.filter (fun y => !(y.kern == x.kern && y.pc == x.pc)) }
  x.issued.foldl (fun g m => g.modLane m.lane (fun l =>
    if l.st != .waiting .member then l
    else (if m.acts then x.result g.nregs m l else l).advance (x.pc + 1))) g

def finishExecs (g : Group) : Group := (g.execs.filter (fun x => x.complete g)).foldl finishExec g

def execVote (x : FForm) (ty : Ty) (op : VoteOp) (s : State) : Host.Outcome State Fault Refusal :=
  runWord s (srcUse ty.wide x.a ++ srcUse true x.b ++ (if op == .ballot then regUse true x.d else [])) (fun s f =>
    joinExec s f (.vote x ty op) (membersOf s f x.g ty.wide x.a (fun _ _ => 0)) (maskLanes s f x.b) false)

def execShfl (x : FForm) (ty : Ty) (op : ShflOp) (s : State) : Host.Outcome State Fault Refusal :=
  runWord s (srcUse ty.wide x.a ++ srcUse false x.b ++ regUse ty.wide x.d) (fun s f =>
    let w := (s.fgroup f).width
    joinExec s f (.shfl x ty op)
      (membersOf s f x.g ty.wide x.a (fun v i => BitVec.ofNat 64 (shflSource op w i (v.src x.b).toNat))) [] true)

def execMatchK (x : FForm) (ty : Ty) (s : State) : Host.Outcome State Fault Refusal :=
  runWord s (srcUse ty.wide x.a ++ srcUse true x.b ++ regUse true x.d) (fun s f =>
    joinExec s f (.matchK x ty) (membersOf s f x.g ty.wide x.a (fun _ _ => 0)) (maskLanes s f x.b) false)

/-- R156: an execution open for 4,096 running cycles: the member-exited trap on every lane that has issued the word. Where another
path has trapped in that cycle, its lanes are held (R103), and the trap is taken when the group runs again. -/
def execMembershipTimeout (blk grp pc : Nat) (s : State) : Host.Outcome State Fault Refusal :=
  let b := s.block blk
  let g := b.group grp
  match g.execs.find? (fun x => x.pc == pc && decide (4096 ≤ x.cycles) && !x.complete g && g.trap.isNone) with
  | none => .next s
  | some x =>
    let ls := x.issued.map Member.lane
    let s := s.modGroup blk grp (fun g =>
      { g with execs := g.execs.filter (fun y => !(y.kern == x.kern && y.pc == x.pc)) })
    .next (takeTrap s { blk := blk, grp := grp, kern := x.kern, pc := x.pc, lanes := ls, word := x.word }
      { cause := 9, lanes := ls })

/-! ## Reductions and scans (R93 to R95, R161) -/

/-- R94: the identity of an operation, as a pattern. -/
def redIdentity (op : RedOp) (ty : Ty) : Nat :=
  match Num.of ty, op with
  | .flt t, .add => t.signBit
  | .flt t, .min => t.infBits
  | .flt t, .max => t.signBit + t.infBits
  | _, .add => 0
  | _, .min => wrapTo ty.bits (intMax ty.signed ty.bits)
  | _, .max => wrapTo ty.bits (intMin ty.signed ty.bits)
  | _, .and => 2 ^ ty.bits - 1
  | _, _ => 0

/-- One combine: the lower-indexed value on the left; a float rounds by the word's mode. -/
def redCombine (op : RedOp) (m : CMods) (a b : Nat) : Nat × Events :=
  match Num.of m.ty with
  | .flt t =>
    match op with
    | .add => sumF t m.rnd false (decodeF t a) (decodeF t b)
    | .min => (minMaxF t false a b, [])
    | _ => (minMaxF t true a b, [])
  | _ =>
    let w := m.ty.bits
    let x := intOf m.ty.signed w a
    let y := intOf m.ty.signed w b
    (match op with
      | .add => deliver m.sat m.ty.signed w (x + y)
      | .min => if x ≤ y then a else b
      | .max => if x ≤ y then b else a
      | .and => a &&& b
      | .or => a ||| b
      | .xor => a ^^^ b, [])

/-- One level of the tree from the level below. -/
def pairUp (k : Nat → Nat → Nat × Events) : List Nat → List Nat × Events
  | a :: b :: xs =>
    let (x, es) := k a b
    let (ys, fs) := pairUp k xs
    (x :: ys, es ++ fs)
  | xs => (xs, [])

/-- The levels of the tree above a row, the row itself first. -/
def treeLevels (k : Nat → Nat → Nat × Events) : Nat → List Nat → List (List Nat) × Events
  | 0, row => ([row], [])
  | n + 1, row =>
    match row with
    | _ :: _ :: _ =>
      let (up, es) := pairUp k row
      let (rest, fs) := treeLevels k n up
      (row :: rest, es ++ fs)
    | _ => ([row], [])

/-- The exponent of the lowest set bit. -/
def lowBit (n : Nat) : Nat := ((List.range 8).find? (fun k => n / 2 ^ k % 2 == 1)).getD 0

/-- R95: the prefix lengths at which a scan of `n` lanes combines. -/
def scanPoints : Nat → Nat → List Nat
  | 0, _ => []
  | fuel + 1, n =>
    let r := n - 2 ^ lowBit n
    if n = 0 || r = 0 then [] else n :: scanPoints fuel r

/-- The scan of the first `n` lanes: the largest aligned nodes from the lowest index up, each further one on the right;
with the events of its last combine. -/
def scanVal (k : Nat → Nat → Nat × Events) (tree : List (List Nat)) (id : Nat) : Nat → Nat → Nat × Events
  | 0, _ => (id, [])
  | fuel + 1, n =>
    let b := lowBit n
    let r := n - 2 ^ b
    let node := (tree.getD b []).getD (r / 2 ^ b) id
    if n = 0 then (id, [])
    else if r = 0 then (node, [])
    else k (scanVal k tree id fuel r).1 node

/-- A value that no combine has delivered: a NaN is delivered as the default one (R78). -/
def redDeliver (ty : Ty) (x : Nat) : Nat :=
  match Num.of ty with
  | .flt t => if decodeF t x == .nan then t.nanBits else x
  | _ => x

/-- One tree over the lanes: what each acting lane receives, and the events of the word. -/
def redTree (scan excl : Bool) (op : RedOp) (m : CMods) (row : List Nat) (ls : List Nat) : (Nat → Nat) × Events :=
  let k := redCombine op m
  let id := redIdentity op m.ty
  let (tree, es) := treeLevels k 7 row
  if scan then
    let len := fun (i : Nat) => if excl then i else i + 1
    let points := (ls.flatMap (fun i => scanPoints 8 (len i))).foldl (fun l x => insertNat x l) []
    (fun i => redDeliver m.ty (scanVal k tree id 8 (len i)).1, es ++ points.flatMap (fun n => (scanVal k tree id 8 n).2))
  else
    (fun _ => (tree.getLast?.bind List.head?).getD id, es)

/-- The pattern of a source of a reduction; with `.x2` both halves. -/
def View.redSrc (v : View) (m : CMods) (pk : Pack) (a : Src) : Nat :=
  match a with
  | .lit x =>
    let y := match Num.of m.ty with
      | .flt t => litF t x
      | _ => wrapTo m.ty.bits x.toInt
    if pk = .none then y else y + 2 ^ 16 * y
  | _ => if m.ty.wide then (v.src64 a).toNat else (v.src a).toNat

/-- A result of the type in its destination. -/
def View.putRed (v : View) (m : CMods) (pk : Pack) (d : BitVec 9) (x : Nat) : Lane :=
  match Num.of m.ty with
  | .int sg w => if pk = .none && !m.ty.wide then v.put false d (extend32 sg w x).toNat else v.put m.ty.wide d x
  | _ => v.put m.ty.wide d x

/-- R161: a reduction or scan of the path alone. -/
def reduceWord (scan excl : Bool) (x : FForm) (m : CMods) (op : RedOp) (pk : Pack) (s : State) :
    Host.Outcome State Fault Refusal :=
  runWord s (srcUse m.ty.wide x.a ++ regUse m.ty.wide x.d) (fun s f =>
    let ls := s.acting f x.g
    if ls.isEmpty then .ok s []
    else
      let n := if pk = .none then 1 else 2
      let w := if pk = .none then m.ty.bits else 16
      let src := ls.map (fun i => (i, (s.view f i).redSrc m pk x.a))
      let trees := (List.range n).map (fun j =>
        redTree scan excl op m ((List.range (s.fgroup f).width).map (fun i =>
          match src.lookup i with
          | some y => subEl w y j
          | none => redIdentity op m.ty)) ls)
      let out := ls.map (fun i => (i, (s.view f i).putRed m pk x.d (joinEls w (trees.map (fun t => t.1 i)))))
      let t := s.onLanes f ls (fun i l => (out.lookup i).getD l)
      .ok (t.tally f (trees.flatMap Prod.snd)) [])

def execLred (x : FForm) (m : CMods) (op : RedOp) (pk : Pack) (s : State) : Host.Outcome State Fault Refusal :=
  reduceWord false false x m op pk s

def execLscan (x : FForm) (m : CMods) (op : RedOp) (pk : Pack) (excl : Bool) (s : State) :
    Host.Outcome State Fault Refusal :=
  reduceWord true excl x m op pk s

end Sys2Proof.Machine
end

