-- ==== Sys2Proof/Machine/Tile.lean ====
section
/-!
DEFINITION. Majors 14 and 15, the tile commands at issue (15_tile.md R266 to R281, R288).
-/

set_option linter.unusedVariables false

namespace Sys2Proof.Machine

/-! ## Element formats (R267, R270) -/

/-- An element format: its numbers, the bits of an element, elements per step and per row of the A layout. -/
structure TFmt where
  num : Num
  bits : Nat
  k : Nat
  cap : Nat
  deriving DecidableEq, Repr

def tfmt (code : Nat) : TFmt :=
  match code with
  | 0 => ⟨Num.of .bf16, 16, 1, 128⟩
  | 1 => ⟨Num.of .f16, 16, 1, 128⟩
  | 2 => ⟨Num.of .f32, 32, 1, 64⟩
  | 3 => ⟨Num.of .l8, 8, 4, 256⟩
  | 4 => ⟨Num.of .l6, 6, 4, 320⟩
  | 5 => ⟨Num.of .l4, 4, 8, 512⟩
  | 6 => ⟨Num.of .i8, 8, 4, 256⟩
  | _ => ⟨.int true 4, 4, 8, 512⟩

/-- The format and the `.col` flag of a command (R270, R271). -/
def TileCmd.fmt (c : TileCmd) : TFmt := tfmt (c.t.flags.toNat % 8)
def TileCmd.col (c : TileCmd) : Bool := c.t.flags.getLsbD 3

/-- Elements in a 32-bit word. -/
def TFmt.perWord (f : TFmt) : Nat := if f.bits = 6 then 5 else 32 / f.bits

def TFmt.isLog (f : TFmt) : Bool :=
  match f.num with
  | .log _ => true
  | _ => false

/-- The element at a position of a row of bytes. -/
def elemAt (rd : Nat → Byte) (f : TFmt) (k : Nat) : Nat :=
  natOfBytes ((List.range 4).map (fun i => rd (4 * (k / f.perWord) + i))) / 2 ^ (f.bits * (k % f.perWord)) % 2 ^ f.bits

/-- Elements packed into words, as a row holds them; `n` bounds the words. -/
def packElems (f : TFmt) : Nat → List Nat → List Byte
  | 0, _ => []
  | _, [] => []
  | n + 1, es => bytesOfNat (joinEls f.bits (es.take f.perWord)) 4 ++ packElems f n (es.drop f.perWord)

/-- R281: the data size of E elements. -/
def TFmt.dataSize (f : TFmt) (e : Nat) : Nat :=
  if 8 ≤ f.bits then e * (f.bits / 8) else 4 * ((e + f.perWord - 1) / f.perWord)

def bsldLines (f : TFmt) (e : Nat) : Nat := 1 + (f.dataSize e + 63) / 64

/-- R281: bytes of a K row of a row-major image. -/
def bsldRow (f : TFmt) : Nat := if 8 ≤ f.bits then 64 * (f.bits / 8) else if f.bits = 6 then 64 else 32

/-! ## What a command reads and writes -/

def TileKind.writesTile : TileKind → Bool
  | .tld | .tzero | .tcvt | .tact | .tmma | .tloop | .tmmod | .tntt => true
  | _ => false

def TileKind.readsTile : TileKind → Bool
  | .tst | .tcvt | .tact | .tred | .tmma | .tloop | .tmmod | .tntt => true
  | _ => false

/-- Steps of a command (R277, R278). -/
def TileCmd.steps (c : TileCmd) : Nat :=
  match c.kind with
  | .tloop | .tmmod => c.t.cnt.toNat
  | _ => 1

/-- A panel base register (R271). -/
def panelBase (x : Word) : Nat := x.toNat % 2 ^ 17 / 64 * 64

/-- The memory range of a command: whether it is in the scratchpad, its length and the right it needs. -/
def TileCmd.range (c : TileCmd) : Option (Bool × Nat × Need) :=
  let fl := c.t.flags
  match c.kind with
  | .tld => some (fl.getLsbD 0, 16384, .read)
  | .tst => some (fl.getLsbD 0, 16384, .write)
  | .tred => some (fl.getLsbD 2, 256, .write)
  | .bsld =>
    let e := c.t.cnt.toNat
    some (false, if fl.getLsbD 3 then 4096 + e * bsldRow c.fmt else 4096 * bsldLines c.fmt e, .read)
  | _ => none

/-- R288: is the command an external effect? -/
def TileCmd.external (c : TileCmd) : Bool :=
  c.t.en || ((c.kind == .tst || c.kind == .tred) && c.range.any (fun r => !r.1))

def TileCmd.incA (c : TileCmd) : Int := if c.kind == .tloop then (c.x.extractLsb' 0 32).toInt else if c.kind == .tmmod then 1 else 0
def TileCmd.incB (c : TileCmd) : Int := if c.kind == .tloop then (c.y.extractLsb' 0 32).toInt else if c.kind == .tmmod then 1 else 0
def TileCmd.posA (c : TileCmd) (step : Nat) : Int := ((c.p1.toNat % 2 ^ 13 : Nat) : Int) + c.incA * (step : Int)
def TileCmd.posB (c : TileCmd) (step : Nat) : Int := ((c.p0.toNat / 2 ^ 17 : Nat) : Int) + c.incB * (step : Int)

/-- K-blocks of a scaled command (R86). -/
def TileCmd.blocks (c : TileCmd) : Nat :=
  match c.kind with
  | .tmma | .tloop => (c.steps * c.fmt.k - 1) / 32 + 1
  | .tcvt => 2
  | _ => 0

/-- Does the command draw on scale bytes? -/
def TileCmd.scaled (c : TileCmd) : Bool :=
  (c.kind == .tmma || c.kind == .tloop || c.kind == .tcvt) && c.fmt.isLog

/-- The first byte of the scale-base register of the A control word, and the byte select (R271). -/
def TileCmd.scaleReg (c : TileCmd) (w i b : Nat) : Nat × Nat :=
  let base := c.p1.toNat / 2 ^ 13 % 2 ^ 9
  let sel := c.p1.toNat / 2 ^ 22 % 4
  (base + 16 * (i / w) + (sel + b) / 4, (sel + b) % 4)

/-- R87: the A-side scale bytes, read at issue from every lane of the group; of a lane that has exited, those of its
registers as it left them: DESIGN CHOICE (log 93). -/
def scaleBytes (g : Group) (c : TileCmd) : List Byte :=
  if c.scaled then
    (List.range 64).flatMap (fun i => (List.range c.blocks).map (fun b =>
      let (r, k) := c.scaleReg g.width i b
      ((g.lane (i % g.width)).reg g.nregs r).extractLsb' (8 * k) 8))
  else []

/-- Replies that the scale registers still wait for (05_group.md R101). -/
def scalePending (s : State) (f : Focus) (c : TileCmd) : List Nat :=
  let g := s.fgroup f
  if c.scaled then
    ((List.range 64).flatMap (fun i =>
      let l := i % g.width
      if (g.lane l).pend.any (fun r => (List.range c.blocks).any (fun b => regIx g.nregs (c.scaleReg g.width i b).1 == r)) then
        pendIds s f g.nregs ((List.range c.blocks).map (fun b => (c.scaleReg g.width i b).1)) l
      else [])).eraseDups
  else []

/-! ## Checks 5 and 6 (R274, R277) -/

/-- B-store lines that bytes `lo` to `hi` of a slice touch. -/
def linesOf (lo hi : Nat) : List Nat := (List.range (hi / 64 - lo / 64 + 1)).map (fun i => lo / 64 + i)

/-- The lines that a matrix step reads; none when a position is negative. -/
def TileCmd.stepLines (c : TileCmd) (step : Nat) : Option (List Nat) :=
  let f := c.fmt
  let base := panelBase c.p0 + 64
  if c.posB step < 0 then none
  else
    let q := (c.posB step).toNat
    if c.kind == .tmmod then some (linesOf (base + 8 * q) (base + 8 * q + 7))
    else some (linesOf (base + 4 * (q / f.perWord)) (base + 4 * ((q + f.k - 1) / f.perWord) + 3))

/-- R277, R278: A positions, B positions and header bytes within capacity. -/
def TileCmd.inCapacity (c : TileCmd) : Bool :=
  let f := c.fmt
  let ok := fun (step : Nat) =>
    match c.kind with
    | .tmmod => decide (0 ≤ c.posA step) && decide (c.posA step < (if c.col then 32 else 64)) && decide (0 ≤ c.posB step)
    | _ => decide (0 ≤ c.posA step) && decide (c.posA step + (f.k : Int) ≤ (if c.col then 64 else (f.cap : Int))) &&
           decide (0 ≤ c.posB step)
  match c.kind with
  | .tmma | .tloop =>
    ok 0 && ok (c.steps - 1) && (!c.scaled || decide ((c.posB 0).toNat / 32 + c.blocks - 1 < 64))
  | .tmmod => ok 0 && ok (c.steps - 1)
  | _ => true

/-- The lines that a command reads, and those it takes or clears. -/
def TileCmd.lines (c : TileCmd) : List Nat × List Nat :=
  match c.kind with
  | .tmma | .tloop =>
    ((if c.scaled then [panelBase c.p0 / 64] else []) ++ (List.range c.steps).flatMap (fun s => (c.stepLines s).getD []), [])
  | .tmmod => ((List.range c.steps).flatMap (fun s => (c.stepLines s).getD []), [])
  | .tntt => ([panelBase c.p0 / 64 + 1], [])
  | .tact => ([panelBase c.p0 / 64 + 1], [])
  | .bsld => ([], (List.range (bsldLines c.fmt c.t.cnt.toNat)).map (fun i => panelBase (c.x.extractLsb' 0 32) / 64 + i))
  | .bsinv => ([], (List.range c.t.cnt.toNat).map (fun i => panelBase (c.x.extractLsb' 0 32) / 64 + i))
  | _ => ([], [])

/-- R274, 6. -/
def linesOk (k : Core) (blk : Nat) (c : TileCmd) : Bool :=
  c.lines.1.all (fun l => Tbl.at k.owner l == some blk) &&
  c.lines.2.all (fun l => decide (l < 2048) && (Tbl.at k.owner l == none || Tbl.at k.owner l == some blk))

/-! ## Issue (R273 to R275) -/

def TileCmd.local? (c : TileCmd) : Option LocalRange :=
  c.range.map (fun r => ⟨⟨c.p1 ++ c.p0, false, 0⟩, r.1, r.2.1, r.2.2⟩)

/-- The memory part of a command, for the checks and the range locks that it shares with the copy engines. -/
def TileCmd.args (c : TileCmd) : CmdArgs :=
  let r := c.local?
  { op := .cpy, src := r.filter (fun x => x.need == .read), dst := r.filter (fun x => x.need == .write), len := 0, dev := 0,
    raddr := 0, rlen := none, arrival := 0, ctr := c.ctr, malformed := none, misaligned := none }

def boundsAt : Trap := { cause := 5, kind := .engine }

/-- Checks 2 to 4 of R274, in their order; a scratchpad range beyond the partition fails after check 3. -/
def tileChecks (s : State) (f : Focus) (c : TileCmd) : List Chk :=
  let b := s.fblock f
  let a := (c.p1 ++ c.p0 : DWord)
  let reg := fun (use : Bool) (n : BitVec 4) => use && decide (b.acc ≤ n.toNat)
  (if reg c.kind.writesTile c.t.td || reg c.kind.readsTile c.t.ts then [.bad 10 boundsAt] else []) ++
  (if c.range.isSome && a.toNat % 16 != 0 then [.bad 20 (engTrap 11 0 a)] else []) ++
  (match c.ctr with
   | some x => if x % 8 != 0 then [.bad 20 (engTrap 11 0 (BitVec.ofNat 64 x))] else []
   | none => []) ++
  (c.local?.toList.map (checkLocal rankBounds s b.core b.ctx (some f.blk))) ++
  (match c.ctr with
   | some x => [checkPage s b.core b.ctx x [.write] .engine (BitVec.ofNat 64 x)]
   | none => [])

/-- The command that a word gives, from the scalars of the group. -/
def tileCmdOf (s : State) (f : Focus) (lane : Nat) (kind : TileKind) (t : TForm) : TileCmd :=
  let g := s.fgroup f
  let b := s.fblock f
  let pair := fun (r : BitVec 6) => (g.sreg (r.toNat + 1) ++ g.sreg r.toNat : DWord)
  let c : TileCmd :=
    { id := s.nextId, blk := f.blk, grp := f.grp, lane := lane, ctx := b.ctx, world := (s.ctx b.ctx).world, inst := b.inst, kind := kind, t := t,
      p0 := g.sreg t.p.toNat, p1 := g.sreg (t.p.toNat + 1), x := pair t.x, y := pair t.y, mem := .none,
      ctr := if t.en then some (g.spair t.ctr.toNat).toNat else none, scales := [], done := 0,
      vec := (g.lane lane).D, after := [] }
  { c with mem := locOf s b.core b.ctx (some f.blk) c.local?, scales := scaleBytes g c }

/-- The command enters the core's queue: its range is locked, and `bsld` owns its lines. -/
def queueTile (s : State) (f : Focus) (c : TileCmd) : State :=
  let b := s.fblock f
  let ranges := c.range.toList.map (fun r => (c.mem, r.2.1, r.2.2))
  let c := { c with after := s.cmdAfter f c.lane (s.agent b.core (dieOfCore b.core) b.ctx) ranges, rel := s.releases f c.lane }
  let s := { s with nextId := s.nextId + 1 }
  let s := if c.range.isSome || c.t.en then s.modLane f.blk f.grp c.lane (fun l => l.passGate true) else s
  let c := { c with vec := (s.flane f c.lane).D }
  s.modCore b.core (fun k =>
    { k with tileQ := k.tileQ ++ [c], locks := k.locks ++ locksOf c.id b.ctx s.devNum (some f.blk) c.args,
             owner := if c.kind == .bsld then c.lines.2.foldl (fun o l => Tbl.put o l f.blk) k.owner else k.owner })

/-- R275, R220: room in the queue of 16 commands and in the range-lock table. -/
def tileRoom (k : Core) (c : TileCmd) : Bool :=
  decide (k.tileQ.length < 16) && decide (k.locks.length + c.range.toList.length ≤ 16)

def tileWord (kind : TileKind) (t : TForm) (s : State) (f : Focus) : Eff :=
  match lowestActing s f t.g with
  | none => .ok s []
  | some i =>
    let c := tileCmdOf s f i kind t
    let hold := fun (w : Wait) => f.lanes.map (fun l => (l, Next.wait w))
    if (s.fgroup f).region.isSome && c.external then .trap (idemTrap [])
    else
      match (if c.range.isSome || t.en then s.gate f i true true false .gl else none) with
      | some w => .ok s (hold w)
      | none =>
        if !(scalePending s f c).isEmpty then .ok s (hold (.reqs (scalePending s f c)))
        else
          match worst (tileChecks s f c) with
          | .bad _ x => .trap x
          | .fill p k a => .ok (s.askFill p) (hold (.page p.ctx p.page k a))
          | _ =>
            if !(c.inCapacity && linesOk (s.core (s.fblock f).core) f.blk c) then .trap boundsAt
            else if tileRoom (s.core (s.fblock f).core) c then .ok (queueTile s f c) []
            else .ok s (hold .room)

def execTld (t : TForm) (s : State) : Host.Outcome State Fault Refusal := runWord s [] (tileWord .tld t)
def execTst (t : TForm) (s : State) : Host.Outcome State Fault Refusal := runWord s [] (tileWord .tst t)
def execTzero (t : TForm) (s : State) : Host.Outcome State Fault Refusal := runWord s [] (tileWord .tzero t)
def execBsld (t : TForm) (s : State) : Host.Outcome State Fault Refusal := runWord s [] (tileWord .bsld t)
def execBsinv (t : TForm) (s : State) : Host.Outcome State Fault Refusal := runWord s [] (tileWord .bsinv t)
def execTcvt (t : TForm) (s : State) : Host.Outcome State Fault Refusal := runWord s [] (tileWord .tcvt t)
def execTact (t : TForm) (s : State) : Host.Outcome State Fault Refusal := runWord s [] (tileWord .tact t)
def execTred (t : TForm) (s : State) : Host.Outcome State Fault Refusal := runWord s [] (tileWord .tred t)
def execTmma (t : TForm) (s : State) : Host.Outcome State Fault Refusal := runWord s [] (tileWord .tmma t)
def execTloop (t : TForm) (s : State) : Host.Outcome State Fault Refusal := runWord s [] (tileWord .tloop t)
def execTmmod (t : TForm) (s : State) : Host.Outcome State Fault Refusal := runWord s [] (tileWord .tmmod t)
def execTntt (t : TForm) (s : State) : Host.Outcome State Fault Refusal := runWord s [] (tileWord .tntt t)

end Sys2Proof.Machine
end

