-- ==== Sys2Proof/Machine/TileEngine.lean ====
section
/-!
DEFINITION. The tile engine at work: matrix steps, moves and conversions, and the completion of a command (15_tile.md
R275 to R289, 13_ordering.md R259).
-/

set_option linter.unusedVariables false

namespace Sys2Proof.Machine

/-! ## Tile registers and the B-store (R266 to R269) -/

def Block.tileByte (b : Block) (n : BitVec 4) (off : Nat) : Byte := Cells.get b.tiles (16384 * n.toNat + off)

def Block.setTile (b : Block) (n : BitVec 4) (bytes : List Byte) : Block :=
  { b with tiles := Memory.write b.tiles (16384 * n.toNat) bytes }

/-- Element (i, j) of the C layout. -/
def Block.cell (b : Block) (n : BitVec 4) (i j : Nat) : Nat :=
  natOfBytes ((List.range 4).map (fun x => b.tileByte n (256 * i + 4 * j + x)))

/-- A byte of a column's slice. -/
def Core.sliceByte (k : Core) (j off : Nat) : Byte := Cells.get k.bstore (131072 * j + off)

def Core.sliceNat (k : Core) (j off n : Nat) : Nat := natOfBytes ((List.range n).map (fun i => k.sliceByte j (off + i)))

/-- Operand element A[i][p] (R267, R268). -/
def aElem (b : Block) (c : TileCmd) (i p : Nat) : Nat :=
  if c.col then elemAt (fun o => b.tileByte c.t.ts (256 * p + o)) c.fmt i
  else elemAt (fun o => b.tileByte c.t.ts (256 * i + o)) c.fmt p

/-- Element p of column j of the panel (R269). -/
def bElem (k : Core) (c : TileCmd) (j p : Nat) : Nat :=
  elemAt (fun o => k.sliceByte j (panelBase c.p0 + 64 + o)) c.fmt p

/-! ## Matrix steps (R277) -/

/-- A value times a power of two. -/
def shiftF (e : Int) : FVal → FVal
  | .fin n m => .fin n ⟨m.mag, m.exp + e, m.more⟩
  | x => x

def scaleByte (c : TileCmd) (i blk : Nat) : Byte := c.scales.getD (i * c.blocks + blk) 0

/-- One product of a sum group (R86, R277). -/
def tileTerm (f : TFmt) (a b : Nat) (ea eb : Byte) : Term :=
  match f.num with
  | .log t =>
    if ea == 0xFF || eb == 0xFF then .val (.fin false zeroMag)
    else .val (shiftF ((ea.toNat : Int) + (eb.toNat : Int) - 254) (lprod t a b))
  | .flt t => termOf (prodF (decodeF t a) (decodeF t b))
  | .int _ _ => .zeroInf

/-- The new C[i][j] of step `c.done`. -/
def stepCell (b : Block) (k : Core) (c : TileCmd) (i j : Nat) : Nat × Events :=
  let f := c.fmt
  let pa := (c.posA c.done).toNat
  let pb := (c.posB c.done).toNat
  let pairs := (List.range f.k).map (fun t => (aElem b c i (pa + t), bElem k c j (pb + t), (c.done * f.k + t) / 32))
  let acc := b.cell c.t.td i j
  match f.num with
  | .int sg w => (wrapTo 32 (pairs.foldl (fun x p => x + intOf sg w p.1 * intOf sg w p.2.1) (intOf true 32 acc)), [])
  | _ =>
    windowSum (pairs.map (fun p =>
      tileTerm f p.1 p.2.1 (scaleByte c i p.2.2) (k.sliceByte j (panelBase c.p0 + (c.p0.toNat / 2 ^ 17) / 32 + p.2.2))))
      (decodeF f32Fmt acc)

/-- A C layout from its elements in order, with the events. -/
def putCells (b : Block) (n : BitVec 4) (xs : List (Nat × Events)) : Block × Events :=
  (b.setTile n (xs.flatMap (fun x => bytesOfNat x.1 4)), xs.flatMap Prod.snd)

def eachCell (k : Nat → Nat → Nat × Events) : List (Nat × Events) := (List.range 4096).map (fun x => k (x / 64) (x % 64))

/-! ## Modular commands (R278, R279) -/

def goodModulus (q m : Nat) : Bool := decide (2 ≤ q) && decide (q < 2 ^ 62) && m == 4 ^ bitLen q / q

/-- Element (row, p) of the modular A layout. -/
def Block.modA (b : Block) (n : BitVec 4) (row p : Nat) : Nat :=
  natOfBytes ((List.range 8).map (fun x => b.tileByte n (512 * row + 8 * p + x)))

def Block.modC (b : Block) (n : BitVec 4) (i j : Nat) : Nat :=
  natOfBytes ((List.range 8).map (fun x => b.tileByte n (256 * i + 8 * j + x)))

def allOnes64 : Nat := 2 ^ 64 - 1

def putModC (b : Block) (n : BitVec 4) (k : Nat → Nat → Nat) : Block :=
  b.setTile n ((List.range 1024).flatMap (fun x => bytesOfNat (k (x / 32) (x % 32)) 8) ++ List.replicate 8192 0)

def modStep (b : Block) (k : Core) (c : TileCmd) : Block × Events :=
  let q := c.x.toNat
  if goodModulus q c.y.toNat then
    let pa := (c.posA c.done).toNat
    let pb := (c.posB c.done).toNat
    (putModC b c.t.td (fun i j =>
      (b.modC c.t.td i j + (if c.col then b.modA c.t.ts pa i else b.modA c.t.ts i pa) *
        k.sliceNat j (panelBase c.p0 + 64 + 8 * pb) 8) % q), [])
  else (putModC b c.t.td (fun _ _ => allOnes64), [arithEvent])

/-- R279: element x of a row after one stage. -/
def nttElem (inv : Bool) (q m s : Nat) (row w : Nat → Nat) (x : Nat) : Nat :=
  let n := 2 ^ m
  let h := 2 ^ s
  let y := x % n
  let j := y % h
  let low := decide (y % (2 * h) < h)
  let u := if low then x else x - h
  let a := row u
  let b := row (u + h)
  let t := w (j * n / (2 * h))
  let sub := fun (v z : Nat) => (v % q + q - z % q) % q
  if inv then (if low then (a + b) % q else sub a b * t % q)
  else if low then (a + t * b) % q else sub a (t * b)

def nttTile (b : Block) (k : Core) (c : TileCmd) : Block × Events :=
  let q := c.x.toNat
  let s := c.t.cnt.toNat % 8
  let m := c.t.cnt.toNat / 8 % 8
  let put := fun (e : Nat → Nat → Nat) =>
    b.setTile c.t.td ((List.range 2048).flatMap (fun x => bytesOfNat (e (x / 64) (x % 64)) 8))
  if goodModulus q c.y.toNat then
    (put (fun r x => nttElem (c.t.flags.getLsbD 0) q m s (b.modA c.t.ts r) (fun t => k.sliceNat t (panelBase c.p0 + 64) 8) x), [])
  else (put (fun _ _ => allOnes64), [arithEvent])

/-! ## Converting, activating and reducing (R282 to R284) -/

def rndOf (n : Nat) : Rnd :=
  match n % 4 with
  | 0 => .rn
  | 1 => .rz
  | 2 => .rm
  | _ => .rp

/-- The count field of `tcvt` (R271): rounding, saturation, an i32 source. -/
def cvtElem (c : TileCmd) (i j x : Nat) : Nat × Events :=
  let r := rndOf c.t.cnt.toNat
  let sat := c.t.cnt.getLsbD 2
  let v := if c.t.cnt.getLsbD 3 then valOfInt (intOf true 32 x) else decodeF f32Fmt x
  match c.fmt.num with
  | .flt t => packF t r sat v
  | .log t =>
    let e := scaleByte c i (j / 32)
    if e == 0xFF then (0, []) else lround t r (shiftF (127 - (e.toNat : Int)) v)
  | .int sg w =>
    if c.t.cnt.getLsbD 3 then (deliver true sg w (intOf true 32 x), [])
    else
      let (y, es) := intOfF r sg w v
      (wrapTo w y, es)

def padRow (bytes : List Byte) : List Byte := bytes.take 256 ++ List.replicate (256 - bytes.length) 0

def cvtTile (b : Block) (c : TileCmd) : Block × Events :=
  let cells := eachCell (fun i j =>
    let (r, p) := if c.col then (j, i) else (i, j)
    cvtElem c r p (b.cell c.t.ts r p))
  let rows := (List.range 64).map (fun i => padRow (packElems c.fmt 64 (((cells.drop (64 * i)).take 64).map Prod.fst)))
  (b.setTile c.t.td rows.flatten, cells.flatMap Prod.snd)

def actElem (k : Core) (c : TileCmd) (j x : Nat) : Nat × Events :=
  let base := panelBase c.p0 + 64
  let f := decodeF f32Fmt
  let (y, es) := fmaF f32Fmt .rn false (f x) (f (k.sliceNat j base 4)) (f (k.sliceNat j (base + 4) 4))
  let y := minMaxF f32Fmt false (minMaxF f32Fmt true y (c.x.extractLsb' 0 32).toNat) (c.x.extractLsb' 32 32).toNat
  let y := match c.t.flags.toNat % 4 with
    | 1 => minMaxF f32Fmt true y 0
    | 2 => absF f32Fmt y
    | _ => y
  (y, es)

/-- The tree of R93 over a row of a power of two. -/
def treeFold (k : Nat → Nat → Nat × Events) : Nat → List Nat → Nat × Events
  | 0, xs => (xs.headD 0, [])
  | n + 1, xs =>
    let (ys, es) := pairUp k xs
    let (z, fs) := treeFold k n ys
    (z, es ++ fs)

def redRow (c : TileCmd) (xs : List Nat) : Nat × Events :=
  let wantMax := c.t.flags.toNat % 4 == 2
  if c.t.cnt.getLsbD 0 then
    let v := xs.map (intOf true 32)
    match c.t.flags.toNat % 4 with
    | 0 => (wrapTo 32 v.sum, [])
    | _ => (wrapTo 32 (v.foldl (fun a x => if wantMax then max a x else min a x) (v.headD 0)), [])
  else
    match c.t.flags.toNat % 4 with
    | 0 => windowSum (xs.map (fun x => .val (decodeF f32Fmt x))) (.fin true zeroMag)
    | _ => treeFold (fun x y => (minMaxF f32Fmt wantMax x y, [])) 6 xs

def redTile (b : Block) (c : TileCmd) : List (Nat × Events) :=
  (List.range 64).map (fun i => redRow c ((List.range 64).map (fun j => if c.col then b.cell c.t.ts j i else b.cell c.t.ts i j)))

/-! ## The B-store (R281) -/

def bsldColumn (c : TileCmd) (img : List Byte) (j : Nat) : List Byte :=
  let f := c.fmt
  let e := c.t.cnt.toNat
  let size := 64 * bsldLines f e
  let at' := fun (i : Nat) => img.getD i 0
  let raw :=
    if c.t.flags.getLsbD 3 then
      (List.range 64).map (fun h => at' (64 * h + j)) ++
      packElems f (e + 1) ((List.range e).map (fun r => elemAt (fun o => at' (4096 + r * bsldRow f + o)) f j))
    else (List.range size).map (fun i => at' (size * j + i))
  let kept := raw.take (64 + f.dataSize e)
  kept ++ List.replicate (size - kept.length) 0

def loadPanel (k : Core) (c : TileCmd) (img : List Byte) : Core :=
  let base := panelBase (c.x.extractLsb' 0 32)
  { k with bstore := (List.range 64).foldl (fun m j => Memory.write m (131072 * j + base) (bsldColumn c img j)) k.bstore }

/-- `bsinv`: the lines are zeroed, and those that the block owns are freed. -/
def clearLines (k : Core) (blk : Nat) (ls : List Nat) : Core :=
  { k with
    bstore := ls.foldl (fun m l => (List.range 64).foldl (fun m j => Memory.write m (131072 * j + 64 * l) (List.replicate 64 0)) m)
      k.bstore
    owner := k.owner.filter (fun o => !(ls.contains o.1 && o.2 == blk)) }

/-! ## Performing (R275) -/

/-- The tile engine of a core, for a command. -/
def TileCmd.who (c : TileCmd) (core : Nat) : Agent := ⟨core, dieOfCore core, c.ctx, c.world⟩

/-- The next step of the command at the head of a core's queue. -/
def performTile (s : State) (core : Nat) (c : TileCmd) : State :=
  let w := c.who core
  let b := s.block c.blk
  let k := s.core core
  let count := fun (s : State) (es : Events) => countEvents s c.ctx c.inst es
  let put := fun (r : Block × Events) => count (s.modBlock c.blk (fun _ => r.1)) r.2
  let len := (c.range.map (fun r => r.2.1)).getD 0
  let read := fun (s : State) => s.readLoc w c.mem len
  let write := fun (s : State) (bytes : List Byte) =>
    let (s, v) := s.writeLoc w c.mem bytes c.vec
    s.modCore core (fun k => { k with tileQ := k.tileQ.map (fun (q : TileCmd) => if q.id == c.id then { q with vec := q.vec.max v } else q) })
  let t : State :=
    match c.kind with
    | .tld =>
      let s := s.flushLoc w c.mem len
      s.modBlock c.blk (fun b => b.setTile c.t.td (read s))
    | .tst => write s ((List.range 16384).map (b.tileByte c.t.ts))
    | .tzero => s.modBlock c.blk (fun b => b.setTile c.t.td (List.replicate 16384 0))
    | .bsld =>
      let s := s.flushLoc w c.mem len
      let img := read s
      s.modCore core (fun k => loadPanel k c img)
    | .bsinv => s.modCore core (fun k => clearLines k c.blk c.lines.2)
    | .tcvt => put (cvtTile b c)
    | .tact => put (putCells b c.t.td (eachCell (fun i j => actElem k c j (b.cell c.t.ts i j))))
    | .tred =>
      let r := redTile b c
      count (write s (r.flatMap (fun x => bytesOfNat x.1 4))) (r.flatMap Prod.snd)
    | .tmma | .tloop => put (putCells b c.t.td (eachCell (stepCell b k c)))
    | .tmmod => put (modStep b k c)
    | .tntt => put (nttTile b k c)
  let bad := c.kind == .tmmod && !goodModulus c.x.toNat c.y.toNat
  t.modCore core (fun k => { k with tileQ := k.tileQ.map (fun (q : TileCmd) =>
    if q.id == c.id then { q with done := if bad then c.steps else c.done + 1 } else q) })

/-- May the head of the queue be performed now (R259, R275)? -/
def State.tileReady (s : State) (core : Nat) : Option TileCmd :=
  match (s.core core).tileQ with
  | c :: _ =>
    if decide (c.done < c.steps) &&
        (0 < c.done || (c.after.isEmpty && (c.range.isNone || (s.die (dieOfCore core)).applied.covers c.vec))) then some c
    else none
  | [] => none

/-- A command leaves the core's queue: its locks are released, and with the block's last one the registers of its retired groups
return (R275, 05_group.md R103). -/
def State.removeTile (s : State) (core : Nat) (c : TileCmd) (vec : VecD) : State :=
  let s := s.modCore core (fun k =>
    { k with tileQ := k.tileQ.filter (fun (q : TileCmd) => q.id != c.id), locks := k.locks.filter (fun l => l.cmd != c.id) })
  (s.modGroup c.blk c.grp (fun g => { g with tlVec := g.tlVec.max vec })).freeDrained c.blk

/-- The command acts once the pages of the given ranges are there (09_page.md R207); a range that no longer translates is a fault, which
is posted and counted, and ends the command there (log 102). -/
def State.tileThere (s : State) (core : Nat) (c : TileCmd) (rs : List (Loc × Nat × Need)) (go : State → State) : Option State :=
  s.rangesThere (c.who core) rs id (fun t s => (s.actionFault c.ctx t.cause t.sub t.addr).removeTile core c {}) go

def execTileCommandExecute (core : Nat) (s : State) : Host.Outcome State Fault Refusal :=
  .next (((s.tileReady core).bind (fun c =>
    s.tileThere core c (c.range.toList.map (fun r => (c.mem, r.2.1, r.2.2))) (fun s => performTile s core c))).getD s)

/-- A command that is over: its counter is raised, and it leaves the queue. -/
def finishTile (s : State) (core : Nat) (c : TileCmd) : State :=
  let (s, vec) := raiseCounter s (c.who core) c.ctr c.vec
  s.removeTile core c vec

def State.tileDone (s : State) (core : Nat) : Option TileCmd := (s.core core).tileQ.head?.filter (fun c => decide (c.steps ≤ c.done))

def execTileCommandComplete (core : Nat) (s : State) : Host.Outcome State Fault Refusal :=
  .next (((s.tileDone core).bind (fun c =>
    s.tileThere core c (c.ctr.toList.map (fun a => (.va a, 8, .write))) (fun s => finishTile s core c))).getD s)

end Sys2Proof.Machine
end

