-- ==== Sys2Proof/Machine/Hyper.lean ====
section
/-!
DEFINITION. Majors 16 and 17, the hypervector unit and the Luna engine (16_hypervector.md R294 to R313).
-/

set_option linter.unusedVariables false

namespace Sys2Proof.Machine

/-! ## Bits of a hypervector (R294) -/

abbrev HVec := BitVec 8192

/-- A number from the bits of a list, the first the lowest. -/
def natOfBits : List Bool → Nat
  | [] => 0
  | b :: bs => b.toNat + 2 * natOfBits bs

/-- A number from 64-bit words, the first the lowest. -/
def natOfWords : List DWord → Nat
  | [] => 0
  | w :: ws => w.toNat + 2 ^ 64 * natOfWords ws

/-- R306. -/
def popcount (x : HVec) : Nat := (List.range 8192).countP (fun b => x.getLsbD b)

/-- One round of R307. -/
def hgenMix (x : DWord) : DWord :=
  let z := (x ^^^ (x >>> 30)) * 0xBF58476D1CE4E5B9
  let z := (z ^^^ (z >>> 27)) * 0x94D049BB133111EB
  z ^^^ (z >>> 31)

def hgenWords : Nat → DWord → List DWord
  | 0, _ => []
  | n + 1, x => hgenMix (x + 0x9E3779B97F4A7C15) :: hgenWords n (x + 0x9E3779B97F4A7C15)

/-- R307. -/
def hgenBits (seed : DWord) : HVec := BitVec.ofNat 8192 (natOfWords (hgenWords 128 seed))

/-- Counter b of an accumulator. -/
def accCounter (a : BitVec 65536) (b : Nat) : Int := (a.extractLsb' (8 * b) 8).toInt

/-- R304: one counter, and whether the clamp changed it. -/
def accStep (neg bit : Bool) (c : Int) : Int × Bool :=
  let x := if bit != neg then c + 1 else c - 1
  if 127 < x then (127, true) else if x < -127 then (-127, true) else (x, false)

def accumulate (neg : Bool) (h : HVec) (a : BitVec 65536) : BitVec 65536 × Nat :=
  let xs := (List.range 8192).map (fun b => accStep neg (h.getLsbD b) (accCounter a b))
  (BitVec.ofNat 65536 (natOfBytes (xs.map (fun x => BitVec.ofInt 8 x.1))), xs.countP Prod.snd)

/-- R305. -/
def thresholdBits (a : BitVec 65536) (tie : HVec) : HVec :=
  BitVec.ofNat 8192 (natOfBits ((List.range 8192).map (fun b =>
    if 0 < accCounter a b then true else if accCounter a b < 0 then false else tie.getLsbD b)))

/-! ## The frame of a word (R297, R308) -/

/-- Requests that still bring parts of the named hypervectors. -/
def hyperPending (s : State) (f : Focus) (hs : List Nat) : List Nat :=
  (s.reqs.filter (fun r => r.ofGroup f.blk f.grp && (match r.dest with | .hyper h _ => hs.contains h | _ => false))).map Req.id

/-- Every lane of the path waits. -/
def pathWaits (f : Focus) (w : Wait) : List (Nat × Next) := f.lanes.map (fun l => (l, .wait w))

/-- A word executes once, for the group, with the operands of the lowest acting lane; it waits for the hypervectors `hs` and
the vector registers `use` that it names. -/
def hyperWord (g : Guard) (hs use : List Nat) (act : State → Focus → Nat → Eff) (s : State) (f : Focus) : Eff :=
  match lowestActing s f g with
  | none => .ok s []
  | some i =>
    let n := (s.fgroup f).nregs
    let ids := hyperPending s f hs ++ (if pendHit n use (s.flane f i) then pendIds s f n use i else [])
    if ids.isEmpty then act s f i else .ok s (pathWaits f (.reqs ids))

def runHyper (g : Guard) (hs use : List Nat) (s : State) (act : State → Focus → Nat → Eff) : Host.Outcome State Fault Refusal :=
  runWord s [] (hyperWord g hs use act)

/-- The index that a kind 00 source or a destination field holds. -/
def srcIx : Src → Nat
  | .v r => r.toNat
  | _ => 0

def Group.hv (g : Group) (h : Nat) : HVec := Cells.get g.h h
def Group.setHv (g : Group) (h : Nat) (x : HVec) : Group := { g with h := Cells.set g.h h x }

/-- A word that writes a hypervector. -/
def writesHv (x : FForm) (hs use : List Nat) (s : State) (val : State → Focus → Nat → HVec) : Host.Outcome State Fault Refusal :=
  runHyper x.g (x.d.toNat :: hs) use s (fun s f i => .ok (s.onGroup f (fun g => g.setHv x.d.toNat (val s f i))) [])

/-! ## Moves, binds and bundles (R302 to R307) -/

def execHmov (x : FForm) (s : State) : Host.Outcome State Fault Refusal :=
  writesHv x [srcIx x.a] [] s (fun s f _ =>
    let g := s.fgroup f
    if srcIx x.a = 16 then g.htie else g.hv (srcIx x.a))

def execHxor (x : FForm) (s : State) : Host.Outcome State Fault Refusal :=
  writesHv x [srcIx x.a, srcIx x.b] [] s (fun s f _ => (s.fgroup f).hv (srcIx x.a) ^^^ (s.fgroup f).hv (srcIx x.b))

/-- R300: the amount of `hrot`. -/
def hrotAmount (v : View) (b : Src) (hi : BitVec 4) : Nat :=
  match b with
  | .lit x => 512 * hi.toNat + x.toNat
  | b => (v.src b).toNat % 8192

def execHrot (x : FForm) (hi : BitVec 4) (s : State) : Host.Outcome State Fault Refusal :=
  writesHv x [srcIx x.a] (srcUse false x.b) s (fun s f i =>
    ((s.fgroup f).hv (srcIx x.a)).rotateLeft (hrotAmount (s.view f i) x.b hi))

def execHacc (x : FForm) (neg : Bool) (s : State) : Host.Outcome State Fault Refusal :=
  runHyper x.g [srcIx x.a] [] s (fun s f _ =>
    let g := s.fgroup f
    let (a, n) := accumulate neg (g.hv (srcIx x.a)) (Cells.get g.acc x.d.toNat)
    let s := s.onGroup f (fun g => { g with acc := Cells.set g.acc x.d.toNat a })
    .ok (s.modCtx (s.fctx f) (fun c => c.count (fun k => { k with hvSat := sat32 (k.hvSat + n) }))) [])

def execHthr (x : FForm) (s : State) : Host.Outcome State Fault Refusal :=
  writesHv x [] [] s (fun s f _ => thresholdBits (Cells.get (s.fgroup f).acc (srcIx x.a)) (s.fgroup f).htie)

def execHclr (x : FForm) (acc : Bool) (s : State) : Host.Outcome State Fault Refusal :=
  runHyper x.g (if acc then [] else [x.d.toNat]) [] s (fun s f _ =>
    .ok (s.onGroup f (fun g => if acc then { g with acc := Cells.set g.acc x.d.toNat 0 } else g.setHv x.d.toNat 0)) [])

def execHpop (x : FForm) (s : State) : Host.Outcome State Fault Refusal :=
  runHyper x.g [srcIx x.a] [] s (fun s f _ =>
    .ok (s.onGroup f (fun g => g.setS x.d.toNat (BitVec.ofNat 32 (popcount (g.hv (srcIx x.a)))))) [])

def execHdist (x : FForm) (s : State) : Host.Outcome State Fault Refusal :=
  runHyper x.g [srcIx x.a, srcIx x.b] [] s (fun s f _ =>
    .ok (s.onGroup f (fun g =>
      g.setS x.d.toNat (BitVec.ofNat 32 (popcount (g.hv (srcIx x.a) ^^^ g.hv (srcIx x.b)))))) [])

def execHgen (x : FForm) (s : State) : Host.Outcome State Fault Refusal :=
  writesHv x [] (srcUse true x.a) s (fun s f i => hgenBits ((s.view f i).src64 x.a))

def execHtie (x : FForm) (s : State) : Host.Outcome State Fault Refusal :=
  runHyper x.g [srcIx x.a] [] s (fun s f _ => .ok (s.onGroup f (fun g => { g with htie := g.hv (srcIx x.a) })) [])

/-! ## Images (R308, R309) -/

/-- The 64 granule requests of an image. -/
def imageReqs (f : Focus) (i h : Nat) (store : Bool) (p : Place) (s : State) (mk : Req → Req) : State :=
  (List.range 64).foldl (fun s k =>
    let data := ((s.fgroup f).hv h).extractLsb' (128 * k) 128
    s.send f (mk { s.blankReq f i (if store then .store else .load) (p.plus (16 * k)) 16 .i8 with
      data := if store then data.setWidth 512 else 0, dest := if store then .none else .hyper h k, isLd := !store })) s

/-- An image moves, once all checks are passed and a host link has room for its units (22_link.md R424). -/
def moveImage (m : MForm) (h : Nat) (store : Bool) (f : Focus) (s : State) (i : Nat) (p : Place) : State :=
  let after := if store then s.before f i (isRel m.ord) else []
  let s := s.modLane f.blk f.grp i (fun l => l.passGate (!store))
  if m.space == .sp then
    if store then (s.commitAt p (bytesOfNat ((s.fgroup f).hv h).toNat 1024) false (s.flane f i).D).1
    else (spRead m f s i p 1024).onGroup f (fun g => g.setHv h (BitVec.ofNat 8192 (s.natAt p 1024)))
  else
    let s := imageReqs f i h store p s (fun r => { r with scope := m.scope, ord := m.ord, atHome := atHomeHint m.hint, after := after })
    if store then s else s.onGroup f (fun g => { g with hpend := insertNat h g.hpend })

def imageWord (m : MForm) (use : List Nat) (off : View → Int) (store : Bool) (s : State) : Host.Outcome State Fault Refusal :=
  let h := m.data.toNat
  runHyper m.g [h] (baseUse m.base ++ use) s (fun s f i =>
    if store && m.space == .gl && (s.fgroup f).region.isSome then .trap (idemTrap [])
    else
      match s.gate f i (!store) store (store && isRel m.ord) m.space with
      | some w => .ok s (pathWaits f w)
      | none =>
        match checkM m (off (s.view f i)) 1024 [if store then .write else .read] (if store then .store else .load) store s f i with
        | .bad _ t => .trap t
        | .fill p k a => .ok (s.askFill p) (pathWaits f (.page p.ctx p.page k a))
        | .ok p t =>
          if s.unitRoom p 64 then .ok (moveImage m h store f (s.see (s.fblock f).core (s.fctx f) t) i p) []
          else .ok s (pathWaits f .room)
        | .const _ => .ok s [])

def execHld (m : MForm) (off : BitVec 14) (s : State) : Host.Outcome State Fault Refusal :=
  imageWord m [] (fun _ => scaled off 1024) false s

def execHst (m : MForm) (off : BitVec 14) (s : State) : Host.Outcome State Fault Refusal :=
  imageWord m [] (fun _ => scaled off 1024) true s

/-- R309: the index register names the entry. -/
def execHmset (m : MForm) (idx : BitVec 9) (s : State) : Host.Outcome State Fault Refusal :=
  imageWord m [idx.toNat] (fun v => 1024 * ((v.l.reg v.g.nregs idx.toNat).toNat : Int)) true s

/-! ## The Luna search (R310 to R312) -/

/-- The checks of a search over its whole range. -/
def checkSearch (s : State) (f : Focus) (b : BaseVal) (sp : Bool) (len : Nat) : Chk :=
  let blk := s.fblock f
  let a := b.val.toNat
  if a % 1024 != 0 then .bad rankAlign { cause := 11, kind := .load, addr := b.val }
  else if sp then
    if 2 ^ 32 ≤ a || blk.scratch * 16384 < a + len then .bad rankBounds { cause := 5, kind := .load, addr := b.val }
    else withLocks s blk.core blk.ctx (some f.blk) a len false .load b.val (.ok (.rsp f.blk a) .nothing)
  else
    withLocks s blk.core blk.ctx none a len false .load b.val
      (if inWindow a then checkWindow (s.ctx blk.ctx) b 0 len [.read] .load b.val
       else worst ((spanPoints (s.ctx blk.ctx) a len).map (fun x => checkPage s blk.core blk.ctx x [.read] .load (BitVec.ofNat 64 x))))

def hmatchWord (x : FForm) (q : BitVec 4) (sp : Bool) (s : State) (f : Focus) (i : Nat) : Eff :=
  let v := s.view f i
  let n := (v.src x.b).toNat
  let b := srcBase v x.a
  if 65536 < n then .trap { cause := 5, kind := .load, addr := 0 }
  else if n = 0 then .ok (s.onGroup f (fun g => g.setSPair x.d.toNat 0xFFFFFFFFFFFFFFFF)) []
  else
    match s.gate f i true false false (if sp then .sp else .gl) with
    | some w => .ok s (pathWaits f w)
    | none =>
      match checkSearch s f b sp (1024 * n) with
      | .bad _ t => .trap t
      | .fill p k a => .ok (s.askFill p) (pathWaits f (.page p.ctx p.page k a))
      | c =>
        let src : Loc := match c with
          | .ok p _ => if sp || inWindow b.val.toNat then .at p else .va b.val.toNat
          | _ => .none
        let job : LunaJob :=
          { id := s.nextId, blk := f.blk, grp := f.grp, lane := i, ctx := s.fctx f, src := src, count := n,
            query := v.g.hv q.toNat, dst := x.d.toNat, limit := (v.g.sreg x.c.toNat).toNat, next := 0, best := 0, dmin := 8193 }
        let s := { s with nextId := s.nextId + 1 }
        let s := s.modLane f.blk f.grp i (fun l => l.passGate true)
        let s := s.modCore (s.fblock f).core (fun k => { k with luna := k.luna ++ [job] })
        .ok s (f.lanes.map (fun l => (l, .goWait (f.pc + 1) (.luna job.id))))

def execHmatch (x : FForm) (q : BitVec 4) (sp : Bool) (s : State) : Host.Outcome State Fault Refusal :=
  runHyper x.g [q.toNat] (srcUse true x.a ++ srcUse false x.b) s (hmatchWord x q sp)

/-- R310: the results of a finished search. -/
def lunaResult (best dmin limit : Nat) : DWord :=
  BitVec.ofNat 32 dmin ++ (if limit < dmin then 0xFFFFFFFF#32 else BitVec.ofNat 32 best)

/-- The search at the head of the core's Luna engine, once the acting lane's earlier accesses are performed. -/
def State.lunaReady (s : State) (core : Nat) : Option LunaJob :=
  (s.core core).luna.head?.filter (fun j =>
    !(s.core core).frozen && !s.reqs.any (fun r => r.blk == j.blk && r.grp == j.grp && r.lane == j.lane &&
      decide (r.id < j.id) && !r.performed))

/-- Where the next granule of a search lies, as the tables stand. -/
def State.lunaPlace (s : State) (core : Nat) (j : LunaJob) : Xlat :=
  let off := 1024 * j.next + 16 * j.gran
  match j.src with
  | .va a => translate s.mem (s.core core).tlb j.ctx (s.ctx j.ctx) (a + off) .read
  | .at p => .at (p.plus off) none
  | .none => .fault 1

/-- A granule read as a relaxed load of the acting lane, and what it raises D by: from the die's replica where that holds the line, as
far as D goes and with no earlier access of the lane to those bytes still on its way, or else at the home, with the line written back
first (R312, 13_ordering.md R254 to R256). -/
def lunaGranule (s : State) (core : Nat) (j : LunaJob) (p : Place) : State × Nat × VecD :=
  let d := s.die (dieOfCore core)
  let near := match p with
    | .mem pa =>
      if dieOfAddr pa != dieOfCore core && !s.isHeld p &&
          !(s.laneReqs j.blk j.grp j.lane).any (fun r => decide (r.id < j.id) && r.place.meets r.size p 16) &&
          decide (((s.lane j.blk j.grp j.lane).D.max j.up).get (dieOfAddr pa) ≤ d.applied.get (dieOfAddr pa)) then
        (Tbl.at d.replica (pa / 64)).map (fun l => natOfBytes ((l.bytes.drop (pa % 64)).take 16))
      else none
    | _ => none
  match near with
  | some x => (s, x, d.applied)
  | none =>
    let s := (s.flush p 16).readLoss j.ctx p 16
    (s, s.natAt p 16, s.latestAt p 16)

/-- A granule of an entry counts with the bits in which it differs from the query's; with its last one the entry is compared
(R310: ties keep the lower index). -/
def LunaJob.past (j : LunaJob) (x : Nat) (up : VecD) : LunaJob :=
  let q := (j.query.extractLsb' (128 * j.gran) 128).toNat
  let diff := j.diff + (List.range 128).countP (fun b => (q ^^^ x).testBit b)
  let j := { j with up := j.up.max up }
  if j.gran + 1 < 64 then { j with gran := j.gran + 1, diff := diff }
  else { j with gran := 0, diff := 0, next := j.next + 1, best := if diff < j.dmin then j.next else j.best,
                dmin := Nat.min diff j.dmin }

def State.modLuna (s : State) (core : Nat) (j : LunaJob) : State :=
  s.modCore core (fun k => { k with luna := j :: k.luna.drop 1 })

def LunaJob.addr (j : LunaJob) : DWord :=
  BitVec.ofNat 64 (j.src.base + 1024 * j.next + 16 * j.gran)

/-- A fault of a search under way, at the granule that it reads next, is posted and counted as that of a command is, and the search ends
there with no result (09_page.md R207; log 102). -/
def State.lunaFault (s : State) (core : Nat) (j : LunaJob) (sub : Nat) : State :=
  (s.actionFault j.ctx 8 sub j.addr).modCore core (fun k => { k with luna := k.luna.drop 1 })

/-- The search reads its next granule: it waits for its page and for room on a host link; a port that refuses the read makes it a
violation, and what is refused or lost reads zero. -/
def lunaStep (s : State) (core : Nat) : State :=
  match s.lunaReady core with
  | none => s
  | some j =>
    if j.count ≤ j.next then s
    else
      match s.lunaPlace core j with
      | .fill p => if s.fillFailed p then s.lunaFault core j 5 else s.askFill p
      | .fault sub => s.lunaFault core j sub
      | .at p _ =>
        if !s.windowRoom p then s
        else
          s.engineAt (s.agent core (dieOfCore core) j.ctx) p (fun s => s.modLuna core (j.past 0 {})) (fun s =>
            let (t, x, up) := lunaGranule s core j p
            t.modLuna core (j.past x up))

/-- What a Luna engine reads in a cycle: it takes 4 cycles for an entry of 64 granules (R311). -/
def lunaCycle (s : State) (core : Nat) : State := (List.range 16).foldl (fun s _ => lunaStep s core) s

/-- The search whose entries are all read. -/
def State.lunaDone (s : State) (core : Nat) : Option LunaJob := (s.lunaReady core).filter (fun j => decide (j.count ≤ j.next))

def finishLuna (s : State) (core : Nat) (j : LunaJob) : State :=
  let s := s.modGroup j.blk j.grp (fun g => g.setSPair j.dst (lunaResult j.best j.dmin j.limit))
  let s := s.modLane j.blk j.grp j.lane (fun l => { l with D := l.D.max j.up })
  s.modCore core (fun k => { k with luna := k.luna.drop 1 })

def execLunaSearchComplete (core : Nat) (s : State) : Host.Outcome State Fault Refusal :=
  .next (((s.lunaDone core).map (finishLuna s core)).getD s)

end Sys2Proof.Machine
end

