-- ==== Sys2Proof/Machine/Barrier.lean ====
section
/-!
DEFINITION. Major 20, barrier records, election and the lead allowance (18_barrier.md R342 to R357).
-/

set_option linter.unusedVariables false

namespace Sys2Proof.Machine

/-! ## Records (R342 to R345) -/

structure BSlot where
  expected : Nat
  arrived : Nat
  flip : Bool
  deriving DecidableEq, Repr, Inhabited

structure BRec where
  base : Nat
  valid : Bool
  slots : List BSlot
  deriving DecidableEq, Repr, Inhabited

def BSlot.bits (x : BSlot) : Nat := x.expected + 2 ^ 16 * x.arrived + 2 ^ 32 * x.flip.toNat

/-- The 512 bits of a record. -/
def BRec.bits (r : BRec) : Nat :=
  r.base + 2 ^ 32 * r.valid.toNat + (r.slots.zipIdx.map (fun x => 2 ^ (64 + 64 * x.2) * x.1.bits)).sum

def slotOfBits (x : Nat) : BSlot := ⟨x % 2 ^ 16, x / 2 ^ 16 % 2 ^ 16, x / 2 ^ 32 % 2 == 1⟩

def recOfBits (x : Nat) : BRec :=
  ⟨x % 2 ^ 32, x / 2 ^ 32 % 2 == 1, (List.range 4).map (fun k => slotOfBits (x / 2 ^ (64 + 64 * k) % 2 ^ 64))⟩

/-- R343: nonzero reserved bits, a zero expected count or too many arrivals, in a record that is valid. -/
def malformed (x : Nat) : Bool :=
  let r := recOfBits x
  r.valid && (r.bits != x || r.slots.any (fun s => s.expected == 0 || decide (s.expected < s.arrived)))

/-- R344. -/
def BRec.dist (r : BRec) (p : Nat) : Nat := (p + 2 ^ 32 - r.base) % 2 ^ 32
def BRec.complete (r : BRec) (p : Nat) : Bool := r.valid && decide (2 ^ 31 ≤ r.dist p)
def BRec.beyond (r : BRec) (p : Nat) : Bool := r.valid && decide (4 ≤ r.dist p) && decide (r.dist p < 2 ^ 31)

/-- The block and offset of a record. -/
def State.recordAt (s : State) (blk : Nat) (rsp : Bool) (a : Nat) : Option (Nat × Nat) :=
  if rsp then (s.rankBlock blk (a / 2 ^ 32)).map (fun t => (t, a % 2 ^ 32)) else some (blk, a)

def State.recordBits (s : State) (t : Nat × Nat) : Nat := Memory.readNat (s.block t.1).spad t.2 64

def State.putRecord (s : State) (t : Nat × Nat) (r : BRec) (h : Hidden) : State :=
  s.modBlock t.1 (fun b => { b with spad := Memory.write b.spad t.2 (bytesOfNat r.bits 64), hidden := Tbl.put b.hidden t.2 h })

def State.hiddenAt (s : State) (t : Nat × Nat) : Hidden := (Tbl.at (s.block t.1).hidden t.2).getD {}

/-- Phases complete while the oldest open one is full (R345, R349). The fuel is the number of slots. -/
def completePhases : Nat → BRec → Hidden → BRec × Hidden
  | 0, r, h => (r, h)
  | n + 1, r, h =>
    let k := r.base % 4
    let x := r.slots.getD k default
    if x.arrived = x.expected then
      completePhases n
        { r with base := (r.base + 1) % 2 ^ 32, slots := r.slots.set k { x with arrived := 0, flip := !x.flip } }
        { slots := h.slots.set k {}, vc := h.vc.max (h.slots.getD k {}) }
    else (r, h)

def overrun (sub : Nat) (kind : AccKind) (a : DWord) : Trap := { cause := 10, sub := sub, kind := kind, addr := a }

/-! ## Checks (R348) -/

/-- The record that a word names, or the trap. -/
def checkRecord (s : State) (f : Focus) (rsp : Bool) (a : DWord) (kind : AccKind) : Except Trap (Nat × Nat) :=
  let blk := s.fblock f
  let x := a.toNat
  match s.recordAt f.blk rsp x with
  | none => .error { cause := 5, kind := kind, addr := a }
  | some t =>
    if (if rsp then 2 ^ 34 else 2 ^ 32) ≤ x || (s.block t.1).scratch * 16384 ≤ t.2 then
      .error { cause := 5, kind := kind, addr := a }
    else if t.2 % 64 != 0 then .error { cause := 11, kind := kind, addr := a }
    else if malformed (s.recordBits t) then .error (overrun 2 kind a)
    else if s.lockHit blk.core blk.ctx (some t.1) t.2 64 (kind != .load) then .error (rangeTrap kind a)
    else .ok t

/-- A barrier word: one operation for the path, by the lowest acting lane's operands, once the acting lanes may access the
scratchpad. `rel` makes it wait for all their earlier accesses. -/
def barrierWord (g : Guard) (rsp ext rel : Bool) (a : Src) (kind : AccKind)
    (act : State → Focus → List Nat → View → Nat × Nat → Eff) (s : State) (f : Focus) : Eff :=
  let ls := s.acting f g
  match ls.head? with
  | none => .ok s []
  | some i =>
    if ext && (s.fgroup f).region.isSome then .trap (idemTrap [])
    else
      match ls.findSome? (fun l => s.gate f l true true false .sp) with
      | some w => .ok s (pathWaits f w)
      | none =>
        let v := s.view f i
        match checkRecord s f rsp (v.src64 a) kind with
        | .error t => .trap t
        | .ok t =>
          let early := if rel then ls.flatMap (fun l => (s.laneReqs f.blk f.grp l).map Req.id) else []
          if !early.isEmpty then .ok s (pathWaits f (.reqs early))
          else act (s.onLanes f ls (fun _ l => l.passGate true)) f ls v t

def barrierUse (x : FForm) : List Nat := srcUse true x.a ++ srcUse false x.b

/-! ## Waiting lanes (R345, R348, R350) -/

/-- A lane that waits on a record: its block, group and number, the phase, and whether it acquires. -/
structure RecWaiter where
  blk : Nat
  grp : Nat
  lane : Nat
  phase : Nat
  acq : Bool
  deriving DecidableEq, Repr

def State.recordWaiters (s : State) (t : Nat × Nat) : List RecWaiter :=
  s.blocks.flatMap (fun e => e.2.groups.zipIdx.flatMap (fun g => g.1.lanes.zipIdx.filterMap (fun l =>
    match l.1.st with
    | .waiting (.barrier rsp a p acq) => if s.recordAt e.1 rsp a = some t then some ⟨e.1, g.2, l.2, p.toNat, acq⟩ else none
    | _ => none)))

/-- R351: a wait that passes is an acquire, unless it is relaxed. -/
def Lane.acquireRec (vc : VecD) (acq : Bool) (l : Lane) : Lane :=
  if acq then { l with D := l.D.max vc, order := { l.order with cover := true } } else l

/-- R101, R350: the waiting lane stands at the next word. -/
def Lane.passRec (vc : VecD) (acq : Bool) (l : Lane) : Lane := (l.advance (l.pc + 1)).acquireRec vc acq

/-- The lanes whose phase is complete go on at the word after their `bwait`, ready in the next cycle. -/
def State.passWaiters (s : State) (t : Nat × Nat) : State :=
  let r := recOfBits (s.recordBits t)
  let vc := (s.hiddenAt t).vc
  ((s.recordWaiters t).filter (fun w => r.complete w.phase)).foldl (fun s w =>
    s.modLane w.blk w.grp w.lane (fun l => l.passRec vc w.acq)) s

/-- R348: after a `binit`, lanes whose phase lies beyond the window take the trap, those at one word together. -/
def State.trapWaiters (s : State) (t : Nat × Nat) : State :=
  let r := recOfBits (s.recordBits t)
  let ws := (s.recordWaiters t).filter (fun w => r.beyond w.phase)
  let key := fun (s : State) (w : RecWaiter) => (w.blk, w.grp, (s.lane w.blk w.grp w.lane).kern, (s.lane w.blk w.grp w.lane).pc)
  ((ws.map (key s)).eraseDups).foldl (fun u k =>
    let ls := (ws.filter (fun w => key s w == k)).map RecWaiter.lane
    let b := s.block k.1
    let a := match (s.lane k.1 k.2.1 (ls.headD 0)).st with
      | .waiting (.barrier _ a _ _) => BitVec.ofNat 64 a
      | _ => 0
    let word := (codeWord s b.core b.ctx ((s.kern b.ctx k.2.2.1).getD {}) k.2.2.2).getD 0
    trapPath u { blk := k.1, grp := k.2.1, kern := k.2.2.1, pc := k.2.2.2, lanes := ls, word := word }
      { overrun 1 .load a with lanes := ls }) s

/-! ## The words (R348 to R351) -/

def execBinit (x : FForm) (rsp : Bool) (s : State) : Host.Outcome State Fault Refusal :=
  runWord s (barrierUse x) (barrierWord x.g rsp rsp false x.a .store (fun s f _ v t =>
    let n := (v.src x.b).toNat
    if n = 0 || 65535 < n then .trap { cause := 5, kind := .store, addr := v.src64 x.a }
    else .ok (((s.putRecord t ⟨0, true, List.replicate 4 ⟨n, 0, false⟩⟩ {}).passWaiters t).trapWaiters t) []))

/-- R349: the arrival. -/
def arriveOn (s : State) (f : Focus) (ls : List Nat) (a : DWord) (t : Nat × Nat) (p w : Nat) : Eff :=
  let r := recOfBits (s.recordBits t)
  let x := r.slots.getD (p % 4) default
  if !r.valid then .trap (overrun 2 .atomic a)
  else if 3 < r.dist p then .trap (overrun 1 .atomic a)
  else if x.expected < x.arrived + w then .trap (overrun 3 .atomic a)
  else
    let h := s.hiddenAt t
    let d := ls.foldl (fun (d : VecD) l => d.max (s.flane f l).known) (h.slots.getD (p % 4) {})
    let (r, h) := completePhases 4 { r with slots := r.slots.set (p % 4) { x with arrived := x.arrived + w } }
      { h with slots := h.slots.set (p % 4) d }
    .ok ((s.putRecord t r h).passWaiters t) []

def execBarr (x : FForm) (rsp grp rlx : Bool) (s : State) : Host.Outcome State Fault Refusal :=
  runWord s (barrierUse x) (barrierWord x.g rsp rsp (!rlx) x.a .atomic (fun s f ls v t =>
    arriveOn s f ls (v.src64 x.a) t (v.src x.b).toNat (if grp then 1 else ls.length)))

/-- R351: a passing wait or test acquires. -/
def barrierAcquire (rlx : Bool) (s : State) (f : Focus) (ls : List Nat) (t : Nat × Nat) : State :=
  if rlx then s else s.onLanes f ls (fun _ l => l.acquireRec (s.hiddenAt t).vc true)

def execBwait (x : FForm) (rsp rlx : Bool) (s : State) : Host.Outcome State Fault Refusal :=
  runWord s (barrierUse x) (barrierWord x.g rsp false false x.a .load (fun s f ls v t =>
    let r := recOfBits (s.recordBits t)
    let p := v.src x.b
    if r.complete p.toNat then .ok (barrierAcquire rlx s f ls t) []
    else if r.beyond p.toNat then .trap (overrun 1 .load (v.src64 x.a))
    else .ok s (ls.map (fun l => (l, .wait (.barrier rsp (v.src64 x.a).toNat p (!rlx)))))))

def execBtest (x : FForm) (rsp rlx : Bool) (s : State) : Host.Outcome State Fault Refusal :=
  runWord s (barrierUse x) (barrierWord x.g rsp false false x.a .load (fun s f ls v t =>
    let done := (recOfBits (s.recordBits t)).complete (v.src x.b).toNat
    let s := s.onLanes f ls (fun _ l => l.setPred x.d.toNat done)
    .ok (if done then barrierAcquire rlx s f ls t else s) []))

/-! ## Election and lead (R353, R354) -/

/-- The lowest-numbered group of a group's role. -/
def roleLeader (k : Kern) (b : Block) (g : Group) : Nat :=
  if k.roleGroups.isEmpty then 0 else (b.groups.findIdx? (fun x => x.role == g.role)).getD 0

def execElect (x : FForm) (role : Bool) (s : State) : Host.Outcome State Fault Refusal :=
  runWord s [] (fun s f =>
    let ls := s.acting f x.g
    match ls.head? with
    | none => .ok s []
    | some i =>
      let g := s.fgroup f
      let target := if role then roleLeader (s.fkern f) (s.fblock f) g else ((s.view f i).src x.a).toNat
      .ok (s.onLanes f ls (fun l y => y.setPred x.d.toNat (g.num == target && l == i))) [])

/-- R354: a block's count is the least of its groups that have not retired. -/
def Block.advance (b : Block) : Nat := (((b.groups.filter (fun g => !g.live.isEmpty)).map Group.adv).min?).getD 0

/-- The neighbours of a block in its cluster. -/
def State.leadNeighbours (s : State) (blk : Nat) : List Nat :=
  let b := s.block blk
  let c := (s.blockKern b).cluster
  let r := if c = 0 then 0 else b.index % c
  let near := (if r = 0 then [] else [r - 1]) ++ [r + 1]
  (near.filterMap (s.rankBlock blk)).filter (fun n =>
    (s.block? n).any (fun x => x.st != .retired && x.st != .retiring && x.groups.any (fun g => !g.live.isEmpty)))

/-- Must a group with this advance count wait, by the counts its core has last seen? -/
def State.leadHolds (s : State) (blk adv : Nat) : Bool :=
  let b := s.block blk
  match ((s.leadNeighbours blk).map (fun n => (Tbl.at b.seen n).getD 0)).min? with
  | some n => b.allowance != 0 && decide (n + b.allowance < adv)
  | none => false

def execLead (x : FForm) (s : State) : Host.Outcome State Fault Refusal :=
  runWord s [] (fun s f =>
    match lowestActing s f x.g with
    | none => .ok s []
    | some i =>
      let n := ((s.view f i).src x.a).toNat
      .ok (s.modBlock f.blk (fun b => { b with allowance := Nat.min n 3 })) [])

def execLeadAdv (x : FForm) (s : State) : Host.Outcome State Fault Refusal :=
  runWord s [] (fun s f =>
    match lowestActing s f x.g with
    | none => .ok s []
    | some _ =>
      if (s.fgroup f).region.isSome then .trap (idemTrap [])
      else
        let s := s.onGroup f (fun g => { g with adv := (g.adv + 1) % 2 ^ 32 })
        if s.leadHolds f.blk (s.fgroup f).adv then
          .ok { s with nextId := s.nextId + 1 } (pathWaits f (.lead s.nextId))
        else .ok s [])

/-- A core learns its neighbour's count (LEAD_COUNT_UPDATE). -/
def execLeadCountUpdate (blk nb : Nat) (s : State) : Host.Outcome State Fault Refusal :=
  event s ((s.leadNeighbours blk).contains nb)
    (s.modBlock blk (fun b => { b with seen := Tbl.put b.seen nb (s.block nb).advance }))

end Sys2Proof.Machine
end

