-- ==== Sys2Proof/Machine/Launch.lean ====
section
/-!
DEFINITION. Enqueues, hardware queues, and the blocks and groups that a launch makes (05_group.md R97, R98, R117,
18_barrier.md R352, 19_kernel.md R359 to R371, 20_queue.md R381 to R384).
-/

set_option linter.unusedVariables false

namespace Sys2Proof.Machine

/-! ## Hardware queues (R381 to R383) -/

/-- The hardware queue that serves a pair of context and queue number. -/
def Die.queueOf (d : Die) (c q : Nat) : Option Nat := (d.queues.find? (fun e => e.2.bound == some (c, q))).map Prod.fst

/-- The hardware queue that an enqueue of a pair takes: its own, a free one, or the one emptied longest ago. -/
def Die.queueFor (d : Die) (c q : Nat) : Option Nat :=
  match d.queueOf c q with
  | some n => if ((Tbl.at d.queues n).getD {}).insts.length < 256 then some n else none
  | none =>
    match (List.range 64).find? (fun n => ((Tbl.at d.queues n).getD {}).bound.isNone) with
    | some n => some n
    | none =>
      let empty := d.queues.filter (fun e => e.2.insts.isEmpty)
      match (empty.map (fun e => e.2.emptied)).min? with
      | none => none
      | some t => (empty.find? (fun e => e.2.emptied == t)).map Prod.fst

/-- R368. -/
def queueHandle (die q seq : Nat) : Word := BitVec.ofNat 32 (2 ^ 31 + die * 2 ^ 29 + q * 2 ^ 23 + seq)

/-- What an enqueue gives (R360). -/
structure Enqueue where
  ctx : Nat
  die : Nat
  kern : Nat
  arg : DWord
  blocks : Nat
  q : Nat
  prio : Nat
  dep : Bool
  vec : VecD
  deriving DecidableEq, Repr

/-- R395: an enqueue makes the context LIVE. -/
def Context.busy (c : Context) : Context := if c.st == .complete && !c.exited then { c with st := .live } else c

/-- R383, R395: an enqueue, and the handle of the new launch; none when it is refused. -/
def State.enqueue (s : State) (e : Enqueue) : Option (State × Word) :=
  if (s.ctx? e.ctx).isNone || (s.ctx e.ctx).ended then none
  else
    let d := s.die e.die
    match d.queueFor e.ctx e.q with
    | none => none
    | some n =>
      let h := queueHandle e.die e.q d.handleSeq
      let i := s.nextId
      let old := (Tbl.at d.queues n).getD {}
      let list := if old.bound == some (e.ctx, e.q) then old.insts else []
      let d := { d with queues := Tbl.put d.queues n { old with bound := some (e.ctx, e.q), insts := list ++ [i] }
                        handleSeq := if d.handleSeq + 1 < 2 ^ 23 then d.handleSeq + 1 else 1 }
      let x : Instance :=
        { ctx := e.ctx, kern := e.kern, arg := e.arg, blocks := e.blocks, queue := e.q, prio := e.prio, dep := e.dep,
          die := e.die, handle := h, vec := e.vec }
      let s := (s.setDie e.die d).modCtx e.ctx Context.busy
      let s := if old.bound == some (e.ctx, e.q) then s else s.note 12 e.ctx e.q
      some ({ s with nextId := i + 1, insts := Tbl.put s.insts i x }, h)

/-- R361: the instances of a queue whose start condition holds begin to dispatch, with their producers. -/
def startQueue (s : State) (ids : List Nat) : State :=
  (List.range ids.length).foldl (fun s k =>
    let i := ids.getD k 0
    let x := s.inst i
    let ahead := ids.take k
    let ready := x.st == .queued && (s.ctx x.ctx).st == .live &&
      (k == 0 || (x.dep && (s.inst (ids.getD (k - 1) 0)).st == .dispatched))
    if ready then s.modInst i (fun x => { x with st := .dispatching, producers := if x.dep then ahead else [] }) else s) s

def State.startInsts (s : State) : State :=
  s.dies.foldl (fun s e => e.2.queues.foldl (fun s q => startQueue s q.2.insts) s) s

/-! ## Where a group lies (R97) -/

/-- The lowest of the numbers with the least measure. -/
def least (k : Nat → Nat) : List Nat → Nat
  | [] => 0
  | x :: xs => xs.foldl (fun a y => if k y < k a then y else a) x

/-- A scheduler, a first slice and how many slices. -/
structure Seat where
  sched : Nat
  slice : Nat
  n : Nat
  deriving DecidableEq, Repr

def seatsOf (s : State) (core : Nat) : List Seat :=
  (s.residents core).flatMap (fun e => (e.2.groups.filter (fun g => !g.live.isEmpty)).map (fun g => ⟨g.sched, g.slice, g.width / 16⟩))

def seatFor (seats : List Seat) (width : Nat) : Seat :=
  let n := width / 16
  let sched := least (fun k => seats.countP (fun x => x.sched == k)) (List.range 4)
  let load := fun (k : Nat) => seats.countP (fun x => x.sched == sched && decide (x.slice ≤ k) && decide (k < x.slice + x.n))
  let starts := if n = 1 then [0, 1, 2, 3] else if n = 2 then [0, 2] else [0]
  let slice := least (fun a => ((List.range n).map (fun i => load (a + i))).foldl Nat.max 0) starts
  ⟨sched, slice, n⟩

/-- The groups of a block take their seats, in number order. -/
def seatGroups : List Seat → List Group → List Group
  | _, [] => []
  | seats, g :: gs =>
    if g.live.isEmpty then g :: seatGroups seats gs
    else
      let x := seatFor seats g.width
      { g with sched := x.sched, slice := x.slice } :: seatGroups (seats ++ [x]) gs

/-! ## New blocks (R98, R352, R359, R369, R371) -/

def poolRegs (k : Kern) : Nat := k.pool.toNat % 256
def poolScratch (k : Kern) : Nat := k.pool.toNat / 256 % 256
def poolAcc (k : Kern) : Nat := k.pool.toNat / 65536 % 256

/-- R98: the register count that units give to the threads of some groups. -/
def regCount (k : Kern) (units groups : Nat) : Nat := Nat.min 512 (units * 4096 / (k.width * groups))

/-- R352: the units that each role needs. -/
def roleNeeds (k : Kern) : List Nat :=
  (List.range 3).map (fun r => (k.roleGroups.getD r 0 * k.width * k.roleRegs.getD r 0 * 4 + 16383) / 16384)

/-- The register units by share; with roles, what no role needs comes last. -/
def regShares (k : Kern) : List Nat :=
  if k.roleGroups.isEmpty then [poolRegs k] else roleNeeds k ++ [poolRegs k - (roleNeeds k).sum]

/-- Role and register count of each group, in number order. -/
def groupPlan (k : Kern) : List (Nat × Nat) :=
  if k.roleGroups.isEmpty then List.replicate k.groups (3, regCount k (poolRegs k) k.groups)
  else (List.range 3).flatMap (fun r => List.replicate (k.roleGroups.getD r 0) (r, k.roleRegs.getD r 0))

/-- R117: the lowest free places of 1 KiB in the context's stack region, one for each thread. -/
def freeStacks (used : Tbl Nat) : Nat → Nat → Nat → List Nat
  | 0, _, _ => []
  | fuel + 1, i, n =>
    if n = 0 then []
    else if (Tbl.at used i).isSome then freeStacks used fuel (i + 1) n
    else i :: freeStacks used fuel (i + 1) (n - 1)

def Context.takeStacks (c : Context) (n : Nat) : List Nat × Context :=
  let is := freeStacks c.stackUse (c.stackUse.length + n) 0 n
  (is, { c with stackUse := is.foldl (fun t i => Tbl.put t i 1) c.stackUse })

def newLane (c : Context) (i : Nat) (kern pc stackIx : Nat) (vec : VecD) : Lane :=
  { pc := pc, kern := kern, D := vec, order := { cover := true },
    sp := BitVec.ofNat 64 (c.stackBase + 1024 * stackIx + 1024), stackBase := BitVec.ofNat 64 (c.stackBase + 1024 * stackIx) }

/-- A group as it starts: its scalars are zero but for s62:s63, which hold the argument (R359); its hypervector state is
that of R296. -/
def newGroup (c : Context) (k : Kern) (num role nregs : Nat) (arg : DWord) (lanes : List Lane) : Group :=
  Group.setSPair { num := num, width := k.width, role := role, nregs := nregs, htie := if k.hyper then hgenBits c.seed else 0,
                   lanes := lanes } 62 arg

/-- A descriptor block of an instance, before it is placed. -/
def newBlock (s : State) (i index core : Nat) : Block × State :=
  let x := s.inst i
  let c := s.ctx x.ctx
  let k := (s.kern x.ctx x.kern).getD {}
  let plan := groupPlan k
  let (spots, c') := c.takeStacks (plan.length * k.width)
  let groups := plan.zipIdx.map (fun p =>
    newGroup c k p.2 p.1.1 p.1.2 x.arg ((List.range k.width).map (fun l =>
      newLane c l x.kern k.entry (spots.getD (p.2 * k.width + l) 0) x.vec)))
  ({ ctx := x.ctx, inst := i, index := index, core := core, age := s.nextId, regUnits := regShares k, baseUnits := regShares k,
     scratch := poolScratch k, acc := poolAcc k, groups := seatGroups (seatsOf s core) groups },
   { s.modCtx x.ctx (fun _ => c') with nextId := s.nextId + 1 })

/-- R371: the block of a launched bin, waiting to be placed on the bin's core. -/
def spawnedBlock (s : State) (core i target : Nat) (ts : List BinThread) : Block × State :=
  let x := s.inst i
  let c := s.ctx x.ctx
  let k := (s.kern x.ctx x.kern).getD {}
  let n := regCount k (poolRegs k) 1
  let (spots, c') := c.takeStacks ts.length
  let lanes := (List.range k.width).map (fun l =>
    match ts[l]? with
    | some t => ((newLane c l x.kern target (spots.getD l 0) t.D).setPair n 0 t.arg).setTag n 0 t.tag
    | none => { st := .exited })
  let g := newGroup c k 0 3 n x.arg lanes
  ({ ctx := x.ctx, inst := i, index := x.blocks + x.spawned, core := core, st := .formed, age := s.nextId,
     regUnits := [poolRegs k], baseUnits := [poolRegs k], scratch := poolScratch k, acc := poolAcc k, spawned := true,
     groups := [g] },
   (s.modCtx x.ctx (fun _ => c')).modInst i (fun x => { x with spawned := x.spawned + 1 }))

/-- A bin is launched: its block joins the relaunch order of its instance's queue manager. -/
def launchBin (s : State) (core i target : Nat) (ts : List BinThread) : State :=
  let (b, s) := spawnedBlock s core i target ts
  let id := s.nextId
  let s := { s with nextId := id + 1, blocks := Tbl.put s.blocks id b }
  s.modDie (dieOfCore core) (fun d => { d with relaunch := d.relaunch ++ [id] })

/-- R117, R364: a retired block's stacks are free again. -/
def freeBlockStacks (s : State) (b : Block) : State :=
  s.modCtx b.ctx (fun c =>
    { c with stackUse := b.groups.foldl (fun t g => g.lanes.foldl (fun t l =>
        if l.stackBase = 0 then t else Tbl.del t ((l.stackBase.toNat - c.stackBase) / 1024)) t) c.stackUse })

end Sys2Proof.Machine
end

