-- ==== Sys2Proof/Machine/Action.lean ====
section
/-!
DEFINITION. The actions that triggers fire (17_counter.md R319 to R323, 13_ordering.md R261).
-/

set_option linter.unusedVariables false

namespace Sys2Proof.Machine

/-- The firing entry of a die whose action is next: its context has not ended, the actions before it in its firing are done,
and the die has applied the raising write. -/
def State.action? (s : State) (die idx kind : Nat) : Option TrigEntry :=
  let d := s.die die
  let e := d.entry idx
  if e.st == .firing && recNat e.record 0 1 == kind && (s.ctx? e.ctx).isSome && !(s.ctx e.ctx).ended &&
      d.applied.covers e.vec &&
      !d.entries.any (fun x => x.2.st == .firing && x.2.firing == e.firing && decide (x.2.order < e.order)) then some e
  else none

/-- The entry is free again (R320). -/
def State.freeEntry (s : State) (die idx : Nat) : State :=
  s.modDie die (fun d => { d with entries := Tbl.put d.entries idx (d.entry idx).freed })

/-- The Proofer of a die as a source of requests. -/
def prooferCore (die : Nat) : Nat := 256 + die

/-- Runs an action: `act` gives the new state, or none while it must wait. -/
def runAction (die idx kind : Nat) (act : State → TrigEntry → Option State) (s : State) : Option State :=
  (s.action? die idx kind).bind (act s)

/-- An access of an action: it faults, a page that cannot be filled included (09_page.md R200, R201), waits for its page, or goes on
at its place. -/
def withPlace (s : State) (die idx : Nat) (e : TrigEntry) (c : Chk) (go : Place → Option State) : Option State :=
  match c with
  | .bad _ t => some ((s.actionFault e.ctx t.cause t.sub t.addr).freeEntry die idx)
  | .fill p _ a =>
    if s.fillFailed p then some ((s.actionFault e.ctx 8 5 a).freeEntry die idx)
    else if s.pageFills.any (fun g => g.ctx == p.ctx && g.page == p.page) then none
    else some (s.askFill p)
  | .ok p _ => go p
  | .const _ => none

/-! ## Launch -/

/-- R323, R367: what the record asks for, or the status that refuses it. -/
def actionEnqueue (s : State) (die : Nat) (e : TrigEntry) : Except Nat Enqueue :=
  let num := recNat e.record 48 52
  match s.kern e.ctx num with
  | none => .error 1
  | some k =>
    let n := recNat e.record 56 60
    let nb := if n = 0 then k.blocks else n
    if nb = 0 || nb % k.cluster != 0 then .error 2
    else .ok { ctx := e.ctx, die := if k.die = 255 then die else k.die, kern := num, arg := BitVec.ofNat 64 (recNat e.record 40 48),
               blocks := nb, q := recNat e.record 52 53, prio := recNat e.record 53 54, dep := false, vec := e.vec }

/-- A launch that is refused faults; a full queue is posted too (R383). -/
def launchAct (die idx : Nat) (s : State) (e : TrigEntry) : Option State :=
  match actionEnqueue s die e with
  | .error n => some ((s.actionFault e.ctx 0 n 0).freeEntry die idx)
  | .ok q =>
    match s.enqueue q with
    | some (t, _) => some (t.freeEntry die idx)
    | none => some (((s.actionFault e.ctx 0 3 0).modCtx e.ctx (fun x => { x with msgs := x.msgs ++ [.queueFull q.q] })).freeEntry die idx)

def execLaunchAction (die idx : Nat) (s : State) : Host.Outcome State Fault Refusal :=
  eventOpt s (runAction die idx 1 (launchAct die idx) s)

/-! ## Copy and network -/

/-- The command that a record stands for. -/
def actionArgs (r : BitVec 512) (kind : Nat) : CmdArgs :=
  let a := recNat r 8 16
  let b := recNat r 16 24
  let len := recNat r 4 8
  let dev := recNat r 24 28
  let arr := BitVec.ofNat 32 (recNat r 28 32)
  let ctr := if recNat r 1 2 = 1 then some (recNat r 32 40) else none
  let loc := fun (x n : Nat) (need : Need) => (⟨⟨BitVec.ofNat 64 x, false, 0⟩, false, n, need⟩ : LocalRange)
  let bad : Option DWord := if !isDevice dev || arr.extractLsb' 15 16 != 0 then some (BitVec.ofNat 64 b) else none
  match kind with
  | 2 =>
    { op := .cpy, src := some (loc a len .read), dst := some (loc b len .write), len := len, dev := 0, raddr := 0, rlen := none,
      arrival := 0, ctr := ctr, malformed := none, misaligned := none }
  | 3 =>
    { op := .nwr, src := some (loc a len .read), dst := none, len := len, dev := dev, raddr := b, rlen := some len,
      arrival := arr, ctr := ctr, malformed := bad, misaligned := none }
  | 4 =>
    { op := .nrd, src := none, dst := some (loc a len .write), len := len, dev := dev, raddr := b, rlen := some len,
      arrival := 0, ctr := ctr, malformed := bad, misaligned := none }
  | _ =>
    let sel := recNat r 2 4
    let ty := natomTy (sel / 8 % 16)
    let n := tySize ty
    { op := .natom (natomOp (sel % 8)) ty false (BitVec.ofNat 64 (recNat r 40 48)), src := none,
      dst := if a = 0 then none else some (loc a n .write), len := n, dev := dev, raddr := b, rlen := some n,
      arrival := arr, ctr := ctr, malformed := bad,
      misaligned := ([b] ++ (if a = 0 then [] else [a])).findSome? (fun x => if x % n != 0 then some (BitVec.ofNat 64 x) else none) }

/-- The command enters the die's copy engine with the raising write's vector, when its queue has room. -/
def commandAct (die idx kind : Nat) (s : State) (e : TrigEntry) : Option State :=
  let c := actionArgs e.record kind
  let core := prooferCore die
  let go := if s.cmdRoom core die e.ctx none c then
      some ((s.queueCmd core die e.ctx none none none c e.vec [] false).freeEntry die idx)
    else none
  match checkCmd s core e.ctx none c with
  | .const _ => go
  | k => withPlace s die idx e k (fun _ => go)

def execCopyAction (die idx : Nat) (s : State) : Host.Outcome State Fault Refusal :=
  eventOpt s (runAction die idx 2 (commandAct die idx 2) s)

def execNetworkWriteAction (die idx : Nat) (s : State) : Host.Outcome State Fault Refusal :=
  eventOpt s (runAction die idx 3 (commandAct die idx 3) s)

def execNetworkReadAction (die idx : Nat) (s : State) : Host.Outcome State Fault Refusal :=
  eventOpt s (runAction die idx 4 (commandAct die idx 4) s)

def execNetworkAtomicAction (die idx : Nat) (s : State) : Host.Outcome State Fault Refusal :=
  eventOpt s (runAction die idx 5 (commandAct die idx 5) s)

/-! ## Add, wake and post -/

/-- The value is added at the counter's home, with the raising write's vector; a port that refuses it makes it a violation. -/
def addAct (die idx : Nat) (s : State) (e : TrigEntry) : Option State :=
  let a := BitVec.ofNat 64 (recNat e.record 8 16)
  withPlace s die idx e (checkCounter s (prooferCore die) e.ctx a .write .atomic) (fun p =>
    (s.freeEntry die idx).engineAt (s.agent (prooferCore die) die e.ctx) p some (fun s =>
      let s := (s.flush p 8).readLoss e.ctx p 8
      some (s.commitAt p (bytesOfNat ((s.natAt p 8 + recNat e.record 40 48) % 2 ^ 64) 8) false e.vec).1))

def execAddAction (die idx : Nat) (s : State) : Host.Outcome State Fault Refusal :=
  eventOpt s (runAction die idx 6 (addAct die idx) s)

/-- The context's blocks that are parked on the counter are ready for relaunch. -/
def wakeAct (die idx : Nat) (s : State) (e : TrigEntry) : Option State :=
  let a := BitVec.ofNat 64 (recNat e.record 8 16)
  withPlace s die idx e (checkCounter s (prooferCore die) e.ctx a .read .load) (fun p =>
    let ws := (s.die (p.home?.getD 0)).waiters.filter (fun w => w.ctx == e.ctx && w.ctr == ctrKey p)
    some (ws.foldl (fun s w => s.wakeUnit w.blk) (s.freeEntry die idx)))

def execWakeAction (die idx : Nat) (s : State) : Host.Outcome State Fault Refusal :=
  eventOpt s (runAction die idx 7 (wakeAct die idx) s)

def postAct (die idx : Nat) (s : State) (e : TrigEntry) : Option State :=
  some ((s.modCtx e.ctx (fun x => { x with msgs := x.msgs ++ [.post (e.record.extractLsb' 384 128)] })).freeEntry die idx)

def execPostAction (die idx : Nat) (s : State) : Host.Outcome State Fault Refusal :=
  eventOpt s (runAction die idx 8 (postAct die idx) s)

end Sys2Proof.Machine
end

