-- ==== Sys2Proof/Machine/Float.lean ====
section
/-!
DEFINITION. Majors 4 and 5, floating-point arithmetic and functions (06_arith.md R141, R144 to R148).
-/

set_option linter.unusedVariables false

namespace Sys2Proof.Machine

def fltUse (f : FForm) (m : BMods) : List Nat :=
  srcUse m.ty.wide f.a ++ srcUse m.ty.wide f.b ++ regUse m.ty.wide f.d
def fltUse1 (f : FForm) (m : BMods) : List Nat := srcUse m.ty.wide f.a ++ regUse m.ty.wide f.d

/-- One element, or each 16-bit half with the packed flag (R144). -/
def fltElems (m : BMods) (op : Nat → Nat → Nat → Nat × Events) (a b c : Nat) : Nat × Events :=
  let w := (FFmt.of m.ty).width
  if m.x2 then
    let lo := op (subEl 16 a 0) (subEl 16 b 0) (subEl 16 c 0)
    let hi := op (subEl 16 a 1) (subEl 16 b 1) (subEl 16 c 1)
    (joinEls 16 [lo.1, hi.1], lo.2 ++ hi.2)
  else op (a % 2 ^ w) (b % 2 ^ w) (c % 2 ^ w)

/-- One lane of a float word; `op` takes the patterns of A, B and the third register. -/
def fltLane (f : FForm) (m : BMods) (third : BitVec 9) (op : Nat → Nat → Nat → Nat × Events) (v : View) (i : Nat) :
    Lane × Events :=
  let (x, es) := fltElems m op (v.fltSrc m f.a) (v.fltSrc m f.b) (v.old m.ty.wide third)
  (v.put m.ty.wide f.d x, es)

/-- An operation on values, rounded by the word's mode. -/
def valOp (m : BMods) (k : FFmt → Rnd → Bool → FVal → FVal → Nat × Events) (a b _c : Nat) : Nat × Events :=
  let t := FFmt.of m.ty
  k t m.rnd m.sat (decodeF t a) (decodeF t b)

def execFadd (f : FForm) (m : BMods) (s : State) : Host.Outcome State Fault Refusal :=
  runLanes f.g (fltUse f m) s (fltLane f m f.d (valOp m sumF))

def execFsub (f : FForm) (m : BMods) (s : State) : Host.Outcome State Fault Refusal :=
  runLanes f.g (fltUse f m) s (fltLane f m f.d (valOp m (fun t r sat a b => sumF t r sat a (negF b))))

def execFmul (f : FForm) (m : BMods) (s : State) : Host.Outcome State Fault Refusal :=
  runLanes f.g (fltUse f m) s (fltLane f m f.d (valOp m mulF))

def execFdiv (f : FForm) (m : BMods) (s : State) : Host.Outcome State Fault Refusal :=
  runLanes f.g (fltUse f m) s (fltLane f m f.d (valOp m divF))

def execFfma (f : FForm) (m : BMods) (s : State) : Host.Outcome State Fault Refusal :=
  let t := FFmt.of m.ty
  runLanes f.g (fltUse f m ++ regUse m.ty.wide f.c) s
    (fltLane f m f.c (fun a b c => fmaF t m.rnd m.sat (decodeF t a) (decodeF t b) (decodeF t c)))

def execFmin (f : FForm) (m : BMods) (s : State) : Host.Outcome State Fault Refusal :=
  runLanes f.g (fltUse f m) s (fltLane f m f.d (fun a b _ => (minMaxF (FFmt.of m.ty) false a b, [])))

def execFmax (f : FForm) (m : BMods) (s : State) : Host.Outcome State Fault Refusal :=
  runLanes f.g (fltUse f m) s (fltLane f m f.d (fun a b _ => (minMaxF (FFmt.of m.ty) true a b, [])))

def execFabs (f : FForm) (m : BMods) (s : State) : Host.Outcome State Fault Refusal :=
  runLanes f.g (fltUse1 f m) s (fltLane f m f.d (fun a _ _ => (absF (FFmt.of m.ty) a, [])))

def execFneg (f : FForm) (m : BMods) (s : State) : Host.Outcome State Fault Refusal :=
  runLanes f.g (fltUse1 f m) s (fltLane f m f.d (fun a _ _ => (negBitsF (FFmt.of m.ty) a, [])))

def execFcmp (f : FForm) (m : BMods) (c : Cond) (s : State) : Host.Outcome State Fault Refusal :=
  let t := FFmt.of m.ty
  runLanes f.g (srcUse m.ty.wide f.a ++ srcUse m.ty.wide f.b) s (fun v i =>
    (v.l.setPred f.d.toNat (condF c (decodeF t (v.fltSrc m f.a)) (decodeF t (v.fltSrc m f.b))), []))

/-- R55: the L forms. -/
def longFlt (l : LForm) (m : BMods) (k : FFmt → Rnd → Bool → FVal → FVal → Nat × Events) (v : View) (i : Nat) :
    Lane × Events :=
  let t := FFmt.of m.ty
  let (x, es) := k t m.rnd m.sat (decodeF t (v.old m.ty.wide l.d)) (decodeF t (litLF t m.rnd l.lit))
  (v.put m.ty.wide l.d x, es)

def execFaddL (l : LForm) (m : BMods) (s : State) : Host.Outcome State Fault Refusal :=
  runLanes l.g (regUse m.ty.wide l.d) s (longFlt l m sumF)

def execFmulL (l : LForm) (m : BMods) (s : State) : Host.Outcome State Fault Refusal :=
  runLanes l.g (regUse m.ty.wide l.d) s (longFlt l m mulF)

/-! ## Functions (R146 to R148) -/

/-- A function of source A. -/
def unaryOp (m : BMods) (k : FFmt → Rnd → Bool → FVal → Nat × Events) (a _b _c : Nat) : Nat × Events :=
  let t := FFmt.of m.ty
  k t m.rnd m.sat (decodeF t a)

def execFrcp (f : FForm) (m : BMods) (s : State) : Host.Outcome State Fault Refusal :=
  runLanes f.g (fltUse1 f m) s (fltLane f m f.d (unaryOp m (fun t r sat a => divF t r sat oneF a)))

def execFrsq (f : FForm) (m : BMods) (s : State) : Host.Outcome State Fault Refusal :=
  runLanes f.g (fltUse1 f m) s (fltLane f m f.d (unaryOp m rsqrtF))

def execFsqrt (f : FForm) (m : BMods) (s : State) : Host.Outcome State Fault Refusal :=
  runLanes f.g (fltUse1 f m) s (fltLane f m f.d (unaryOp m sqrtF))

def execFexp2 (f : FForm) (m : BMods) (s : State) : Host.Outcome State Fault Refusal :=
  runLanes f.g (fltUse1 f m) s (fltLane f m f.d (unaryOp m exp2F))

def execFlog2 (f : FForm) (m : BMods) (s : State) : Host.Outcome State Fault Refusal :=
  runLanes f.g (fltUse1 f m) s (fltLane f m f.d (unaryOp m log2F))

def execFsin (f : FForm) (m : BMods) (s : State) : Host.Outcome State Fault Refusal :=
  runLanes f.g (fltUse1 f m) s (fltLane f m f.d (unaryOp m sinPiF))

def execFcos (f : FForm) (m : BMods) (s : State) : Host.Outcome State Fault Refusal :=
  runLanes f.g (fltUse1 f m) s (fltLane f m f.d (unaryOp m cosPiF))

/-- R148: the mask goes to the destination register, one register for every type. -/
def execFclass (f : FForm) (m : BMods) (s : State) : Host.Outcome State Fault Refusal :=
  runLanes f.g (srcUse m.ty.wide f.a ++ regUse false f.d) s (fun v i =>
    (v.put false f.d (fltElems m (fun a _ _ => (classF (FFmt.of m.ty) a, [])) (v.fltSrc m f.a) 0 0).1, []))

def execFrnd (f : FForm) (m : BMods) (s : State) : Host.Outcome State Fault Refusal :=
  runLanes f.g (fltUse1 f m) s (fltLane f m f.d (fun a _ _ => (integralF (FFmt.of m.ty) m.rnd m.sat a, [])))

end Sys2Proof.Machine
end

