-- ==== Sys2Proof/Machine/Integer.lean ====
section
/-!
DEFINITION. Major 1, integer arithmetic, and major 2, logic, shifts and bit fields (06_arith.md R135 to R140).
-/

set_option linter.unusedVariables false

namespace Sys2Proof.Machine

/-- Registers that an integer word names; `b32` when source B is one unsigned 32-bit value. -/
def intUse (f : FForm) (m : AMods) (b32 : Bool) : List Nat :=
  srcUse m.ty.wide f.a ++ srcUse (m.ty.wide && !b32) f.b ++ regUse m.ty.wide f.d

/-- The same for a word with source A alone. -/
def intUse1 (f : FForm) (m : AMods) : List Nat := srcUse m.ty.wide f.a ++ regUse m.ty.wide f.d

/-- Writes an unpacked element (R70). -/
def View.putInt (v : View) (m : AMods) (d : BitVec 9) (x : Nat) : Lane :=
  v.put m.ty.wide d (if m.ty.wide then x else (extend32 m.ty.signed m.ty.bits x).toNat)

/-- Every sub-element of the packed result from those of the sources (R92). -/
def packedInt (m : AMods) (b32 : Bool) (op : Nat → Nat → Nat → Nat × Events) (a b c : Nat) : Nat × Events :=
  let w := m.pk.width
  let out := (List.range m.pk.count).map (fun j =>
    op (subEl w a j) (if b32 then b else subEl w b j) (subEl w c j))
  (joinEls w (out.map Prod.fst), out.flatMap Prod.snd)

/-- One lane of an integer word: `op` takes the elements of A, B and the third register. -/
def intLane (f : FForm) (m : AMods) (b32 : Bool) (third : BitVec 9) (op : Nat → Nat → Nat → Nat × Events)
    (v : View) (i : Nat) : Lane × Events :=
  let a := v.intSrc m f.a
  let b := if b32 then (v.src f.b).toNat else v.intSrc m f.b
  let c := v.old m.ty.wide third
  if m.pk = .none then
    let w := m.ty.bits
    let (x, es) := op (a % 2 ^ w) (if b32 then b else b % 2 ^ w) (c % 2 ^ w)
    (v.putInt m f.d x, es)
  else
    let (x, es) := packedInt m b32 op a b c
    (v.put false f.d x, es)

/-- An operation given by its exact result on the values (R136). -/
def exactOp (m : AMods) (k : Int → Int → Int → Int) (a b c : Nat) : Nat × Events :=
  let w := m.width
  let val := intOf m.ty.signed w
  (deliver m.sat m.ty.signed w (k (val a) (val b) (val c)), [])

/-- An operation on patterns. -/
def bitOp (k : Nat → Nat → Nat) (a b _c : Nat) : Nat × Events := (k a b, [])

def execAdd (f : FForm) (m : AMods) (s : State) : Host.Outcome State Fault Refusal :=
  runLanes f.g (intUse f m false) s (intLane f m false f.d (exactOp m (fun a b _ => a + b)))

def execSub (f : FForm) (m : AMods) (s : State) : Host.Outcome State Fault Refusal :=
  runLanes f.g (intUse f m false) s (intLane f m false f.d (exactOp m (fun a b _ => a - b)))

def execMul (f : FForm) (m : AMods) (s : State) : Host.Outcome State Fault Refusal :=
  runLanes f.g (intUse f m false) s (intLane f m false f.d (exactOp m (fun a b _ => a * b)))

def execMulh (f : FForm) (m : AMods) (s : State) : Host.Outcome State Fault Refusal :=
  runLanes f.g (intUse f m false) s
    (intLane f m false f.d (exactOp m (fun a b _ => a * b / ((2 ^ m.width : Nat) : Int))))

/-- The addend is source C (R131). -/
def execMad (f : FForm) (m : AMods) (s : State) : Host.Outcome State Fault Refusal :=
  runLanes f.g (intUse f m false ++ regUse m.ty.wide f.c) s
    (intLane f m false f.c (exactOp m (fun a b c => a * b + c)))

/-- R72. -/
def divOp (m : AMods) (wantRem : Bool) (a b _c : Nat) : Nat × Events :=
  let w := m.width
  let sg := m.ty.signed
  let (q, r, counted) := divRem m.sat sg w (intOf sg w a) (intOf sg w b)
  (wrapTo w (if wantRem then r else q), if counted then [arithEvent] else [])

def execDiv (f : FForm) (m : AMods) (s : State) : Host.Outcome State Fault Refusal :=
  runLanes f.g (intUse f m false) s (intLane f m false f.d (divOp m false))

def execRem (f : FForm) (m : AMods) (s : State) : Host.Outcome State Fault Refusal :=
  runLanes f.g (intUse f m false) s (intLane f m false f.d (divOp m true))

def execMin (f : FForm) (m : AMods) (s : State) : Host.Outcome State Fault Refusal :=
  runLanes f.g (intUse f m false) s (intLane f m false f.d (exactOp m (fun a b _ => if a ≤ b then a else b)))

def execMax (f : FForm) (m : AMods) (s : State) : Host.Outcome State Fault Refusal :=
  runLanes f.g (intUse f m false) s (intLane f m false f.d (exactOp m (fun a b _ => if a ≤ b then b else a)))

def execAbs (f : FForm) (m : AMods) (s : State) : Host.Outcome State Fault Refusal :=
  runLanes f.g (intUse1 f m) s (intLane f m false f.d (exactOp m (fun a _ _ => if a < 0 then -a else a)))

def execNeg (f : FForm) (m : AMods) (s : State) : Host.Outcome State Fault Refusal :=
  runLanes f.g (intUse1 f m) s (intLane f m false f.d (exactOp m (fun a _ _ => -a)))

/-- R137. -/
def mulmodOp (d a q : Nat) : Nat × Events :=
  if q = 0 || 2 ^ 62 ≤ q then (2 ^ 64 - 1, [arithEvent]) else (d * a % q, [])

def execMulmod (f : FForm) (m : AMods) (s : State) : Host.Outcome State Fault Refusal :=
  runLanes f.g (intUse f m false) s (fun v i =>
    let (x, es) := mulmodOp (v.old true f.d) (v.src64 f.a).toNat (v.src64 f.b).toNat
    (v.put true f.d x, es))

/-- R138: the L forms, whose destination is also their first source. -/
def longLane (l : LForm) (m : AMods) (op : Nat → Nat → Nat → Nat × Events) (v : View) (i : Nat) : Lane × Events :=
  let b := if m.ty.wide then (litL64 m.ty.signed l.lit).toNat else l.lit.toNat
  let (x, es) := op (v.old m.ty.wide l.d) b 0
  (v.put m.ty.wide l.d x, es)

def execAddL (l : LForm) (m : AMods) (s : State) : Host.Outcome State Fault Refusal :=
  runLanes l.g (regUse m.ty.wide l.d) s (longLane l m (exactOp m (fun a b _ => a + b)))

def execMulL (l : LForm) (m : AMods) (s : State) : Host.Outcome State Fault Refusal :=
  runLanes l.g (regUse m.ty.wide l.d) s (longLane l m (exactOp m (fun a b _ => a * b)))

/-! ## Logic, shifts and bit fields (R139, R140) -/

def execAndB (f : FForm) (m : AMods) (s : State) : Host.Outcome State Fault Refusal :=
  runLanes f.g (intUse f m false) s (intLane f m false f.d (bitOp (fun a b => a &&& b)))

def execOrB (f : FForm) (m : AMods) (s : State) : Host.Outcome State Fault Refusal :=
  runLanes f.g (intUse f m false) s (intLane f m false f.d (bitOp (fun a b => a ||| b)))

def execXorB (f : FForm) (m : AMods) (s : State) : Host.Outcome State Fault Refusal :=
  runLanes f.g (intUse f m false) s (intLane f m false f.d (bitOp (fun a b => a ^^^ b)))

def execAndL (l : LForm) (m : AMods) (s : State) : Host.Outcome State Fault Refusal :=
  runLanes l.g (regUse m.ty.wide l.d) s (longLane l m (bitOp (fun a b => a &&& b)))

def execOrL (l : LForm) (m : AMods) (s : State) : Host.Outcome State Fault Refusal :=
  runLanes l.g (regUse m.ty.wide l.d) s (longLane l m (bitOp (fun a b => a ||| b)))

def execXorL (l : LForm) (m : AMods) (s : State) : Host.Outcome State Fault Refusal :=
  runLanes l.g (regUse m.ty.wide l.d) s (longLane l m (bitOp (fun a b => a ^^^ b)))

def execNotB (f : FForm) (m : AMods) (s : State) : Host.Outcome State Fault Refusal :=
  runLanes f.g (intUse1 f m) s (intLane f m false f.d (bitOp (fun a _ => 2 ^ m.width - 1 - a)))

/-- R73: shifts and the rotate, the amount modulo the width. -/
def shlBits (w a b : Nat) : Nat := a * 2 ^ (b % w) % 2 ^ w
def shrBits (w a b : Nat) : Nat := a / 2 ^ (b % w)
def sraBits (w a b : Nat) : Nat := wrapTo w (intOf true w a / ((2 ^ (b % w) : Nat) : Int))
def rolBits (w a b : Nat) : Nat := (a * 2 ^ (b % w) + a / 2 ^ (w - b % w)) % 2 ^ w

def execShl (f : FForm) (m : AMods) (s : State) : Host.Outcome State Fault Refusal :=
  runLanes f.g (intUse f m true) s (intLane f m true f.d (bitOp (shlBits m.width)))

def execShr (f : FForm) (m : AMods) (s : State) : Host.Outcome State Fault Refusal :=
  runLanes f.g (intUse f m true) s (intLane f m true f.d (bitOp (shrBits m.width)))

def execSra (f : FForm) (m : AMods) (s : State) : Host.Outcome State Fault Refusal :=
  runLanes f.g (intUse f m true) s (intLane f m true f.d (bitOp (sraBits m.width)))

def execRol (f : FForm) (m : AMods) (s : State) : Host.Outcome State Fault Refusal :=
  runLanes f.g (intUse f m true) s (intLane f m true f.d (bitOp (rolBits m.width)))

def execClz (f : FForm) (m : AMods) (s : State) : Host.Outcome State Fault Refusal :=
  runLanes f.g (intUse1 f m) s (intLane f m false f.d (bitOp (fun a _ => m.width - bitLen a)))

/-- The number of one bits among the low `w`. -/
def popBits (x : Nat) : Nat → Nat
  | 0 => 0
  | w + 1 => x % 2 + popBits (x / 2) w

def execPopc (f : FForm) (m : AMods) (s : State) : Host.Outcome State Fault Refusal :=
  runLanes f.g (intUse1 f m) s (intLane f m false f.d (bitOp (fun a _ => popBits a m.width)))

/-- The low `w` bits in the opposite order. -/
def revBits (x : Nat) : Nat → Nat
  | 0 => 0
  | w + 1 => x % 2 * 2 ^ w + revBits (x / 2) w

def execBrev (f : FForm) (m : AMods) (s : State) : Host.Outcome State Fault Refusal :=
  runLanes f.g (intUse1 f m) s (intLane f m false f.d (bitOp (fun a _ => revBits a m.width)))

/-- R140: position and length of a field of a `w`-bit type. -/
def fieldOf (w b : Nat) : Nat × Nat :=
  let pos := Nat.min (b % 256) w
  (pos, Nat.min (b / 256 % 256) (w - pos))

def bfeBits (sg : Bool) (w a b : Nat) : Nat :=
  let (pos, len) := fieldOf w b
  let x := a / 2 ^ pos % 2 ^ len
  if len = 0 then 0 else wrapTo w (intOf sg len x)

def bfiBits (w a b d : Nat) : Nat :=
  let (pos, len) := fieldOf w b
  d % 2 ^ pos + 2 ^ pos * (a % 2 ^ len) + 2 ^ (pos + len) * (d / 2 ^ (pos + len))

def execBfe (f : FForm) (m : AMods) (s : State) : Host.Outcome State Fault Refusal :=
  runLanes f.g (intUse f m true) s (intLane f m true f.d (bitOp (bfeBits m.ty.signed m.width)))

/-- The old destination is read as well as written. -/
def execBfi (f : FForm) (m : AMods) (s : State) : Host.Outcome State Fault Refusal :=
  runLanes f.g (intUse f m true) s (intLane f m true f.d (fun a b d => (bfiBits m.width a b d, [])))

end Sys2Proof.Machine
end

