-- ==== Sys2Proof/Machine/Pair.lean ====
section
/-!
DEFINITION. Pair words and words with no opcode: two halves in one word (03_formats.md R60 to R62), and the illegal-instruction trap
of an unassigned opcode (R67).
-/

set_option linter.unusedVariables false

namespace Sys2Proof.Machine

/-! ## Halves -/

/-- What a half computes from d and s (R61). -/
abbrev HalfFn := Nat → Nat → Nat × Events

/-- A wrapped integer result of 32 bits. -/
def wrapHalf (signed : Bool) (k : Int → Int → Int) (a b : Nat) : Nat × Events :=
  (wrapTo 32 (k (intOf signed 32 a) (intOf signed 32 b)), [])

def bitHalf (k : Nat → Nat → Nat) (a b : Nat) : Nat × Events := (k a b, [])

def fltHalf (k : FFmt → Rnd → Bool → FVal → FVal → Nat × Events) (a b : Nat) : Nat × Events :=
  k f32Fmt .rn false (decodeF f32Fmt a) (decodeF f32Fmt b)

/-- The function of a half; `nop` has none. -/
def halfFn : HalfOp → Option HalfFn
  | .nop => none
  | .add => some (wrapHalf true (fun a b => a + b))
  | .sub => some (wrapHalf true (fun a b => a - b))
  | .mul => some (wrapHalf true (fun a b => a * b))
  | .and => some (bitHalf (fun a b => a &&& b))
  | .or => some (bitHalf (fun a b => a ||| b))
  | .xor => some (bitHalf (fun a b => a ^^^ b))
  | .shl => some (bitHalf (shlBits 32))
  | .shr => some (bitHalf (shrBits 32))
  | .sra => some (bitHalf (sraBits 32))
  | .minI => some (wrapHalf true (fun a b => if a ≤ b then a else b))
  | .maxI => some (wrapHalf true (fun a b => if a ≤ b then b else a))
  | .minN => some (wrapHalf false (fun a b => if a ≤ b then a else b))
  | .maxN => some (wrapHalf false (fun a b => if a ≤ b then b else a))
  | .mov => some (bitHalf (fun _ b => b))
  | .fadd => some (fltHalf sumF)
  | .fsub => some (fltHalf (fun t r sat a b => sumF t r sat a (negF b)))
  | .fmul => some (fltHalf mulF)
  | .fmin => some (bitHalf (minMaxF f32Fmt false))
  | .fmax => some (bitHalf (minMaxF f32Fmt true))

/-- The source s; index 511 reads as zero (R60). -/
def View.halfSrc (v : View) (x : BitVec 9) : Nat := if x = 511 then 0 else (v.l.reg v.g.nregs x.toNat).toNat

/-- What a half gives a lane: its result and events, where it acts. -/
def halfOut (fn : Option HalfFn) (h : HArgs) (v : View) : Option (Nat × Events) :=
  match fn with
  | none => none
  | some k => if v.l.pred h.p.toNat then some (k (v.l.reg v.g.nregs h.d.toNat).toNat (v.halfSrc h.s)) else none

def halfPut (n : Nat) (h : HArgs) (out : Option (Nat × Events)) (l : Lane) : Lane :=
  match out with
  | none => l
  | some x => l.setReg n h.d.toNat (BitVec.ofNat 32 x.1)

/-- One lane of a pair word: both halves read before either writes (R62). Where two different destinations name one
register (R98), the second half's write stands: DESIGN CHOICE (log 91). -/
def pairLane (fn : Option HalfFn) (h : HArgs) (y : Half) (v : View) (i : Nat) : Lane × Events :=
  let a := halfOut fn h v
  let b := halfOut (halfFn y.op) y.h v
  (halfPut v.g.nregs y.h b (halfPut v.g.nregs h a v.l), ((a.map Prod.snd).getD []) ++ ((b.map Prod.snd).getD []))

def halfUse (fn : Option HalfFn) (h : HArgs) : List Nat :=
  match fn with
  | none => []
  | some _ => h.d.toNat :: (if h.s = 511 then [] else [h.s.toNat])

/-- A pair word is one instruction; each half has its own predicate. -/
def runPair (fn : Option HalfFn) (h : HArgs) (y : Half) (s : State) : Host.Outcome State Fault Refusal :=
  runLanes { n := 7, neg := false } (halfUse fn h ++ halfUse (halfFn y.op) y.h) s (pairLane fn h y)

def execNopHalf (h : HArgs) (second : Half) (s : State) : Host.Outcome State Fault Refusal := runPair (halfFn .nop) h second s

def execAddHalf (h : HArgs) (second : Half) (s : State) : Host.Outcome State Fault Refusal := runPair (halfFn .add) h second s

def execSubHalf (h : HArgs) (second : Half) (s : State) : Host.Outcome State Fault Refusal := runPair (halfFn .sub) h second s

def execMulHalf (h : HArgs) (second : Half) (s : State) : Host.Outcome State Fault Refusal := runPair (halfFn .mul) h second s

def execAndHalf (h : HArgs) (second : Half) (s : State) : Host.Outcome State Fault Refusal := runPair (halfFn .and) h second s

def execOrHalf (h : HArgs) (second : Half) (s : State) : Host.Outcome State Fault Refusal := runPair (halfFn .or) h second s

def execXorHalf (h : HArgs) (second : Half) (s : State) : Host.Outcome State Fault Refusal := runPair (halfFn .xor) h second s

def execShlHalf (h : HArgs) (second : Half) (s : State) : Host.Outcome State Fault Refusal := runPair (halfFn .shl) h second s

def execShrHalf (h : HArgs) (second : Half) (s : State) : Host.Outcome State Fault Refusal := runPair (halfFn .shr) h second s

def execSraHalf (h : HArgs) (second : Half) (s : State) : Host.Outcome State Fault Refusal := runPair (halfFn .sra) h second s

def execMinI32Half (h : HArgs) (second : Half) (s : State) : Host.Outcome State Fault Refusal := runPair (halfFn .minI) h second s

def execMaxI32Half (h : HArgs) (second : Half) (s : State) : Host.Outcome State Fault Refusal := runPair (halfFn .maxI) h second s

def execMinN32Half (h : HArgs) (second : Half) (s : State) : Host.Outcome State Fault Refusal := runPair (halfFn .minN) h second s

def execMaxN32Half (h : HArgs) (second : Half) (s : State) : Host.Outcome State Fault Refusal := runPair (halfFn .maxN) h second s

def execMovHalf (h : HArgs) (second : Half) (s : State) : Host.Outcome State Fault Refusal := runPair (halfFn .mov) h second s

def execFaddHalf (h : HArgs) (second : Half) (s : State) : Host.Outcome State Fault Refusal := runPair (halfFn .fadd) h second s

def execFsubHalf (h : HArgs) (second : Half) (s : State) : Host.Outcome State Fault Refusal := runPair (halfFn .fsub) h second s

def execFmulHalf (h : HArgs) (second : Half) (s : State) : Host.Outcome State Fault Refusal := runPair (halfFn .fmul) h second s

def execFminHalf (h : HArgs) (second : Half) (s : State) : Host.Outcome State Fault Refusal := runPair (halfFn .fmin) h second s

def execFmaxHalf (h : HArgs) (second : Half) (s : State) : Host.Outcome State Fault Refusal := runPair (halfFn .fmax) h second s

/-! ## Words that only trap (R67) -/

def execUnassignedOpcodeWord (w : BitVec 64) (s : State) : Host.Outcome State Fault Refusal := runTrap s { cause := 1, sub := 1 }

end Sys2Proof.Machine
end

