-- ==== Sys2Proof/Machine/Chrysalis.lean ====
section
/-!
DEFINITION. Chrysalis: long names and their check code, slots and colours, departures and resolutions
(08_name.md R165 to R180).
-/

set_option linter.unusedVariables false

namespace Sys2Proof.Machine

/-! ## Long names (R165 to R167) -/

structure Name where
  home : Nat
  serial : Nat
  offset : Nat
  /-- Kind in bit 3, execute, write and read in bits 2 to 0. -/
  rights : Nat
  deriving DecidableEq, Repr

/-- One bit of the CRC-16 with polynomial 0x1021. -/
def crcBit (c : BitVec 16) (b : Bool) : BitVec 16 :=
  let out := c.getLsbD 15 != b
  let d := c <<< 1
  if out then d ^^^ 0x1021 else d

/-- R166: over bits [127:16], the highest first. -/
def checkCode (g : BitVec 128) : BitVec 16 :=
  (List.range 112).foldl (fun c i => crcBit c (g.getLsbD (127 - i))) 0xFFFF

/-- The granule of a name. -/
def nameBits (n : Name) : BitVec 128 :=
  let top : BitVec 112 := BitVec.ofNat 24 n.home ++ BitVec.ofNat 40 n.serial ++ BitVec.ofNat 32 n.offset ++ 0#12 ++
    BitVec.ofNat 4 n.rights
  let g : BitVec 128 := top ++ 0#16
  g ||| (checkCode g).setWidth 128

/-- A domain that a name may give (R15, R165). -/
def isDomain (n : Nat) : Bool := isDevice n || decide (0x100000 ≤ n)

/-- The name in a granule; none when it is malformed (R167). -/
def parseName (g : BitVec 128) : Option Name :=
  let n : Name :=
    { home := (g.extractLsb' 104 24).toNat, serial := (g.extractLsb' 64 40).toNat,
      offset := (g.extractLsb' 32 32).toNat, rights := (g.extractLsb' 16 4).toNat }
  if checkCode g != g.extractLsb' 0 16 || g.extractLsb' 20 12 != 0 || !isDomain n.home || n.serial == 0 then none
  else some n

/-- R171: in the key a fixed name's write bit counts as 0. -/
def keyRights (r : Nat) : Nat := if r / 8 % 2 = 1 then r % 16 else r % 16 - 2 * (r / 2 % 2)

/-! ## Slots (R170, R171) -/

/-- The rights field of a slot. -/
def Slot.rights (x : Slot) : Nat :=
  (if x.r then 1 else 0) + (if x.w then 2 else 0) + (if x.x then 4 else 0) + (if x.live then 8 else 0)

def Slot.keyIs (x : Slot) (home serial rights : Nat) : Bool :=
  x.home == home && x.serial == serial && x.rights == rights

/-- The short pointer of a slot (R168). -/
def pointerBits (idx colour offset : Nat) : DWord :=
  BitVec.ofNat 4 14 ++ BitVec.ofNat 8 colour ++ BitVec.ofNat 20 idx ++ BitVec.ofNat 32 offset

def State.modSlot (s : State) (c idx : Nat) (k : Slot → Slot) : State :=
  s.modCtx c (fun x => { x with slots := Tbl.upd x.slots idx k })

/-- The lowest free index from `n` on. -/
def freeIndex : Nat → Tbl Slot → Nat
  | n, [] => n
  | n, (k, _) :: t => if k = n then freeIndex (n + 1) t else if k < n then freeIndex n t else n

/-- The slot with a key, in any state but free and retired. -/
def Context.slotOf (c : Context) (home serial rights : Nat) : Option (Nat × Slot) :=
  c.slots.find? (fun e => e.2.keyIs home serial rights && e.2.state != 0 && e.2.state != 6)

/-! ## Departures (R172, R176) -/

/-- The 256 bits of an entry, which lies at `Context.slotAt` (R170). -/
def Slot.bits (x : Slot) : BitVec 256 :=
  BitVec.ofNat 24 x.home ++ BitVec.ofNat 40 x.serial ++ BitVec.ofNat 32 x.size ++ BitVec.ofNat 8 x.colour ++ bit x.r ++ bit x.w ++
    bit x.x ++ bit x.live ++ BitVec.ofNat 3 x.state ++ bit x.hint ++ BitVec.ofNat 8 x.departures ++ 0#8 ++
    BitVec.ofNat 64 x.storage ++ BitVec.ofNat 64 x.ringAt

/-- The device physical address of a slot's entry. -/
def Context.slotAt (c : Context) (idx : Nat) : Nat := c.slotBase + 32 * idx

/-- Is a command's range, as it was checked at issue, on a slot's storage? -/
def Slot.under (x : Slot) (l : Loc) : Bool :=
  match l with
  | .at p => (x.place 0).meets x.size p 1
  | _ => false

/-- What a core has under way on a slot's storage: requests of its threads, and commands of its engines and of its saved blocks. -/
def State.windowReqs (s : State) (core c : Nat) (x : Slot) : List Nat :=
  let mine := (s.blocks.filter (fun e => e.2.core == core && e.2.ctx == c)).map Prod.snd
  let tiles := (s.core core).tileQ ++ mine.flatMap Block.savedCmds
  let lunas := (s.core core).luna ++ mine.flatMap Block.savedLuna
  (s.reqs.filter (fun r => r.core == core && r.ctx == c && (x.place 0).meets x.size r.place r.size)).map Req.id ++
    ((s.dies.flatMap (fun e => e.2.copyQ)).filter (fun k => k.core == core && k.ctx == c && (x.under k.src || x.under k.dst))).map CopyCmd.id ++
    (tiles.filter (fun k => k.ctx == c && x.under k.mem)).map TileCmd.id ++
    (lunas.filter (fun k => k.ctx == c && x.under k.src)).map LunaJob.id

/-- Is an access that a core counted at the invalidation over? -/
def State.accessOver (s : State) (id : Nat) : Bool :=
  (s.req? id).all Req.performed && (s.cmd? id).isNone &&
    !s.cores.any (fun e => e.2.tileQ.any (fun k => k.id == id) || e.2.luna.any (fun k => k.id == id)) &&
    !s.blocks.any (fun e => e.2.savedCmds.any (fun k => k.id == id) || e.2.savedLuna.any (fun k => k.id == id))

/-- A slot departs: one ring record, the colour moves on, and every core is told. From colour 0xFF it is retired. -/
def State.depart (s : State) (c idx cause next : Nat) : State :=
  let x := (s.ctx c).slot idx
  let old := x.colour
  let new := if old = 255 then 255 else old + 1
  let told := s.cores.map (fun e => (e.1, s.windowReqs e.1 c x))
  let s := s.modSlot c idx (fun y =>
    { y with colour := new, state := if old = 255 then 6 else next, departures := Nat.min 255 (y.departures + 1),
             ring := (({ old := old, new := new, cause := cause } : Departure) :: y.ring).take 64 })
  let s := s.modCtx c (fun y => y.count (fun n => { n with depart := sat32 (n.depart + 1) }))
  { s with
    cores := s.cores.map (fun (e : Nat × Core) =>
      (e.1, { e.2 with slotCache := e.2.slotCache.filter (fun k => k != (c, idx)) }))
    departs := if told.isEmpty then s.departs
      else s.departs ++ [{ ctx := c, slot := idx, cores := told, storage := x.storage, size := x.size }] }

/-- Is some slot resident on a replica? -/
def State.replicaLive (s : State) (r : ReplicaObj) : Bool :=
  s.ctxs.any (fun e => e.2.slots.any (fun y => y.2.state == 3 && y.2.storage == r.storage))

/-- Does some slot still use a replica, or a departure that is not complete? -/
def State.replicaUsed (s : State) (r : ReplicaObj) : Bool := s.replicaLive r || s.departs.any (fun d => d.storage == r.storage)

/-- Bodies that nothing uses any more are dropped, and their storage is released (R172). -/
def State.releaseBodies (s : State) : State :=
  { s with replicasObj := s.replicasObj.filter s.replicaUsed
           frames := s.frames ++ (s.replicasObj.filter (fun r => !s.replicaUsed r)).map (fun r => (r.storage, r.size)) }

/-- R176: a resident replica is evicted. Its body goes with its last slot, once the departure is complete. -/
def State.evictSlot (s : State) (c idx : Nat) : State := (s.depart c idx 0 5).releaseBodies

/-! ## Where an object is -/

/-- What the home of a name reports. -/
structure Body where
  size : Nat
  addr : Nat
  deriving DecidableEq, Repr

/-- What a home elsewhere reports of an object that this device has not registered there (log 7): a size of 1 to 2^32 - 1 and an
address of 64 bits, of a whole granule. -/
def farBody (world home serial : Nat) : Option Body :=
  (Config.remoteBody home serial world).map (fun b => ⟨b.1 % (2 ^ 32 - 1) + 1, b.2 % 2 ^ 64 / 16 * 16⟩)

/-- Where the directory has the object of a name: the home that the name gives, or the one that the object has moved to (R176). -/
def State.homeOf (s : State) (world home serial : Nat) : Nat :=
  let here := s.objects.any (fun o => o.home == home && o.serial == serial && o.world == world) ||
    s.trayObjs.any (fun o => o.domain == home && o.serial == serial)
  if here then home
  else
    match s.objects.find? (fun o => o.serial == serial && o.world == world && o.was.contains home),
          s.trayObjs.find? (fun o => o.serial == serial && o.was.contains home) with
    | some o, _ => o.home
    | none, some o => o.domain
    | none, none => home

/-- The object of a name, as its home reports it to a world. -/
def State.body? (s : State) (world home serial : Nat) : Option Body :=
  if isDevice home then
    match s.objects.find? (fun o => o.home == home && o.serial == serial && o.world == world) with
    | some o => some ⟨o.size, o.storage⟩
    | none => if home = s.devNum then none else farBody world home serial
  else
    match s.trayObjs.find? (fun o => o.domain == home && o.serial == serial) with
    | some o => some ⟨o.size, o.addr⟩
    | none => farBody world home serial

/-! ## Resolution (R176 to R180) -/

/-- R180: the slot that a new name takes when none is free: the least recently resolved of the first kind there is. -/
def Context.victim (c : Context) : Option (Nat × Bool) :=
  let last := fun (p : Slot → Bool) => (c.lastUse.filter (fun i => p (c.slot i))).getLast?
  match last (fun x => x.state == 5) with
  | some i => some (i, false)
  | none =>
    match last (fun x => x.state == 3 && x.hint && x.colour != 255) with
    | some i => some (i, true)
    | none => (last (fun x => x.state == 3 && x.colour != 255)).map (fun i => (i, true))

/-- What a resolution comes to: an outcome, or a wait for a slot that is fetching. -/
inductive Decided where
  | out (s : State) (o : ResOut)
  | fetching (s : State) (slot : Nat)

def State.touchSlot (s : State) (c idx : Nat) : State :=
  s.modCtx c (fun x => { x with lastUse := idx :: x.lastUse.filter (fun i => i != idx) })

/-- The slot of an absent or departed object takes its next state (R176). -/
def openSlot (s : State) (c idx : Nat) (b : Body) : Decided :=
  let x := (s.ctx c).slot idx
  let s := s.touchSlot c idx
  if x.home = s.devNum then
    .out (s.modSlot c idx (fun y => { y with state := 2, size := b.size, storage := b.addr })) (.slot idx x.colour)
  else if x.live then
    .out (s.modSlot c idx (fun y => { y with state := 4, size := b.size, storage := b.addr })) (.slot idx x.colour)
  else
    .fetching ((s.modSlot c idx (fun y => { y with state := 1, size := b.size, storage := 0 })).modCtx c (fun y =>
      y.count (fun n => { n with fetch := sat32 (n.fetch + 1) }))) idx

/-- A slot's new key, with what it keeps of its old life (R171). -/
def Slot.rekey (x : Slot) (home serial rights : Nat) : Slot :=
  { home := home, serial := serial, r := rights % 2 == 1, w := rights / 2 % 2 == 1, x := rights / 4 % 2 == 1,
    live := rights / 8 % 2 == 1, colour := x.colour, departures := x.departures, state := 5, ringAt := x.ringAt }

/-- Bytes of a slot's ring of 64 departure records. -/
def ringBytes : Nat := 256

/-- R176, R177, R180: a name's resolution at its owner die. A name whose object has moved keeps its slot (11_prog_list_walk.md
R247). Where Levain has no memory left for a new slot's ring, the table counts as full. -/
def resolve (s : State) (c home serial rights : Nat) : Decided :=
  let ctx := s.ctx c
  let now := s.homeOf ctx.world home serial
  let body := s.body? ctx.world now serial
  match (ctx.slotOf home serial rights).or (ctx.slotOf now serial rights) with
  | some (i, x) =>
    if x.state = 1 then .fetching (s.touchSlot c i) i
    else if x.state = 5 then
      (match body with
       | some b => openSlot (s.modSlot c i (fun y => { y with home := now })) c i b
       | none => .out s (.fault 6))
    else .out (s.touchSlot c i) (.slot i x.colour)
  | none =>
    match body with
    | none => .out s (.fault 6)
    | some b =>
      let i := freeIndex 1 ctx.slots
      if i < 2 ^ 20 && s.levainRoom ringBytes ringBytes then
        let (ring, s) := s.takeLevain ringBytes ringBytes
        let s := s.modCtx c (fun y =>
          { y.count (fun n => { n with slot := sat32 (n.slot + 1) }) with
            slots := Tbl.put y.slots i (({ ringAt := ring } : Slot).rekey now serial rights) })
        openSlot s c i b
      else
        match ctx.victim with
        | none => .out s (.fault 7)
        | some (v, resident) =>
          let s := if resident then s.evictSlot c v else s
          openSlot (s.modSlot c v (fun y => y.rekey now serial rights)) c v b

/-! ## Pointers through the departure ring (R188 to R192) -/

/-- The slot of a tagged pointer, when its colour is current or in the ring. -/
def Context.named (c : Context) (p : DWord) : Option Slot :=
  let x := c.slot (ptrSlot p)
  if ptrColour p = x.colour || x.ring.any (fun d => d.old == ptrColour p) then some x else none

/-- R190. -/
def slotInfo (x : Slot) (p : DWord) : DWord :=
  0#15 ++ bit x.hint ++ BitVec.ofNat 8 x.colour ++ bit (ptrColour p != x.colour) ++ BitVec.ofNat 3 x.state ++
    bit x.live ++ bit x.x ++ bit x.w ++ bit x.r ++ BitVec.ofNat 32 x.size

/-- The long name of a pointer's slot (R185, R192). -/
def Slot.name (x : Slot) (offset : Nat) : BitVec 128 := nameBits ⟨x.home, x.serial, offset, x.rights⟩

end Sys2Proof.Machine
end

