-- ==== Sys2Proof/Machine/Names.lean ====
section
/-!
DEFINITION. Major 13, names and pointers (08_name.md R182 to R193).
-/

set_option linter.unusedVariables false

namespace Sys2Proof.Machine

/-! ## Pointers that wait for Chrysalis -/

/-- What a lane of `ldn` or `pswz` is to receive. -/
inductive Want where
  | value (x : DWord) (tag : Bool)
  | fault (t : Trap)
  /-- The pointer of a name, at an offset. -/
  | name (home serial offset rights : Nat)
  deriving DecidableEq, Repr

/-- A lane's want with the outcome of its resolution, if it has one (R168, R179). -/
def Want.settle (w : Want) (o : Option ResOut) : Want :=
  match w, o with
  | .name _ _ off _, some (.slot i c) => .value (pointerBits i c off) true
  | .name _ _ _ _, some .null => .value 0 false
  | .name _ _ _ _, some (.fault sub) => .fault { cause := 3, sub := sub, kind := .load }
  | w, _ => w

/-- The trap of the lanes that fault: its sub-cause is that of the lowest of them (R184). -/
def wantTrap (ws : List (Nat × Want)) : Option Trap :=
  let hit := ws.filterMap (fun w => match w.2 with | .fault t => some (w.1, t) | _ => none)
  match hit with
  | [] => none
  | (_, t) :: _ => some { t with lanes := hit.map Prod.fst }

/-- The resolutions that lanes still need, made at once and in ascending lane order (R177). -/
def askResolve (s : State) (f : Focus) (ws : List (Nat × Want)) : State :=
  let rs := ws.filterMap (fun w =>
    match w.2 with
    | .name h n _ r => some ({ id := s.nextId, ctx := s.fctx f, blk := f.blk, grp := f.grp, lane := some w.1, home := h,
                               serial := n, rights := BitVec.ofNat 4 r, slot := none } : Resolution)
    | _ => none)
  { s with resolutions := s.resolutions ++ rs, nextId := s.nextId + 1 }

/-- R170: the release hint is cleared by an `ldn` that returns the slot. -/
def clearHint (s : State) (c : Nat) (o : Option ResOut) : State :=
  match o with
  | some (.slot i _) => s.modSlot c i (fun x => { x with hint := false })
  | _ => s

/-- The lanes of one word receive what they want, all together: a resolution that any still needs holds all of them; then a fault in
any is taken, for every lane that faults (R184, R193). -/
def deliverWants (d : BitVec 9) (clear : Bool) (s : State) (f : Focus) (ws : List (Nat × Want)) : Eff :=
  let ws := ws.map (fun w => (w.1, w.2.settle (s.flane f w.1).res))
  if ws.any (fun w => match w.2 with | .name _ _ _ _ => true | _ => false) then
    .ok (askResolve s f ws) (ws.map (fun w => (w.1, .wait (.object s.nextId))))
  else
    match wantTrap ws with
    | some t => .trap t
    | none =>
      let s := if clear then ws.foldl (fun s w => clearHint s (s.fctx f) (s.flane f w.1).res) s else s
      let n := (s.fgroup f).nregs
      .ok (ws.foldl (fun s w =>
        match w.2 with
        | .value x t => s.modLane f.blk f.grp w.1 (fun l => l.setTagged n d.toNat x t)
        | _ => s) s) []

/-! ## `ldn` (R183, R184) -/

/-- The address a lane reads its granule at. -/
def granuleAddr (m : MForm) (off : BitVec 14) (v : View) : DWord :=
  addrBits (((v.base m.base).val.toNat : Int) + scaled off 16)

/-- What the granule that a lane has read gives. -/
def granuleWant (a : DWord) (g : Granule) : Want :=
  if !g.tag then
    (if g.bits = 0 then .value 0 false else .fault { cause := 3, sub := 1, kind := .load, addr := a })
  else
    match parseName g.bits with
    | none => .fault { cause := 3, sub := 2, kind := .load, addr := a }
    | some n => .name n.home n.serial n.offset (keyRights n.rights)

/-- One lane asks for its granule. -/
def ldnLane (m : MForm) (f : Focus) (s : State) (i : Nat) (c : Chk) : State × Option Next :=
  let s := s.modLane f.blk f.grp i (fun l => l.passGate true)
  match c with
  | .ok p _ =>
    let r := { s.blankReq f i .load p 16 .n64 with
      scope := m.scope, ord := m.ord, atHome := atHomeHint m.hint, dest := .granule, isLd := true }
    (s.send f r, some (.wait (.reqs [r.id])))
  | _ => (s, none)

/-- Lanes that have asked in this word wait for the granules of all of them. -/
def waitTogether (first last : Nat) (nx : List (Nat × Next)) : List (Nat × Next) :=
  let ids := (List.range (last - first)).map (fun k => first + k)
  nx.map (fun n =>
    match n.2 with
    | .wait (.reqs [r]) => if first ≤ r then (n.1, .wait (.reqs ids)) else n
    | _ => n)

def execLdn (m : MForm) (off : BitVec 14) (s : State) : Host.Outcome State Fault Refusal :=
  runWord s (baseUse m.base ++ regUse true m.data) (fun s f =>
    let ls := s.acting f m.g
    let have' := ls.filter (fun i => (s.flane f i).gran.isSome)
    let fresh := { f with lanes := f.lanes.filter (fun i => !have'.contains i) }
    match memWord m.g false (fun s f i => s.gate f i true false false .gl) (checkM m (scaled off 16) 16 [.read] .load false)
        (ldnLane m) s fresh with
    | .ok t nx =>
      let ws := have'.filterMap (fun i =>
        (s.flane f i).gran.map (fun g => (i, granuleWant (granuleAddr m off (s.view f i)) g)))
      (match deliverWants m.data true t f ws with
       | .ok u mx => .ok u (waitTogether s.nextId t.nextId nx ++ mx)
       | e => e)
    | e => e)

/-! ## `stn` (R183, R185) -/

/-- The data pair's checks come after those of the base. -/
def stnCheck (m : MForm) (off : BitVec 14) (s : State) (f : Focus) (i : Nat) : Chk :=
  let v := s.view f i
  let d := m.data.toNat
  let p := v.l.pair v.g.nregs d
  let a := granuleAddr m off v
  match checkM m (scaled off 16) 16 [.write] .store true s f i with
  | .ok q t =>
    (match q with
     | .sram _ _ => .bad rankTranslate { cause := 8, sub := 2, kind := .store, addr := a }
     | _ =>
       if !v.l.tag v.g.nregs d then .bad 65 { cause := 3, sub := 4, kind := .store, named := d, addr := a }
       else if ptrColour p != ((s.ctx (s.fctx f)).slot (ptrSlot p)).colour then
         .bad 66 { cause := 4, kind := .store, named := d, addr := a }
       else .ok q t)
  | c => c

def stnLane (m : MForm) (f : Focus) (s : State) (i : Nat) (c : Chk) : State × Option Next :=
  let v := s.view f i
  let p := v.l.pair v.g.nregs m.data.toNat
  let x := (s.ctx (s.fctx f)).slot (ptrSlot p)
  let s := s.modLane f.blk f.grp i (fun l => l.passGate false)
  match c with
  | .ok q _ =>
    (s.send f { s.blankReq f i .stn q 16 .n64 with
      scope := m.scope, ord := m.ord, data := (x.name (ptrOffset p)).setWidth 512, after := s.before f i (isRel m.ord) },
     none)
  | _ => (s, none)

def execStn (m : MForm) (off : BitVec 14) (s : State) : Host.Outcome State Fault Refusal :=
  runWord s (baseUse m.base ++ regUse true m.data)
    (memWord m.g true (fun s f i => s.gate f i false true (isRel m.ord) .gl) (stnCheck m off) (stnLane m))

/-! ## Register words (R188 to R193) -/

/-- What an operand of `peq`, `pinfo` or `pnam` designates. -/
inductive Des where
  | null
  | slot (x : Slot) (p : DWord)
  | fault (sub : Nat)
  deriving DecidableEq, Repr

def View.designates (v : View) (c : Context) (a : Src) : Des :=
  let p := v.src64 a
  if v.tagOf a then
    match c.named p with
    | some x => .slot x p
    | none => .fault 8
  else if p = 0 then .null
  else .fault 3

def srcNamed : Src → Nat
  | .v r => r.toNat
  | _ => 0

/-- A register word over designated operands: the lanes that fault trap, with the sub-cause of the lowest. -/
def desWord (g : Guard) (ops : List Src) (k : View → List Des → Lane) (s : State) (f : Focus) : Eff :=
  let c := s.ctx (s.fctx f)
  let ds := (s.acting f g).map (fun i => (i, ops.map (fun a => (a, (s.view f i).designates c a))))
  let bad := ds.filterMap (fun d => (d.2.findSome? (fun e =>
    match e.2 with | .fault sub => some (sub, srcNamed e.1) | _ => none)).map (fun e => (d.1, e)))
  match bad with
  | (_, sub, named) :: _ => .trap { cause := 3, sub := sub, named := named, lanes := bad.map Prod.fst }
  | [] => .ok (ds.foldl (fun s d => s.modLane f.blk f.grp d.1 (fun _ => k (s.view f d.1) (d.2.map Prod.snd))) s) []

def Des.same : Des → Des → Bool
  | .null, .null => true
  | .slot x p, .slot y q => x.home == y.home && x.serial == y.serial && ptrOffset p == ptrOffset q
  | _, _ => false

def execPeq (x : FForm) (s : State) : Host.Outcome State Fault Refusal :=
  runWord s (srcUse true x.a ++ srcUse true x.b) (desWord x.g [x.a, x.b] (fun v ds =>
    v.l.setPred x.d.toNat (match ds with | [a, b] => a.same b | _ => false)))

/-- R189. -/
def ptrAdd (sub : Bool) (a : DWord) (b : Word) : DWord :=
  let lo := a.extractLsb' 0 32
  a.extractLsb' 32 32 ++ (if sub then lo - b else lo + b)

def ptrAddWord (sub : Bool) (x : FForm) (s : State) : Host.Outcome State Fault Refusal :=
  runLanes x.g (srcUse true x.a ++ srcUse false x.b ++ regUse true x.d) s (fun v i =>
    (v.l.setTagged v.g.nregs x.d.toNat (ptrAdd sub (v.src64 x.a) (v.src x.b)) (v.tagOf x.a), []))

def execPadd (x : FForm) (s : State) : Host.Outcome State Fault Refusal := ptrAddWord false x s
def execPsub (x : FForm) (s : State) : Host.Outcome State Fault Refusal := ptrAddWord true x s

def execPinfo (x : FForm) (s : State) : Host.Outcome State Fault Refusal :=
  runWord s (srcUse true x.a ++ regUse true x.d) (desWord x.g [x.a] (fun v ds =>
    v.l.setPair v.g.nregs x.d.toNat (match ds with | [.slot y p] => slotInfo y p | _ => 0)))

def execPnam (x : FForm) (s : State) : Host.Outcome State Fault Refusal :=
  runWord s (srcUse true x.a ++ quadUse x.d) (desWord x.g [x.a] (fun v ds =>
    let g : BitVec 128 := match ds with | [.slot y p] => y.name (ptrOffset p) | _ => 0
    v.l.setRegs v.g.nregs x.d.toNat (regsOf (g.setWidth 512) 4)))

/-- R191: what a lane of `pswz` is to receive. -/
def swizzle (c : Context) (named : Nat) (p : DWord) (tag : Bool) : Want :=
  let x := c.slot (ptrSlot p)
  if !tag then .value p false
  else if ptrColour p = x.colour && x.state != 5 && x.state != 6 then .value p true
  else
    match c.named p with
    | none => .fault { cause := 3, sub := 8, named := named }
    | some x => .name x.home x.serial (ptrOffset p) x.rights

def execPswz (x : FForm) (s : State) : Host.Outcome State Fault Refusal :=
  runWord s (srcUse true x.a ++ regUse true x.d) (fun s f =>
    let c := s.ctx (s.fctx f)
    deliverWants x.d false s f ((s.acting f x.g).map (fun i =>
      let v := s.view f i
      (i, swizzle c (srcNamed x.a) (v.src64 x.a) (v.tagOf x.a)))))

/-- R186: Chrysalis resolves the name at an address, if there is one to resolve; nothing waits and nothing traps. The name is read
for the context (21_context.md R410). -/
def pfetchLane (m : MForm) (off : BitVec 14) (f : Focus) (s : State) (i : Nat) : State :=
  match checkM m (scaled off 16) 16 [.read] .load false s f i with
  | .ok p _ =>
    if s.port (s.ctx (s.fctx f)).world p != .pass then s
    else
      let s := s.readLoss (s.fctx f) p 16
      if !s.tagAt p then s
      else
      match parseName (BitVec.ofNat 128 (s.natAt p 16)) with
      | some n =>
        { s with
          nextId := s.nextId + 1
          resolutions := s.resolutions ++ [{ id := s.nextId, ctx := s.fctx f, blk := f.blk, grp := f.grp, lane := none,
                                             home := n.home, serial := n.serial,
                                             rights := BitVec.ofNat 4 (keyRights n.rights), slot := none }] }
      | none => s
  | _ => s

def execPfetch (m : MForm) (off : BitVec 14) (s : State) : Host.Outcome State Fault Refusal :=
  runWord s (baseUse m.base) (fun s f => .ok ((s.acting f m.g).foldl (pfetchLane m off f) s) [])

/-- R187. -/
def prelLane (m : MForm) (f : Focus) (s : State) (i : Nat) : State :=
  let b := (s.view f i).base m.base
  let x := (s.ctx (s.fctx f)).slot (ptrSlot b.val)
  if b.tag && ptrColour b.val == x.colour then s.modSlot (s.fctx f) (ptrSlot b.val) (fun y => { y with hint := true }) else s

def execPrel (m : MForm) (s : State) : Host.Outcome State Fault Refusal :=
  runWord s (baseUse m.base) (fun s f => .ok ((s.acting f m.g).foldl (prelLane m f) s) [])

end Sys2Proof.Machine
end

