-- ==== Sys2Proof/Machine/EventsNames.lean ====
section
/-!
DEFINITION. The event rows of names and pages: resolutions, fetches, departures, page fills and invalidations
(08_name.md R172 to R180, 09_page.md R201 to R206).
-/

set_option linter.unusedVariables false

namespace Sys2Proof.Machine

/-! ## Objects -/

/-- A resolution's outcome reaches its waiting lane, if one still waits for it. -/
def State.giveRes (s : State) (r : Resolution) (o : ResOut) : State :=
  match r.lane with
  | none => s
  | some l => s.modLane r.blk r.grp l (fun x => if x.st == .waiting (.object r.id) then { x with res := some o } else x)

def Resolution.is (r q : Resolution) : Bool := r.id == q.id && r.lane == q.lane

def State.dropRes (s : State) (r : Resolution) : State :=
  { s with resolutions := s.resolutions.filter (fun q => !q.is r) }

/-- R176, R177: the next undecided resolution of a word is decided at its owner die. -/
def execObjectResolution (res : Nat) (s : State) : Host.Outcome State Fault Refusal :=
  eventOpt s ((s.resolutions.find? (fun r => r.id == res && r.slot.isNone)).map (fun r =>
    match resolve s r.ctx r.home r.serial r.rights.toNat with
    | .out t o => (t.giveRes r o).dropRes r
    | .fetching t i =>
      if r.lane.isNone then t.dropRes r
      else { t with resolutions := t.resolutions.map (fun (q : Resolution) => if q.is r then { q with slot := some i } else q) }))

/-- The lanes that wait for a slot's fetch receive its outcome. -/
def State.fetchOutcome (s : State) (c idx : Nat) (o : ResOut) : State :=
  let rs := s.resolutions.filter (fun r => r.ctx == c && r.slot == some idx)
  rs.foldl (fun s r => (s.giveRes r o).dropRes r) s

/-- The place of a body at its home. -/
def bodyPlace (home addr : Nat) : Place := if isDevice home then .dev home addr else .tray home addr

/-- R163: a body copied granule by granule with its tags. -/
def copyBody (s : State) (src : Place) (dst size : Nat) : State :=
  (List.range ((size + 15) / 16)).foldl (fun s i =>
    let n := Nat.min 16 (size - 16 * i)
    let p := src.plus (16 * i)
    (s.commitMem (dst + 16 * i) (s.bytesAt p n) (s.tagAt p) {}).1) s

/-- Frames for a body: on its owner die where the world has it, or else on any die (log 8). -/
def State.takeBody (s : State) (world serial size : Nat) : Option (Nat × State) :=
  ((s.diesOf world).filter (fun d => d == serial % 4) ++ s.diesOf world).findSome? (fun d => s.takeFrame d world size 65536)

/-- R179: a fetch is lost after the link's retries. -/
def fetchLost (s : State) (ctx slot : Nat) : State :=
  (((s.depart ctx slot 2 5).modCtx ctx (fun y => y.count (fun n => { n with lost := sat32 (n.lost + 1) }))).loseData
    ctx).fetchOutcome ctx slot .null

/-- A new copy of a body in a replica of its world; a copy from a tray waits for the window of its host link, and none comes over a
link that is not healthy (22_link.md R421, R424). -/
def fetchCopy (s : State) (c idx : Nat) (x : Slot) (b : Body) (finish : State → Nat → State) : Option State :=
  let world := (s.ctx c).world
  let src := bodyPlace x.home b.addr
  if s.cutOff src then some (fetchLost s c idx)
  else if !s.unitRoom src (Nat.min 16384 ((b.size + 63) / 64)) then none
  else
    (s.takeBody world x.serial b.size).map (fun (pa, s) =>
      let s := copyBody s src pa b.size
      finish { s with replicasObj := s.replicasObj ++
        [{ home := x.home, serial := x.serial, world := world, storage := pa, size := b.size }] } pa)

/-- R176: a fetch ends: on the replica that another slot of the world is resident on, or on a new copy of the body. A body that only
an uncompleted departure keeps is no replica any more (R178). -/
def fetchDone (s : State) (c idx : Nat) : Option State :=
  let ctx := s.ctx c
  let x := ctx.slot idx
  if x.state != 1 then none
  else
    let finish := fun (s : State) (storage : Nat) =>
      (s.modSlot c idx (fun y => { y with state := 3, storage := storage })).fetchOutcome c idx (.slot idx x.colour)
    match s.replicasObj.find? (fun r => r.home == x.home && r.serial == x.serial && r.world == ctx.world && s.replicaLive r) with
    | some r => some (finish s r.storage)
    | none => (s.body? ctx.world x.home x.serial).bind (fun b => fetchCopy s c idx x b finish)

def execFetchComplete (ctx slot : Nat) (s : State) : Host.Outcome State Fault Refusal :=
  eventOpt s (fetchDone s ctx slot)

/-- R179. -/
def execFetchLost (ctx slot : Nat) (s : State) : Host.Outcome State Fault Refusal :=
  event s (((s.ctx ctx).slot slot).state == 1) (fetchLost s ctx slot)

def execSlotEviction (ctx slot : Nat) (s : State) : Host.Outcome State Fault Refusal :=
  event s (((s.ctx ctx).slot slot).state == 3) (s.evictSlot ctx slot)

/-- The homes that an object had before and has now. -/
def State.homesOf (s : State) (world home serial : Nat) : List Nat :=
  home :: ((s.objects.filter (fun o => o.home == home && o.serial == serial && o.world == world)).flatMap ObjEntry.was ++
    (s.trayObjs.filter (fun o => o.domain == home && o.serial == serial)).flatMap TrayObj.was)

/-- The directory names an object at a new home, to which names of its old homes lead (R176). -/
def State.rehome (s : State) (world : Nat) (x : Slot) (home addr : Nat) (tags : List Nat) : State :=
  let was := (s.homesOf world x.home x.serial).filter (fun h => h != home)
  let t := { s with
    objects := s.objects.filter (fun (o : ObjEntry) => !(o.home == x.home && o.serial == x.serial && o.world == world))
    trayObjs := s.trayObjs.filter (fun (o : TrayObj) => !(o.domain == x.home && o.serial == x.serial)) }
  if isDevice home then
    { t with objects := t.objects ++
        [{ home := home, serial := x.serial, live := x.live, size := x.size, storage := addr, world := world, was := was }] }
  else
    { t with trayObjs := t.trayObjs ++
        [{ domain := home, serial := x.serial, live := x.live, size := x.size, addr := addr, tags := tags, was := was }] }

/-- Where an object of a world is listed at a home. -/
def State.listed (s : State) (world home serial : Nat) : Option Nat :=
  if isDevice home then
    (s.objects.find? (fun o => o.home == home && o.serial == serial && o.world == world)).map ObjEntry.storage
  else (s.trayObjs.find? (fun o => o.domain == home && o.serial == serial)).map TrayObj.addr

/-- The object of a slot at its new home: there already, or moved there granule by granule, on this device to frames of its world (log
103). The move sets no tag in device memory; a tray's store keeps the body's tags with it (R163). Nothing is moved over a host link
that is not healthy, or whose window has no room (22_link.md R421, R424). -/
def moveObject (s : State) (world : Nat) (x : Slot) (home addr : Nat) : Option (Nat × State) :=
  let src := x.place 0
  let ready := fun (p : Place) => !s.cutOff p && s.unitRoom p (Nat.min 16384 ((x.size + 63) / 64))
  match s.listed world home x.serial with
  | some a => some (a, s)
  | none =>
    (if !ready src || !(home == s.devNum || ready (bodyPlace home addr)) then none
      else if home = s.devNum then s.takeBody world x.serial x.size else some (addr, s)).map (fun (a, s) =>
      let bytes := s.bytesAt src x.size
      let tags := (List.range ((x.size + 15) / 16)).filter (fun i => s.tagAt (src.plus (16 * i)))
      let t := s.rehome world x home a tags
      let dst : Place := if home = s.devNum then .mem a else bodyPlace home a
      (a, (List.range ((x.size + 15) / 16)).foldl (fun s i =>
        (s.commitAt (dst.plus (16 * i)) ((bytes.drop (16 * i)).take 16) (!isDevice home && tags.contains i) {}).1) t))

/-- R176: an object's home moves: its body is at its new home, and the slot names that and the storage there. -/
def execObjectHomeMove (ctx slot home addr : Nat) (s : State) : Host.Outcome State Fault Refusal :=
  let x := (s.ctx ctx).slot slot
  eventOpt s (if (x.state == 2 || x.state == 4) && isDomain home && home != x.home && addr % 16 == 0 then
      (moveObject s (s.ctx ctx).world x home addr).map (fun (a, t) =>
        (t.depart ctx slot 1 (if home = s.devNum then 2 else 4)).modSlot ctx slot (fun y =>
          if y.state = 6 then y else { y with home := home, storage := a }))
    else none)

/-- R172: a core acknowledges once the window accesses it had under way have drained; when every core has, the departure is
complete and the old storage is released. -/
def execSlotInvalidationAck (ctx slot core : Nat) (s : State) : Host.Outcome State Fault Refusal :=
  let hit := fun (d : Depart) => d.ctx == ctx && d.slot == slot && d.cores.any (fun c => c.1 == core && c.2.all s.accessOver)
  event s (s.departs.any hit)
    { s with departs := (s.departs.map (fun (d : Depart) =>
        if hit d then { d with cores := d.cores.filter (fun c => c.1 != core) } else d)).filter (fun d => !d.cores.isEmpty) }.releaseBodies

/-! ## Pages -/

def PageFill.is (p : PageFill) (ctx page : Nat) : Bool := p.ctx == ctx && p.page == page

/-- R202: a frame is obtained, of the die that the region names or of any, and the leaf entry written; there is memory for the
tables above it. -/
def fillDone (s : State) (p : PageFill) : Option State :=
  let ctx := s.ctx p.ctx
  let t := { s with pageFills := s.pageFills.filter (fun q => !q.is p.ctx p.page) }
  match ctx.region p.page with
  | none => some t
  | some g =>
    let dies := match p.die with
      | some d => [d]
      | none => s.diesOf ctx.world
    if !t.levainRoom 16384 4096 then none
    else (dies.findSome? (fun d => t.takeFrame d ctx.world p.size p.size)).map (fun (pa, t) =>
      (t.zero pa p.size).mapPage p.ctx p.page p.size (regionPte g 0 pa 0))

/-- The fill of a page that has not failed. -/
def State.fillOf (s : State) (ctx page : Nat) : Option PageFill :=
  s.pageFills.find? (fun p => p.is ctx page && p.failed.isNone)

def execPageFillComplete (ctx page : Nat) (s : State) : Host.Outcome State Fault Refusal :=
  eventOpt s ((s.fillOf ctx page).bind (fillDone s))

/-- The trap that a lane waiting for a page takes when it cannot be filled. -/
def pageWait (ctx page : Nat) (l : Lane) : Option Trap :=
  match l.st with
  | .waiting (.page c p kind addr) =>
    if c = ctx ∧ p = page then some { cause := 8, sub := 5, kind := kind, addr := addr } else none
  | _ => none

/-- In a group, the lowest path that waits for the page traps (R201); other paths ask again. -/
def failWaiters (ctx page : Nat) (s : State) (b gi : Nat) : State :=
  let blk := s.block b
  let g := blk.group gi
  let ws := (List.range g.lanes.length).filter (fun i => (pageWait ctx page (g.lane i)).isSome)
  match ws with
  | [] => s
  | i :: _ =>
    let l := g.lane i
    match pageWait ctx page l with
    | none => s
    | some t =>
      let ls := ws.filter (fun k => (g.lane k).pc == l.pc && (g.lane k).kern == l.kern)
      let k := (s.kern blk.ctx l.kern).getD {}
      let word := (codeWord s blk.core blk.ctx k l.pc).getD 0
      trapPath s { blk := b, grp := gi, kern := l.kern, pc := l.pc, lanes := ls, word := word } { t with lanes := ls }

def State.groupIds (s : State) (ctx : Nat) : List (Nat × Nat) :=
  s.blocks.flatMap (fun e => if e.2.ctx == ctx && e.2.st == .resident then
    (List.range e.2.groups.length).map (fun g => (e.1, g)) else [])

/-- The waiting paths trap. That the fill has failed stands until what the engines and the Proofers have waiting for it has met it
too (R200, R201). -/
def execPageFillFail (ctx page : Nat) (s : State) : Host.Outcome State Fault Refusal :=
  event s ((s.fillOf ctx page).any (fun p => (fillDone s p).isNone))
    ((s.groupIds ctx).foldl (fun s k => failWaiters ctx page s k.1 k.2)
      { s with pageFills := s.pageFills.map (fun (p : PageFill) => if p.is ctx page then { p with failed := some s.clock } else p) })

/-- The page is reserved again. -/
def State.dropFailed (s : State) : State :=
  { s with pageFills := s.pageFills.filter (fun p => p.failed.all (fun k => decide (s.clock ≤ k))) }

/-! ## Invalidations (R205) -/

def Inval.meets (v : Inval) (t : TlbEntry) : Bool :=
  t.ctx == v.ctx && (match v.size with
    | none => true
    | some n => decide (t.base < v.base + n) && decide (v.base < t.base + t.size))

/-- An agent drops what it has cached of the extent. -/
def dropCached (s : State) (v : Inval) (agent : Nat) : State :=
  let keep := fun (tlb : List TlbEntry) => tlb.filter (fun t => !v.meets t)
  if agent < 256 then { s with cores := Tbl.upd s.cores agent (fun c => { c with tlb := keep c.tlb }) }
  else if agent < 260 then { s with dies := Tbl.upd s.dies (agent - 256) (fun d => { d with prooferTlb := keep d.prooferTlb }) }
  else { s with dies := Tbl.upd s.dies (agent - 260) (fun d => { d with engineTlb := keep d.engineTlb }) }

/-- Requests that an agent has translated and that are not yet performed, of every context. A Proofer and a copy engine translate
an access in the step that performs it, so that they have none. -/
def State.translated (s : State) (agent : Nat) : List Nat :=
  (s.reqs.filter (fun r => r.core == agent && !r.performed)).map Req.id

def execInvalidationReceipt (inv agent : Nat) (s : State) : Host.Outcome State Fault Refusal :=
  eventOpt s ((s.invals.find? (fun v => v.id == inv && v.toReceive.contains agent)).map (fun v =>
    let ids := s.translated agent
    let t := dropCached s v agent
    { t with invals := t.invals.map (fun (w : Inval) =>
        if w.id == inv then { w with toReceive := without agent w.toReceive, waiting := w.waiting ++ [(agent, ids)] } else w) }))

def execInvalidationAck (inv agent : Nat) (s : State) : Host.Outcome State Fault Refusal :=
  let done := fun (w : Nat × List Nat) => w.1 == agent && w.2.all (fun i => (s.req? i).all Req.performed)
  event s (s.invals.any (fun v => v.id == inv && v.waiting.any done))
    { s with invals := (s.invals.map (fun (v : Inval) =>
        if v.id == inv then { v with waiting := v.waiting.filter (fun w => !done w) } else v)).filter (fun v =>
          !(v.toReceive.isEmpty && v.waiting.isEmpty)) }

end Sys2Proof.Machine
end

