-- ==== Sys2Proof/Machine/Kernel.lean ====
section
/-!
DEFINITION. Major 21, kernels: spawning, launching from the device, dependent start and idempotent regions (19_kernel.md
R365 to R379).
-/

set_option linter.unusedVariables false

namespace Sys2Proof.Machine

/-- A word that orders as a release at `.dev` of some lanes: the path waits until their earlier accesses are acknowledged. -/
def afterRelease (s : State) (f : Focus) (ls : List Nat) (go : Unit → Eff) : Eff :=
  let ids := ls.flatMap (fun l => (s.laneReqs f.blk f.grp l).map Req.id)
  if ids.isEmpty then go () else .ok s (pathWaits f (.reqs ids))

/-- What the releases of some lanes order before them. -/
def maxD (s : State) (f : Focus) (ls : List Nat) : VecD := ls.foldl (fun (d : VecD) l => d.max (s.flane f l).known) {}

/-! ## Launch (R367) -/

/-- What a launch asks for, or the status that refuses it. -/
def launchArgs (s : State) (f : Focus) (dep : Bool) (num : Nat) (arg : DWord) (ctl n : Nat) (vec : VecD) : Except Nat Enqueue :=
  let c := s.fctx f
  match s.kern c num with
  | none => .error 1
  | some k =>
    let nb := if n = 0 then k.blocks else n
    if 2 ^ 9 ≤ ctl || nb = 0 || nb % k.cluster != 0 then .error 2
    else
      let own := ctl / 256 % 2 == 1
      .ok { ctx := c, die := if k.die = 255 then s.fdie f else k.die, kern := num, arg := arg, blocks := nb,
            q := if own then k.queue else ctl % 64, prio := if own then k.prio else ctl / 64 % 4, dep := dep, vec := vec }

def klaunchWord (x : FForm) (dep : Bool) (s : State) (f : Focus) : Eff :=
  let ls := s.acting f x.g
  match ls.head? with
  | none => .ok s []
  | some i =>
    if (s.fgroup f).region.isSome then .trap (idemTrap ls)
    else
      afterRelease s f ls (fun _ =>
        let v := s.view f i
        let ctl := (v.l.reg v.g.nregs x.c.toNat).toNat
        let n := (v.l.reg v.g.nregs (x.c.toNat + 1)).toNat
        let (t, h) : State × Word :=
          match launchArgs s f dep (v.src x.a).toNat (v.src64 x.b) ctl n (maxD s f ls) with
          | .error st => (s, BitVec.ofNat 32 st)
          | .ok e => (s.enqueue e).getD (s, 3)
        .ok (t.onLanes f ls (fun _ l => l.setReg v.g.nregs x.d.toNat h)) [])

def execKlaunch (x : FForm) (dep : Bool) (s : State) : Host.Outcome State Fault Refusal :=
  runWord s (srcUse false x.a ++ srcUse true x.b ++ [x.c.toNat, x.c.toNat + 1] ++ [x.d.toNat]) (klaunchWord x dep)

/-! ## Spawning (R370 to R372) -/

/-- A thread joins the bin of its target; a full bin is launched. -/
def spawnThread (s : State) (core i target : Nat) (t : BinThread) (width : Nat) : State :=
  let bins := (s.core core).bins
  let b := (bins.find? (fun b => b.inst == i && b.target == target)).getD ⟨i, target, [], s.ns⟩
  let mine := fun (b : SpawnBin) => b.inst == i && b.target == target
  let ts := b.threads ++ [t]
  if width ≤ ts.length then launchBin (s.modCore core (fun k => { k with bins := bins.filter (fun b => !mine b) })) core i target ts
  else
    let filled := if bins.any mine then bins.map (fun (y : SpawnBin) => if mine y then { b with threads := ts } else y)
      else bins ++ [{ b with threads := ts }]
    s.modCore core (fun k => { k with bins := filled })

def spawnWord (x : FForm) (s : State) (f : Focus) : Eff :=
  let ls := s.acting f x.g
  let b := s.fblock f
  let k := s.blockKern b
  let target := fun (i : Nat) => ((s.view f i).src x.a).toNat
  if ls.isEmpty then .ok s []
  else if (s.fgroup f).region.isSome then .trap (idemTrap ls)
  else
    let bad := ls.filter (fun i => decide (k.size ≤ target i))
    if !bad.isEmpty then .trap (boundsTrap bad)
    else if 1 < k.cluster then .trap (boundsTrap ls)
    else
      let bins := (s.core b.core).bins
      let new := ((ls.map target).eraseDups).filter (fun t => !bins.any (fun y => y.inst == b.inst && y.target == t))
      if 8 < bins.length + new.length then .ok s (pathWaits f .room)
      else
        afterRelease s f ls (fun _ =>
          .ok (ls.foldl (fun s i =>
            let v := s.view f i
            spawnThread s b.core b.inst (target i) ⟨v.src64 x.b, v.tagOf x.b, v.l.known⟩ k.width) s) [])

def execSpawn (x : FForm) (s : State) : Host.Outcome State Fault Refusal :=
  runWord s (srcUse false x.a ++ srcUse true x.b) (spawnWord x)

/-- R372: the bin's timer expires since its oldest thread entered. -/
def execSpawnTimerExpiry (core bin : Nat) (s : State) : Host.Outcome State Fault Refusal :=
  .next (match (s.core core).bins[bin]? with
    | none => s
    | some b =>
      let t := ((s.ctx (s.inst b.inst).ctx).spawnTimer).toNat
      if b.since + t ≤ s.ns then
        launchBin (s.modCore core (fun k => { k with bins := k.bins.eraseIdx bin })) core b.inst b.target b.threads
      else s)

/-! ## Dependent start (R373, R374) -/

def execKtrig (x : FForm) (s : State) : Host.Outcome State Fault Refusal :=
  runWord s [] (fun s f =>
    let ls := s.acting f x.g
    if ls.isEmpty then .ok s []
    else if (s.fgroup f).region.isSome then .trap (idemTrap ls)
    else if (s.fblock f).mark != .no then .ok s []
    else
      let ids := f.lanes.flatMap (fun l => (s.laneReqs f.blk f.grp l).map Req.id)
      .ok (s.modBlock f.blk (fun b => { b with mark := .releasing ids (f.lanes.map (fun l => (f.grp, l))) })) [])

/-- The mark's release has completed: the block counts as triggered. -/
def execKtrigReleaseComplete (blk : Nat) (s : State) : Host.Outcome State Fault Refusal :=
  .next (match (s.block blk).mark with
    | .releasing [] ls =>
      s.modBlock blk (fun b =>
        { b with mark := .done (ls.foldl (fun (d : VecD) x => d.max ((b.group x.1).lane x.2).known) {}) })
    | _ => s)

/-- Does a copy or network command of a block still run? -/
def State.hasCopy (s : State) (blk : Nat) : Bool := s.dies.any (fun e => e.2.copyQ.any (fun c => c.owner.any (fun o => o.1 == blk)))

/-- What covers every write of a block whose work is done. -/
def Block.writesVec (b : Block) : VecD :=
  b.groups.foldl (fun (d : VecD) g => g.lanes.foldl (fun (d : VecD) l => d.max l.known) ((d.max g.cpVec).max g.tlVec)) {}

/-- The trigger vector of a block, once it counts as triggered: its own mark's, or at retirement, when its stores are
acknowledged, the vector of every write it made. -/
def State.triggerVec (s : State) (id : Nat) (b : Block) : Option VecD :=
  match b.mark with
  | .done v => some v
  | .releasing _ _ => none
  | .no =>
    if b.st == .retired && !s.reqs.any (fun r => r.blk == id) && !s.hasCopy id then some b.writesVec
    else none

/-- R374: the vector of a producer whose every block has triggered. -/
def State.producerVec (s : State) (i : Nat) : Option VecD :=
  match s.inst? i with
  | none => some {}
  | some x =>
    if x.st == .retired then some x.endVec
    else if x.st != .dispatched then none
    else
      (s.blocks.filter (fun e => e.2.inst == i)).foldl (fun (o : Option VecD) e =>
        match o, s.triggerVec e.1 e.2 with
        | some v, some w => some (v.max w)
        | _, _ => none) (some {})

/-- The vectors of all producers, once all have triggered. -/
def State.producersVec (s : State) (is : List Nat) : Option VecD :=
  is.foldl (fun (o : Option VecD) i =>
    match o, s.producerVec i with
    | some v, some w => some (v.max w)
    | _, _ => none) (some {})

def execKwait (x : FForm) (s : State) : Host.Outcome State Fault Refusal :=
  runWord s [] (fun s f =>
    let ps := (s.inst (s.fblock f).inst).producers
    if (s.acting f x.g).isEmpty || ps.isEmpty then .ok s []
    else
      match s.producersVec ps with
      | none => .ok s (pathWaits f .producers)
      | some v => .ok (s.onLanes f f.lanes (fun _ l => { l with D := l.D.max v, order := { l.order with cover := true } })) [])

/-! ## Idempotent regions (R376) -/

/-- What a region keeps of a lane: `n` registers from `r`, with the tags of their pairs. -/
def snapLane (nregs r n : Nat) (l : Lane) : LaneSnap :=
  let is := (List.range n).map (fun k => regIx nregs (r + k))
  { regs := is.map (fun i => (i, Cells.get l.v i)), tags := l.tags.filter (fun t => is.contains t || is.contains (regIx2 nregs t)),
    stack := l.stack, depth := l.depth, sp := l.sp, lc := l.lc, slots := l.slots }

def execIdem (x : FForm) (n : BitVec 4) (s : State) : Host.Outcome State Fault Refusal :=
  runWord s ((List.range n.toNat).map (fun k => srcIx x.a + k)) (fun s f =>
    if (s.acting f x.g).isEmpty then .ok s []
    else
      let g := s.fgroup f
      if g.live.any (fun l => !f.lanes.contains l) then .trap { cause := 7, sub := 2 }
      else
        .ok (s.onGroup f (fun g =>
          { g with region := some { entry := f.pc + 1, kern := f.kern, s := g.s, j := g.j,
                                    lanes := g.lanes.map (snapLane g.nregs (srcIx x.a) n.toNat) } })) [])

def execIdemx (x : FForm) (s : State) : Host.Outcome State Fault Refusal :=
  runWord s [] (fun s f =>
    if (s.acting f x.g).isEmpty then .ok s []
    else .ok (s.onGroup f (fun g => { g with region := none })) [])

end Sys2Proof.Machine
end

