-- ==== Sys2Proof/Machine/Queue.lean ====
section
/-!
DEFINITION. The queue manager and its event rows: retirement, placement, pre-emption, saving, parking and code prefetch
(19_kernel.md R360 to R378, 20_queue.md R384 to R390, 18_barrier.md R355).
-/

set_option linter.unusedVariables false

namespace Sys2Proof.Machine

/-! ## Retirement (R362, R364) -/

/-- The lines that a block owns in its core's B-store. -/
def Core.linesOf (k : Core) (blk : Nat) : List Nat := (k.owner.filter (fun o => o.2 == blk)).map Prod.fst

def Core.freeLines (k : Core) (blk : Nat) : Core := { k with owner := k.owner.filter (fun o => o.2 != blk) }

def poolShare (k : Kern) : Nat := poolRegs k + poolScratch k + poolAcc k

def hyperSlots (k : Kern) (groups : Nat) : Nat := if k.hyper then groups else 0

/-- R388: what a victim has as it leaves its core is what is held for the blocking unit. -/
def State.noteHold (s : State) (blk : Nat) : State :=
  let b := s.block blk
  let n := hyperSlots (s.blockKern b) b.groups.length
  let lines := (s.core b.core).linesOf blk
  s.modDie (dieOfCore b.core) (fun d => { d with holds := d.holds.map (fun (h : Hold) =>
    if h.blk == blk && h.age == b.age then { h with units := b.units, hyper := n, lines := lines } else h) })

def retireBlock (s : State) (blk : Nat) : State :=
  let b := s.block blk
  let s := (s.noteHold blk).modCore b.core (fun k => k.freeLines blk)
  let s := freeBlockStacks s b
  let s := if (s.inst? b.inst).isSome then s.modBlock blk (fun b => { b with st := .retired, tiles := [], vtiles := [], halting := false })
    else { s with blocks := Tbl.del s.blocks blk }
  s.freeEndedQueues b.ctx

def State.mayRetire (s : State) (blk : Nat) : Bool :=
  (s.block blk).st == .retiring && !s.hasTile blk && (s.block blk).savedCmds.isEmpty

def execBlockRetire (blk : Nat) (s : State) : Host.Outcome State Fault Refusal := event s (s.mayRetire blk) (retireBlock s blk)

/-- Does an engine command of the instance run? -/
def State.instCmds (s : State) (i : Nat) : Bool :=
  s.dies.any (fun e => e.2.copyQ.any (fun c => c.inst == some i)) || s.cores.any (fun e => e.2.tileQ.any (fun c => c.inst == i))

def State.instMayRetire (s : State) (i : Nat) : Bool :=
  (s.inst i).st == .dispatched && s.blocks.all (fun e => e.2.inst != i || e.2.st == .retired) &&
    !s.cores.any (fun e => e.2.bins.any (fun b => b.inst == i)) && !s.instCmds i && !s.reqs.any (fun r => r.inst == i)

/-- Retired instances whose vectors nobody needs any more are gone. -/
def State.sweepInsts (s : State) : State :=
  { s with insts := s.insts.filter (fun e => e.2.st != .retired || s.insts.any (fun x => x.2.st != .retired && x.2.producers.contains e.1)) }

/-- An instance's event counters join the totals of its context (04_numbers.md R79). -/
def addFex (total fex : Cells 32) : Cells 32 :=
  (List.range 16).foldl (fun t i =>
    Cells.set t i (BitVec.ofNat 32 (sat32 ((Cells.get t i).toNat + (Cells.get fex i).toNat)))) total

def retireInst (s : State) (i : Nat) : State :=
  let x := s.inst i
  let vec := (s.producerVec i).getD {}
  let all := (s.blocks.filter (fun e => e.2.inst == i)).foldl (fun (d : VecD) e =>
    (match e.2.mark with | .done v => d.max v | _ => d).max e.2.writesVec) {}
  let s := s.modCtx x.ctx (fun c => { c with fexTotal := addFex c.fexTotal x.fex })
  let s := { s with
    blocks := s.blocks.filter (fun e => e.2.inst != i)
    dies := s.dies.map (fun (e : Nat × Die) => (e.1, { e.2 with queues := e.2.queues.map (fun (q : Nat × HwQueue) =>
      (q.1, if q.2.insts.contains i then
          { q.2 with insts := without i q.2.insts, emptied := if without i q.2.insts == [] then s.clock else q.2.emptied }
        else q.2)) })) }
  (s.modInst i (fun x => { x with st := .retired, endVec := vec, retireVec := all, fex := [] })).sweepInsts

def execInstanceRetire (inst : Nat) (s : State) : Host.Outcome State Fault Refusal :=
  event s (s.instMayRetire inst) (retireInst s inst)

/-! ## Fit (R384, R386) -/

/-- A unit that waits to be placed: blocks to relaunch or of a spawn bin, or the next cluster of an instance of a queue. -/
inductive PUnit where
  | again (blks : List Nat)
  | new (inst q : Nat)
  deriving DecidableEq, Repr

/-- What a block needs of a core. -/
structure Need1 where
  units : Nat
  hyper : Nat
  lines : List Nat
  only : Option Nat
  deriving DecidableEq, Repr, Inhabited

def blockNeed (s : State) (b : Block) : Need1 :=
  let k := s.blockKern b
  { units := if b.st == .saved || b.st == .parked then b.units else poolShare k
    hyper := hyperSlots k b.groups.length
    lines := if b.st == .saved || b.st == .parked then b.savedLines else []
    only := if b.st == .formed then some b.core else none }

/-- Does a core fit a block of a unit, once the removed blocks are gone? What is held there for another unit is not free. -/
def State.fitsCore (s : State) (unit : Nat × Bool) (removed : List Nat) (n : Need1) (core : Nat) : Bool :=
  let rs := (s.residents core).filter (fun e => !removed.contains e.1)
  let held := s.heldFor core (some unit)
  let used := (rs.map (fun e => e.2.units)).sum + s.clusterScratch core + (held.map Hold.units).sum
  let slots := (rs.map (fun e => hyperSlots (s.blockKern e.2) e.2.groups.length)).sum + (held.map Hold.hyper).sum
  !(s.core core).frozen && decide (used + n.units ≤ 192) && (n.hyper == 0 || decide (slots + n.hyper ≤ 8)) &&
    decide (rs.length + held.length < 32) &&
    n.lines.all (fun l => !held.any (fun h => h.lines.contains l) &&
      (match Tbl.at (s.core core).owner l with | none => true | some o => removed.contains o)) &&
    (match n.only with | some c => c == core | none => true)

/-- The first distinct cores of an order that each fit the next block. -/
def pickCores (fits : Need1 → Nat → Bool) : List Nat → List Need1 → Option (List Nat)
  | _, [] => some []
  | [], _ => none
  | c :: cs, n :: ns => if fits n c then (pickCores fits cs ns).map (c :: ·) else pickCores fits cs (n :: ns)

/-- Distinct cores of an order that each fit one block, in whatever order the cores come. -/
def matchCores (fits : Need1 → Nat → Bool) (order : List Nat) : List Need1 → List Nat → Option (List Nat)
  | [], _ => some []
  | n :: ns, used =>
    order.findSome? (fun c =>
      if used.contains c || !fits n c then none else (matchCores fits order ns (c :: used)).map (c :: ·))

/-- R384, R386: the cores of a unit: the first of the order that each fit its next block; where the blocks' needs differ and
that fails, distinct cores that each fit one of them. -/
def chooseCores (fits : Need1 → Nat → Bool) (order : List Nat) (ns : List Need1) : Option (List Nat) :=
  match pickCores fits order ns with
  | some cs => some cs
  | none => if ns.all (fun n => some n == ns.head?) then none else matchCores fits order ns []

/-- The cores of a die round-robin, from the one after another. -/
def coresAfter (die : Nat) (last : Option Nat) : List Nat :=
  let from' := match last with
    | some c => c % 64 + 1
    | none => 0
  (List.range 64).map (fun i => 64 * die + (from' + i) % 64)

/-- R385, R386: the order in which a unit's cores are tried; a spawned one has its own core alone. -/
def PUnit.order (s : State) (die : Nat) : PUnit → List Nat
  | .again bs =>
    let b := s.block (bs.headD 0)
    if b.st = .formed then [b.core] else coresAfter die (some b.core)
  | .new i _ => coresAfter die (s.inst i).lastCore

def PUnit.needs (s : State) : PUnit → List Need1
  | .again bs => bs.map (fun b => blockNeed s (s.block b))
  | .new i _ =>
    let k := (s.kern (s.inst i).ctx (s.inst i).kern).getD {}
    List.replicate (Nat.max k.cluster 1) ⟨poolShare k, hyperSlots k (groupPlan k).length, [], none⟩

/-- What names a unit: its first block, or the instance whose next cluster it is. -/
def PUnit.key : PUnit → Nat × Bool
  | .again bs => (bs.headD 0, false)
  | .new i _ => (i, true)

def State.fitUnit (s : State) (die : Nat) (removed : List Nat) (u : PUnit) : Option (List Nat) :=
  chooseCores (s.fitsCore u.key removed) (u.order s die) (u.needs s)

/-! ## Placement (R385, R387) -/

def PUnit.prio (s : State) : PUnit → Nat
  | .again bs => (s.inst (s.block (bs.headD 0)).inst).prio
  | .new i _ => (s.inst i).prio

/-- The units that wait on a die: relaunched and spawned ones in their order, then the next cluster of each queue from the
queue after the one last served at that priority. -/
def State.relaunchUnits (s : State) (die : Nat) : List PUnit :=
  ((s.die die).relaunch.filter (fun b => (s.ctx (s.block b).ctx).st == .live)).map (fun b =>
    .again (if (s.block b).st == .parked then (s.unitOf b).filter (fun u => (s.block u).st == .parked) else [b]))

def State.newUnits (s : State) (die prio : Nat) : List PUnit :=
  let d := s.die die
  let last := d.lastServed.getD prio 63
  ((List.range 64).map (fun i => (last + 1 + i) % 64)).filterMap (fun q =>
    (((Tbl.at d.queues q).getD {}).insts.find? (fun i =>
      (s.inst i).st == .dispatching && (s.inst i).prio == prio && (s.ctx (s.inst i).ctx).st == .live)).map (fun i => .new i q))

def State.unitsOf (s : State) (die prio : Nat) : List PUnit :=
  (s.relaunchUnits die).filter (fun u => u.prio s == prio) ++ s.newUnits die prio

/-- The first unit in the order of R385. -/
def State.firstUnit (s : State) (die : Nat) : Option PUnit := [3, 2, 1, 0].findSome? (fun p => (s.unitsOf die p).head?)

/-- A relaunched block on its core: what was saved is restored; a block of a bin starts; a discarded one restarts. -/
def resumeBlock (s : State) (blk core : Nat) : State :=
  let b := s.block blk
  let seats := seatsOf s core
  let restored := fun (k : Core) =>
    { k with
      owner := b.savedLines.foldl (fun o l => Tbl.put o l blk) k.owner
      bstore := b.savedStore.foldl (fun m e => Cells.set m e.1 e.2)
        (k.bstore.filter (fun e => !b.savedLines.contains (e.1 % 131072 / 64)))
      tileQ := k.tileQ ++ b.savedCmds, luna := k.luna ++ b.savedLuna
      locks := k.locks ++ b.savedLocks }
  let b' := { b with
    st := .resident, core := core, age := s.nextId, savedLines := [], savedStore := [], savedCmds := [], savedLuna := [],
    savedLocks := [], seen := [], signalled := false, waitSince := none,
    groups := seatGroups seats (b.groups.map (fun (g : Group) =>
      { g with waits := g.waits.map (fun (w : JWait) => { w with bound := w.bound.map (fun n => n + s.clock) }) })) }
  let b' := (List.range b'.groups.length).foldl (freeSlices b.savedCmds.isEmpty) b'
  let s := { s with nextId := s.nextId + 1, blocks := Tbl.put s.blocks blk b' }
  (s.modCore core restored).modInst b.inst (fun x => { x with lastCore := some core })

/-- The blocks of a new cluster on their cores. -/
def placeNew (s : State) (i : Nat) (cores : List Nat) : State :=
  cores.foldl (fun s core =>
    let (b, s) := newBlock s i (s.inst i).placed core
    let id := s.nextId
    let s := { s with nextId := id + 1, blocks := Tbl.put s.blocks id b }
    s.modInst i (fun x =>
      { x with placed := x.placed + 1, born := if x.placed = 0 then b.age else x.born, lastCore := some core, st := if x.blocks ≤ x.placed + 1 then .dispatched else x.st })) s

/-- A unit is placed: nothing blocks, and nothing is held for it any more. -/
def placeUnit (s : State) (die : Nat) (u : PUnit) (cores : List Nat) : State :=
  let s := s.modDie die (fun d => { d with blocking := none, holds := d.holds.filter (fun h => (h.unit, h.fresh) != u.key) })
  match u with
  | .again bs =>
    let s := s.modDie die (fun d => { d with relaunch := d.relaunch.filter (fun b => !bs.contains b) })
    (bs.zip cores).foldl (fun s x => resumeBlock s x.1 x.2) s
  | .new i q =>
    let p := (s.inst i).prio
    (placeNew s i cores).modDie die (fun d => { d with lastServed := d.lastServed.set p q })

def PUnit.blocking (s : State) (u : PUnit) : Blocking := ⟨u.key.1, u.key.2, s.ns, false⟩

def Blocking.same (a b : Blocking) : Bool := a.unit == b.unit && a.fresh == b.fresh

/-- One turn of the queue manager: its first unit is placed, or begins to block; with none, nothing blocks. -/
def State.placeTurn (s : State) (die : Nat) : Option State :=
  match s.firstUnit die with
  | none => if (s.die die).blocking.isSome then some (s.modDie die (fun d => { d with blocking := none })) else none
  | some u =>
    match s.fitUnit die [] u with
    | some cores => some (placeUnit s die u cores)
    | none =>
      if (s.die die).blocking.any (fun b => b.same (u.blocking s)) then none
      else some (s.modDie die (fun d => { d with blocking := some (u.blocking s) }))

def execUnitPlacement (die : Nat) (s : State) : Host.Outcome State Fault Refusal := .next ((s.placeTurn die).getD s)

/-! ## Pre-emption (R388, R389) -/

def State.blockPrio (s : State) (b : Block) : Nat := (s.inst b.inst).prio

/-- Candidates of a core in the order in which they are taken: the lowest priority first, then the youngest. -/
def insertVictim (s : State) (e : Nat × Block) : List (Nat × Block) → List (Nat × Block)
  | [] => [e]
  | x :: xs =>
    let p := s.blockPrio e.2
    let q := s.blockPrio x.2
    if p < q || (p == q && decide (x.2.age < e.2.age)) then e :: x :: xs else x :: insertVictim s e xs

def State.lowerBlocks (s : State) (core prio : Nat) : List Nat :=
  (((s.residents core).filter (fun e => e.2.st == .resident && decide (s.blockPrio e.2 < prio))).foldl
    (fun l e => insertVictim s e l) []).map Prod.fst

/-- The blocks that have been asked to go for a unit, and are still on their cores. -/
def State.going (s : State) (die : Nat) (u : PUnit) : List Nat :=
  ((s.die die).holds.filter (fun h => (h.unit, h.fresh) == u.key && (s.residents h.core).any (fun e => e.1 == h.blk && e.2.age == h.age))).map Hold.blk

/-- Victims are added until the unit fits; none when it never does. -/
def chooseVictims (s : State) (die : Nat) (u : PUnit) : List Nat → List Nat → Option (List Nat)
  | [], _ => none
  | v :: vs, got =>
    if got.contains v then chooseVictims s die u vs got
    else
      let got := got ++ (s.unitOf v).filter (fun b => (s.block b).st == .resident)
      if (s.fitUnit die got u).isSome then some got else chooseVictims s die u vs got

/-- The victims of a request for the unit that blocks. It asks again when the blocks that are already to go no longer let it fit, because
free units that it counted on have gone to others (05_group.md R124; 20_queue.md R391). -/
def State.victims (s : State) (die : Nat) : Option (List Nat) :=
  match (s.die die).blocking, s.firstUnit die with
  | some b, some u =>
    let going := s.going die u
    if b.same (u.blocking s) && decide (b.since + 2000 ≤ s.ns) && (!b.sent || (s.fitUnit die going u).isNone) then
      (chooseVictims s die u ((u.order s die).flatMap (fun c => s.lowerBlocks c (u.prio s))) going).map
        (fun vs => vs.filter (fun v => !going.contains v))
    else none
  | _, _ => none

def execPreemptionGraceExpiry (die : Nat) (s : State) : Host.Outcome State Fault Refusal :=
  .next (match s.victims die with
    | none => s
    | some vs =>
      let hold := fun (b : Blocking) (v : Nat) =>
        let x := s.block v
        Hold.mk b.unit b.fresh v x.age x.core x.units (hyperSlots (s.blockKern x) x.groups.length) ((s.core x.core).linesOf v)
      let s := s.modDie die (fun d =>
        { d with blocking := d.blocking.map (fun b => { b with sent := true })
                 holds := d.holds ++ (match d.blocking with | some b => vs.map (hold b) | none => []) })
      vs.foldl (fun s v => s.modBlock v (fun b => { b with halting := true })) s)

/-! ## Saving and discarding (R375, R378) -/

/-- R378. -/
def Block.discardable (b : Block) : Bool :=
  b.groups.all (fun g => g.live.isEmpty || (g.region.isSome && g.trap.isNone))

/-- A lane restarts from its snapshot. -/
def restartLane (entry kern : Nat) (x : LaneSnap) (old nregs : Nat) (l : Lane) : Lane :=
  if l.st == .exited then l
  else
    let regs := x.regs.filter (fun r => decide (r.1 < nregs))
    { v := regs.foldl (fun c r => Cells.set c r.1 r.2) [], tags := keptTags old nregs x.tags,
      pc := entry, kern := kern, stack := x.stack, depth := x.depth, sp := x.sp, stackBase := l.stackBase, lc := x.lc,
      slots := x.slots, D := l.D, spD := l.spD, order := l.order }

def restartGroup (hyper : Bool) (seed : DWord) (nregs : Nat) (g : Group) : Group :=
  match g.region with
  | some r =>
    { g with
      nregs := nregs, freed := [], s := r.s, j := r.j, waits := [], execs := [], passed := [], aged := [], h := [], acc := [],
      htie := if hyper then hgenBits seed else 0, hpend := [], trap := none
      lanes := g.lanes.zipIdx.map (fun x => restartLane r.entry r.kern (r.lanes.getD x.2 default) g.nregs nregs x.1) }
  | none => { g with freed := [], nregs := nregs }

/-- The register count of a group as its block was launched. -/
def launchRegs (k : Kern) (b : Block) (g : Group) : Nat :=
  if b.spawned then regCount k (poolRegs k) 1 else (((groupPlan k)[g.num]?).map Prod.snd).getD g.nregs

/-- A discardable block is dropped from its core, to restart at its regions' entries. -/
def discardBlock (s : State) (blk : Nat) : State :=
  let b := s.block blk
  let k := s.blockKern b
  let ids := ((s.core b.core).tileQ.filter (fun c => c.blk == blk)).map TileCmd.id
  let s := s.noteHold blk
  let s := (s.reqs.filter (fun r => r.blk == blk && r.kind == .load)).foldl State.complete s
  let s := { s with reqs := s.reqs.map (fun (r : Req) => if r.blk == blk then { r with dest := .none } else r) }
  let s := { s with resolutions := s.resolutions.filter (fun r => !(r.blk == blk && r.lane.isSome)) }
  let s := s.modCore b.core (fun c =>
    ({ c with tileQ := c.tileQ.filter (fun t => t.blk != blk), locks := c.locks.filter (fun l => !ids.contains l.cmd),
              luna := c.luna.filter (fun j => j.blk != blk), grows := c.grows.filter (fun g => g.blk != blk) }).freeLines blk)
  let s := s.modCtx b.ctx (fun c => c.count (fun n => { n with restart := sat32 (n.restart + 1) }))
  s.modBlock blk (fun b =>
    { b with st := .discarded, halting := false, waitSince := none, regUnits := b.baseUnits, reserve := 0, returned := 0, tiles := [], vtiles := [],
             groups := b.groups.map (fun g => restartGroup k.hyper (s.ctx b.ctx).seed (launchRegs k b g) g) })

/-- A saved or discarded block becomes a relaunch unit of its own (R384, R389). -/
def State.readyAgain (s : State) (blk : Nat) : State :=
  s.modDie (s.inst (s.block blk).inst).die (fun d => { d with relaunch := d.relaunch ++ [blk] })

def haltVictim (s : State) (blk : Nat) : State :=
  let b := s.block blk
  let s := s.modCtx b.ctx (fun c => c.count (fun n => { n with preempt := sat32 (n.preempt + 1) }))
  if b.discardable then (discardBlock s blk).readyAgain blk else s.haltBlock blk .saving

/-- A victim that retires or is already being saved is not halted (R389). -/
def execPreemptionHalt (blk : Nat) (s : State) : Host.Outcome State Fault Refusal :=
  event s (s.block blk).halting
    (if (s.block blk).st == .resident then haltVictim s blk else s.modBlock blk (fun b => { b with halting := false }))

/-- The commands of a block whose ranges stay registered for it (10_memory.md R221). -/
def State.cmdsOf (s : State) (blk : Nat) : List Nat :=
  (s.block blk).savedCmds.map TileCmd.id ++
  s.dies.flatMap (fun e => (e.2.copyQ.filter (fun c => c.owner.any (fun o => o.1 == blk))).map CopyCmd.id)

/-- The save is complete: the core has nothing more of the block. When no block of its unit is still being parked, a unit whose
signal has come is queued at once (18_barrier.md R355). -/
def saveDone (s : State) (blk : Nat) : State :=
  let b := s.block blk
  let k := s.core b.core
  let lines := k.linesOf blk
  let ids := s.cmdsOf blk
  let store := k.bstore.filter (fun e => lines.contains (e.1 % 131072 / 64))
  let s := (s.noteHold blk).setCore b.core
    { (k.freeLines blk) with locks := k.locks.filter (fun l => !ids.contains l.cmd) }
  let s := s.modBlock blk (fun x =>
    { x with st := if b.st == .parking then .parked else .saved, savedLines := lines, savedStore := store,
             savedLocks := k.locks.filter (fun l => ids.contains l.cmd) })
  let unit := s.unitOf blk
  let s := if b.st == .saving then s.readyAgain blk else s
  if unit.all (fun u => (s.block u).st != .parking) && unit.any (fun u => (s.block u).st == .parked && (s.block u).signalled) then
    s.queueParked blk
  else s

def State.saveOver (s : State) (blk : Nat) : Bool :=
  ((s.block blk).st == .saving || (s.block blk).st == .parking) && !s.hasTile blk

def execBlockSaveComplete (blk : Nat) (s : State) : Host.Outcome State Fault Refusal := event s (s.saveOver blk) (saveDone s blk)

/-! ## Waits that end (05_group.md R101, R120) -/

/-- The place of a counter that a lane waits on. -/
def State.ctrPlace (s : State) (blk va : Nat) : Option Place :=
  let b := s.block blk
  match translate s.mem (s.core b.core).tlb b.ctx (s.ctx b.ctx) va .read with
  | .at p _ => some p
  | _ => none

/-- Has what a lane waits for come? -/
def State.waitOver (s : State) (b g i : Nat) (w : Wait) : Bool :=
  let l := s.lane b g i
  let a := s.appliedOf b
  match w with
  | .reqs ids => (s.outstanding ids).isEmpty
  | .cover => a.covers l.seen && a.covers l.order.loadCover
  | .counts ld st cp tl => s.countsOk b g ld st cp tl
  | .rgrow id => !s.cores.any (fun e => e.2.grows.any (fun r => r.id == id))
  | .barrier rsp a p _ =>
    (match s.recordAt b rsp a with
     | some t => (recOfBits (s.recordBits t)).complete p.toNat
     | none => false)
  | .counter va n => (match s.ctrPlace b va with | some p => decide (n ≤ s.natAt p 8) | none => true)
  | .cnget id => (s.outstanding [id]).isEmpty
  | .member => false
  | .sys _ _ => false
  | .producers => (s.producersVec (s.inst (s.block b).inst).producers).isSome
  | .object id => !s.resolutions.any (fun r => r.id == id)
  | .page ctx page _ _ => !s.pageFills.any (fun p => p.ctx == ctx && p.page == page)
  | .room => true
  | .lead _ => !(s.leadHolds b (s.group b g).adv)
  | .inval id => !s.invals.any (fun v => v.id == id)
  | .luna id => !(s.cores.any (fun e => e.2.luna.any (fun j => j.id == id)) || (s.block b).savedLuna.any (fun j => j.id == id))
  | .mates kern pc ls =>
    !ls.any (fun k =>
      let m := s.lane b g k
      m.kern == kern && m.pc == pc && (m.st == .ready || m.st == .waiting .room))
  | .yielded till => false

/-- The vector of the completed phases of the record that a lane waits on. -/
def State.waitVec (s : State) (b g i : Nat) : VecD :=
  match (s.lane b g i).st with
  | .waiting (.barrier rsp a _ _) => (match s.recordAt b rsp a with | some t => (s.hiddenAt t).vc | none => {})
  | _ => {}

/-- A lane whose wait is over becomes ready: at its word, which issues again, or, where the wait was the word's last part
(`bwait`, `lead.adv`, a scalar `cnget`), at the next word (R101). -/
def arriveLane (vc : VecD) (l : Lane) : Lane :=
  match l.st with
  | .waiting (.lead _) => l.advance (l.pc + 1)
  | .waiting (.cnget _) => l.advance (l.pc + 1)
  | .waiting (.barrier _ _ _ acq) => l.passRec vc acq
  | _ => { l with st := .ready }

def State.laneDue (s : State) (b g i : Nat) : Bool :=
  match (s.lane b g i).st with
  | .waiting w => s.waitOver b g i w
  | _ => false

def execLaneResultArrival (blk grp lane : Nat) (s : State) : Host.Outcome State Fault Refusal :=
  event s (s.laneDue blk grp lane) (s.modLane blk grp lane (arriveLane (s.waitVec blk grp lane)))

def execYieldExpiry (blk grp lane : Nat) (s : State) : Host.Outcome State Fault Refusal :=
  .next (match (s.lane blk grp lane).st with
    | .waiting (.yielded till) => if till < s.clock then s.modLane blk grp lane (fun l => { l with st := .ready }) else s
    | _ => s)

/-! ## Rejoin waits (R112, R113) -/

/-- A wait whose named lanes have all arrived: the held ones go on and it closes. -/
def Group.closeWaits (g : Group) : Group :=
  (g.waits.filter g.allArrived).foldl (fun g w =>
    { g.release (g.heldAt w.j) with waits := g.waits.filter (fun x => x.j != w.j) }) g

def Group.bounded (clock j : Nat) (g : Group) : Option JWait :=
  g.waits.find? (fun w => w.j == j && w.bound.any (fun b => decide (b < clock)) && !g.allArrived w)

/-- The bound of an open wait has expired: the held lanes go on, and count as arrived until it closes. -/
def execJwaitTimeout (blk grp j : Nat) (s : State) : Host.Outcome State Fault Refusal :=
  event s ((s.block blk).st == .resident && ((s.group blk grp).bounded s.clock j).isSome)
    (s.modGroup blk grp (fun g =>
      let held := g.heldAt j
      { g.release held with waits := g.waits.map (fun (w : JWait) =>
          if w.j == j then { w with bound := none, timed := w.timed ++ held } else w) }))

/-! ## Parking (18_barrier.md R355, R356) -/

/-- Does a lane wait in `bwait`, `cnwait` or `lead.adv`, for something that has not come? -/
def State.parkWait (s : State) (b g i : Nat) : Bool :=
  match (s.lane b g i).st with
  | .waiting w =>
    (match w with
     | .barrier _ _ _ _ | .counter _ _ | .lead _ => !s.waitOver b g i w
     | _ => false)
  | _ => false

/-- Every lane of the unit that has not exited waits so. -/
def State.unitWaits (s : State) (b : Nat) : Bool :=
  let unit := s.unitOf b
  unit.any (fun u => (s.block u).st == .resident) &&
  unit.all (fun u =>
    let x := s.block u
    x.st == .retired || x.st == .retiring ||
    (x.st == .resident && x.groups.zipIdx.all (fun g => g.1.live.all (fun i => s.parkWait u g.2 i))))

/-- The counters that lanes of a block wait on: die, key and value. -/
def State.ctrWaits (s : State) (b : Nat) : List (Nat × Waiter) :=
  (s.block b).groups.flatMap (fun g => g.lanes.filterMap (fun l =>
    match l.st with
    | .waiting (.counter va n) =>
      (s.ctrPlace b va).bind (fun p => p.home?.map (fun d => (d, ⟨(s.block b).ctx, b, ctrKey p, n⟩)))
    | _ => none))

/-- The unit's wait has lasted its threshold, and every lane in `cnwait` obtains one of the 1,024 waiter entries of a die. -/
def State.mayPark (s : State) (b : Nat) : Bool :=
  let x := s.block b
  let ws := (s.unitOf b).flatMap s.ctrWaits
  x.waitThreshold != 0 && x.waitSince.any (fun t => decide (t + 1000 * x.waitThreshold ≤ s.ns)) && s.unitWaits b && !ws.isEmpty &&
    (s.ctx x.ctx).st == .live &&
    (List.range 4).all (fun d => decide ((s.die d).waiters.length + ws.countP (fun w => w.1 == d) ≤ 1024))

def parkNow (s : State) (b : Nat) : State :=
  let ws := (s.unitOf b).flatMap s.ctrWaits
  let s := ws.foldl (fun s w => s.modDie w.1 (fun d => { d with waiters := d.waiters ++ [w.2] })) s
  s.parkUnit b false

def execParkThresholdExpiry (blk : Nat) (s : State) : Host.Outcome State Fault Refusal := event s (s.mayPark blk) (parkNow s blk)

/-! ## Code prefetch (R390) -/

/-- The instance directly behind another in its queue, while it is not dispatched. -/
def State.successor (s : State) (i : Nat) : Option Nat :=
  (s.die (s.inst i).die).queues.findSome? (fun q =>
    match q.2.insts.dropWhile (fun x => x != i) with
    | _ :: n :: _ => if (s.inst n).st == .queued || (s.inst n).st == .dispatching then some n else none
    | _ => none)

/-- The successor of the oldest resident instance that has one, while none of its blocks has landed on the core. -/
def State.reserved (s : State) (core : Nat) : Option Nat :=
  let bs := s.residents core
  let ages := bs.filterMap (fun e =>
    ((s.successor e.2.inst).filter (fun n => !bs.any (fun x => x.2.inst == n))).map (fun n => ((s.inst e.2.inst).born, n)))
  match (ages.map Prod.fst).min? with
  | none => none
  | some a => (ages.find? (fun x => x.1 == a)).map Prod.snd

/-- The lines of the first 16 KiB of an instance's code that may be executed. -/
def State.prefetchLines (s : State) (core i : Nat) : List Nat :=
  let x := s.inst i
  let k := (s.kern x.ctx x.kern).getD {}
  ((List.range (Nat.min 256 ((8 * k.size + 63) / 64))).filterMap (fun n =>
    match translate s.mem (s.core core).tlb x.ctx (s.ctx x.ctx) (k.codeVa + 64 * n) .fetch with
    | .at (.mem pa) _ => some (pa / 64)
    | _ => none)).eraseDups

/-- Does a way of the reservation hold the line? -/
def Core.holdsAhead (k : Core) (line : Nat) : Bool :=
  [6, 7].any (fun w => (Tbl.at k.icache (8 * codeSet line + w)).any (fun x => x.line == line))

/-- A line of the successor enters way 6 of its set, or way 7 when way 6 holds another line of it, if neither holds it already. -/
def prefetchLine (m : Memory) (lines : List Nat) (k : Core) (line : Nat) : Core :=
  let six := Tbl.at k.icache (8 * codeSet line + 6)
  if k.holdsAhead line then k
  else k.putLine (if six.any (fun x => lines.contains x.line) then 7 else 6) line (lineWords m line)

/-- R390: the reservation is loaded in word order; it ends by becoming ordinary ways, which keep their lines. A line that is loaded
is read from memory for the successor's context (21_context.md R410). -/
def execCodePrefetch (core : Nat) (s : State) : Host.Outcome State Fault Refusal :=
  event s ((s.core core).prefetch != s.reserved core)
    (match s.reserved core with
     | none => s.modCore core (fun k => { k with prefetch := none })
     | some i =>
       let lines := s.prefetchLines core i
       let t := (lines.filter (fun l => !(s.core core).holdsAhead l)).foldl (fun (t : State) l => t.readLoss (s.inst i).ctx (.mem (64 * l)) 64) s
       t.modCore core (fun k => lines.foldl (prefetchLine s.mem lines) { k with prefetch := some i }))

end Sys2Proof.Machine
end

