-- ==== Sys2Proof/Machine/System.lean ====
section
/-!
DEFINITION. Major 22, context: service calls, trap handlers, control and status registers, halt, page queries and
invalidations, link and world queries (21_context.md R393 to R416, 09_page.md R208 to R210, 22_link.md R439 to R441,
23_world.md R457, R458).
-/

set_option linter.unusedVariables false

namespace Sys2Proof.Machine

/-! ## Posting a service call (R404, R405) -/

def unposted : LaneSt → Option FForm
  | .waiting (.sys 0 x) => some x
  | _ => none

/-- Do all these lanes wait at a `sys` word, with every earlier access acknowledged (a release at `.sys`, R258)? -/
def State.atSys (s : State) (blk : Nat) (ls : List (Nat × Nat)) : Bool :=
  !ls.isEmpty && ls.all (fun m => (unposted (s.lane blk m.1 m.2).st).isSome && (s.laneReqs blk m.1 m.2).isEmpty)

/-- The non-exited lanes of a block, by group and lane. -/
def Block.liveLanes (b : Block) : List (Nat × Nat) :=
  b.groups.zipIdx.flatMap (fun g => g.1.live.map (fun i => (g.2, i)))

/-- The waiting lanes in which their word acts. -/
def State.sysActing (s : State) (blk : Nat) (ls : List (Nat × Nat)) : List (Nat × Nat × FForm) :=
  ls.filterMap (fun m =>
    match unposted (s.lane blk m.1 m.2).st with
    | some x => if (s.lane blk m.1 m.2).acts x.g then some (m.1, m.2, x) else none
    | none => none)

def setWaiting (id : Nat) (l : Lane) : Lane :=
  match l.st with
  | .waiting (.sys _ x) => { l with st := .waiting (.sys id x) }
  | _ => l

/-- The call of some lanes that wait at `sys`: with none acting they go on; else one entry is posted, while the ring of
256 entries has room. -/
def State.postCall (s : State) (blk : Nat) (ls : List (Nat × Nat)) : State :=
  let c := (s.block blk).ctx
  let act := s.sysActing blk ls
  match act.head? with
  | none => ls.foldl (fun s m => s.modLane blk m.1 m.2 (fun l => l.advance (l.pc + 1))) s
  | some (g, i, x) =>
    if 256 ≤ (s.ctx c).ring.length then s
    else
      let view := fun (g i : Nat) => (⟨(s.kern c (s.lane blk g i).kern).getD {}, s.group blk g, s.lane blk g i⟩ : View)
      let v := view g i
      let b := srcIx x.b
      let call : Call :=
        { id := s.nextId, blk := blk, number := (v.src x.a).toNat,
          args := (List.range 6).map (fun k => v.l.pair v.g.nregs (b + 2 * k))
          lanes := act.map (fun m =>
            let w := view m.1 m.2.1
            (m.1, m.2.1, w.l.pair w.g.nregs (srcIx m.2.2.b))) }
      let s := ls.foldl (fun s m => s.modLane blk m.1 m.2 (setWaiting call.id)) { s with nextId := s.nextId + 1 }
      s.modCtx c (fun k => { k with ring := k.ring ++ [call] })

/-- The first handler path of a group that waits at one `sys` word. -/
def State.handlerPath (s : State) (blk g : Nat) : List (Nat × Nat) :=
  match (s.group blk g).trap with
  | none => []
  | some r =>
    let ws := r.inside.filter (fun i => (unposted (s.lane blk g i).st).isSome)
    match ws.head? with
    | none => []
    | some k =>
      let a := s.lane blk g k
      (ws.filter (fun i => (s.lane blk g i).pc == a.pc && (s.lane blk g i).kern == a.kern)).map (fun i => (g, i))

/-- A block's service calls are posted: the block's own once every live lane of it waits at a `sys`, and that of each
handler path by itself. -/
def State.postSys (s : State) (blk : Nat) : State :=
  let b := s.block blk
  if b.st != .resident || (s.core b.core).frozen then s
  else if b.groups.all (fun g => g.trap.isNone) then
    if s.atSys blk b.liveLanes then s.postCall blk b.liveLanes else s
  else
    (List.range b.groups.length).foldl (fun s g =>
      let ls := s.handlerPath blk g
      if s.atSys blk ls then s.postCall blk ls else s) s

def thenPost (s : State) (o : Host.Outcome State Fault Refusal) : Host.Outcome State Fault Refusal :=
  match s.focus, o with
  | some f, .next t => .next (t.postSys f.blk)
  | _, o => o

def sysUse (x : FForm) : List Nat := srcUse false x.a ++ (List.range 12).map (fun k => srcIx x.b + k) ++ regUse true x.d

def execSys (x : FForm) (s : State) : Host.Outcome State Fault Refusal :=
  thenPost s (runWord s (sysUse x) (fun s f =>
    let ls := s.acting f x.g
    let bad := ls.filter (fun i => let n := ((s.view f i).src x.a).toNat; n == 0 || decide (12 < n))
    if (s.fgroup f).region.isSome && !ls.isEmpty then .trap (idemTrap ls)
    else if !bad.isEmpty then .trap (boundsTrap bad)
    else .ok s (pathWaits f (.sys 0 x))))

/-! ## Trap handlers (R401 to R403) -/

def notInHandler : Trap := { cause := 1, sub := 5 }

def execTret (x : FForm) (next : Bool) (s : State) : Host.Outcome State Fault Refusal :=
  runWord s [] (fun s f =>
    match (s.fgroup f).trap with
    | none => .trap notInHandler
    | some r =>
      let ls := s.acting f x.g
      let size := ((s.kern (s.fctx f) r.kern).getD {}).size
      .ok (s.onGroup f (fun g => if ls.isEmpty then g else trapReturn size g r ls next)) (ls.map (fun l => (l, .stay))))

/-- A source of the trapped word, decoded as format F (03_formats.md R50). -/
def recordSrc (v : View) (kind index : Nat) : DWord :=
  match kind with
  | 0 => v.l.pair v.g.nregs index
  | 1 => Cells.get v.g.s ((index + 1) % 64) ++ Cells.get v.g.s (index % 64)
  | 2 => v.k.const (index / 128) ((index % 128 + 1) % 128) ++ v.k.const (index / 128) (index % 128)
  | _ => (BitVec.ofNat 9 index).signExtend 64

def AccKind.code : AccKind → BitVec 4
  | .none => 0
  | .load => 1
  | .store => 2
  | .atomic => 3
  | .fetch => 4
  | .engine => 5

/-- R402: an item of the trap record; `v` has the trapped word's kernel. -/
def recordItem (r : TrapRec) (v : View) : Nat → DWord
  | 0 => r.word
  | 1 => maskOf r.trap.lanes
  | 2 => 0#35 ++ BitVec.ofNat 9 r.trap.named ++ r.trap.kind.code ++ BitVec.ofNat 8 r.trap.sub ++ BitVec.ofNat 8 r.trap.cause
  | 3 => r.trap.addr
  | 4 => 0#16 ++ BitVec.ofNat 16 r.kern ++ BitVec.ofNat 32 r.pc
  | 5 => recordSrc v (r.word.extractLsb' 38 2).toNat (r.word.extractLsb' 29 9).toNat
  | 6 => recordSrc v (r.word.extractLsb' 27 2).toNat (r.word.extractLsb' 18 9).toNat
  | _ => v.l.pair v.g.nregs (r.word.extractLsb' 9 9).toNat

/-- The registers that the fields of the trapped word name. -/
def recordUse (s : State) : List Nat :=
  match s.focus with
  | none => []
  | some f =>
    match (s.fgroup f).trap with
    | none => []
    | some r => [29, 18, 9, 40].flatMap (fun k => let i := (r.word.extractLsb' k 9).toNat; [i, i + 1])

def execEmget (x : FForm) (s : State) : Host.Outcome State Fault Refusal :=
  runWord s (srcUse false x.a ++ regUse true x.d ++ recordUse s) (fun s f =>
    match (s.fgroup f).trap with
    | none => .trap notInHandler
    | some r =>
      let bad := (s.acting f x.g).filter (fun i => decide (8 ≤ ((s.view f i).src x.a).toNat))
      if !bad.isEmpty then .trap (boundsTrap bad)
      else
        let k := (s.kern (s.fctx f) r.kern).getD {}
        eachLane x.g (fun v i => (v.put true x.d (recordItem r { v with k := k } (v.src x.a).toNat).toNat, [])) s f)

/-- The destination that the trapped word names takes a value. -/
def emsetLane (t : EmTarget) (d : Nat) (n : Nat) (x : DWord) (l : Lane) : Lane :=
  match t with
  | .reg => l.setReg n d (x.setWidth 32)
  | .pair => l.setPair n (d - d % 2) x
  | .pred => l.setPred (d % 8) (x.getLsbD 0)

def execEmset (x : FForm) (t : EmTarget) (s : State) : Host.Outcome State Fault Refusal :=
  runWord s (srcUse true x.a ++ recordUse s) (fun s f =>
    match (s.fgroup f).trap with
    | none => .trap notInHandler
    | some r => eachLane x.g (fun v i => (emsetLane t (r.word.extractLsb' 40 9).toNat v.g.nregs (v.src64 x.a) v.l, [])) s f)

/-! ## Control and status registers (R394, R396, R397, R414) -/

def csr32 (n : Nat) : Option DWord := some (BitVec.ofNat 64 n)

/-- The value of a CSR of a context; none where the map lists no such address. -/
def csrRead (s : State) (c : Nat) (addr : Nat) : Option DWord :=
  let x := s.ctx c
  match addr with
  | 0x000 => some x.status
  | 0x001 => some (0#52 ++ BitVec.ofNat 4 x.world ++ BitVec.ofNat 8 c)
  | 0x002 => some (Config.revision.setWidth 64)
  | 0x003 => some Config.features
  | 0x004 => some x.seed
  | 0x005 => csr32 x.ptRoot
  | 0x006 => csr32 x.arenaBase
  | 0x007 => csr32 x.arenaSize
  | 0x010 => some x.trapVector
  | 0x011 => some x.parkThreshold
  | 0x012 => some x.spawnTimer
  | 0x030 => csr32 x.n.arith
  | 0x040 => csr32 x.n.dataLoss
  | 0x041 => csr32 x.n.fetch
  | 0x042 => csr32 x.n.slot
  | 0x043 => csr32 x.n.depart
  | 0x044 => csr32 x.n.stale
  | 0x045 => csr32 x.n.lost
  | 0x046 => csr32 x.n.hvSat
  | 0x047 => csr32 x.n.fire
  | 0x048 => csr32 x.n.fault
  | 0x049 => csr32 x.n.park
  | 0x04A => csr32 x.n.restart
  | 0x04B => csr32 x.n.preempt
  | 0x050 => csr32 s.ns
  | a => if 0x020 ≤ a && a ≤ 0x02F then some ((Tbl.at x.fexThreshold (a - 0x020)).getD 0xFFFFFFFF) else none

/-- R396: `spawn.timer` holds 1 to 1,000,000. -/
def clampTimer (x : DWord) : DWord :=
  if x.toNat < 1 then 1 else if 1000000 < x.toNat then 1000000 else x

/-- A write of a CSR; one of a read-only CSR is ignored. -/
def csrWrite (x : Context) (addr : Nat) (v : DWord) : Context :=
  match addr with
  | 0x010 => { x with trapVector := v }
  | 0x011 => { x with parkThreshold := v }
  | 0x012 => { x with spawnTimer := clampTimer v }
  | a => if 0x020 ≤ a && a ≤ 0x02F then { x with fexThreshold := Tbl.put x.fexThreshold (a - 0x020) v } else x

/-- A word that gives each acting lane, or a scalar pair the lowest one's, a value that may be out of bounds; then `badOf`
says which lanes trap. -/
def valueWord (x : FForm) (toScalar : Bool) (wide : Bool) (badOf : List Nat → List Nat) (val : State → Focus → Nat → Option DWord)
    (s : State) (f : Focus) : Eff :=
  let ls := s.acting f x.g
  let bad := ls.filter (fun i => (val s f i).isNone)
  if !bad.isEmpty then .trap (boundsTrap (badOf bad))
  else
    let out := ls.map (fun i => (i, (val s f i).getD 0))
    if toScalar then
      .ok (s.onGroup f (fun g =>
        match out.head? with
        | none => g
        | some y => if wide then g.setSPair x.d.toNat y.2 else g.setS x.d.toNat (y.2.setWidth 32))) []
    else
      let n := (s.fgroup f).nregs
      .ok (s.onLanes f ls (fun i l =>
        let y := (out.lookup i).getD 0
        if wide then l.setPair n x.d.toNat y else l.setReg n x.d.toNat (y.setWidth 32))) []

def destUse (toScalar wide : Bool) (d : BitVec 9) : List Nat := if toScalar then [] else regUse wide d

def execCsrr (x : FForm) (toScalar : Bool) (s : State) : Host.Outcome State Fault Refusal :=
  runWord s (destUse toScalar true x.d) (valueWord x toScalar true id (fun s f i => csrRead s (s.fctx f) ((s.view f i).src x.a).toNat))

/-- The lowest acting lane writes a CSR. -/
def csrwWord (x : FForm) (s : State) (f : Focus) : Eff :=
  match lowestActing s f x.g with
  | none => .ok s []
  | some i =>
    let v := s.view f i
    let a := (v.src x.a).toNat
    if (csrRead s (s.fctx f) a).isNone then .trap (boundsTrap (s.acting f x.g))
    else .ok (s.modCtx (s.fctx f) (fun c => csrWrite c a (v.src64 x.b))) []

def execCsrw (x : FForm) (s : State) : Host.Outcome State Fault Refusal := runWord s (srcUse true x.b) (csrwWord x)

/-- The lowest acting lane writes the CSR of an address. -/
def csrwAt (x : FForm) (addr : Nat) (s : State) (f : Focus) : Eff :=
  match lowestActing s f x.g with
  | none => .ok s []
  | some i => .ok (s.modCtx (s.fctx f) (fun c => csrWrite c addr ((s.view f i).src64 x.b))) []

def execCsrwParkThreshold (x : FForm) (s : State) : Host.Outcome State Fault Refusal := runWord s (srcUse true x.b) (csrwAt x 0x011)

def execCsrwSpawnTimer (x : FForm) (s : State) : Host.Outcome State Fault Refusal := runWord s (srcUse true x.b) (csrwAt x 0x012)

/-- R414: a floating-point event counter of the instance or the context, or the arithmetic-event counter. -/
def fexValue (s : State) (f : Focus) (ctx : Bool) (n : Nat) : Option DWord :=
  if n = 16 then csr32 (s.ctx (s.fctx f)).n.arith
  else if n < 16 then
    some ((Cells.get (if ctx then (s.ctx (s.fctx f)).fexTotal else (s.inst (s.fblock f).inst).fex) n).setWidth 64)
  else none

def execFexr (x : FForm) (ctx toScalar : Bool) (s : State) : Host.Outcome State Fault Refusal :=
  runWord s (srcUse false x.a ++ destUse toScalar false x.d)
    (valueWord x toScalar false id (fun s f i => fexValue s f ctx ((s.view f i).src x.a).toNat))

/-! ## `halt` (R415) -/

def execHalt (x : FForm) (s : State) : Host.Outcome State Fault Refusal :=
  runWord s (srcUse false x.a) (fun s f =>
    match lowestActing s f x.g with
    | none => .ok s []
    | some i =>
      let bad := idleOutside s f x.g
      if !bad.isEmpty then .trapNow (boundsTrap bad)
      else .stop (s.endTrapped (s.fctx f) { cause := 12 } ((s.view f i).src x.a) false false))

/-! ## Page queries and invalidations (09_page.md R208 to R210) -/

def sizeCode (size : Nat) : Nat := if size = 2 ^ 30 then 2 else if size = 2 ^ 21 then 1 else 0

/-- R209: a mapping, as `pgq` reads it. -/
def leafInfo (e : Pte) (size : Nat) : Nat :=
  let target := if e.kind = 0 then dieOfAddr e.addr else e.target
  2 ^ 32 * target + 128 * e.kind + 32 * sizeCode size + (if e.measured then 16 else 0) + (if e.x then 8 else 0) +
    (if e.w then 4 else 0) + (if e.r then 2 else 0) + 1

/-- The mapping of an address, by the region's own record in a counter region, whose words lie in no page frame. -/
def pageInfo (s : State) (core c va : Nat) : Nat :=
  if inWindow va then 1024
  else if !canonical va then 2048
  else
    let x := s.ctx c
    match (x.region va).filter (fun g => g.kind == .sram) with
    | some g =>
      2 ^ 32 * g.target.getD 0 + (if g.x then 8 else 0) + (if g.w then 4 else 0) + (if g.r then 2 else 0) + 1
    | none =>
      match cached (s.core core).tlb c va with
      | some t => leafInfo (pteOf t.entry) t.size
      | none =>
        match walk s.mem x.ptRoot va with
        | .leaf level e _ => leafInfo e (leafSize level)
        | .malformed => 0
        | .notMapped => if (x.region va).isSome then 512 else 0

def execPgq (x : FForm) (s : State) : Host.Outcome State Fault Refusal :=
  runWord s (srcUse true x.a ++ regUse true x.d) (valueWord x false true id (fun s f i =>
    csr32 (pageInfo s (s.fblock f).core (s.fctx f) ((s.view f i).src64 x.a).toNat)))

def extentSize : Extent → Option Nat
  | .p64k => some (2 ^ 16)
  | .p2m => some (2 ^ 21)
  | .p1g => some (2 ^ 30)
  | .all => none

/-- R210. -/
def pginvWord (x : FForm) (e : Extent) (s : State) (f : Focus) : Eff :=
  let ls := s.acting f x.g
  match ls.head? with
  | none => .ok s []
  | some i =>
    if (s.fgroup f).region.isSome then .trap (idemTrap ls)
    else if (s.ctx (s.fctx f)).world != 0 then .stop (s.violate (s.fblock f).core (s.fctx f) 3)
    else
      let v := s.view f i
      let c := (v.src x.b).toNat
      let va := (v.src64 x.a).toNat
      if (s.ctx? c).isNone then .ok s []
      else
        let (id, t) := s.startInval c (match extentSize e with | some n => va - va % n | none => 0) (extentSize e)
        .ok t (f.lanes.map (fun l => (l, .goWait (f.pc + 1) (.inval id))))

def execPginv (x : FForm) (e : Extent) (s : State) : Host.Outcome State Fault Refusal :=
  runWord s (srcUse true x.a ++ srcUse false x.b) (pginvWord x e)

/-! ## Link queries (22_link.md R439 to R441) -/

def LinkSt.code : LinkSt → Nat
  | .down => 0
  | .training => 1
  | .up => 2
  | .half => 3

def isLink (n : Nat) : Bool := decide (n < 48) || (decide (64 ≤ n) && decide (n < 72))

def routeInfo (s : State) (q : Nat) : Nat :=
  if q = s.devNum then 0
  else
    let r := minimalRoute s.devNum q
    (if r.via.isNone then 2 ^ 41 else 0) + (if routeHealthy s s.devNum r then 2 ^ 40 else 0) + 2 ^ 16 * r.via.getD 0 +
      256 * r.second + r.first

/-- R440; none for a link or device number that does not exist. -/
def linkInfo (s : State) (sel : LinkSel) (n : Nat) : Option DWord :=
  match sel with
  | .route => if isDevice n then csr32 (routeInfo s n) else none
  | sel =>
    if !isLink n then none
    else
      let l := s.link n
      match sel with
      | .state => csr32 (2 ^ 40 * (if l.healthy then l.peer else 0) + 2 ^ 16 * Nat.min 65535 (s.depth n) + l.st.code)
      | .retry => csr32 l.replays
      | .drop => csr32 l.drops
      | _ => csr32 (if n < 48 then 0 else (l.outbound.map HostReq.units).sum)

def execLnkq (x : FForm) (sel : LinkSel) (toScalar : Bool) (s : State) : Host.Outcome State Fault Refusal :=
  runWord s (srcUse false x.a ++ destUse toScalar true x.d)
    (valueWord x toScalar true (fun _ => []) (fun s f i => linkInfo s sel ((s.view f i).src x.a).toNat))

/-! ## World queries (23_world.md R457, R458) -/

def Latch.world : Latch → Nat
  | .assigned w => w
  | _ => 0

/-- R458. -/
def worldInfo (s : State) (die : Nat) : Nat :=
  let w := (s.die die).latch.world
  let r := (Tbl.at s.mgmt.worlds w).getD {}
  2 ^ 32 * r.entries.length + (if s.mgmt.tdisp == .run && s.mgmt.lent == w then 2 ^ 17 else 0) +
    (if r.mutableCode then 2 ^ 16 else 0) + 4096 * s.mgmt.leader.getD 0 +
    ((List.range 4).map (fun d => if (s.die d).latch.world = w && (w != 0 || (s.die d).latch == .unassigned) then 2 ^ (8 + d) else 0)).sum + w

def execWid (x : FForm) (toScalar : Bool) (s : State) : Host.Outcome State Fault Refusal :=
  runWord s (destUse toScalar true x.d) (valueWord x toScalar true id (fun s f i => csr32 (worldInfo s (s.fdie f))))

end Sys2Proof.Machine
end

