-- ==== Sys2Proof/Machine/Service.lean ====
section
/-!
DEFINITION. The service calls as Levain carries them out, their replies, firmware switch and the teardown of a context
(21_context.md R404 to R408, R395, 04_numbers.md R80). A call is carried out in one step, when it is dequeued; its reply is
written in another.
-/

set_option linter.unusedVariables false

namespace Sys2Proof.Machine

/-! ## Dequeuing (R405, R408) -/

/-- R406: the error results. -/
def callError (n : Nat) : DWord := BitVec.ofNat 64 (0xFFFFFFFFFFFFFF00 + n)

def PairSt.running : PairSt → Bool
  | .leader => true
  | .follower => true
  | _ => false

/-- The pair that serves a die: its own, or after its fencing the one that took over (23_world.md R455). -/
def State.served (s : State) (d : Nat) : Bool :=
  (s.die d).pair.running || [0, 1, 2, 3].any (fun e => (s.die e).serves.contains d && (s.die e).pair.running)

def Call.setAside (k : Call) : Bool := k.number == 5 || k.number == 7

/-- A call in service: carried out, with its reply not yet written. -/
def Context.inService (x : Context) : Bool := x.replies.any (fun k => !k.setAside)

/-- The call that is dequeued next: one at a time, on a ring that still dequeues. -/
def State.nextCall (s : State) (c number : Nat) : Option Call :=
  let x := s.ctx c
  if x.ended || x.inService || s.mgmt.switch.isSome || !s.served x.ringDie then none
  else x.ring.head?.filter (fun k => k.number == number)

/-- A call leaves the ring and its reply, which the journal has (23_world.md R456), is on its way. -/
def State.answer (s : State) (c : Nat) (k : Call) (results : List (Nat × Nat × DWord)) : State :=
  (s.record 15 c k.id (results.map (fun r => r.2.2.toNat))).modCtx c (fun x =>
    { x with ring := x.ring.filter (fun q => q.id != k.id), aside := x.aside.filter (fun q => q.id != k.id),
             replies := x.replies ++ [{ k with results := results }] })

/-- One result for every lane that waits. -/
def Call.all (k : Call) (v : DWord) : List (Nat × Nat × DWord) := k.lanes.map (fun l => (l.1, l.2.1, v))

/-- A call is carried out: `f` gives the new state and the one result. -/
def serve (c number : Nat) (f : State → Call → State × DWord) (s : State) : Host.Outcome State Fault Refusal :=
  eventOpt s ((s.nextCall c number).map (fun k =>
    let (t, v) := f s k
    t.answer c k (k.all v)))

def Call.arg (k : Call) (n : Nat) : DWord := k.args.getD n 0

/-! ## Levain's accesses for a context -/

/-- The place of a byte that Levain reaches by the context's own tables. -/
def State.vaPlace (s : State) (c va : Nat) (n : Need) : Option Place :=
  match translate s.mem [] c (s.ctx c) va n with
  | .at p _ => some p
  | _ => none

/-- Unfilled pages of a range are filled first (09_page.md R202). -/
def State.fillRange (s : State) (c va len : Nat) : State :=
  (spanPoints (s.ctx c) va len).foldl (fun s a =>
    match translate s.mem [] c (s.ctx c) a .read with
    | .fill p => (fillDone s p).getD s
    | _ => s) s

def State.rangeOk (s : State) (c va len : Nat) (n : Need) : Bool :=
  (spanPoints (s.ctx c) va len).all (fun a => (s.vaPlace c a n).isSome)

def State.readVa (s : State) (c va len : Nat) : List Byte :=
  (List.range len).map (fun i => match s.vaPlace c (va + i) .read with | some p => s.byteAt p | none => 0)

def State.writeVa (s : State) (c va : Nat) (bytes : List Byte) : State :=
  (pieces va (bytes.length / 16 + 2) 0 bytes.length).foldl (fun s x =>
    match s.vaPlace c (va + x.1) .write with
    | some p => ((s.flush p x.2).commitAt p ((bytes.drop x.1).take x.2) false s.seqs).1
    | none => s) s

/-- Bytes that a call names, once their pages are there; none when they cannot be read. -/
def State.callBytes (s : State) (c va len : Nat) : Option (State × List Byte) :=
  let t := s.fillRange c va len
  if t.rangeOk c va len .read then some (t, t.readVa c va len) else none

/-! ## Replies (R404) -/

/-- A waiting lane takes its result and goes on, as an acquire at `.sys`. -/
def resumeLane (n id : Nat) (seqs : VecD) (v : Option DWord) (l : Lane) : Lane :=
  match l.st with
  | .waiting (.sys k x) =>
    if k = id then
      let l := match v with
        | some y => l.setPair n x.d.toNat y
        | none => l
      ({ l with D := l.D.max seqs, order := { l.order with cover := true } }).advance (l.pc + 1)
    else l
  | _ => l

def State.writeReply (s : State) (c : Nat) (k : Call) : State :=
  let s := s.note 1 c k.id
  let s := s.modCtx c (fun x => { x with replies := x.replies.filter (fun q => q.id != k.id) })
  let seqs := s.seqs
  let s := s.modBlock k.blk (fun b =>
    { b with groups := b.groups.zipIdx.map (fun (g : Group × Nat) =>
        { g.1 with lanes := g.1.lanes.zipIdx.map (fun (l : Lane × Nat) =>
            resumeLane g.1.nregs k.id seqs ((k.results.find? (fun (r : Nat × Nat × DWord) => r.1 == g.2 && r.2.1 == l.2)).map (fun (r : Nat × Nat × DWord) => r.2.2)) l.1) }) })
  s.wakeUnit k.blk

def execSysReply (ctx call : Nat) (s : State) : Host.Outcome State Fault Refusal :=
  eventOpt s (((s.ctx ctx).replies.find? (fun k => k.id == call)).map (s.writeReply ctx))

/-! ## The arena (R407) -/

/-- The free blocks of a part of the arena of 256 * 2^k bytes, the lowest first: each the largest that meets no allocated
block. -/
def freeBlocks (arena : Tbl Nat) : Nat → Nat → List (Nat × Nat)
  | 0, off => if arena.any (fun (e : Nat × Nat) => decide (e.1 ≤ off) && decide (off < e.1 + e.2)) then [] else [(off, 256)]
  | k + 1, off =>
    let size := 256 * 2 ^ (k + 1)
    if !arena.any (fun (e : Nat × Nat) => decide (e.1 < off + size) && decide (off < e.1 + e.2)) then [(off, size)]
    else if arena.any (fun (e : Nat × Nat) => decide (e.1 ≤ off) && decide (off + size ≤ e.1 + e.2)) then []
    else freeBlocks arena k off ++ freeBlocks arena k (off + size / 2)

/-- The smallest block size that holds `n` bytes. -/
def buddySize (n : Nat) : Nat := 256 * 2 ^ (bitLen ((n + 255) / 256 - 1))

/-- The block that a request takes: the start of the lowest free block of the smallest size there is. -/
def buddyPick (arena : Tbl Nat) (arenaSize want : Nat) : Option Nat :=
  let free := (freeBlocks arena (bitLen (arenaSize / 256) - 1) 0).filter (fun b => decide (want ≤ b.2))
  match (free.map Prod.snd).min? with
  | none => none
  | some m => (free.find? (fun b => b.2 == m)).map Prod.fst

/-- The granules of a range of memory that hold a byte other than zero or a tag. -/
def State.dirtyGranules (s : State) (pa len : Nat) : List Nat :=
  (((s.mem.filter (fun (e : Host.Cell) => decide (pa ≤ e.1) && decide (e.1 < pa + len))).map (fun (e : Host.Cell) => e.1 / 16)) ++
    s.gtags.filter (fun g => decide (pa ≤ 16 * g) && decide (16 * g < pa + len))).eraseDups

/-- Allocated bytes become zero with tags 0. -/
def State.zeroVa (s : State) (c va len : Nat) : State :=
  (spanStarts va len).foldl (fun s a =>
    let n := Nat.min (va + len - a) (65536 - a % 65536)
    match s.vaPlace c a .write with
    | some (.mem pa) =>
      (s.dirtyGranules pa n).foldl (fun s g =>
        ((s.flush (.mem (16 * g)) 16).commitMem (16 * g) (List.replicate 16 0) false s.seqs).1) s
    | _ => s) s

/-- What a call takes of a region is a region of its own there, with the same rights and pages (09_page.md R201; log 8). -/
def State.addPart (s : State) (c va size : Nat) : State :=
  match (s.ctx c).region va with
  | some g => s.addRegion c { g with base := va, size := size, part := true }
  | none => s

def allocLane (c : Nat) (s : State) (size : Nat) : State × DWord :=
  let x := s.ctx c
  if size = 0 then (s, 0)
  else
    match buddyPick x.arena x.arenaSize (buddySize size) with
    | none => (s, callError 3)
    | some off =>
      let s := s.modCtx c (fun x => { x with arena := Tbl.put x.arena off (buddySize size) })
      let s := s.addPart c (x.arenaBase + off) (buddySize size)
      (s.zeroVa c (x.arenaBase + off) (buddySize size), BitVec.ofNat 64 (x.arenaBase + off))

def freeLane (c : Nat) (s : State) (addr : Nat) : State × DWord :=
  let x := s.ctx c
  if addr = 0 then (s, 0)
  else if x.arenaBase ≤ addr && (Tbl.at x.arena (addr - x.arenaBase)).isSome then
    (s.modCtx c (fun x => { x with arena := Tbl.del x.arena (addr - x.arenaBase),
                                   regions := x.regions.eraseP (fun g => g.part && g.base == addr) }), 0)
  else (s, callError 2)

/-- A gathered call serves its lanes in order, each with its own argument. -/
def serveLanes (c number : Nat) (f : State → Nat → State × DWord) (s : State) : Host.Outcome State Fault Refusal :=
  eventOpt s ((s.nextCall c number).map (fun k =>
    let out := k.lanes.foldl (fun (a : State × List (Nat × Nat × DWord)) l =>
      let (t, v) := f a.1 l.2.2.toNat
      (t, a.2 ++ [(l.1, l.2.1, v)])) (s, [])
    out.1.answer c k out.2))

def execAlloc (ctx : Nat) (s : State) : Host.Outcome State Fault Refusal := serveLanes ctx 1 (allocLane ctx) s

def execFree (ctx : Nat) (s : State) : Host.Outcome State Fault Refusal := serveLanes ctx 2 (freeLane ctx) s

/-! ## Objects (R406) -/

/-- The physical address of a range whose pages lie together on this device. -/
def State.together (s : State) (c va len : Nat) : Option Nat :=
  match s.vaPlace c va .read with
  | some (.mem pa) =>
    if (spanPoints (s.ctx c) va len).all (fun a => s.vaPlace c a .read == some (.mem (pa + (a - va)))) then some pa else none
  | _ => none

def mapObjectCall (c : Nat) (s : State) (k : Call) : State × DWord :=
  let va := (k.arg 0).toNat
  let size := (k.arg 1).toNat
  let id := (k.arg 2).toNat
  let kind := (k.arg 3).toNat
  let x := s.ctx c
  match x.region va with
  | none => (s, callError 2)
  | some g =>
    if size = 0 || 2 ^ 32 ≤ size || id = 0 || 2 ^ 40 ≤ id || 1 < kind || va % 16 != 0 || g.kind != .device ||
        g.base + g.size < va + size ||
        s.objects.any (fun o => o.home == s.devNum && o.serial == id && o.world == x.world) then (s, callError 2)
    else
      let t := s.fillRange c va size
      match t.together c va size with
      | none => (s, callError 3)
      | some pa =>
        ({ t.addPart c va size with
            objects := t.objects ++ [{ home := s.devNum, serial := id, live := kind == 1, size := size, storage := pa,
                                       world := x.world }] }, 0)

def execMapObject (ctx : Nat) (s : State) : Host.Outcome State Fault Refusal := serve ctx 3 (mapObjectCall ctx) s

/-- The long name at an address. -/
def State.nameAt (s : State) (c va : Nat) : Option Name :=
  match s.vaPlace c va .read with
  | some p => if va % 16 = 0 && s.tagAt p then parseName (BitVec.ofNat 128 (s.natAt p 16)) else none
  | none => none

def evictObjectCall (c : Nat) (s : State) (k : Call) : State × DWord :=
  match s.nameAt c (k.arg 0).toNat with
  | none => (s, callError 2)
  | some n =>
    if n.home = s.devNum || 8 ≤ n.rights then (s, callError 4)
    else
      let w := (s.ctx c).world
      let hits := s.ctxs.flatMap (fun e =>
        if e.2.world = w then (e.2.slots.filter (fun y => y.2.state == 3 && y.2.home == n.home && y.2.serial == n.serial)).map
          (fun y => (e.1, y.1)) else [])
      (hits.foldl (fun s h => s.evictSlot h.1 h.2) s, 0)

def execEvictObject (ctx : Nat) (s : State) : Host.Outcome State Fault Refusal := serve ctx 4 (evictObjectCall ctx) s

/-! ## The owner (R80, R406) -/

/-- R80: the context owner's session: the one that created it, in the opening that did, or the one of its world that opened last. -/
def State.ownerSession (s : State) (c : Nat) : Option Nat :=
  let x := s.ctx c
  let live := fun (e : Nat × Session) => e.2.st == .established
  match x.owner.filter (fun o => (Tbl.at s.mgmt.sessions o.1).any (fun y => y.st == .established && y.opened == o.2)) with
  | some o => some o.1
  | none =>
    let own := s.mgmt.sessions.filter (fun e => live e && e.2.world == some x.world)
    match (own.map (fun e => e.2.opened)).max? with
    | none => none
    | some m => (own.find? (fun e => e.2.opened == m)).map Prod.fst

/-- R406: the bytes go to the owner, and the call is set aside until the reply. -/
def execHostCall (ctx : Nat) (s : State) : Host.Outcome State Fault Refusal :=
  eventOpt s ((s.nextCall ctx 5).map (fun k =>
    let va := (k.arg 0).toNat
    match (s.fillRange ctx va (k.arg 2).toNat).callBytes ctx va (k.arg 1).toNat with
    | none => s.answer ctx k (k.all (callError 2))
    | some (t, bytes) =>
      if !t.rangeOk ctx va (k.arg 2).toNat .write then s.answer ctx k (k.all (callError 2))
      else if (s.ownerSession ctx).isNone then s.answer ctx k (k.all (callError 5))
      else t.modCtx ctx (fun x => { x with ring := x.ring.filter (fun q => q.id != k.id), aside := x.aside ++ [k],
                                           sent := x.sent ++ [(k.id, bytes)] })))

/-- The owner's reply goes to the buffer, at most the reply length that the call gave. -/
def execHostCallReply (ctx call : Nat) (bytes : List Byte) (s : State) : Host.Outcome State Fault Refusal :=
  eventOpt s (((s.ctx ctx).aside.find? (fun k => k.id == call && k.number == 5)).map (fun k =>
    let got := bytes.take (k.arg 2).toNat
    let va := (k.arg 0).toNat
    (s.writeVa ctx va got).answer ctx k (k.all (BitVec.ofNat 64 got.length))))

def printCall (c : Nat) (s : State) (k : Call) : State × DWord :=
  if 4096 < (k.arg 1).toNat then (s, callError 2)
  else
    match s.callBytes c (k.arg 0).toNat (k.arg 1).toNat with
    | none => (s, callError 2)
    | some (t, bytes) => (t.modCtx c (fun x => { x with log := x.log ++ bytes }), 0)

def execPrint (ctx : Nat) (s : State) : Host.Outcome State Fault Refusal := serve ctx 6 (printCall ctx) s

/-! ## Time (R406) -/

/-- Does the whole unit wait in the call? -/
def State.waitsIn (s : State) (k : Call) : Bool :=
  s.unitOf k.blk == [k.blk] && (s.block k.blk).st == .resident &&
    (s.block k.blk).liveLanes.all (fun m => match (s.lane k.blk m.1 m.2).st with | .waiting (.sys id _) => id == k.id | _ => false)

/-- The call is set aside; the block parks when the time is at least the threshold. -/
def execSleep (ctx : Nat) (s : State) : Host.Outcome State Fault Refusal :=
  eventOpt s ((s.nextCall ctx 7).map (fun k =>
    let ns := (k.arg 0).toNat
    let th := (s.ctx ctx).parkThreshold.toNat
    let t := s.modCtx ctx (fun x => { x with ring := x.ring.filter (fun q => q.id != k.id),
                                             aside := x.aside ++ [{ k with till := s.ns + ns }] })
    if th != 0 && decide (1000 * th ≤ ns) && t.waitsIn k then t.parkUnit k.blk false else t))

def execSleepExpiry (ctx call : Nat) (s : State) : Host.Outcome State Fault Refusal :=
  eventOpt s (((s.ctx ctx).aside.find? (fun k => k.id == call && k.number == 7 && decide (k.till ≤ s.ns))).map (fun k =>
    s.answer ctx k (k.all 0)))

def yieldCall (c : Nat) (s : State) (k : Call) : State × DWord :=
  (if (s.block k.blk).st == .resident then s.haltBlock k.blk .saving else s, 0)

def execYieldCore (ctx : Nat) (s : State) : Host.Outcome State Fault Refusal := serve ctx 8 (yieldCall ctx) s

def execQueryTime (ctx : Nat) (s : State) : Host.Outcome State Fault Refusal :=
  serve ctx 9 (fun s k => (s, BitVec.ofNat 64 s.ns)) s

/-! ## Counter regions and channels (R316, R330, R406) -/

/-- The lowest run of words of a die's counter SRAM that no context has. -/
def sramRoom (use : List (Nat × Nat × Nat)) (n : Nat) : Nat → Nat → Option Nat
  | 0, _ => none
  | fuel + 1, a =>
    if 8192 < a + n then none
    else
      match use.find? (fun u => decide (u.2.1 < a + n) && decide (a < u.2.1 + u.2.2)) with
      | none => some a
      | some u => sramRoom use n fuel (u.2.1 + u.2.2)

def counterRegionCall (c : Nat) (s : State) (k : Call) : State × DWord :=
  let n := (k.arg 0).toNat
  let d := (k.arg 1).toNat
  if n = 0 || 8192 < n || 3 < d then (s, callError 2)
  else if !((s.ctx c).world = 0 || (s.diesOf (s.ctx c).world).contains d) then (s, callError 4)
  else
    match sramRoom (s.die d).sramUse n ((s.die d).sramUse.length + 1) 0 with
    | none => (s, callError 3)
    | some a =>
      let va := s.freeVa c (8 * n) 65536
      let keep := fun (w : Nat) => !(decide (a ≤ w) && decide (w < a + n))
      let s := s.modDie d (fun x =>
        { x with sramUse := x.sramUse ++ [(c, a, n)], sram := x.sram.filter (fun e => keep e.1),
                 ctrVec := x.ctrVec.filter (fun e => keep e.1), arrived := x.arrived.filter keep })
      let s := s.addRegion c { base := va, size := 8 * n, page := 65536, r := true, w := true, x := false, kind := .sram,
                               target := some d, addr := a }
      (s.modCtx c (fun x => { x with ctrRegions := x.ctrRegions ++ [{ die := d, first := a, count := n, va := va }] }),
       BitVec.ofNat 64 va)

def execCounterRegion (ctx : Nat) (s : State) : Host.Outcome State Fault Refusal := serve ctx 10 (counterRegionCall ctx) s

/-- Another device of the context's run accepts (24_prog_dispatch.md R459); any other answers as its own Levain does, which the model
leaves open (log 29). -/
def worldChannelCall (c : Nat) (s : State) (k : Call) : State × DWord :=
  let dev := (k.arg 0).toNat
  let base := (k.arg 1).toNat
  let size := (k.arg 2).toNat
  if !isDevice dev || !(dev == s.devNum || (s.ctx c).peers.contains dev || Config.peerAccepts dev (s.ctx c).world base size) then (s, callError 5)
  else
    let s := if dev = s.devNum then s else s.keyFabric (s.ctx c).world
    (s.modCtx c (fun x => { x with channels := x.channels.filter (fun y => y.dev != dev) ++ [{ dev := dev, base := base, size := size }] }), 0)

def execWorldChannel (ctx : Nat) (s : State) : Host.Outcome State Fault Refusal := serve ctx 11 (worldChannelCall ctx) s

/-! ## The end of a context (R395, R406) -/

/-- R406: every block is dropped, and the context is COMPLETE with exited 1 and the code. -/
def execContextExit (ctx : Nat) (s : State) : Host.Outcome State Fault Refusal :=
  eventOpt s ((s.nextCall ctx 12).map (fun k =>
    (s.dropContext ctx).modCtx ctx (fun x =>
      { x with st := .complete, exited := true, code := (k.arg 0).setWidth 32, ring := [], aside := [], replies := [] })))

/-- R408: once no call is in service, the new image runs. -/
def execFirmwareSwitch (s : State) : Host.Outcome State Fault Refusal :=
  eventOpt s (s.mgmt.switch.bind (fun d =>
    if s.ctxs.any (fun e => e.2.inService) then none
    else some { s with
      mgmt := { s.mgmt with levain := d, switch := none, worlds := s.mgmt.worlds.map (fun (e : Nat × WorldRec) =>
        (e.1, { e.2 with images := e.2.images ++ [d] })) } }))

/-- Nothing of the context is under way any more. -/
def State.quiet (s : State) (c : Nat) : Bool :=
  !s.reqs.any (fun r => r.ctx == c) && s.dies.all (fun e => e.2.copyQ.all (fun k => k.ctx != c)) &&
    s.cores.all (fun e => e.2.tileQ.all (fun k => k.ctx != c))

/-- The frames of a context's pages, but those in which the body of a registered object lies: address and size. -/
def State.framesOf (s : State) (c : Nat) : List (Nat × Nat) :=
  ((s.ctx c).regions.flatMap (fun g =>
    if g.part || g.kind != .device then []
    else (pagesOf g.base g.size g.page).filterMap (fun va =>
      match walk s.mem (s.ctx c).ptRoot va with
      | .leaf level e _ => if e.kind == 0 then some (e.addr, leafSize level) else none
      | _ => none))).filter (fun f =>
        !s.objects.any (fun o => o.home == s.devNum && decide (o.storage < f.1 + f.2) && decide (f.1 < o.storage + o.size)))

/-- R395: the context is gone, its resources are freed, and cores that its violations froze run again. -/
def State.teardown (s : State) (c : Nat) : State :=
  let s := (s.note 14 c 0).dropContext c
  let own := fun (d : Die) (w : Nat) => d.sramUse.any (fun u => u.1 == c && decide (u.2.1 ≤ w) && decide (w < u.2.1 + u.2.2))
  { s with
    frames := s.frames ++ s.framesOf c
    ctxs := Tbl.del s.ctxs c
    blocks := s.blocks.filter (fun e => e.2.ctx != c)
    resolutions := s.resolutions.filter (fun r => r.ctx != c)
    departs := s.departs.filter (fun d => d.ctx != c)
    pageFills := s.pageFills.filter (fun p => p.ctx != c)
    invals := s.invals.filter (fun v => v.ctx != c)
    cores := s.cores.map (fun (e : Nat × Core) => (e.1,
      { e.2 with frozenBy := without c e.2.frozenBy, tlb := e.2.tlb.filter (fun t => t.ctx != c),
                 slotCache := e.2.slotCache.filter (fun k => k.1 != c), locks := e.2.locks.filter (fun l => l.ctx != c) }))
    dies := s.dies.map (fun (e : Nat × Die) => (e.1,
      { e.2 with prooferTlb := e.2.prooferTlb.filter (fun t => t.ctx != c), engineTlb := e.2.engineTlb.filter (fun t => t.ctx != c),
                 sramUse := e.2.sramUse.filter (fun u => u.1 != c),
                 sram := e.2.sram.filter (fun w => !own e.2 w.1), ctrVec := e.2.ctrVec.filter (fun w => !own e.2 w.1),
                 arrived := e.2.arrived.filter (fun w => !own e.2 w) })) }.releaseBodies

def execContextTeardown (ctx : Nat) (s : State) : Host.Outcome State Fault Refusal :=
  event s ((s.ctx? ctx).any (fun x => x.st != .live) && s.quiet ctx) (s.teardown ctx)

/-! ## Threshold notifications (R80) -/

/-- The 32 bytes of a message. -/
def noticeBytes (c kern idx value limit ns : Nat) : List Byte :=
  bytesOfNat 1 4 ++ bytesOfNat c 4 ++ bytesOfNat kern 4 ++ bytesOfNat idx 4 ++ bytesOfNat value 4 ++ bytesOfNat limit 4 ++
    bytesOfNat ns 8

/-- A session's state, world and key generation as the journal keeps them. -/
def Session.values (x : Session) : List Nat :=
  [match x.st with
   | .none => 0 | .version => 1 | .capable => 2 | .negotiated => 3 | .exchanged => 4 | .established => 5 | .ended => 6,
   x.world.getD 255, if x.admin then 1 else 0, x.keyGen]

def State.modSession (s : State) (n : Nat) (f : Session → Session) : State :=
  let s := s.record 10 n 0 (f ((Tbl.at s.mgmt.sessions n).getD {})).values
  { s with mgmt := { s.mgmt with sessions := Tbl.upd s.mgmt.sessions n f } }

/-- The ring of a session: session n uses ring n mod 9, ring 0 through BAR0 and ring 1 + h over host link h. -/
def ringOf (n : Nat) : Nat := n % 9

/-- What the journal keeps of a response: a number that a command answers, or the code of a refusal. -/
def Resp.values : Resp → List Nat
  | .done v => [0, v]
  | .refused c => [1, c]
  | .overrun n => [2, n]
  | .notice bs => 3 :: bs.map BitVec.toNat
  | _ => []

/-- A response message of a session: it waits for room in the session's ring. -/
def State.respond (s : State) (n : Nat) (r : Resp) : State :=
  let s := (s.record 11 n (ringOf n) r.values).modSession n (fun x => { x with out := r :: x.out })
  { s with mgmt := { s.mgmt with rings := Tbl.upd s.mgmt.rings (ringOf n) (fun (k : Ring) => { k with pending := k.pending ++ [r] }) } }

def State.modRing (s : State) (n : Nat) (f : Ring → Ring) : State :=
  { s with mgmt := { s.mgmt with rings := Tbl.upd s.mgmt.rings n f } }

/-- Has the session's ring a message that is consumed and not yet carried out? What it says under its cipher comes with its event. -/
def State.hasMessage (s : State) (n : Nat) : Bool := (Tbl.at s.mgmt.rings (ringOf n)).any (fun r => !r.inbox.isEmpty)

/-- The oldest of them is carried out. -/
def State.takeMessage (s : State) (n : Nat) : State := s.modRing (ringOf n) (fun r => { r with inbox := r.inbox.drop 1 })

/-- An event that a message of a session's ring asks for (23_world.md R448, R449). -/
def fromRing (n : Nat) (s : State) (f : State → State) : Host.Outcome State Fault Refusal :=
  event s (s.hasMessage n) (f (s.takeMessage n))

def isThreshold : Msg → Bool
  | .threshold _ _ _ _ _ => true
  | _ => false

/-- Removes the first element that meets a test. -/
def dropFirst {α : Type} (p : α → Bool) : List α → List α
  | [] => []
  | x :: xs => if p x then xs else x :: dropFirst p xs

/-- R80: the message goes to the session that created the context, or else to one bound to its world; while there is none it waits
with the context: DESIGN CHOICE (log 121). -/
def execThresholdNotification (ctx : Nat) (s : State) : Host.Outcome State Fault Refusal :=
  eventOpt s ((s.ownerSession ctx).bind (fun n =>
    match (s.ctx ctx).msgs.find? isThreshold with
    | some (.threshold kern idx value limit ns) =>
      some ((s.modCtx ctx (fun x => { x with msgs := dropFirst isThreshold x.msgs })).respond n
        (.notice (noticeBytes ctx kern idx value limit ns)))
    | _ => none))

end Sys2Proof.Machine
end

