-- ==== Sys2Proof/Machine/Device.lean ====
section
/-!
DEFINITION. Power, boot, leadership, scrubbing and soft errors (01_device.md R18 to R23, 23_world.md R443, R453 to R456,
15_tile.md R289, 16_hypervector.md R298), and requests at a scratchpad's port (10_memory.md R214).
-/

set_option linter.unusedVariables false

namespace Sys2Proof.Machine

/-! ## The throttle (R20 to R22) -/

/-- The latest 1,024 records. -/
def State.logThrottle (s : State) (r : ThrottleRec) : State := { s with throttleLog := (r :: s.throttleLog).take 1024 }

/-- R22: power before temperature, then the lowest die that is too hot. -/
def overCause (power : Nat) (ts : List Nat) : Nat :=
  if 3600 < power then 0 else 1 + (ts.findIdx? (fun t => decide (95 < t))).getD 0

/-- R20: the rule at a window's end, with the package power in whole watts and each die's hottest junction in whole °C: the spec
gives no resolution, and whole numbers are the model's choice (log 95). -/
def throttle (s : State) (power : Nat) (ts : List Nat) : State :=
  let hot := ts.foldl Nat.max 0
  let high := decide (3600 < power) || decide (95 < hot)
  let under := decide (power < 3400) && decide (hot < 90)
  let run := if under then s.underRun + 1 else 0
  if high then
    let new := if 1000 < s.mhz then s.mhz - 250 else s.mhz
    { s.logThrottle { ns := s.ns, old := s.mhz, new := new, cause := overCause power ts } with mhz := new, underRun := 0 }
  else if 100 ≤ run && decide (s.mhz < 4000) then
    { s.logThrottle { ns := s.ns, old := s.mhz, new := s.mhz + 250, cause := 5 } with mhz := s.mhz + 250, underRun := 0 }
  else { s with underRun := run }

/-- The rule is evaluated once in each window of 100 µs, at its end. The event brings what was measured, in whole watts and whole
degrees, which is the model's choice (log 95). -/
def execThrottleWindowEnd (power t0 t1 t2 t3 : Nat) (s : State) : Host.Outcome State Fault Refusal :=
  event s (decide (s.windowSince + 100000 ≤ s.ns))
    { throttle s power [t0, t1, t2, t3] with windowSince := s.ns / 100000 * 100000 }

/-- R23: a trip is reported to the host over the management port, as an error through AER (22_link.md R435; log 95). -/
def execThermalTrip (die : Nat) (s : State) : Host.Outcome State Fault Refusal :=
  event s (decide (die < 4))
    (let t := s.modDie die (fun d => d.count (fun n => { n with trips := n.trips + 1 }))
     let t := t.ctxs.foldl (fun s e => s.freezeCtx e.1 4) t
     { t with tripped := true, mgmt := { t.mgmt with tripLog := t.mgmt.tripLog ++ [(s.ns, die)], aer := t.mgmt.aer + 1 } })

/-! ## Reset, boot and election (R443, R453, R454) -/

/-- A device reset: every register is at its reset value; the bytes of device memory, what lies outside the device, and the
firmware stay (log 30). -/
def State.afterReset (s : State) : State :=
  { State.reset with
    devNum := s.devNum, mem := s.mem, gtags := s.gtags, poison := s.poison, remote := s.remote, remoteTags := s.remoteTags,
    objects := s.objects.filter (fun o => o.home != s.devNum), trayObjs := s.trayObjs, nextId := s.nextId,
    freeCount := s.freeCount, inbox := s.inbox, mgmt := { ({} : Mgmt) with levain := s.mgmt.levain, trayTable := s.mgmt.trayTable } }

/-- After the reset the links whose table entry is not 0 train (22_link.md R420, R422). -/
def trainHosts (s : State) : State :=
  (List.range 8).foldl (fun s h =>
    if Cells.get s.mgmt.trayTable h = 0 then s else s.modLink (64 + h) (fun l => { l with st := .training })) s

def execDeviceReset (s : State) : Host.Outcome State Fault Refusal := .next (trainHosts s.afterReset)

/-- A pair that fails goes OFFLINE, and its die gets no world. -/
def pairReport (s : State) (die : Nat) (ok : Bool) : State :=
  let m := s.mgmt.levain
  if ok && Config.signaturesVerify m then
    s.modDie die (fun d => { d with pair := if s.mgmt.leader.isSome then .follower else .selfTest, images := [m], lastBeat := s.ns })
  else s.modDie die (fun d => { d with pair := .offline, latch := .unassigned, images := if Config.signaturesVerify m then [m] else [] })

def execPairSelfTestComplete (die : Nat) (passed : Bool) (s : State) : Host.Outcome State Fault Refusal :=
  event s (decide (die < 4) && (s.die die).pair == .rom) (pairReport s die passed)

/-- The lowest passing die, once all four pairs have reported or 100 ms have passed. -/
def State.elects (s : State) : Option Nat :=
  if s.mgmt.leader.isSome then none
  else if [0, 1, 2, 3].all (fun d => (s.die d).pair != .rom) || decide (100000000 ≤ s.ns) then
    [0, 1, 2, 3].find? (fun d => (s.die d).pair == .selfTest)
  else none

/-- The leader opens the session rings: ring 0 through BAR0 and ring 1 + h to host link h (R449; log 37). -/
def openRings (s : State) : State :=
  if s.mgmt.rings.isEmpty then
    (List.range 9).foldl (fun s n =>
      let (a, s) := s.takeLevain (2 ^ 21) (2 ^ 21)
      { s with mgmt := { s.mgmt with rings := s.mgmt.rings ++
          [(n, ({ base := a, link := if n = 0 then none else some (n - 1), tail := 0, pending := [], head := 0, overrun := false } : Ring))] } }) s
  else s

def elect (s : State) (l : Nat) : State :=
  let s := openRings { s with mgmt := { s.mgmt with leader := some l } }
  [0, 1, 2, 3].foldl (fun s d =>
    if (s.die d).pair = .selfTest then
      s.modDie d (fun x => { x with pair := if d = l then .leader else .follower, lastBeat := s.ns })
    else s) s

def execLeaderElectionTimeout (s : State) : Host.Outcome State Fault Refusal := eventOpt s (s.elects.map (elect s))

/-! ## Heartbeats and takeover (R455) -/

def State.beatDue (s : State) (die : Nat) : Bool :=
  (s.die die).pair.running && decide ((s.die die).lastBeat + 100000 ≤ s.ns)

def execPairHeartbeat (die : Nat) (s : State) : Host.Outcome State Fault Refusal :=
  event s (s.beatDue die) (s.modDie die (fun d => { d with lastBeat := s.ns }))

/-- The pair that a pair watches: the nearest before it in ring order that runs, or has stopped and is not yet fenced. -/
def State.watched (s : State) (die : Nat) : Option Nat :=
  [3, 2, 1].findSome? (fun k =>
    let d := (die + k) % 4
    if (s.die d).pair.running || (s.die d).pair == .stopped then some d else none)

/-- The target that a watcher has seen miss four beats in a row, if it has not asked yet. -/
def State.missed (s : State) (watcher : Nat) : Option Nat :=
  if !(s.die watcher).pair.running then none
  else
    (s.watched watcher).filter (fun d => decide ((s.die d).lastBeat + 400000 ≤ s.ns) && !s.mgmt.fences.contains (watcher, d))

def execHeartbeatMissed (watcher : Nat) (s : State) : Host.Outcome State Fault Refusal :=
  eventOpt s ((s.missed watcher).map (fun d => { s with mgmt := { s.mgmt with fences := s.mgmt.fences ++ [(watcher, d)] } }))

/-- R456: the pair that takes call rings over reads the journal. A call with a journalled reply keeps it, to be written if it is not
yet; one that was in service without is run again. -/
def Context.takenOver (journal : List JournalRec) (c : Nat) (x : Context) : Context :=
  let done := fun (k : Call) => journal.any (fun r => r.kind == 15 && r.a == c && r.b == k.id)
  { x with replies := x.replies.filter done, aside := x.aside.filter done,
           ring := (x.replies ++ x.aside).filter (fun k => !done k) ++ x.ring }

/-- The target is fenced, and the asker takes over its duties: the call rings, and leadership when the target had it. A follower then is
the leader (R454). -/
def fence (s : State) (asker target : Nat) : State :=
  let lead := s.mgmt.leader == some target
  let s := s.modDie target (fun d => { d with pair := .fenced })
  let duties := target :: (s.die target).serves
  let s := s.modDie asker (fun d =>
    { d with serves := d.serves ++ duties, pair := if lead && d.pair == .follower then .leader else d.pair })
  let s := { s with
    mgmt := { s.mgmt with leader := if lead then some asker else s.mgmt.leader }
    ctxs := s.ctxs.map (fun (e : Nat × Context) =>
      (e.1, if duties.contains e.2.ringDie then e.2.takenOver s.mgmt.journal e.1 else e.2)) }
  s.note 2 asker target

/-- Requests are taken in arrival order; one from a fenced pair, or for one that is fenced, is refused. -/
def execFenceRequest (asker target : Nat) (s : State) : Host.Outcome State Fault Refusal :=
  event s (s.mgmt.fences.head? == some (asker, target))
    (let t := { s with mgmt := { s.mgmt with fences := s.mgmt.fences.drop 1 } }
     if (s.die asker).pair == .fenced || (s.die target).pair == .fenced || (s.die target).pair == .offline then t
     else fence t asker target)

def execPairLockstepMismatch (die : Nat) (s : State) : Host.Outcome State Fault Refusal :=
  event s (s.die die).pair.running (s.modDie die (fun d => { d with pair := .stopped }))

/-! ## Scrubbing (R443) -/

/-- Memory zeroed for another owner: no die keeps a copy of a line of it. -/
def State.scrubRange (s : State) (pa size : Nat) : State := (s.freshRange pa size).zero pa size

/-- The regions of a die that the firewall gives to a world. -/
def State.worldRegions (s : State) (die w : Nat) : List Nat :=
  (s.mgmt.firewall.filter (fun e => e.1 / 256 == die && e.2.toNat % 16 == w)).map Prod.fst

/-- Has everything of the world drained? -/
def State.drained (s : State) (w : Nat) : Bool :=
  s.ctxs.all (fun e => e.2.world != w) && !s.reqs.any (fun r => r.world == w) &&
    s.cores.all (fun e => e.2.tileQ.all (fun c => c.world != w)) && s.dies.all (fun e => e.2.copyQ.all (fun c => c.world != w))

def scrubDone (s : State) (die w : Nat) : State :=
  let rs := s.worldRegions die w
  let s := s.note 16 die w
  let s := rs.foldl (fun s r => s.scrubRange (r * 2 ^ 30) (2 ^ 30)) s
  let s := s.modDie die (fun d => { d with latch := .unassigned, sram := [], ctrVec := [], arrived := [], sramUse := [] })
  let gone := fun (storage : Nat) => rs.contains (storage / 2 ^ 30)
  { s with
    objects := s.objects.filter (fun o => !(o.home == s.devNum && gone o.storage))
    replicasObj := s.replicasObj.filter (fun r => !gone r.storage)
    cores := s.cores.map (fun (e : Nat × Core) => (e.1, if dieOfCore e.1 = die then { e.2 with bstore := [], owner := [], icache := [], loopBuf := [] } else e.2))
    mgmt := { s.mgmt with firewall := s.mgmt.firewall.filter (fun e => !rs.contains e.1) } }

def State.scrubs (s : State) (die : Nat) : Option Nat :=
  match (s.die die).latch with
  | .scrubbing w => if s.drained w then some w else none
  | _ => none

def execScrubComplete (die : Nat) (s : State) : Host.Outcome State Fault Refusal :=
  eventOpt s ((s.scrubs die).map (scrubDone s die))

/-! ## Soft errors (R163, R289, R298, R409) -/

def clearBits {n : Nat} (lo len : Nat) (x : BitVec n) : BitVec n := x &&& ~~~(BitVec.ofNat n ((2 ^ len - 1) * 2 ^ lo))

/-- What is struck in a hypervector slot: h0 to h15, the tie vector, or an accumulator. -/
def strikeHyper (g : Group) (h lo len : Nat) : Group :=
  if h < 16 then { g with h := Cells.set g.h h (clearBits lo len (Cells.get g.h h)) }
  else if h = 16 then { g with htie := clearBits lo len g.htie }
  else { g with acc := Cells.set g.acc (h - 17) (clearBits lo len (Cells.get g.acc (h - 17))) }

def State.countSram (s : State) (die : Nat) : State := s.modDie die (fun d => d.count (fun n => { n with sramUncorrected := n.sramUncorrected + 1 }))

/-- The affected bits or bytes read zero, and the loss is counted in the context; in device memory it is counted when the
granule is read. A group's slot is struck only while it is bound (R298). A decombining record that is lost leaves the slow path
(17_counter.md R337). An error that is corrected is counted, and no more. -/
def softError (s : State) : SoftTarget → State
  | .hyper b g h lo len =>
    let x := s.block b
    if !(s.residents x.core).any (fun e => e.1 == b) || !(s.blockKern x).hyper then s
    else ((s.modGroup b g (fun g => strikeHyper g h lo len)).countSram (dieOfCore x.core)).loseData x.ctx
  | .accum b t lo len =>
    let x := s.block b
    if (s.block? b).isNone then s
    else ((s.modBlock b (fun y => { y with tiles := y.tiles.filter (fun e => !(decide (16384 * t + lo ≤ e.1) && decide (e.1 < 16384 * t + lo + len))) })).countSram
      (dieOfCore x.core)).loseData x.ctx
  | .bstore c line col =>
    let k := s.core c
    let t := (s.modCore c (fun k => { k with bstore := k.bstore.filter (fun e => !(e.1 / 131072 == col && e.1 % 131072 / 64 == line)) })).countSram
      (dieOfCore c)
    match Tbl.at k.owner line with
    | some b => t.loseData (s.block b).ctx
    | none => t
  | .dram a =>
    let g := a / 16
    let t := s.zero (16 * g) 16
    { t.modDie (dieOfAddr a) (fun d => d.count (fun n => { n with dramUncorrected := n.dramUncorrected + 1 })) with
      poison := insertNat g t.poison }
  | .record k rcd =>
    let st := s.station k
    if st.records.any (fun e => e.id == rcd && !e.slow) then
      ((s.setStation k { st with records := st.records.map (fun (e : StEntry) => if e.id == rcd then { e with slow := true } else e) }).countSram
        (dieOfStation k)).modDie (dieOfStation k) (fun d => d.count (fun n => { n with combLost := n.combLost + 1 }))
    else s
  | .dramCorrected d => s.modDie (d % 4) (fun x => x.count (fun n => { n with dramCorrected := n.dramCorrected + 1 }))
  | .sramCorrected d => s.modDie (d % 4) (fun x => x.count (fun n => { n with sramCorrected := n.sramCorrected + 1 }))

def execUncorrectableSoftError (t : SoftTarget) (s : State) : Host.Outcome State Fault Refusal := .next (softError s t)

/-! ## A scratchpad's port (R214) -/

def scratchpadRequest (s : State) (r : Req) : Option State :=
  match r.place with
  | .rsp _ _ => if r.performed || !s.free r then none else some (s.performReq r)
  | _ => none

def execRemoteScratchpadRequest (req : Nat) (s : State) : Host.Outcome State Fault Refusal :=
  eventOpt s ((s.req? req).bind (scratchpadRequest s))

end Sys2Proof.Machine
end

