-- ==== Sys2Proof/Machine/Links.lean ====
section
/-!
DEFINITION. The event rows of links: flits and replays, dropped packets, link states, host requests, the exported-pool
arbiter and the fabric (22_link.md R418 to R434, 23_world.md R446, R447).
-/

set_option linter.unusedVariables false

namespace Sys2Proof

/-- Bytes that a packet touches at its address. -/
def FabricOp.size : FabricOp → Nat
  | .read n => n
  | .write bs => bs.length
  | .atomic _ ty _ | .cas ty _ _ | .combined ty _ => ty.bits / 8
  | .kcas n _ _ => 8 * (n.toNat + 1)
  | .kenq _ | .kdeq => 16
  | .kchase _ key => if key.isSome then 24 else 16
  | .session _ | .void => 0

def FabricOp.needs : FabricOp → List Machine.Need
  | .read _ => [.read]
  | .write _ | .kcas _ _ _ | .kenq _ | .kdeq | .kchase _ _ => [.write]
  | .atomic _ _ _ | .cas _ _ _ | .combined _ _ => [.read, .write]
  | .session _ | .void => []

/-- The messages by which two Levains open their session come in world 0, under keys of that session's own (23_world.md R446). -/
def FabricOp.opens : FabricOp → Bool
  | .session _ => true
  | _ => false

/-- Does a packet touch memory? -/
def FabricOp.touches : FabricOp → Bool
  | .session _ | .void => false
  | _ => true

namespace Machine

/-! ## Drops (R418, R419, R434) -/

/-- A dropped packet is counted, on its link and in the die's counter of dropped packets; the links stand in the base die,
whose counters are those of die 0 (log 32). -/
def State.countDrop (s : State) (n : Nat) : State :=
  (s.modLink n (fun l => { l with drops := l.drops + 1, dropTimes := (s.ns :: l.dropTimes).take 16 })).modDie 0
    (fun d => d.count (fun k => { k with dropped := k.dropped + 1 }))

/-- A command's packet is dropped: no further bytes of its message move, and it counts as data loss (17_counter.md R332). -/
def State.loseMessage (s : State) (c : CopyCmd) (msg : Nat) : State := (s.voidMessage c msg).loseData c.ctx

/-- A constituent of a combined packet ends as a request or a command of its own kind does (17_counter.md R339). -/
def State.loseLeaf (s : State) (l : Leaf) : State :=
  if l.cmd then
    match s.cmdOf l.tag with
    | some c => (s.updCmd c.id (fun c => { c with packets := without l.tag c.packets })).loseData c.ctx
    | none => s
  else s.loseReq l.tag

/-- A packet of a flow is dropped: what it carried ends as R419 gives, and a void marker with its sequence number takes its place and
goes onto its link. -/
def State.dropPacket (s : State) (p : Packet) : State :=
  let s := s.countDrop (s.firstLink p)
  let s := match p.req, p.cmd.bind s.cmd? with
    | some id, _ => s.loseReq id
    | none, some c => s.loseMessage c p.msg
    | none, none => p.leaves.foldl State.loseLeaf s
  { s with packets := s.packets.map (fun (q : Packet) => if q.id == p.id then p.voided else q) }.dropFlits (.packet p.id) |>.ontoLink p.voided

/-- What a flit of a link is part of is dropped by its sender, this device (R418, R419): a packet, a request to a host tray, or the
answer to one of a host or of another device, which never reaches it. -/
def State.dropSent (s : State) (n : Nat) (what : FlitOf) : State :=
  match what with
  | .packet id =>
    (match s.packets.find? (fun p => p.id == id) with
     | some p => s.dropPacket p
     | none => s.dropFlits what)
  | .request id => ((s.countDrop n).loseReq id).dropFlits what
  | .answer tag => ((s.countDrop n).modLink n (fun l => { l with answers := l.answers.filter (fun x => x.tag != tag) })).dropFlits what
  | .reply _ _ _ _ => (s.countDrop n).dropFlits what

/-- A request whose answer is dropped by the far end: it is performed, and completes with zeros. -/
def State.replyLost (s : State) (id : Nat) : State :=
  match s.req? id with
  | some r => ((if !r.performed && s.free r then (s.performFar r).getD s else s)).loseReq id
  | none => s

/-- A packet whose answer is dropped by the far end: what it carried was performed there, and ends as R419 and R332 give. -/
def State.answerLost (s : State) (p : Packet) : State :=
  match p.req, p.cmd.bind s.cmd? with
  | some id, _ => s.replyLost id
  | none, some c =>
    let t := if c.op == .nrd then s else packetEffect s c p
    let t := t.updCmd c.id (fun c => { c with got := if c.op == .nrd then c.got else c.got.map (fun _ => 0) })
    ((t.packetGone p.id).packetBack c.id p.id).loseMessage c p.msg
  | none, none => p.leaves.foldl (fun s l => (performLeaf s p l).loseLeaf l) (s.packetGone p.id)

/-- The answer that a packet from a link brings, and that is dropped (R447): of the fabric packet of that identity, or of the request to
a host tray of that tag. -/
def State.inboundLost (s : State) (link : Nat) (answers : Option Nat) : State :=
  match answers with
  | none => s
  | some k =>
    if link < 48 then ((s.packets.find? (fun p => p.id == k && !p.void && p.dst != s.devNum)).map s.answerLost).getD s
    else (((s.link link).outbound.find? (fun h => h.tag == k)).map (fun h => s.replyLost h.req)).getD s

/-! ## Flits (R418, R447) -/

/-- A good flit is acknowledged; one that fails its CRC, or is out of sequence, is answered by a replay request. A packet whose tag
fails is dropped, with what it answers of this device, and the link's key of its world is retired. -/
def execFlitReceive (link seq world : Nat) (crcOk : Bool) (tag : FlitTag) (s : State) : Host.Outcome State Fault Refusal :=
  event s (isLink link && (s.link link).healthy)
    (if crcOk && (s.link link).rxSeq == seq then
       let t := s.modLink link (fun l => { l with rxSeq := (l.rxSeq + 1) % 2 ^ 32, acks := l.acks + 1 })
       match tag with
       | .good => t
       | .bad answers => ((t.inboundLost link answers).countDrop link).modLink link (fun l =>
           { l with keys := Tbl.del l.keys world, retired := insertNat world l.retired })
     else s.modLink link (fun l => { l with asks := l.asks + 1 }))

/-- The flits of a link that are replayed from one on. -/
def Link.fromSeq (l : Link) (seq : Nat) : List Flit := l.flits.dropWhile (fun f => f.seq != seq)

/-- The flits before the one named stay as they are, and the others have been replayed once more. -/
def Link.replay (l : Link) (seq : Nat) : Link :=
  { l with flits := l.flits.takeWhile (fun f => f.seq != seq) ++ (l.fromSeq seq).map (fun (f : Flit) => { f with replays := f.replays + 1 }),
           replays := l.replays + (l.fromSeq seq).length }

/-- The sender replays from a flit onward; what has a flit that has been replayed eight times is dropped. -/
def execReplayRequest (link seq : Nat) (s : State) : Host.Outcome State Fault Refusal :=
  event s (isLink link && (s.link link).healthy)
    (let again := (s.link link).fromSeq seq
     let t := (s.modLink link (fun l => l.replay seq)).modDie 0
       (fun d => d.count (fun k => { k with flitRetries := k.flitRetries + again.length }))
     (((again.filter (fun f => decide (8 ≤ f.replays + 1))).map Flit.what).eraseDups).foldl (fun s w => s.dropSent link w) t)

/-! ## Link states (R420 to R422) -/

/-- A link that ignores every event: link 47 of an absolute point, and a host link whose table entry is 0. -/
def State.linkDead (s : State) (n : Nat) : Bool :=
  !isLink n || (n == 47 && absolutePoint s.devNum) || (decide (64 ≤ n) && Cells.get s.mgmt.trayTable (n - 64) == 0)

/-- What the far end of a link must report. -/
def State.expected (s : State) (n : Nat) : Nat :=
  if n < 48 then (neighbours s.devNum).getD n 0 else (Cells.get s.mgmt.trayTable (n - 64)).toNat

/-- A change of state is logged. -/
def State.linkTo (s : State) (n : Nat) (st : LinkSt) (f : Link → Link) : State :=
  let s := s.modLink n (fun l => f { l with st := st })
  { s with mgmt := { s.mgmt with linkLog := s.mgmt.linkLog ++ [({ ns := s.ns, link := n, st := st } : LinkRec)] } }

/-- R434: a packet is back at its source: it leaves again through a fresh intermediate, or is dropped at its eighth return. -/
def State.returnPacket (s : State) (p : Packet) : State :=
  if 8 ≤ p.returns + 1 then s.dropPacket p
  else
    let (via, s) := s.drawVia p.dst
    let q := { p with via := via, returns := p.returns + 1 }
    { s with packets := s.packets.map (fun (x : Packet) => if x.id == p.id then q else x) }.dropFlits (.packet p.id) |>.ontoLink q

/-- A reply of this device to another goes onto the first link of the route that its source chooses, or of a given one (R432); how often it
has come back goes with it. -/
def State.putReply (s : State) (src world seq returns flits : Nat) (via : Option Nat) : State :=
  s.modLink (minimalRoute s.devNum (via.getD src)).first (fun l => (l.sentUnder world).putFlits (.reply src world seq returns) flits)

/-- R434: a reply is back at its source, this device, as a packet is. -/
def State.returnReply (s : State) (n : Nat) (l : Link) (what : FlitOf) : State :=
  match what with
  | .reply src world seq r =>
    if 8 ≤ r + 1 then s.countDrop n
    else
      let (via, s) := s.drawVia src
      s.putReply src world seq (r + 1) (l.flits.filter (fun f => f.what == what)).length via
  | _ => s

/-- R421: a link leaves a healthy state. Packets and replies on a fabric link return; over a host link what is outstanding is lost, in
both directions. -/
def State.linkDown (s : State) (n : Nat) : State :=
  let t := s.linkTo n .down (fun l => { l with peer := 0, dropTimes := [], flits := [], inUnits := 0 })
  if n < 48 then
    let t := (s.packets.filter (fun p => !p.void && p.dst != s.devNum && s.firstLink p == n)).foldl (fun t p => t.returnPacket p) t
    (((s.link n).flits.map Flit.what).eraseDups).foldl (fun t w => t.returnReply n (s.link n) w) t
  else
    (s.link n).outbound.foldl (fun t h => t.loseReq h.req)
      { t with mgmt := { t.mgmt with arbiter := { t.mgmt.arbiter with wait := t.mgmt.arbiter.wait.filter (fun u => u.link != n) } } }

def execLinkRetrainOrder (link : Nat) (s : State) : Host.Outcome State Fault Refusal :=
  event s (!s.linkDead link && (s.link link).st == .down) (s.linkTo link .training (fun l => { l with since := s.ns, failed := 0 }))

/-- Both ports have trained; the peer must be the one expected, and a wrong one is counted. -/
def execLinkTrained (link peer : Nat) (s : State) : Host.Outcome State Fault Refusal :=
  event s (!s.linkDead link && (s.link link).st == .training)
    (if peer = s.expected link then s.linkTo link .up (fun l => { l with peer := peer, failed := 0 })
     else s.linkTo link .down (fun l => { l with wrongPeers := l.wrongPeers + 1 }))

/-- 100 ms without success. -/
def State.trainingOver (s : State) (n : Nat) : Bool :=
  !s.linkDead n && (s.link n).st == .training && decide ((s.link n).since + 100000000 ≤ s.ns)

def execLinkTrainingTimeout (link : Nat) (s : State) : Host.Outcome State Fault Refusal :=
  event s (s.trainingOver link) (s.linkTo link .down id)

def execLinkPortFail (link : Nat) (s : State) : Host.Outcome State Fault Refusal :=
  event s (!s.linkDead link && (s.link link).healthy)
    (if (s.link link).st = .up then s.linkTo link .half (fun l => { l with failed := 1 })
     else (s.linkDown link).modLink link (fun l => { l with failed := 2 }))

def execLinkPortRetrained (link : Nat) (s : State) : Host.Outcome State Fault Refusal :=
  event s (!s.linkDead link && (s.link link).st == .half) (s.linkTo link .up (fun l => { l with failed := 0 }))

/-- 16 packets dropped within 1 ms. -/
def State.dropBurst (s : State) (n : Nat) : Bool :=
  let ts := (s.link n).dropTimes
  !s.linkDead n && (s.link n).healthy && ts.length == 16 && decide (ts.getD 0 0 ≤ ts.getD 15 0 + 1000000)

def execLinkDropBurst (link : Nat) (s : State) : Host.Outcome State Fault Refusal := event s (s.dropBurst link) (s.linkDown link)

/-- R422: an administration command, in a session of BAR0's ring with mutual authentication. -/
def trayUpdate (s : State) (link domain : Nat) : State :=
  let s := s.note 3 link domain
  let s := { s with mgmt := { s.mgmt with trayTable := Cells.set s.mgmt.trayTable link (BitVec.ofNat 24 domain) } }
  let s := if (s.link (64 + link)).healthy then s.linkDown (64 + link) else s.linkTo (64 + link) .down id
  if domain = 0 then s else s.linkTo (64 + link) .training (fun l => { l with since := s.ns, failed := 0 })

def State.isAdmin (s : State) (n : Nat) : Bool :=
  (Tbl.at s.mgmt.sessions n).any (fun x => x.st == .established && x.admin) && ringOf n == 0

def execHostTrayTableUpdate (session link domain : Nat) (s : State) : Host.Outcome State Fault Refusal :=
  let taken := domain != 0 && (List.range 8).any (fun h => h != link && (Cells.get s.mgmt.trayTable h).toNat == domain)
  fromRing session s (fun s =>
    if s.isAdmin session && decide (link < 8) && !taken && (domain == 0 || (decide (0x100000 ≤ domain) && decide (domain ≤ 0xFFFFFF))) then
      (trayUpdate s link domain).respond session (.done 0)
    else if (Tbl.at s.mgmt.sessions session).any (fun x => x.st == .established) then s.respond session (.refused 0xFF04)
    else s)

/-! ## Inbound host requests (R423 to R427) -/

def InKind.size : InKind → Nat
  | .read n => n
  | .write bs _ => bs.length
  | .atomic _ ty _ => tySize ty
  | .raise _ => 8

def InKind.writes : InKind → Bool
  | .read _ => false
  | _ => true

/-- The pool entry through which a link reaches an address for a world, with its context; none stands for the CXL path. -/
def State.poolEntry (s : State) (link : Option Nat) (world a n : Nat) : Option (Nat × PoolEntry) :=
  s.ctxs.findSome? (fun e =>
    if e.2.world = world then
      (e.2.pool.find? (fun p => p.link == link && decide (p.base ≤ a) && decide (a + n ≤ p.base + p.size))).map (fun p => (e.1, p))
    else none)

/-- Do the regions of a range let a world's inbound requests in (23_world.md R444)? -/
def State.hostOpen (s : State) (a n : Nat) : Bool := (regionsOf a n).all (fun r => s.regionOpen (r * 2 ^ 30))

/-- The ring opened to a link, or to BAR0, that a range lies in: 2 MiB each (R449). -/
def State.ringAt (s : State) (link : Option Nat) (a n : Nat) : Option Nat :=
  (s.mgmt.rings.find? (fun r => r.2.link == link && decide (r.2.base ≤ a) && decide (a + n ≤ r.2.base + 2 ^ 21))).map Prod.fst

/-- An answer goes onto its link; those of CXL and BAR2 have none. -/
def State.answerHost (s : State) (n : Nat) (x : Answer) : State :=
  s.modLink n (fun l =>
    let l := { l with answers := x :: l.answers }
    if isLink n then l.putFlits (.answer x.tag) (1 + (((x.data.getD []).length + 63) / 64)) else l)

/-- The units of a request (R424). -/
def InKind.units (k : InKind) : Nat := Nat.max 1 ((k.size + 63) / 64)

/-- The request waits for its turn, unit by unit. -/
def State.queueIn (s : State) (u : PoolUnit) : State :=
  let n := u.kind.units
  let us := (List.range n).map (fun i => { u with last := i + 1 == n })
  let s := { s with mgmt := { s.mgmt with arbiter := { s.mgmt.arbiter with wait := s.mgmt.arbiter.wait ++ us } } }
  s.modLink u.link (fun l => { l with inUnits := l.inUnits + n })

/-- R426: outside its allowance the request gets an error reply, and the port is closed to its world. -/
def State.hostBreach (s : State) (n world tag : Nat) : State :=
  ((s.answerHost n { tag := tag, data := none }).modLink n (fun l => { l with frozenWorlds := insertNat world l.frozenWorlds })).countViolation 0

/-- Does a raise name a whole word, and do the bytes lie in one 256-byte block? -/
def hostShape (a : Nat) (k : InKind) : Bool :=
  decide (1 ≤ k.size) && decide (k.size ≤ 256) && decide (a % 256 + k.size ≤ 256) &&
  (match k with
   | .raise _ => a % 8 == 0
   | .atomic _ ty _ => a % tySize ty == 0
   | .write bs es => es.length == bs.length
   | .read _ => true)

/-- An inbound request of a host: its tag is free again, so that no answer under it is still on its way (log 104); refused by a frozen
port; lost when it comes under no key (R447); otherwise it waits for its
turn. A ring's messages have keys of their own, so its requests need none of the link's (log 33). -/
def hostRequest (s : State) (h world tag addr : Nat) (k : InKind) : State :=
  let n := 64 + h
  let l := s.link n
  let u : PoolUnit := { cls := 4, weight := 1, link := n, world := world, tag := tag, addr := addr, kind := k, last := false }
  if 8 ≤ h || !l.healthy || !hostShape addr k || 16384 < l.inUnits + (k.size + 63) / 64 then s
  else
  let s := s.modLink n (fun l => l.dropFlits (.answer tag))
  if l.frozenWorlds.contains world then s.answerHost n { tag := tag, data := none }
  else if (s.ringAt (some h) addr k.size).isSome then s.queueIn u
  else if l.retired.contains world || (Tbl.at l.keys world).isNone then s
  else
    let s := s.modLink n (fun l => { l with keys := Tbl.upd l.keys world (fun k => (k.1, k.2 + 1)) })
    match s.poolEntry (some h) world addr k.size with
    | some (_, p) =>
      if s.hostOpen addr k.size && s.port world (.mem addr) == .pass then s.queueIn { u with cls := p.cls, weight := p.weight }
      else s.hostBreach n world tag
    | none => s.hostBreach n world tag

def execHostRead (link world tag addr len : Nat) (s : State) : Host.Outcome State Fault Refusal :=
  .next (hostRequest s link world tag addr (.read len))

def execHostWrite (link world tag addr : Nat) (bytes : List Byte) (enables : List Bool) (s : State) :
    Host.Outcome State Fault Refusal :=
  .next (hostRequest s link world tag addr (.write bytes enables))

def execHostAtomic (link world tag addr : Nat) (op : AtomOp) (ty : Ty) (x : BitVec 64) (s : State) :
    Host.Outcome State Fault Refusal :=
  .next (hostRequest s link world tag addr (.atomic op ty x))

def execHostRaise (link world tag addr : Nat) (inc : BitVec 64) (s : State) : Host.Outcome State Fault Refusal :=
  .next (hostRequest s link world tag addr (.raise inc))

/-! ## Performing them (R206, R423, R425) -/

/-- The enabled bytes of a write, each with its address. -/
def enabledCells (a : Nat) (bs : List Byte) (es : List Bool) : List (Nat × Byte) :=
  (List.range bs.length).filterMap (fun i => if es.getD i false then some (a + i, bs.getD i 0) else none)

/-- A request from outside performed at its homes, for the context that exports the memory, if any; what it reads. -/
def performIn (s : State) (owner : Option Nat) (a : Nat) (k : InKind) : State × List Byte :=
  let p := Place.mem a
  let s := s.flush p k.size
  let loss := fun (s : State) => match owner with
    | some c => s.readLoss c p k.size
    | none => s
  match k with
  | .read n => (loss s, s.bytesAt p n)
  | .write bs es => (s.commitLines (enabledCells a bs es) {}, [])
  | .raise inc =>
    let old := s.natAt p 8
    ((s.commitMem a (bytesOfNat (old + inc.toNat) 8) false {}).1, [])
  | .atomic op ty x =>
    let n := tySize ty
    let old := s.natAt p n
    let (new, _) := atomNew op ty old (x.toNat % 2 ^ (8 * n))
    (((loss s).commitMem a (bytesOfNat new n) false {}).1, bytesOfNat old n)

/-- The last unit of a request has had its turn: the request is performed and answered, and its units of the window are free. It is
turned away if the memory has left the pool since it came. An uncorrectable read by CXL is zeros in a response marked poisoned
(R438). -/
def finishIn (s : State) (u : PoolUnit) : State :=
  let s := s.modLink u.link (fun l => { l with inUnits := l.inUnits - u.kind.units })
  let own := (s.poolEntry (if u.link = 72 then none else some (u.link - 64)) u.world u.addr u.kind.size).map Prod.fst
  if u.cls != 4 && (own.isNone || s.port u.world (.mem u.addr) != .pass) then s.answerHost u.link { tag := u.tag, data := none }
  else
    let bad := s.struck u.addr u.kind.size && !u.kind.writes
    let (t, bytes) := performIn s (if u.cls = 4 then none else own) u.addr u.kind
    let poisoned := u.link == 72 && bad
    t.answerHost u.link { tag := u.tag, data := some (if poisoned then bytes.map (fun _ => 0) else bytes), poisoned := poisoned }

/-! ## The arbiter (R428) -/

/-- The lines that a unit's request touches. -/
def PoolUnit.lines (u : PoolUnit) : Nat × Nat := (u.addr / 64, (u.addr + Nat.max u.kind.size 1 - 1) / 64)

/-- May a waiting unit be served: does no earlier unit of its link stand before it, a write before a write or a raise, or any to
the same line (R425)? -/
def unitFree (ahead : List PoolUnit) (u : PoolUnit) : Bool :=
  !ahead.any (fun v => v.link == u.link && v.tag != u.tag &&
    ((v.kind.writes && u.kind.writes) || (decide (v.lines.1 ≤ u.lines.2) && decide (u.lines.1 ≤ v.lines.2))))

/-- The place of the oldest waiting unit of a class, when it may be served: a class is served in arrival order. -/
def Arbiter.ready (a : Arbiter) (cls : Nat) : Option Nat :=
  ((List.range a.wait.length).find? (fun i => (a.wait[i]?).any (fun u => u.cls == cls))).filter (fun i =>
    (a.wait[i]?).any (unitFree (a.wait.take i)))

/-- Deficit round robin: the class whose turn it is while it has credit, otherwise the next one, with its weight. -/
def drr (a : Arbiter) : Nat → Option (Nat × Arbiter)
  | 0 => none
  | fuel + 1 =>
    match a.ready a.turn with
    | some i =>
      if 0 < a.credit then some (i, { a with credit := a.credit - 1 })
      else
        let t := a.turn % 3 + 1
        drr { a with turn := t, credit := ((a.ready t).bind (fun j => (a.wait[j]?).map PoolUnit.weight)).getD 0 } fuel
    | none =>
      let t := a.turn % 3 + 1
      drr { a with turn := t, credit := ((a.ready t).bind (fun j => (a.wait[j]?).map PoolUnit.weight)).getD 0 } fuel

/-- The unit that the next slot serves. Requests to rings pass at once; class 0 has its capped priority. -/
def Arbiter.pick (a : Arbiter) : Option (Nat × Arbiter) :=
  match a.ready 4 with
  | some i => some (i, a)
  | none =>
    let others := [1, 2, 3].any (fun c => (a.ready c).isSome)
    match a.ready 0 with
    | some i =>
      if 5 * a.served0 < a.served + 5 || !others then some (i, { a with served := a.served + 1, served0 := a.served0 + 1 })
      else (drr a 5).map (fun x => (x.1, { x.2 with served := x.2.served + 1 }))
    | none => (drr a 5).map (fun x => (x.1, { x.2 with served := x.2.served + 1 }))

/-- One unit is served; a class with nothing waiting keeps no credit. -/
def serveUnit (s : State) : Option State :=
  s.mgmt.arbiter.pick.bind (fun x =>
    (x.2.wait[x.1]?).map (fun u =>
      let rest := x.2.wait.eraseIdx x.1
      let credit := if rest.any (fun v => v.cls == x.2.turn) then x.2.credit else 0
      let s := { s with mgmt := { s.mgmt with arbiter := { x.2 with wait := rest, credit := credit } } }
      if u.last then finishIn s u else s))

def execPoolUnitServe (s : State) : Host.Outcome State Fault Refusal := eventOpt s (serveUnit s)

def State.windowOver (s : State) : Bool := decide (s.mgmt.arbiter.since + 1000 ≤ s.ns)

def execPoolArbiterWindowEnd (s : State) : Host.Outcome State Fault Refusal :=
  event s s.windowOver
    { s with mgmt := { s.mgmt with arbiter := { s.mgmt.arbiter with served := 0, served0 := 0, since := s.ns } } }

/-! ## Outbound host requests (R423 to R425) -/

/-- The tray's reply to a request of this device: its access is performed there, and the reply is delivered. -/
def hostReply (s : State) (link tag : Nat) : Option State :=
  ((s.link (64 + link)).outbound.find? (fun h => h.tag == tag)).bind (fun h =>
    (s.req? h.req).bind (fun r =>
      if r.performed then some (s.reply r)
      else if s.free r then
        (s.performFar r).map (fun t => match t.req? r.id with
          | some q => if q.performed then t.reply q else t
          | none => t)
      else none))

def execHostReply (link tag : Nat) (s : State) : Host.Outcome State Fault Refusal := eventOpt s (hostReply s link tag)

/-! ## The fabric as a target (R433) -/

def State.inFlow (s : State) (src world : Nat) : InFlow :=
  (s.inFlows.find? (fun f => f.src == src && f.world == world)).getD { src := src, world := world }

def State.setInFlow (s : State) (x : InFlow) : State :=
  { s with inFlows := s.inFlows.filter (fun f => !(f.src == x.src && f.world == x.world)) ++ [x] }

/-- The places of the pieces of an inbound request, when every one is there for it: the peer's addresses by its tables, or
memory of the world; none when it has no such range. A write of nothing is checked as a write of one byte (10_memory.md R222). -/
def inPlaces (s : State) (world : Nat) (x : InOp) : Option (List (Nat × Nat × Place)) :=
  let n := if x.op.touches then Nat.max 1 x.op.size else 0
  let ps := pieces x.addr (n / 16 + 2) 0 n
  let place := fun (i : Nat) => match x.peer with
    | none => if x.addr + i < 2 ^ 40 then some (Place.mem (x.addr + i)) else none
    | some c =>
      if x.op.needs.all (fun n => (s.vaPlace c (x.addr + i) n).isSome) then s.vaPlace c (x.addr + i) (x.op.needs.headD .read) else none
  let peerOk := match x.peer with
    | none => true
    | some c => (s.ctx? c).any (fun y => y.world == world)
  let got := ps.filterMap (fun p => (place p.1).map (fun q => (p.1, p.2, q)))
  if peerOk && got.length == ps.length then some got else none

/-- The ingress atomic cache of the link by which a packet comes in: eight serve the 48 links (01_device.md R13; log 105). -/
def ingressOf (link : Nat) : Nat := 4 + link / 6

/-- An ingress atomic cache takes a line from its home; the lease of 1 µs starts (10_memory.md R219). -/
def State.takeLine (s : State) (line holder : Nat) : State :=
  { s with held := s.held ++ [({ line := line, holder := holder, till := s.ns + 1000, writingBack := false, writes := [] } : Held)] }

/-- The line is held by an ingress atomic cache whose lease runs: by the one that has it, to which the request is forwarded, or by the
one at which it came in. Any other holder writes it back first. -/
def State.holdLine (s : State) (line holder : Nat) : State :=
  match s.heldLine line with
  | none => s.takeLine line holder
  | some h => if 4 ≤ h.holder && !h.writingBack && decide (s.ns < h.till) then s else (s.writeBack h).takeLine line holder

/-- A write performed at the line's holder: its number comes with the write-back (13_ordering.md R251). -/
def State.writeHeld (s : State) (pa : Nat) (bytes : List Byte) : State :=
  { s with
    mem := Memory.write s.mem pa bytes
    gtags := (granules pa bytes.length).foldl (fun t g => without g t) s.gtags
    held := s.held.map (fun (h : Held) =>
      if h.line == pa / 64 then { h with writes := h.writes ++ [(⟨0, pa, bytes, {}⟩ : HeldWrite)] } else h) }

/-- An atomic or compare and swap from the fabric, with the old value and the new one that it gives, if it writes: at an ingress atomic
cache, or at the home where the line holds a registered counter or the place is no memory (10_memory.md R218, R219,
17_counter.md R317). -/
def fabricSwap (s : State) (holder : Nat) (p : Place) (n : Nat) (new : Nat → Option Nat) : State × Nat :=
  let put := fun (s : State) (go : List Byte → State) => ((match new (s.natAt p n) with
    | some x => go (bytesOfNat x n)
    | none => s), s.natAt p n)
  match p with
  | .mem pa =>
    if (s.die (dieOfAddr pa)).lineRegistered (pa / 64) then
      let s := s.flush p n
      put s (fun bs => (s.commitAt p bs false {}).1)
    else
      let s := s.holdLine (pa / 64) holder
      put s (s.writeHeld pa)
  | _ => put s (fun bs => (s.commitAt p bs false {}).1)

def fabricAtomic (s : State) (holder : Nat) (p : Place) (op : AtomOp) (ty : Ty) (x : BitVec 64) : State × Nat :=
  let n := tySize ty
  fabricSwap s holder p n (fun old => some (atomNew op ty old (x.toNat % 2 ^ (8 * n))).1)

/-- R232: the compare and swap. -/
def fabricCas (s : State) (holder : Nat) (p : Place) (ty : Ty) (cmp new : BitVec 64) : State × Nat :=
  let n := tySize ty
  fabricSwap s holder p n (fun old => if old = cmp.toNat % 2 ^ (8 * n) then some (new.toNat % 2 ^ (8 * n)) else none)

/-- A Kneader command from another device, as the Kneader behind this device's remote-access port has it (01_device.md R13,
10_memory.md R237): of no context here, and of a source past this device's own. -/
def kneadReq (s : State) (src world : Nat) (p : Place) (kind : ReqKind) (size : Nat) (data cmp : Nat) : Req :=
  { id := s.nextId, kind := kind, ctx := 256, world := world, core := 65536 * src, blk := 0, grp := 0, lane := 0, inst := 0, wordId := 0,
    place := p, size := size, ty := .n64, data := BitVec.ofNat 512 data, cmp := BitVec.ofNat 512 cmp, scope := .sys, ord := .rlx,
    atHome := true, dest := .none, isLd := true, after := [], vec := {}, stage := 2, performed := false, reply := 0, tag := false,
    raises := {}, lost := false }

/-- The Kneader performs it; a line that a holder of atomics has is written back first. -/
def kneadFar (r : Req) : Nat → State → State × Nat
  | 0, s => (s, 2 ^ 64 - 1)
  | fuel + 1, s =>
    match kneadAt s r with
    | .done t x _ => (t, x)
    | .held l => kneadFar r fuel (match s.heldLine l with | some h => s.writeBack h | none => s)
    | .fill _ => (s, 2 ^ 64 - 1)

/-- Performs a Kneader command, with the bytes of its reply: the old words, or the value that its registers receive. -/
def fabricKnead (s : State) (src world addr : Nat) (p : Place) (op : FabricOp) : State × List Byte :=
  let run := fun (kind : ReqKind) (size data cmp reply : Nat) =>
    let s := s.flush p size
    let (t, x) := kneadFar (kneadReq s src world p kind size data cmp) (s.held.length + 1) s
    (t, bytesOfNat x reply)
  match op with
  | .kcas n cmp new => run (.kcas (n.toNat + 1)) op.size new.toNat cmp.toNat op.size
  | .kenq node => run .kenq 16 node.toNat 0 8
  | .kdeq => run .kdeq 16 0 0 8
  | .kchase steps key => run (.kchase (steps.toNat + 1) key.isSome) op.size (key.getD 0).toNat addr 16
  | _ => (s, [])

/-- A constituent of a combined request from another device, performed once: what came before within 4 µs has its old value again
(17_counter.md R336, R338). -/
def fabricLeaf (src holder : Nat) (p : Place) (ty : Ty) (sb : State × List Byte) (l : Nat × Nat × BitVec 64) : State × List Byte :=
  let (s, out) := sb
  let d := p.home?.getD 0
  let source := 65536 * src + l.1
  match s.dupOf d source l.2.1 with
  | some x => (s, out ++ bytesOfNat x.old.toNat (tySize ty))
  | none =>
    let (t, old) := fabricAtomic s holder p .add ty l.2.2
    (t.modDie d (fun x => { x with dups := x.dups ++ [{ source := source, tag := l.2.1, old := BitVec.ofNat 64 old, till := s.ns + 4000 }] }),
     out ++ bytesOfNat old (tySize ty))

/-- What an inbound request does at its places, and the bytes of its reply. -/
def fabricEffect (s : State) (src world : Nat) (x : InOp) (ps : List (Nat × Nat × Place)) : State × List Byte :=
  let quiet := fun (s : State) => ps.foldl (fun s p => s.flush p.2.2 p.2.1) s
  match x.op with
  | .read n => if n = 0 then (s, []) else (quiet s, ps.flatMap (fun p => (quiet s).bytesAt p.2.2 p.2.1))
  | .write bs => (ps.foldl (fun s p => (s.commitAt p.2.2 ((bs.drop p.1).take p.2.1) false {}).1) (if bs.isEmpty then s else quiet s), [])
  | .atomic op ty v =>
    (match ps with
     | (_, _, p) :: _ =>
       let (t, old) := fabricAtomic s (ingressOf x.link) p op ty v
       (t, bytesOfNat old (tySize ty))
     | [] => (s, []))
  | .cas ty cmp new =>
    (match ps with
     | (_, _, p) :: _ =>
       let (t, old) := fabricCas s (ingressOf x.link) p ty cmp new
       (t, bytesOfNat old (tySize ty))
     | [] => (s, []))
  | .combined ty ls =>
    (match ps with
     | (_, _, p) :: _ => ls.foldl (fabricLeaf src (ingressOf x.link) p ty) (s, [])
     | [] => (s, []))
  | .kcas _ _ _ | .kenq _ | .kdeq | .kchase _ _ =>
    (match ps with
     | (_, _, p) :: _ => fabricKnead s src world x.addr p x.op
     | [] => (s, []))
  | .session w => (s.keyFabric w, [])
  | .void => (s, [])

/-- The other device's Levain asks for a world that has no die here: there is no context to be its peer (21_context.md R406). -/
def State.noWorld (s : State) : FabricOp → Bool
  | .session w => (s.diesOf w).isEmpty
  | _ => false

/-- An inbound request performed, and its reply; no reply of bytes where it is refused. A refusal at a port is a violation, which the
die of the port counts (21_context.md R411, 23_world.md R443). An arrival is raised once the packet's writes are performed at their
homes: what an ingress atomic cache still holds of them is written back first (13_ordering.md R261). -/
def performFabric (s : State) (src world : Nat) (x : InOp) : State × Option (List Byte) :=
  let s := match x.peer with
    | some c => if x.op.touches then s.fillRange c x.addr x.op.size else s
    | none => s
  match inPlaces s world x with
  | none => (s, none)
  | some ps =>
    match ps.find? (fun p => s.port world p.2.2 != .pass) with
    | some p => (s.countViolation (p.2.2.home?.getD 0), none)
    | none =>
      if s.noWorld x.op then (s, none) else
      let (t, bytes) := fabricEffect s src world x ps
      match x.peer with
      | some c =>
        if x.arrival.getLsbD 31 && x.op.touches then
          match arriveAt (ps.foldl (fun s p => s.flush p.2.2 p.2.1) t) c x.arrival {} with
          | some u => (u, some bytes)
          | none => (t, none)
        else (t, some bytes)
      | none => (t, some bytes)

/-- How far a sequence number lies past another, modulo 2^32. -/
def seqPast (a b : Nat) : Nat := (a + 2 ^ 32 - b) % 2 ^ 32

/-- Replies are kept for as long as their packets may come again: a source has at most 2^20 that are not acknowledged (R433). -/
def InFlow.trim (f : InFlow) : InFlow := { f with replies := f.replies.filter (fun r => decide (seqPast f.next r.1 ≤ 2 ^ 20)) }

/-- The reply or acknowledgement of a packet goes onto its link: a header, and the bytes that it carries (R418). -/
def State.sendReply (s : State) (src world seq : Nat) (r : Option (List Byte)) : State :=
  let (via, s) := s.chooseVia src
  s.putReply src world seq 0 (1 + ((r.getD []).length + 63) / 64) via

/-- The flow as it stands, with the replies that its window has passed acknowledged (log 104). -/
def State.closeFlow (s : State) (f : InFlow) : State :=
  let old := fun (what : FlitOf) => (match what with
    | .reply src w seq _ => src == f.src && w == f.world && decide (2 ^ 20 < seqPast f.next seq)
    | _ => false)
  { s.setInFlow f.trim with
    links := s.links.map (fun (e : Nat × Link) =>
      (e.1, if e.2.flits.any (fun x => old x.what) then { e.2 with flits := e.2.flits.filter (fun x => !old x.what) } else e.2)) }

/-- The packets of a flow that are next in its sequence are performed one after the other, and each is answered. -/
def drain : Nat → InFlow → State → State
  | 0, f, s => s.closeFlow f
  | fuel + 1, f, s =>
    match f.waiting.find? (fun x => x.seq == f.next) with
    | none => s.closeFlow f
    | some x =>
      let (s, r) := performFabric s f.src f.world x
      let s := s.sendReply f.src f.world x.seq r
      drain fuel { f with next := (f.next + 1) % 2 ^ 32, waiting := f.waiting.filter (fun y => y.seq != x.seq),
                          replies := f.replies ++ [(x.seq, r)] } s

/-- Is a sequence number new to a flow: in the window ahead of the next one, and not waiting there already? -/
def InFlow.isNew (f : InFlow) (seq : Nat) : Bool := decide (seqPast seq f.next < 2 ^ 20) && !f.waiting.any (fun x => x.seq == seq)

/-- The key of a link establishes the world that a packet comes in (23_world.md R442): one that comes under none, or under a retired one, is
refused (R447), and any other counts under it. -/
def State.fabricKeyed (s : State) (link world : Nat) (op : FabricOp) : Bool :=
  if op.opens then world == 0 else (Tbl.at (s.link link).keys world).isSome && !(s.link link).retired.contains world

/-- A packet comes in: a sequence number is taken once, and a repeat is acknowledged again, with the reply that it had. -/
def execFabricPacketArrival (src : Sender) (world seq : Nat) (peer : Option Nat) (addr : Nat) (op : FabricOp) (arrival : BitVec 32) (s : State) :
    Host.Outcome State Fault Refusal :=
  let f := s.inFlow src.dev world
  event s (decide (src.link < 48) && (s.link src.link).healthy && isDevice src.dev && src.dev != s.devNum && decide (seq < 2 ^ 32) &&
      decide (op.size ≤ 256) && s.fabricKeyed src.link world op)
    (let s := s.modLink src.link (fun l => { l with keys := Tbl.upd l.keys world (fun k => (k.1, k.2 + 1)) })
     if f.isNew seq then
       let f := { f with waiting := f.waiting ++ [{ seq := seq, link := src.link, peer := peer, addr := addr, op := op, arrival := arrival }] }
       drain f.waiting.length f s
     else
       let r := (f.replies.find? (fun r => r.1 == seq)).map Prod.snd
       let s := s.setInFlow { f with repeats := f.repeats + 1 }
       match r with
       | some r => s.sendReply src.dev world seq r
       | none => s)

/-! ## The fabric as a source (R434) -/

def execFabricPacketReturn (pkt : Nat) (s : State) : Host.Outcome State Fault Refusal :=
  eventOpt s ((s.packets.find? (fun p => p.id == pkt && !p.void && p.dst != s.devNum)).map s.returnPacket)

/-- A packet that stands at a link which is not healthy returns at once. -/
def State.mustReturn (s : State) : Option Nat :=
  (s.packets.find? s.stuck).map Packet.id

def execRouteTableUpdate (dev link : Nat) (healthy : Bool) (s : State) : Host.Outcome State Fault Refusal :=
  event s (isDevice dev && decide (link < 48))
    { s with mgmt := { s.mgmt with unhealthy :=
        if healthy then s.mgmt.unhealthy.filter (fun x => x != (dev, link))
        else if s.mgmt.unhealthy.contains (dev, link) then s.mgmt.unhealthy else s.mgmt.unhealthy ++ [(dev, link)] } }

/-! ## Keys (R446) -/

/-- A key is replaced before a counter under it reaches 2^32; the counters start again. -/
def Link.exhausted (l : Link) : Option Nat :=
  (l.keys.find? (fun k => decide (2 ^ 32 ≤ k.2.1 + 1) || decide (2 ^ 32 ≤ k.2.2 + 1))).map Prod.fst

def execLinkKeyExhausted (link world : Nat) (s : State) : Host.Outcome State Fault Refusal :=
  event s ((Tbl.at (s.link link).keys world).any (fun k => decide (2 ^ 32 ≤ k.1 + 1) || decide (2 ^ 32 ≤ k.2 + 1)))
    (s.modLink link (fun l => { l with keys := Tbl.put l.keys world (0, 0) }))

end Machine
end Sys2Proof
end

