-- ==== Sys2Proof/Machine/Management.lean ====
section
/-!
DEFINITION. The event rows of the management port: BAR0, BAR2, configuration, IDE, TDISP and CXL (22_link.md R435 to R438),
with the end of a world and its measurements (23_world.md R443, R452).
-/

set_option linter.unusedVariables false

namespace Sys2Proof.Machine

/-! ## Worlds -/

/-- The dies of a world, those under scrubbing included. -/
def State.heldDies (s : State) (w : Nat) : List Nat :=
  [0, 1, 2, 3].filter (fun d => (s.die d).latch == .assigned w || (s.die d).latch == .scrubbing w)

/-- R443: every context of the world is torn down, its keys are destroyed, and its dies are scrubbed. -/
def State.endWorld (s : State) (w : Nat) : State :=
  let s := (s.ctxs.filter (fun e => e.2.world == w)).foldl (fun s e => s.teardown e.1) s
  let s := (s.diesOf w).foldl (fun s d => s.modDie d (fun x => { x with latch := .scrubbing w })) s
  { s.note 4 w 0 with
    objects := s.objects.filter (fun o => o.world != w)
    replicasObj := s.replicasObj.filter (fun o => o.world != w)
    links := s.links.map (fun (e : Nat × Link) => (e.1, { e.2 with keys := Tbl.del e.2.keys w, retired := without w e.2.retired,
                                                                   frozenWorlds := without w e.2.frozenWorlds }))
    mgmt := { s.mgmt with
      worlds := Tbl.del s.mgmt.worlds w
      sessions := s.mgmt.sessions.map (fun (e : Nat × Session) => (e.1, if e.2.world = some w then { e.2 with world := none } else e.2))
      journal := (s.note 4 w 0).mgmt.journal } }

def digestBytes (d : BitVec 384) : List Byte := bytesOfNat d.toNat 48

/-- R452: the measurements of a world by index. The layout of the world report is the model's (log 35). -/
def State.measurements (s : State) (w : Nat) : List (Nat × List Byte) :=
  let r := (Tbl.at s.mgmt.worlds w).getD {}
  let dies := s.diesOf w
  let mask := dies.foldl (fun m d => m + 2 ^ d) 0
  [(1, dies.flatMap (fun d => digestBytes ((s.die d).images.headD 0))),
   (2, r.images.flatMap digestBytes),
   (3, [w, mask, s.mgmt.leader.getD 255, r.entries.length, if r.mutableCode then 1 else 0].flatMap (fun n => bytesOfNat n 4))] ++
  r.entries.zipIdx.map (fun (e : (BitVec 384 × Option (BitVec 384)) × Nat) =>
    (16 + e.2, digestBytes e.1.1 ++ (e.1.2.map digestBytes).getD []))

/-! ## TDISP (R437) -/

/-- The interface moves to ERROR, and the contexts of the lent world freeze. -/
def State.interfaceError (s : State) : State :=
  if s.mgmt.tdisp = .configLocked ∨ s.mgmt.tdisp = .run then
    let w := s.mgmt.lent
    let t := s.ctxs.foldl (fun t e => if e.2.world = w then t.freezeCtx e.1 Config.interfaceCause.toNat else t) s
    { t with mgmt := { t.mgmt with tdisp := .error } }
  else s

def execLockInterfaceRequest (world : Nat) (s : State) : Host.Outcome State Fault Refusal :=
  event s (s.mgmt.tdisp == .configUnlocked && decide (1 ≤ world) && decide (world ≤ 15))
    { s with mgmt := { s.mgmt with tdisp := .configLocked, lent := world } }

/-- The BARs of the interface, with their sizes (R435). -/
def interfaceBars : List (Nat × Nat) := [(0, 2 ^ 24), (2, 2 ^ 40)]

/-- The report lists BAR0, BAR2 and the measurements of the lent world. -/
def execGetDeviceInterfaceReport (s : State) : Host.Outcome State Fault Refusal :=
  event s (s.mgmt.tdisp == .configLocked)
    { s with mgmt := { s.mgmt with reports := s.mgmt.reports ++ [⟨interfaceBars, s.measurements s.mgmt.lent⟩] } }

def execStartInterfaceRequest (s : State) : Host.Outcome State Fault Refusal :=
  event s (s.mgmt.tdisp == .configLocked) { s with mgmt := { s.mgmt with tdisp := .run } }

/-- The lent world is torn down; once its memory is zeroed the interface is unlocked. -/
def stopInterface (s : State) : State :=
  let s := if s.mgmt.stopping then s else { s.endWorld s.mgmt.lent with mgmt := { (s.endWorld s.mgmt.lent).mgmt with stopping := true } }
  if (s.heldDies s.mgmt.lent).isEmpty then { s with mgmt := { s.mgmt with tdisp := .configUnlocked, lent := 0, stopping := false } }
  else s

def State.stopOver (s : State) : Bool := s.mgmt.stopping && (s.heldDies s.mgmt.lent).isEmpty

def execStopInterfaceRequest (s : State) : Host.Outcome State Fault Refusal :=
  event s (s.mgmt.tdisp != .configUnlocked) (stopInterface s)

def execConfigWrite (frozenField : Bool) (s : State) : Host.Outcome State Fault Refusal :=
  event s frozenField s.interfaceError

/-- A function-level reset: ERROR from CONFIG_LOCKED or RUN (R437); from ERROR it unlocks the interface as a stop does (R435; log 36). -/
def execFunctionLevelReset (s : State) : Host.Outcome State Fault Refusal :=
  .next (if s.mgmt.tdisp = .error then stopInterface s else s.interfaceError)

/-! ## IDE (R436) -/

/-- A TLP that fails its integrity check is dropped, and its stream becomes insecure. -/
def State.ideFailure (s : State) (stream : Nat) : State :=
  { s with mgmt := { s.mgmt with streams := without stream s.mgmt.streams } }.interfaceError

def State.established (s : State) (n : Nat) : Bool := (Tbl.at s.mgmt.sessions n).any (fun x => x.st == .established)

/-- Keys for a selective stream, or as stream 4 for the CXL path (log 117), exchanged in a secured session. -/
def execIdeKmRequest (session stream : Nat) (intact : Bool) (s : State) : Host.Outcome State Fault Refusal :=
  event s (s.established session && decide (stream ≤ 4))
    (if stream = 4 then { s with mgmt := { s.mgmt with cxlInsecure := !intact } }
     else if intact then { s with mgmt := { s.mgmt with streams := insertNat stream s.mgmt.streams } } else s.ideFailure stream)

/-! ## BAR0 and BAR2 (R435) -/

/-- The memory behind the first 2 MiB of BAR0, where its session ring stands (log 107); nothing stands behind the rest. -/
def State.bar0Ring (s : State) : Option Nat := (s.mgmt.rings.find? (fun r => r.2.link.isNone)).map (fun r => r.2.base)

/-- A read through BAR0: bytes of the ring, and zero where BAR0 holds nothing; none is an Unsupported Request. -/
def State.bar0Read (s : State) (addr n : Nat) : Option (List Byte) :=
  if s.mgmt.tdisp = .error then none
  else some ((List.range n).map (fun i => match s.bar0Ring with
    | some b => if addr + i < 2 ^ 21 then s.byteAt (.mem (b + addr + i)) else 0
    | none => 0))

/-- A plain write through BAR0: what falls into the ring is written there, each word whole, so that a write that raises a head raises
it as a counter; the rest is dropped. -/
def bar0Write (s : State) (addr : Nat) (bytes : List Byte) : State :=
  if s.mgmt.tdisp = .error then s.answerHost 73 { tag := 0, data := none }
  else
    match s.bar0Ring with
    | some b =>
      let cells := enabledCells (b + addr) bytes ((List.range bytes.length).map (fun i => decide (addr + i < 2 ^ 21)))
      (s.flush (.mem (b + addr)) bytes.length).commitLines cells {}
    | none => s

def execBar0Write (addr : Nat) (bytes : List Byte) (s : State) : Host.Outcome State Fault Refusal :=
  event s (decide (addr + bytes.length ≤ 2 ^ 24)) (bar0Write s addr bytes)

/-- The window onto device memory: only for the lent world in RUN, on a secure stream; anything else is an Unsupported Request. -/
def bar2 (s : State) (stream world addr : Nat) (write : Bool) (bytes : List Byte) : State :=
  let n := bytes.length
  if s.mgmt.tdisp = .run ∧ world = s.mgmt.lent ∧ s.mgmt.streams.contains stream ∧ addr + n ≤ 2 ^ 40 ∧
      (regionsOf addr n).all (fun r => s.port world (.mem (r * 2 ^ 30)) == .pass) then
    if write then (performIn s none addr (.write bytes (List.replicate n true))).1
    else
      let (t, got) := performIn s none addr (.read n)
      t.answerHost 73 { tag := 0, data := some got }
  else s.answerHost 73 { tag := 0, data := none }

def execBar2Access (stream world addr : Nat) (intact write : Bool) (bytes : List Byte) (s : State) :
    Host.Outcome State Fault Refusal :=
  .next (if intact then bar2 s stream world addr write bytes else s.ideFailure stream)

/-! ## CXL.mem (R438) -/

/-- The pool entry of the CXL path that covers 64 bytes, with its context's world: there is one HDM decoder, and so one entry. -/
def State.cxlEntry (s : State) (addr : Nat) : Option (Nat × PoolEntry) :=
  s.ctxs.findSome? (fun e =>
    (e.2.pool.find? (fun p => p.link.isNone && decide (p.base ≤ addr) && decide (addr + 64 ≤ p.base + p.size))).map (fun p => (e.2.world, p)))

def cxlRequest (s : State) (addr : Nat) (k : InKind) : State :=
  match s.cxlEntry addr with
  | none => s.answerHost 72 { tag := 0, data := none }
  | some (w, p) =>
    if addr % 64 = 0 && s.hostOpen addr 64 && s.port w (.mem addr) == .pass then
      { s with nextId := s.nextId + 1 }.queueIn
        { cls := p.cls, weight := p.weight, link := 72, world := w, tag := s.nextId, addr := addr, kind := k, last := false }
    else s.answerHost 72 { tag := 0, data := none }

/-- CXL IDE in containment mode: a flit that fails its integrity check is dropped, and the path takes no more until its keys are
exchanged again (R438, R446; log 117). -/
def cxlGuarded (intact : Bool) (go : State → State) (s : State) : State :=
  if !intact then { s with mgmt := { s.mgmt with cxlInsecure := true } }
  else if s.mgmt.cxlInsecure then s
  else go s

def execCxlMemRead (addr : CxlAddr) (s : State) : Host.Outcome State Fault Refusal :=
  .next (cxlGuarded addr.intact (fun s => cxlRequest s addr.addr (.read 64)) s)

/-- A write of 64 bytes; bytes that the request does not carry are not written. -/
def execCxlMemWrite (addr : CxlAddr) (bytes : List Byte) (s : State) : Host.Outcome State Fault Refusal :=
  .next (cxlGuarded addr.intact (fun s =>
    cxlRequest s addr.addr (.write (bytes.take 64) (List.replicate (Nat.min bytes.length 64) true))) s)

end Sys2Proof.Machine
end

