-- ==== Sys2Proof/Machine/Sha384.lean ====
section
/-!
DEFINITION. SHA-384, which 02_notation.md R42 and 23_world.md R452 name and do not define: it is the function of FIPS 180-4 (log 17).
-/

set_option linter.unusedVariables false

namespace Sys2Proof.Machine

/-! ## Constants

The standard's words are the first 64 bits after the point of roots of primes; they are computed here and not listed. -/

/-- The greatest number whose power does not pass a bound, found from its highest bit down. -/
def rootDown (power bound : Nat) : Nat → Nat → Nat
  | 0, r => r
  | bit + 1, r => rootDown power bound bit (if (r + 2 ^ bit) ^ power ≤ bound then r + 2 ^ bit else r)

/-- The first 64 bits after the point of the root of a number below 512. -/
def rootFraction (power n : Nat) : DWord := BitVec.ofNat 64 (rootDown power (n * 2 ^ (64 * power)) 70 0)

def primesBelow (n : Nat) : List Nat :=
  (List.range n).filter (fun p => 2 ≤ p && (List.range 20).all (fun d => d < 2 || p ≤ d || p % d != 0))

/-- One constant for each of the eighty rounds: cube roots of the first eighty primes. -/
def shaK : List DWord := (primesBelow 410).map (rootFraction 3)

/-- The words before the first block: square roots of the ninth to the sixteenth prime. -/
def shaStart : List DWord := ((primesBelow 54).drop 8).map (rootFraction 2)

/-! ## One block of 128 bytes

The eight working words stand in a list. -/

/-- The exclusive or of a word rotated right by three amounts. -/
def rot3 (x : DWord) (i j k : Nat) : DWord := x.rotateRight i ^^^ x.rotateRight j ^^^ x.rotateRight k

/-- The next word of the message schedule, from the sixteen before it. -/
def shaNext (w : List DWord) : DWord :=
  let x := w.getD 1 0
  let y := w.getD 14 0
  w.getD 0 0 + (x.rotateRight 1 ^^^ x.rotateRight 8 ^^^ (x >>> 7)) + w.getD 9 0 + (y.rotateRight 19 ^^^ y.rotateRight 61 ^^^ (y >>> 6))

/-- The bits of one word where a third has ones, of another where it has zeros. -/
def shaPick (mask x y : DWord) : DWord := y ^^^ (mask &&& (x ^^^ y))

/-- The bits that at least two of three words have. -/
def shaMost (x y z : DWord) : DWord := (x &&& y) ||| (z &&& (x ||| y))

/-- One round: the words move up by one place, the fifth and the first with what is added to them. -/
def shaRound (x : List DWord) (kw : DWord) : List DWord :=
  let word := fun n => x.getD n 0
  let added := kw + word 7 + shaPick (word 4) (word 5) (word 6) + rot3 (word 4) 14 18 41
  let first := added + shaMost (word 0) (word 1) (word 2) + rot3 (word 0) 28 34 39
  [first] ++ x.take 3 ++ [word 3 + added] ++ (x.drop 4).take 3

/-- The rounds of a list of constants, with the next sixteen words of the schedule. -/
def shaRounds (ks w x : List DWord) : List DWord :=
  (ks.foldl (fun (p : List DWord × List DWord) k =>
    (p.1.tail ++ [shaNext p.1], shaRound p.2 (k + p.1.headD 0))) (w, x)).2

/-- Bytes as words of eight, the most significant byte first. -/
def bigWords : Nat → List Byte → List DWord
  | 0, _ => []
  | n + 1, bs => BitVec.ofNat 64 (natOfBytes (bs.take 8).reverse) :: bigWords n (bs.drop 8)

def shaBlock (x : List DWord) (block : List Byte) : List DWord :=
  List.zipWith (· + ·) x (shaRounds shaK (bigWords 16 block) x)

/-! ## A message -/

/-- The message, a bit of one, zeros, and its length in bits as sixteen bytes. -/
def shaPad (bs : List Byte) : List Byte :=
  bs ++ [0x80#8] ++ List.replicate ((239 - bs.length % 128) % 128) 0 ++ (bytesOfNat (8 * bs.length) 16).reverse

def shaBlocks : Nat → List Byte → List DWord → List DWord
  | 0, _, x => x
  | n + 1, bs, x => shaBlocks n (bs.drop 128) (shaBlock x (bs.take 128))

/-- The six words of the digest of a byte string. -/
def shaWords (bs : List Byte) : List DWord :=
  let p := shaPad bs
  (shaBlocks (p.length / 128) p shaStart).take 6

/-- SHA-384, as the bytes of the digest are laid out in a record: the first byte lowest. -/
def sha384 (bs : List Byte) : BitVec 384 :=
  BitVec.ofNat 384 (natOfBytes ((shaWords bs).flatMap (fun w => (bytesOfNat w.toNat 8).reverse)))

end Sys2Proof.Machine
end

