-- ==== Sys2Proof/Machine/ObjectFile.lean ====
section
/-!
DEFINITION. Fat code objects: their header, image table, kernel descriptors, object table, tag list and label table, read from the
bytes that a load command carries (02_notation.md R41 to R44), and the choice of an image (15_tile.md R292).
-/

set_option linter.unusedVariables false

namespace Sys2Proof.Machine

/-! ## Fields -/

/-- A little-endian field. -/
def field (bs : List Byte) (off n : Nat) : Nat := natOfBytes ((bs.drop off).take n)

/-- Part of an object; none where it does not lie in the object. -/
def part? (bs : List Byte) (off n : Nat) : Option (List Byte) :=
  if off + n ≤ bs.length then some ((bs.drop off).take n) else none

/-- Records of a size, one after the other. -/
def records? (bs : List Byte) (off size n : Nat) : Option (List (List Byte)) :=
  (part? bs off (size * n)).map (fun t => (List.range n).map (fun i => (t.drop (size * i)).take size))

/-- Every element read; none when one cannot be. -/
def readAll {α β : Type} (f : α → Option β) : List α → Option (List β)
  | [] => some []
  | x :: xs => (f x).bind (fun y => (readAll f xs).map (fun ys => y :: ys))

/-! ## Images (R42) -/

/-- A kernel descriptor of 80 bytes. -/
def kernelDesc? (d : List Byte) : Option KernelDesc :=
  if field d 61 3 = 0 ∧ field d 70 2 = 0 ∧ field d 76 4 = 0 then
    some { name := (d.take 32).takeWhile (fun b => b != 0), entry := field d 32 4, codeOff := field d 36 4, codeSize := field d 40 4,
           pool := BitVec.ofNat 32 (field d 44 4), blocks := field d 48 4, width := field d 52 1, groups := field d 53 1,
           cluster := field d 54 1, queue := field d 55 1, prio := field d 56 1, die := field d 57 1,
           roleGroups := [field d 58 1, field d 59 1, field d 60 1], roleRegs := [field d 64 2, field d 66 2, field d 68 2],
           device := field d 72 4 }
  else none

/-- The words of an image: it begins with its descriptors, and a kernel's code offset counts from there. -/
def imageDWord (i : CodeImage) (n : Nat) : DWord := BitVec.ofNat 64 (field i.bytes (8 * n) 8)

/-- Does a kernel's code lie among the image's code words? -/
def holdsCode (i : CodeImage) (k : KernelDesc) : Bool :=
  decide (10 * i.kernels.length ≤ k.codeOff) && decide (8 * (k.codeOff + k.codeSize) ≤ i.bytes.length)

/-- An entry of the image table, with the image in its object. -/
def image? (obj e : List Byte) : Option CodeImage :=
  if (field e 0 4 = 1 ∨ (field e 0 4 = 2 ∧ field e 4 12 = 0)) ∧ field e 84 12 = 0 then
    (part? obj (field e 16 8) (field e 24 8)).bind (fun bytes =>
      (records? bytes 0 80 (field e 80 4)).bind (fun ds => (readAll kernelDesc? ds).bind (fun ks =>
        let i : CodeImage := { isNative := field e 0 4 == 1, rev := BitVec.ofNat 32 (field e 4 4), features := BitVec.ofNat 64 (field e 8 8),
                               digest := BitVec.ofNat 384 (field e 32 48), kernels := ks, bytes := bytes }
        if ks.all (holdsCode i) then some i else none)))
  else none

/-! ## The other tables (R43) -/

/-- An entry of the object table; the body lies in the data image. -/
def object? (dataSize : Nat) (e : List Byte) : Option ObjectDesc :=
  if field e 12 1 ≤ 1 ∧ field e 24 8 ≠ 0 ∧ field e 24 8 < 2 ^ 32 ∧ field e 16 8 + field e 24 8 ≤ dataSize then
    some { id := field e 0 5, home := field e 8 3, live := field e 12 1 == 1, offset := field e 16 8, size := field e 24 8 }
  else none

/-- A tagged granule begins at a multiple of 16 in the data image. -/
def tag? (dataSize : Nat) (e : List Byte) : Option Nat :=
  if field e 0 8 % 16 = 0 ∧ field e 0 8 < dataSize then some (field e 0 8) else none

def label? (dataSize : Nat) (e : List Byte) : Option Nat := if field e 0 8 ≤ dataSize then some (field e 0 8) else none

/-! ## The object (R41) -/

/-- The header of 64 bytes: its magic, its version, 1 to 64 images, at most 64 labels, and no flag but bit 0. -/
def headerOk (bs : List Byte) : Bool :=
  decide (64 ≤ bs.length) && field bs 0 4 == 0x4F554C42 && field bs 4 2 == 1 && decide (1 ≤ field bs 6 2) && decide (field bs 6 2 ≤ 64) &&
    decide (field bs 56 4 ≤ 1) && decide (field bs 60 4 ≤ 64)

/-- A fat code object, read; none where its bytes are not one (log 98). -/
def object (bs : List Byte) : Option CodeObject :=
  if headerOk bs then
    (records? bs (field bs 8 8) 96 (field bs 6 2)).bind (fun es => (readAll (image? bs) es).bind (fun is =>
      (part? bs (field bs 16 8) (field bs 24 8)).bind (fun data =>
        (records? bs (field bs 32 8) 32 (field bs 40 4)).bind (fun os => (readAll (object? data.length) os).bind (fun objects =>
          (records? bs (field bs 48 8) 8 (field bs 44 4)).bind (fun ts => (readAll (tag? data.length) ts).bind (fun tags =>
            (records? bs (field bs 48 8 + 8 * field bs 44 4) 8 (field bs 60 4)).bind (fun ls => (readAll (label? data.length) ls).map (fun labels =>
              { mutableCode := field bs 56 4 == 1, images := is, data := data, tags := tags, labels := labels, objects := objects })))))))))
  else none

/-! ## The choice of an image (R292) -/

/-- The image that the part takes. -/
def chooseImage (is : List CodeImage) : Option CodeImage :=
  match is.find? (fun i => i.isNative && i.rev == Config.revision) with
  | some i => some i
  | none =>
    let fit := is.filter (fun i => i.isNative && i.rev.extractLsb' 16 16 == Config.revision.extractLsb' 16 16 &&
      i.features &&& ~~~Config.features == 0)
    match (fit.map (fun i => i.rev.toNat)).max? with
    | some m => fit.find? (fun i => i.rev.toNat == m)
    | none => is.find? (fun i => !i.isNative)

/-- The words of a kernel's code as its image holds them. -/
def kernelWords (i : CodeImage) (k : KernelDesc) : List DWord := (List.range k.codeSize).map (fun j => imageDWord i (k.codeOff + j))

end Sys2Proof.Machine
end

