-- ==== Sys2Proof/Machine/Virtual.lean ====
section
/-!
DEFINITION. Major 31, the virtual tile instructions (15_tile.md R290, R291): the fields that the translator wants, their effects on
virtual tiles, and what a word does. In an untranslated image it takes the virtual-instruction trap (03_formats.md R68). In a
translated one native code stands for it that delivers the results of its effect; the model carries out the effect itself, at once, by
the lowest acting lane of the path, as one tile word queues one command (R273; log 18).
-/

set_option linter.unusedVariables false

namespace Sys2Proof.Machine

/-! ## Fields -/

/-- A shape is a literal or a constant, and 1 to 4,096. -/
def vtShape (k : Kern) (x : Src) : Bool :=
  match x with
  | .lit n => decide (0 < n.toInt)
  | .c b w => decide (1 ≤ (k.const b.toNat w.toNat).toNat) && decide ((k.const b.toNat w.toNat).toNat ≤ 4096)
  | _ => false

/-- A 64-bit operand names an even register or word (03_formats.md R50). -/
def vtPair (x : Src) : Bool :=
  match x with
  | .v r => r.toNat % 2 == 0
  | .s r => r.toNat % 2 == 0
  | .c _ w => w.toNat % 2 == 0
  | .lit _ => true

/-- A virtual tile as a source: kind 00, x0 to x255. -/
def vtTile (x : Src) : Bool :=
  match x with
  | .v r => decide (r.toNat < 256)
  | _ => false

/-- A word of an assigned cell of major 31 keeps to its fields; any other word is none of the translator's business here. -/
def vtFieldsOk (k : Kern) (w : DWord) : Bool :=
  let f := getF w
  let scalars := (w.extractLsb' 38 2 != 1 || w.extractLsb' 35 3 == 0) && (w.extractLsb' 27 2 != 1 || w.extractLsb' 24 3 == 0)
  let d := decide (f.d.toNat < 256) && f.c == 0 && scalars
  let mods := (w.extractLsb' 0 7).toNat
  match (w.extractLsb' 53 11).toNat with
  | 0x3E0 => d && vtShape k f.a && vtShape k f.b && (getTy (w.extractLsb' 3 4)).isSome && mods % 8 == 0
  | 0x3E1 | 0x3E2 => d && vtPair f.a && decide (mods ≤ 1)
  | 0x3E3 => d && vtTile f.a && vtTile f.b && mods == 0
  | 0x3E4 => d && vtTile f.a && decide (mods / 8 ≤ 4) && mods % 8 == 0
  | 0x3E5 => d && vtTile f.a && f.b == .v 0 && decide (mods ≤ 2)
  | _ => true

/-! ## Virtual tiles -/

/-- An element; there is none beyond the shape. -/
def VTile.at (t : VTile) (i j : Nat) : Nat := if i < t.rows && j < t.cols then t.els.getD (i * t.cols + j) 0 else 0

/-- A tile from its elements, with the events. -/
def VTile.of (ty : Ty) (rows cols : Nat) (e : Nat → Nat → Nat × Events) : VTile × Events :=
  let xs := (List.range (rows * cols)).map (fun x => e (x / cols) (x % cols))
  (⟨ty, rows, cols, xs.map Prod.fst⟩, xs.flatMap Prod.snd)

/-- The format of a type of elements as the A layout packs it (R267). -/
def vtFmt (ty : Ty) : TFmt :=
  match ty with
  | .l8 => tfmt 3
  | .l6 => tfmt 4
  | .l4 => tfmt 5
  | .i8 => tfmt 6
  | ty => ⟨Num.of ty, ty.bits, 1, 0⟩

/-- An element of a packed row. An element wider than 32 bits takes as many bytes as it has. -/
def vtElem (rd : Nat → Byte) (f : TFmt) (k : Nat) : Nat :=
  if f.bits ≤ 32 then elemAt rd f k else natOfBytes ((List.range (f.bits / 8)).map (fun i => rd (f.bits / 8 * k + i)))

def vtRow (f : TFmt) (es : List Nat) : List Byte :=
  if f.bits ≤ 32 then packElems f es.length es else es.flatMap (fun e => bytesOfNat e (f.bits / 8))

/-! ## Effects -/

def vtDecl (ty : Ty) (rows cols : Nat) : VTile := ⟨ty, rows, cols, List.replicate (rows * cols) 0⟩

/-- Rows of packed elements, a stride apart. -/
def vtLoad (t : VTile) (rd : Nat → Byte) (addr stride : Nat) : VTile :=
  (VTile.of t.ty t.rows t.cols (fun i j => (vtElem (fun o => rd (addr + i * stride + o)) (vtFmt t.ty) j, []))).1

/-- The bytes of each row, with their address. -/
def vtStore (t : VTile) (addr stride : Nat) : List (Nat × List Byte) :=
  (List.range t.rows).map (fun i => (addr + i * stride, vtRow (vtFmt t.ty) ((List.range t.cols).map (t.at i))))

/-- Lists of at most k. -/
def groupsOf {α : Type} (k : Nat) : Nat → List α → List (List α)
  | 0, _ => []
  | _, [] => []
  | n + 1, xs => xs.take k :: groupsOf k n (xs.drop k)

/-- R291: one element, accumulated from K element 0 up in groups of the k of the format, with no scales. -/
def vtDot (f : TFmt) (acc : Nat) (ps : List (Nat × Nat)) : Nat × Events :=
  (groupsOf f.k ps.length ps).foldl (fun (x : Nat × Events) g =>
    match f.num with
    | .int sg w => (wrapTo 32 (g.foldl (fun y p => y + intOf sg w p.1 * intOf sg w p.2) (intOf true 32 x.1)), x.2)
    | _ =>
      let (y, es) := windowSum (g.map (fun p => tileTerm f p.1 p.2 127 127)) (decodeF f32Fmt x.1)
      (y, x.2 ++ es)) (acc, [])

/-- xD += xA × xB. -/
def vtMma (d a b : VTile) : VTile × Events :=
  VTile.of d.ty d.rows d.cols (fun i j =>
    vtDot (vtFmt a.ty) (d.at i j) ((List.range a.cols).map (fun k => (a.at i k, b.at k j))))

/-- The value of an element. -/
def NVal.val : NVal → FVal
  | .int x => valOfInt x
  | .flt v => v
  | .log t b => decodeL t b

/-- The exact sum of two values; none is a difference of infinities. -/
def sumV (a b : FVal) : Option FVal :=
  match a, b with
  | .nan, _ => some .nan
  | _, .nan => some .nan
  | .inf x, .inf y => if x == y then some (.inf x) else none
  | .inf x, _ => some (.inf x)
  | _, .inf y => some (.inf y)
  | .fin x m, .fin y k =>
    let (neg, z) := addMag x m y k
    some (.fin (if z.mag = 0 then x && y else neg) z)

/-- One element of `vt.map`: 0 convert, 1 relu, 2 abs, 3 multiply by the f32 operand, 4 add it; the result is rounded once. -/
def vtMapElem (op : Nat) (dst src : Ty) (x : Nat) (b : Word) : Nat × Events :=
  let v := ((Num.of src).read x).val
  let w := decodeF f32Fmt b.toNat
  let put := fun (y : Option FVal) => convertTo (Num.of dst) .rn false (.flt (y.getD .nan))
  match op with
  | 0 => convertTo (Num.of dst) .rn false ((Num.of src).read x)
  | 1 => put (some (if isNeg v then .fin false zeroMag else v))
  | 2 => put (some (if isNeg v then negF v else v))
  | 3 => put (prodF v w)
  | _ => put (sumV v w)

def vtMap (op : Nat) (d a : VTile) (b : Word) : VTile × Events :=
  VTile.of d.ty d.rows d.cols (fun i j => vtMapElem op d.ty a.ty (a.at i j) b)

/-- One row reduced as `tred` reduces it, as f32 or as i32 values: 0 add, 1 min, 2 max. -/
def vtRedRow (op : Nat) (ty : Ty) (xs : List Nat) : NVal × Events :=
  match Num.of ty with
  | .int sg w =>
    let v := xs.map (intOf sg w)
    (.int (intOf true 32 (wrapTo 32 (if op = 0 then v.sum else v.foldl (fun a x => if op = 2 then max a x else min a x) (v.headD 0)))), [])
  | n =>
    let ys := xs.map (fun x => (convertTo (.flt f32Fmt) .rn false (n.read x)).1)
    let (y, es) := if op = 0 then windowSum (ys.map (fun y => .val (decodeF f32Fmt y))) (.fin true zeroMag)
      else treeFold (fun x y => (minMaxF f32Fmt (op == 2) x y, [])) (bitLen ys.length) ys
    (.flt (decodeF f32Fmt y), es)

/-- xD, rows × 1. -/
def vtRed (op : Nat) (d a : VTile) : VTile × Events :=
  VTile.of d.ty d.rows 1 (fun i _ =>
    let (x, es) := vtRedRow op a.ty ((List.range a.cols).map (a.at i))
    let (y, fs) := convertTo (Num.of d.ty) .rn false x
    (y, es ++ fs))

/-! ## Words -/

def virtualTrap : Trap := { cause := 2 }

/-- Is the path's kernel one of a translated image? -/
def State.emulates (s : State) (f : Focus) : Bool := !(s.fkern f).virt.isEmpty

/-- The fields of a virtual word. -/
def vtForm (w : BitVec 53) : FForm := getF (w.setWidth 64)

/-- A virtual word in a translated image acts by the lowest acting lane; in any other it traps, whatever its predicate. -/
def runVirtual (w : BitVec 53) (use : List Nat) (act : FForm → State → Focus → Nat → Eff) (s : State) : Host.Outcome State Fault Refusal :=
  if s.focus.any s.emulates then
    runWord s use (fun s f =>
      match lowestActing s f (vtForm w).g with
      | none => .ok s []
      | some i => act (vtForm w) s f i)
  else runTrap s virtualTrap

/-- A virtual tile of the block; one that nothing has declared has no elements. -/
def State.vtile (s : State) (f : Focus) (n : Nat) : VTile := (Tbl.at (s.fblock f).vtiles n).getD {}

/-- A source's tile. -/
def State.vtSrc (s : State) (f : Focus) (x : Src) : VTile := s.vtile f (srcIx x)

/-- A tile is written, and the events of the word are counted. -/
def State.putVtile (s : State) (f : Focus) (x : FForm) (t : VTile × Events) : State :=
  (s.modBlock f.blk (fun b => { b with vtiles := Tbl.put b.vtiles x.d.toNat t.1 })).tally f t.2

/-- The range of each row of a tile in memory. -/
def vtRanges (v : View) (x : FForm) (t : VTile) (sp : Bool) (need : Need) : List LocalRange :=
  let n := (vtRow (vtFmt t.ty) (List.replicate t.cols 0)).length
  (List.range t.rows).map (fun i => ⟨⟨v.src64 x.a + BitVec.ofNat 64 (i * (v.src x.b).toNat), v.tagOf x.a, srcNamed x.a⟩, sp, n, need⟩)

/-- The checks of a row: those of an engine's range, and the range locks, last (10_memory.md R221, R245). -/
def vtCheck (s : State) (f : Focus) (r : LocalRange) : Chk :=
  let b := s.fblock f
  withLocks s b.core b.ctx (if r.sp then some f.blk else none) r.base.val.toNat r.len (r.need == .write) .engine r.base.val
    (checkLocal rankBounds s b.core b.ctx (some f.blk) r)

def vtLoc (s : State) (f : Focus) (r : LocalRange) : Loc := locOf s (s.fblock f).core (s.fblock f).ctx (some f.blk) (some r)

/-- The places that rows have. -/
def vtPlaces (s : State) (f : Focus) (need : Need) (rs : List LocalRange) : List Place :=
  rs.flatMap (fun r => ((vtLoc s f r).pieces r.len).filterMap (fun x =>
    s.locPlace (s.agent (s.fblock f).core (s.fdie f) (s.fctx f)) (vtLoc s f r) x.1 need))

/-- A word that accesses memory: it waits for what the lane has in flight, as its thread's order asks, and is an external effect when it
writes outside the scratchpad (R288). -/
def vtAccess (sp : Bool) (need : Need) (go : FForm → List LocalRange → State → Focus → Nat → State) (x : FForm) (s : State) (f : Focus)
    (i : Nat) : Eff :=
  let rs := vtRanges (s.view f i) x (s.vtile f x.d.toNat) sp need
  let hold := fun (w : Wait) => Eff.ok s (f.lanes.map (fun l => (l, Next.wait w)))
  let mine := (s.laneReqs f.blk f.grp i).map Req.id
  if (s.fgroup f).region.isSome && need == .write && !sp then .trap (idemTrap [])
  else
    match s.gate f i true true false (if sp then .sp else .gl) with
    | some w => hold w
    | none =>
      if !mine.isEmpty then hold (.reqs mine)
      else
        match worst (rs.map (vtCheck s f)) with
        | .bad _ t => .trap t
        | .fill p k a => .ok (s.askFill p) (f.lanes.map (fun l => (l, Next.wait (.page p.ctx p.page k a))))
        | _ =>
          match portStop s f (vtPlaces s f need rs) with
          | some u => .stop u
          | none => .ok (go x rs (s.modLane f.blk f.grp i (fun l => l.passGate true)) f i) []

/-- The latest writes that a range's bytes show (13_ordering.md R255). -/
def vtSeen (s : State) (w : Agent) (l : Loc) (len : Nat) : VecD :=
  (l.pieces len).foldl (fun v x => match s.locPlace w l x.1 .read with
    | some p => v.max (s.latestAt p x.2)
    | none => v) {}

def vtLoadAt (x : FForm) (rs : List LocalRange) (s : State) (f : Focus) (i : Nat) : State :=
  let w := s.agent (s.fblock f).core (s.fdie f) (s.fctx f)
  let s := rs.foldl (fun s r => s.flushLoc w (vtLoc s f r) r.len) s
  let bytes := rs.flatMap (fun r => s.readLoc w (vtLoc s f r) r.len)
  let v := rs.foldl (fun v r => v.max (vtSeen s w (vtLoc s f r) r.len)) {}
  let t := vtLoad (s.vtile f x.d.toNat) (fun o => bytes.getD o 0) 0 ((rs.map LocalRange.len).headD 0)
  (s.putVtile f x (t, [])).modLane f.blk f.grp i (fun l => { l with D := l.D.max v })

def vtStoreAt (x : FForm) (rs : List LocalRange) (s : State) (f : Focus) (i : Nat) : State :=
  let w := s.agent (s.fblock f).core (s.fdie f) (s.fctx f)
  let (s, v) := (rs.zip (vtStore (s.vtile f x.d.toNat) 0 0)).foldl (fun (sv : State × VecD) r =>
    let (s, v) := sv.1.writeLoc w (vtLoc s f r.1) r.2.2 (s.flane f i).D
    (s, sv.2.max v)) (s, {})
  s.modLane f.blk f.grp i (fun l => { l with D := l.D.max v })

/-- The type that a declaration names. -/
def vtType (w : BitVec 53) : Ty := (getTy (w.extractLsb' 3 4)).getD .n8

def execVtDecl (w : BitVec 53) (s : State) : Host.Outcome State Fault Refusal :=
  runVirtual w [] (fun x s f i =>
    let v := s.view f i
    .ok (s.putVtile f x (vtDecl (vtType w) (v.src x.a).toNat (v.src x.b).toNat, [])) []) s

/-- The registers of a virtual word's address and stride. -/
def vtUse (w : BitVec 53) : List Nat := srcUse true (vtForm w).a ++ srcUse false (vtForm w).b

def execVtLd (w : BitVec 53) (s : State) : Host.Outcome State Fault Refusal :=
  runVirtual w (vtUse w) (vtAccess (w.getLsbD 0) .read vtLoadAt) s

def execVtSt (w : BitVec 53) (s : State) : Host.Outcome State Fault Refusal :=
  runVirtual w (vtUse w) (vtAccess (w.getLsbD 0) .write vtStoreAt) s

def execVtMma (w : BitVec 53) (s : State) : Host.Outcome State Fault Refusal :=
  runVirtual w [] (fun x s f i => .ok (s.putVtile f x (vtMma (s.vtile f x.d.toNat) (s.vtSrc f x.a) (s.vtSrc f x.b))) []) s

def execVtMap (w : BitVec 53) (s : State) : Host.Outcome State Fault Refusal :=
  runVirtual w (srcUse false (vtForm w).b) (fun x s f i =>
    .ok (s.putVtile f x (vtMap (w.extractLsb' 3 4).toNat (s.vtile f x.d.toNat) (s.vtSrc f x.a) ((s.view f i).src x.b))) []) s

def execVtRed (w : BitVec 53) (s : State) : Host.Outcome State Fault Refusal :=
  runVirtual w [] (fun x s f i => .ok (s.putVtile f x (vtRed (w.extractLsb' 0 2).toNat (s.vtile f x.d.toNat) (s.vtSrc f x.a))) []) s

end Sys2Proof.Machine
end

