-- ==== Sys2Proof/Machine/Session.lean ====
section
/-!
DEFINITION. The event rows of session rings, SPDM requests and vendor commands (23_world.md R443 to R452, 02_notation.md R41
to R45, 15_tile.md R292, 19_kernel.md R359, 22_link.md R427). What a message says comes with its event; the ring carries it.
-/

set_option linter.unusedVariables false

namespace Sys2Proof.Machine

/-! ## Session rings (R449, R450) -/

/-- A counter of a ring: 0 request head, 8 request tail, 16 response head, 24 response tail. -/
def State.ringWord (s : State) (r : Ring) (off : Nat) : Nat := Memory.readNat s.mem (r.base + off) 8

def State.setRingWord (s : State) (r : Ring) (off n : Nat) : State :=
  ((s.flush (.mem (r.base + off)) 8).commitMem (r.base + off) (bytesOfNat n 8) false s.seqs).1

/-- Bytes of a response message on the ring (log 38). -/
def Resp.size : Resp → Nat
  | .notice bs => bs.length
  | .measurements _ vs _ => (vs.map (fun v => 4 + v.2.length)).sum + 4096
  | _ => 64

def Resp.slots (r : Resp) : Nat := (r.size + 4087) / 4088

/-- A slot holds its length, the flag that the message goes on, and the message's bytes as they are sent, which the model leaves
open (log 38). -/
def State.writeSlot (s : State) (r : Ring) (count len : Nat) (more : Bool) : State :=
  let (k, s) := s.draw
  let a := r.base + 2 ^ 20 + 4096 * (count % 255 + 1)
  let bytes := bytesOfNat len 4 ++ bytesOfNat (if more then 1 else 0) 4 ++ (List.range len).map (Config.cryptoByte k)
  (s.flush (.mem a) bytes.length).commitLines (bytes.zipIdx.map (fun (b : Byte × Nat) => (a + b.2, b.1))) s.seqs

def Ring.outRoom (r : Ring) (respTail : Nat) : Bool :=
  match r.pending with
  | [] => false
  | m :: _ => decide (r.head + m.slots ≤ respTail + 255)

/-- The oldest waiting response is written, the response head is raised, and the host is signalled. -/
def writeResponse (s : State) (n : Nat) (r : Ring) : State :=
  match r.pending with
  | [] => s
  | m :: rest =>
    let k := m.slots
    let s := (List.range k).foldl (fun s i =>
      s.writeSlot r (r.head + i) (Nat.min 4088 (m.size - 4088 * i)) (decide (i + 1 < k))) s
    let s := s.modRing n (fun x => { x with pending := rest, head := x.head + k })
    let s := s.setRingWord r 16 (r.head + k)
    { s with mgmt := { s.mgmt with vectors := Tbl.put s.mgmt.vectors 0 ((Tbl.at s.mgmt.vectors 0).getD 0 + 1) } }

/-- Has the host raised a head or a response tail too far? -/
def State.overRing (s : State) (r : Ring) : Bool :=
  decide (r.tail + 255 < s.ringWord r 0) || decide (r.head < s.ringWord r 24)

/-- A request slot as it stands: whether its message goes on, and its bytes; none where its fields are not as R449 has them. -/
def State.slotAt (s : State) (r : Ring) (count : Nat) : Option (Bool × List Byte) :=
  let a := r.base + 4096 * (count % 255 + 1)
  let len := Memory.readNat s.mem a 4
  let flags := Memory.readNat s.mem (a + 4) 4
  if 1 ≤ len ∧ len ≤ 4088 ∧ flags ≤ 1 then some (flags == 1, Memory.read s.mem (a + 8) len) else none

/-- A slot is consumed: it goes on with a message or ends one. A slot that is not as R449 has it takes its message with it: DESIGN CHOICE
(log 118). -/
def Ring.takeSlot (r : Ring) (slot : Option (Bool × List Byte)) : Ring :=
  match slot with
  | some (true, bs) => { r with part := r.part ++ bs }
  | some (false, bs) => { r with part := [], inbox := r.inbox ++ [r.part ++ bs] }
  | none => { r with part := [] }

/-- The slots from the tail to the head are consumed, and the tail follows. -/
def consumeSlots (s : State) (n : Nat) (r : Ring) : State :=
  let head := s.ringWord r 0
  let s := s.flush (.mem r.base) (2 ^ 20)
  let slots := (List.range (head - r.tail)).map (fun i => s.slotAt r (r.tail + i))
  (s.modRing n (fun x => { slots.foldl Ring.takeSlot x with tail := head })).setRingWord r 8 head

/-- What a ring still has to do: requests to consume, an overrun to tell once what was consumed is carried out, or responses to write. -/
def State.ringDue (s : State) (r : Ring) : Bool :=
  (!r.overrun && (s.overRing r || decide (r.tail < s.ringWord r 0))) || (r.overrun && !r.told && r.inbox.isEmpty) ||
    r.outRoom (s.ringWord r 24)

/-- Levain's trigger on the request head has fired: the slots are consumed, or the ring is overrun, with its partial message discarded and
its error response after those of what was consumed; then what responses there is room for are written. -/
def ringRequest (s : State) (n : Nat) (r : Ring) : State :=
  if !r.overrun && s.overRing r then
    (s.modRing n (fun x => { x with overrun := true, part := [] })).countViolation (dieOfAddr r.base)
  else if r.overrun && !r.told && r.inbox.isEmpty then
    s.modRing n (fun x => { x with told := true, pending := x.pending ++ [.overrun r.tail] })
  else if !r.overrun && decide (r.tail < s.ringWord r 0) then consumeSlots s n r
  else writeResponse s n r

def execSessionRingRequest (ring : Nat) (s : State) : Host.Outcome State Fault Refusal :=
  eventOpt s (((Tbl.at s.mgmt.rings ring).filter s.ringDue).map (ringRequest s ring))

/-- R450: every response is written, and the response tail has reached the response head. -/
def State.ringOver (s : State) (r : Ring) : Bool := r.told && r.pending.isEmpty && decide (r.head ≤ s.ringWord r 24)

/-- The four counters are zero again; sessions and keys are kept. -/
def resetRing (s : State) (n : Nat) (r : Ring) : State :=
  let s := s.modRing n (fun x => { x with tail := 0, head := 0, overrun := false, told := false })
  [0, 8, 16, 24].foldl (fun s off => s.setRingWord r off 0) s

def execSessionRingReset (ring : Nat) (s : State) : Host.Outcome State Fault Refusal :=
  eventOpt s (((Tbl.at s.mgmt.rings ring).filter s.ringOver).map (resetRing s ring))

/-! ## SPDM requests (R451, R452) -/

def State.sessSt (s : State) (n : Nat) : SessSt := ((Tbl.at s.mgmt.sessions n).getD {}).st

/-- A request that its session's state allows has its effect; otherwise it is refused (log 39). -/
def spdm (n : Nat) (sts : List SessSt) (f : State → State) (s : State) : Host.Outcome State Fault Refusal :=
  fromRing n s (fun s => if sts.contains (s.sessSt n) then f s else s.respond n (.refused 0xFF02))

/-- A response with opaque bytes. -/
def State.respondFree (s : State) (n : Nat) (r : Nat → Resp) : State :=
  let (k, s) := s.draw
  s.respond n (r k)

def openVersion (s : State) (n : Nat) : State :=
  let x := (Tbl.at s.mgmt.sessions n).getD {}
  ({ s with mgmt := { s.mgmt with sessions := Tbl.put s.mgmt.sessions n { x with st := .version, world := none, admin := false } } }).respond n .version

def execGetVersion (session : Nat) (s : State) : Host.Outcome State Fault Refusal :=
  spdm session [.none, .version, .capable, .negotiated, .exchanged, .ended] (fun s => openVersion s session) s

def execGetCapabilities (session : Nat) (s : State) : Host.Outcome State Fault Refusal :=
  spdm session [.version] (fun s => (s.modSession session (fun x => { x with st := .capable })).respond session .capabilities) s

/-- SHA-384, Ed25519, P-384 and AES-256-GCM are chosen. -/
def execNegotiateAlgorithms (session : Nat) (s : State) : Host.Outcome State Fault Refusal :=
  spdm session [.capable] (fun s => (s.modSession session (fun x => { x with st := .negotiated })).respond session .algorithms) s

def execGetDigests (session : Nat) (s : State) : Host.Outcome State Fault Refusal :=
  spdm session [.negotiated, .exchanged, .established] (fun s => s.respondFree session .digests) s

def execGetCertificate (session : Nat) (s : State) : Host.Outcome State Fault Refusal :=
  spdm session [.negotiated, .exchanged, .established] (fun s => s.respondFree session .certificate) s

/-- Any requester may ask for any world's measurements. -/
def execGetMeasurements (session world : Nat) (s : State) : Host.Outcome State Fault Refusal :=
  spdm session [.negotiated, .exchanged, .established] (fun s => s.respondFree session (.measurements world (s.measurements world))) s

def execKeyExchange (session : Nat) (s : State) : Host.Outcome State Fault Refusal :=
  spdm session [.negotiated] (fun s => (s.modSession session (fun x => { x with st := .exchanged })).respondFree session .keyExchange) s

/-- R446: a key for a world on the host link of a session's ring. -/
def State.keyLink (s : State) (n w : Nat) : State :=
  if ringOf n = 0 then s
  else s.modLink (63 + ringOf n) (fun l => { l with keys := Tbl.put l.keys w (0, 0), retired := without w l.retired })

/-- The session is established; with mutual authentication to the administrator root it may administer (22_link.md R422). -/
def execFinishSession (session : Nat) (mutualAdmin : Bool) (s : State) : Host.Outcome State Fault Refusal :=
  spdm session [.exchanged] (fun s =>
    ((({ s with nextId := s.nextId + 1 }).modSession session (fun x =>
      { x with st := .established, admin := mutualAdmin, opened := s.nextId, keyGen := 0 })).keyLink session 0).respond session .finished) s

/-- New keys for the session, and for its world on its host link. -/
def execKeyUpdate (session : Nat) (s : State) : Host.Outcome State Fault Refusal :=
  spdm session [.established] (fun s =>
    let s := s.modSession session (fun x => { x with keyGen := x.keyGen + 1 })
    let s := s.keyLink session (((Tbl.at s.mgmt.sessions session).bind Session.world).getD 0)
    s.respond session .keyUpdated) s

def execSpdmHeartbeat (session : Nat) (s : State) : Host.Outcome State Fault Refusal :=
  spdm session [.established] (fun s => s.respond session .heartbeat) s

def execEndSession (session : Nat) (s : State) : Host.Outcome State Fault Refusal :=
  spdm session [.established] (fun s =>
    (s.modSession session (fun x => { x with st := .ended, world := none, admin := false })).respond session .ended) s

/-! ## Worlds (R443, R448) -/

def State.bound (s : State) (n w : Nat) : Bool :=
  (Tbl.at s.mgmt.sessions n).any (fun x => x.st == .established && x.world == some w)

/-- A command of an established session: carried out with the number it answers, or refused with a code. -/
def command (n : Nat) (f : State → Except Nat (State × Nat)) (s : State) : Host.Outcome State Fault Refusal :=
  event s (s.established n && s.hasMessage n)
    (let s := s.takeMessage n
     match f s with
     | .ok (t, v) => t.respond n (.done v)
     | .error code => s.respond n (.refused code))

def State.bindSession (s : State) (n w : Nat) : State := (s.modSession n (fun x => { x with world := some w })).keyLink n w

/-- Dies become a world's: the issuing session is, or becomes, bound to it; the one that issued the world's assign command may bind a
further one (R448). A new world has no session bound to it and no die. -/
def assign (s : State) (n w : Nat) (dies : List Nat) (bind : Option Nat) : Except Nat (State × Nat) :=
  let new := (s.heldDies w).isEmpty && (Tbl.at s.mgmt.worlds w).isNone
  let mine := if new then ((Tbl.at s.mgmt.sessions n).bind Session.world).isNone
    else s.bound n w && (bind.isNone || (Tbl.at s.mgmt.worlds w).any (fun r => r.owner == n))
  if w = 0 || 15 < w || dies.any (fun d => decide (3 < d)) then .error 0xFF02
  else if !mine || dies.any (fun d => (s.die d).latch != .unassigned || !(s.served d) || (s.die d).pair == .offline) || (new && dies.isEmpty) ||
      bind.any (fun m => !s.established m || ((Tbl.at s.mgmt.sessions m).bind Session.world).any (fun x => x != w)) then .error 0xFF04
  else
    let s := dies.foldl (fun s d => s.modDie d (fun x => { x with latch := .assigned w })) s
    let s := if new then
        { (s.bindSession n w) with mgmt := { (s.bindSession n w).mgmt with
            worlds := Tbl.put s.mgmt.worlds w { images := [s.mgmt.levain], owner := n } } }
      else s
    let s := match bind with
      | some m => s.bindSession m w
      | none => s
    .ok (s.note 5 w n, 0)

def execAssignWorld (session world : Nat) (dies : List Nat) (bind : Option Nat) (s : State) : Host.Outcome State Fault Refusal :=
  command session (fun s => assign s session world dies bind) s

def execTeardownWorld (session world : Nat) (s : State) : Host.Outcome State Fault Refusal :=
  command session (fun s => if s.bound session world then .ok (s.endWorld world, 0) else .error 0xFF04) s

/-! ## Contexts (21_context.md R395, R396, 09_page.md R201) -/

/-- Does anything under way still carry a context's number? -/
def State.numberBusy (s : State) (c : Nat) : Bool := (s.ctx? c).isSome || !s.quiet c

/-- The lowest free context number. -/
def State.freeCtx (s : State) : Option Nat := (List.range 256).find? (fun c => !s.numberBusy c)

def isArena (n : Nat) : Bool := (List.range 23).any (fun k => n == 65536 * 2 ^ k)

def MapSpec.ok (m : MapSpec) : Bool :=
  m.size != 0 && m.size % 65536 == 0 && m.addr % 65536 == 0 && (if m.fabric then isDevice m.target else decide (m.target < 8))

/-- The stack region of a context holds 2^22 threads' stacks (log 40). -/
def stackBytes : Nat := 2 ^ 32

def State.newRegion (s : State) (c size : Nat) (r w : Bool) : Nat × State :=
  let va := s.freeVa c size 65536
  (va, s.addRegion c { base := va, size := size, page := 65536, r := r, w := w, x := false })

def addMap (c : Nat) (s : State) (m : MapSpec) : State :=
  let va := s.freeVa c m.size 65536
  s.mapRange c { base := va, size := m.size, page := 65536, r := m.r, w := m.w, x := false,
                 kind := if m.fabric then .fabric else .host, target := some m.target, addr := m.addr }
    (if m.fabric then 2 else 1) m.addr m.target

def create (s : State) (n w arena : Nat) (maps : List MapSpec) : Except Nat (State × Nat) :=
  if !s.bound n w || (s.diesOf w).isEmpty then .error 0xFF04
  else if !isArena arena || !maps.all MapSpec.ok then .error 0xFF02
  else if !s.levainRoom (maps.foldl (fun n m => n + tableBytes m.size) (2 ^ 26)) (2 ^ 25) then .error 0xFF03
  else
    match s.freeCtx with
    | none => .error 0xFF03
    | some c =>
      let (root, s) := s.takeLevain (2 ^ 21) (2 ^ 21)
      let (slots, s) := s.takeLevain (2 ^ 25) (2 ^ 25)
      let (k, s) := s.draw
      let x : Context := { world := w, seed := Config.seed k, ptRoot := root, slotBase := slots, arenaSize := arena, ringDie := s.anyDie w,
                           owner := (Tbl.at s.mgmt.sessions n).map (fun y => (n, y.opened)) }
      let s := { s with ctxs := Tbl.put s.ctxs c x }
      let (a, s) := s.newRegion c arena true true
      let (b, s) := s.newRegion c stackBytes true true
      let s := s.modCtx c (fun x => { x with arenaBase := a, stackBase := b, stackSize := stackBytes })
      .ok ((maps.foldl (addMap c) s).note 6 c w, c)

def execCreateContext (session world arena : Nat) (maps : List MapSpec) (s : State) : Host.Outcome State Fault Refusal :=
  command session (fun s => create s session world arena maps) s

/-! ## Loading code (02_notation.md R41 to R45, 09_page.md R203, 15_tile.md R292, 19_kernel.md R359) -/

def wordsBytes (ws : List DWord) : List Byte := ws.flatMap (fun w => bytesOfNat w.toNat 8)

/-- A kernel's code: the words that lie in memory, translated where the image is virtual, and the virtual words that they stand
for. -/
def kernelCode (i : CodeImage) (k : KernelDesc) : List DWord × List DWord :=
  let ws := kernelWords i k
  if i.isNative then (ws, []) else ((List.range ws.length).map (Config.translate ws k.entry Config.revision), ws)

def isHyperWord (w : DWord) : Bool := w.toNat / 2 ^ 58 == 16 || w.toNat / 2 ^ 58 == 17

/-- Pages in turn that go to one die: the die and how many. -/
def dieRuns : List Nat → List (Nat × Nat)
  | [] => []
  | d :: ds =>
    match dieRuns ds with
    | (e, n) :: rest => if d = e then (e, n + 1) :: rest else (d, 1) :: (e, n) :: rest
    | [] => [(d, 1)]

/-- A page of new memory, zero, mapped at an address. -/
def State.putPage (s : State) (c : Nat) (g : Region) (va pa : Nat) : State :=
  (s.zero pa 65536).mapPage c va 65536 (regionPte g 0 pa 0)

/-- Frames for a run of pages of one die, mapped at an address: frames that lie together, so that a body in them has one storage
address (08_name.md R170), or, where the die has no such room, each where there is room. -/
def mapRun (c : Nat) (g : Region) (d n va : Nat) (s : State) : Option State :=
  let w := (s.ctx c).world
  if !s.levainRoom (tableBytes (65536 * n)) 4096 then none
  else
  match s.takeFrame d w (65536 * n) 65536 with
  | some (pa, s) => some ((List.range n).foldl (fun s i => s.putPage c g (va + 65536 * i) (pa + 65536 * i)) s)
  | none => (List.range n).foldl (fun (o : Option State) i => o.bind (fun s =>
      (s.takeFrame d w 65536 65536).map (fun (pa, s) => s.putPage c g (va + 65536 * i) pa))) (some s)

/-- Frames for a range of whole pages, each on its die, mapped at an address. -/
def mapFrames (c : Nat) (g : Region) : List (Nat × Nat) → Nat → State → Option State
  | [], _, s => some s
  | (d, n) :: rest, va, s => (mapRun c g d n va s).bind (mapFrames c g rest (va + 65536 * n))

/-- Bytes that Levain places in the pages of a context. -/
def State.putBytes (s : State) (c va : Nat) (bytes : List Byte) : State :=
  let place := fun (i : Nat) => match walk s.mem (s.ctx c).ptRoot (va + i) with
    | .leaf _ e _ => some (e.addr + (va + i) % 65536)
    | _ => none
  (List.range bytes.length).foldl (fun s i => match place i with
    | some pa => { s with mem := Memory.setByte s.mem pa (bytes.getD i 0) }
    | none => s) s

/-- A region of new pages with contents; none when there is no memory. -/
def State.placeBytes (s : State) (c : Nat) (g : Region) (dies : List Nat) (bytes : List Byte) : Option State :=
  (mapFrames c g (dieRuns dies) g.base (s.addRegion c g)).map (fun s => s.putBytes c g.base bytes)

def pageCount (n : Nat) : Nat := (Nat.max n 1 + 65535) / 65536

/-- The code of an image's kernels, one after the other. -/
def codeWords (codes : List (List DWord × List DWord)) : List DWord := codes.flatMap Prod.fst

/-- The kernels of a load, from a code address on, with the addresses of the data labels. -/
def kernsFrom (labels : List Nat) : Nat → List KernelDesc → List (List DWord × List DWord) → List Kern
  | va, k :: ks, (ws, virt) :: cs =>
    let consts : Cells 32 := labels.zipIdx.foldl (fun t (l : Nat × Nat) =>
      Cells.set (Cells.set t (2 * l.2) (BitVec.ofNat 32 l.1)) (2 * l.2 + 1) (BitVec.ofNat 32 (l.1 / 2 ^ 32))) []
    { codeVa := va, size := ws.length, entry := k.entry, pool := k.pool, blocks := k.blocks, width := k.width, groups := k.groups,
      cluster := k.cluster, queue := k.queue, prio := k.prio, die := k.die,
      roleGroups := if k.roleGroups.all (fun g => g == 0) then [] else k.roleGroups,
      roleRegs := if k.roleGroups.all (fun g => g == 0) then [] else k.roleRegs,
      consts := consts, hyper := (if virt.isEmpty then ws else virt).any isHyperWord, virt := virt } :: kernsFrom labels (va + 8 * ws.length) ks cs
  | _, _, _ => []

/-- R290: the translator refuses an image whose virtual tile words break their fields. -/
def Kern.translatable (k : Kern) : Bool := k.virt.all (vtFieldsOk k)

/-- The kernels that Levain loads: the pool split word and the width keep their limits (R212, R96), every thread has 8 registers
or more and the roles fit (R98, R352), a hypervector kernel has at most eight groups (R295), and the blocks are a multiple of the
cluster size (R363). -/
def Kern.loadable (k : Kern) : Bool :=
  let r := poolRegs k
  k.roleRegs.all (fun n => decide (n ≤ 512)) && k.pool.toNat / 2 ^ 24 == 0 && decide (1 ≤ r) && decide (poolScratch k ≤ 191) && decide (poolAcc k ≤ 16) &&
    decide (r + poolScratch k + poolAcc k ≤ 192) && (k.width == 16 || k.width == 32 || k.width == 64) && k.groups != 0 &&
    (if k.roleGroups.isEmpty then decide (8 ≤ regCount k r k.groups)
     else decide ((roleNeeds k).sum ≤ r) && (k.roleGroups.zip k.roleRegs).all (fun p => p.1 == 0 || decide (8 ≤ p.2))) &&
    (!k.hyper || decide (k.groups ≤ 8)) && k.cluster != 0 && k.blocks % k.cluster == 0

/-- The address that a body takes in a tray's object store: the lowest granule past the objects sent there (log 113). -/
def State.trayRoom (s : State) (domain : Nat) : Nat :=
  (s.trayObjs.filter (fun o => o.domain == domain)).foldl (fun m o => Nat.max m (alignUp (o.addr + o.size) 16)) 0

/-- What bload has put at a remote address: bytes, and of another device's memory the tags of its granules. -/
def State.putRemote (s : State) (domain a : Nat) (body : List Byte) (tags : List Nat) : State :=
  { s with
    remote := (List.range body.length).foldl (fun t i => Tbl.put t (remoteKeyOf domain (a + i)) (body.getD i 0)) s.remote
    remoteTags := if isDevice domain then (List.range ((body.length + 15) / 16)).foldl (fun t i =>
        Tbl.put t (remoteKeyOf domain (a / 16 + i)) (tags.contains i)) s.remoteTags
      else s.remoteTags }

/-- R45: a body is registered in place as an object of this device (log 97), known as an object of another device of the run, or sent
to its tray. One whose id the world already has there is registered beside the older one, which its name goes on to give (log 69). -/
def placeObject (c dataVa : Nat) (tags : List Nat) (data : List Byte) (far : List FarObject) (s : State) (o : ObjectDesc × Nat) : State :=
  let w := (s.ctx c).world
  let apart := far.find? (fun x => x.index == o.2)
  let o := o.1
  if o.home = s.devNum then
    match s.together c (dataVa + o.offset) o.size with
    | some pa => { s with objects := s.objects ++ [{ home := o.home, serial := o.id, live := o.live, size := o.size, storage := pa, world := w }] }
    | none => s
  else if isDevice o.home then
    match apart with
    | some x => { s.putRemote o.home x.addr x.body x.tags with
        objects := s.objects ++ [{ home := o.home, serial := o.id, live := o.live, size := o.size, storage := x.addr, world := w }] }
    | none => s
  else
    let a := s.trayRoom o.home
    let body := (apart.map FarObject.body).getD ((data.drop o.offset).take o.size)
    let gs := (apart.map FarObject.tags).getD
      ((tags.filter (fun t => decide (o.offset ≤ t) && decide (t < o.offset + o.size))).map (fun t => (t - o.offset) / 16))
    { s.putRemote o.home a body [] with
      trayObjs := s.trayObjs ++ [{ domain := o.home, serial := o.id, live := o.live, size := o.size, addr := a, tags := gs }] }

/-- The data image that the object holds, which is this device's own (log 112): one range of pages, each on its die, or on another of the
world where the world lacks it (log 96), with its tagged granules. -/
def placeData (s : State) (c : Nat) (obj : CodeObject) (pageDies : List Nat) : Option (Nat × State) :=
  if obj.data.isEmpty then some (0, s)
  else
    let w := (s.ctx c).world
    let n := pageCount obj.data.length
    let va := s.freeVa c (65536 * n) 65536
    let dies := (List.range n).map (fun i =>
      let d := pageDies.getD i 0
      if (s.diesOf w).contains d then d else s.anyDie w)
    let g : Region := { base := va, size := 65536 * n, page := 65536, r := true, w := true, x := false }
    let tag := fun (s : State) (t : List Nat) (a : Nat) =>
      match s.vaPlace c (va + a) .read with
      | some (.mem pa) => insertNat (pa / 16) t
      | _ => t
    (s.placeBytes c g dies obj.data).map (fun s => (va, { s with gtags := obj.tags.foldl (tag s) s.gtags }))

/-- R45, R459: the address of each data label, here or on the device of its section. -/
def labelsAt (dataVa : Nat) (labels : List Nat) (elsewhere : List (Option Nat)) : List Nat :=
  labels.zipIdx.map (fun (l : Nat × Nat) => ((elsewhere.getD l.2 none).getD (dataVa + l.1)))

def loadImage (s : State) (c : Nat) (spec : LoadSpec) (obj : CodeObject) (i : CodeImage) : Except Nat (State × Nat) :=
  let x := s.ctx c
  let r := (Tbl.at s.mgmt.worlds x.world).getD {}
  let codes := i.kernels.map (kernelCode i)
  let words := codeWords codes
  if sha384 i.bytes != i.digest || obj.images.any (fun i => decide (256 < i.kernels.length)) then .error 0xFF02
  else if 256 ≤ x.objects || 240 ≤ r.entries.length then .error 0xFF04
  else if !(kernsFrom [] 0 i.kernels codes).all Kern.loadable then .error 0xFF02
  else
    let n := pageCount (8 * words.length)
    let va := s.freeVa c (65536 * n) 65536
    let m := obj.mutableCode
    let g : Region := { base := va, size := 65536 * n, page := 65536, r := m, w := m, x := true, measured := !m }
    match s.placeBytes c g (List.replicate n (s.anyDie x.world)) (wordsBytes words) with
    | none => .error 0xFF03
    | some s =>
      match placeData s c obj spec.pageDies with
      | none => .error 0xFF03
      | some (dataVa, s) =>
        let ks := kernsFrom (labelsAt dataVa obj.labels spec.labelAt) va i.kernels codes
        let entry := (i.digest, if i.isNative then none else some (sha384 (wordsBytes words)))
        if !ks.all Kern.translatable then .error 0xFF02
        else
        let s := s.modCtx c (fun x =>
          { x with objects := x.objects + 1, peers := x.peers ++ spec.run,
                   kernels := ks.zipIdx.foldl (fun (t : Tbl Kern) (k : Kern × Nat) => Tbl.put t (256 * x.objects + k.2) k.1) x.kernels })
        let report := { r with entries := r.entries ++ [entry], mutableCode := r.mutableCode || m }
        let s := { s with mgmt := { s.mgmt with worlds := Tbl.put s.mgmt.worlds x.world report } }
        .ok ((obj.objects.zipIdx.foldl (placeObject c dataVa obj.tags obj.data spec.far) s).note 7 c x.objects, x.objects)

def loadCode (s : State) (n c : Nat) (spec : LoadSpec) : Except Nat (State × Nat) :=
  match s.ctx? c with
  | none => .error 0xFF02
  | some x =>
    if !s.bound n x.world then .error 0xFF04
    else
      match (object spec.bytes).bind (fun obj => (chooseImage obj.images).map (fun i => (obj, i))) with
      | none => .error 0xFF02
      | some (obj, i) => loadImage s c spec obj i

def execLoadCode (session ctx : Nat) (obj : LoadSpec) (s : State) : Host.Outcome State Fault Refusal :=
  command session (fun s => loadCode s session ctx obj) s

/-! ## Enqueues (R45, R360) -/

def hostEnqueue (s : State) (n c kernel blocks q prio : Nat) (arg : DWord) (dep : Bool) : Except Nat (State × Nat) :=
  match s.ctx? c with
  | none => .error 0xFF02
  | some x =>
    if !s.bound n x.world then .error 0xFF04
    else
      match Tbl.at x.kernels kernel with
      | none => .error 1
      | some k =>
        let nb := if blocks = 0 then k.blocks else blocks
        if nb = 0 || 2 ^ 32 ≤ nb || nb % k.cluster != 0 || 64 ≤ q || 4 ≤ prio then .error 2
        else
          match s.enqueue { ctx := c, die := if k.die = 255 then 0 else k.die, kern := kernel, arg := arg, blocks := nb, q := q, prio := prio,
                            dep := dep, vec := s.seqs } with
          | none => .error 3
          | some (t, h) => .ok (t, h.toNat)

def execHostEnqueue (session ctx kernel blocks queue prio : Nat) (arg : BitVec 64) (dep : Bool) (s : State) :
    Host.Outcome State Fault Refusal :=
  command session (fun s => hostEnqueue s session ctx kernel blocks queue prio arg dep) s

/-! ## Firmware (R408, R451) -/

/-- The device takes its own firmware only when both signatures verify. -/
def execFirmwareUpdate (session : Nat) (digest : BitVec 384) (s : State) : Host.Outcome State Fault Refusal :=
  command session (fun s =>
    if Config.signaturesVerify digest then .ok ({ s with mgmt := { s.mgmt with switch := some digest } }, 0) else .error 0xFF04) s

/-! ## The exported pool (22_link.md R427) -/

def PoolEntry.ok (p : PoolEntry) : Bool :=
  decide (p.host < 8) && p.link.all (fun l => decide (l < 8)) && p.size != 0 && p.base % 2 ^ 30 == 0 && p.size % 2 ^ 30 == 0 &&
    decide (p.cls ≤ 3) && (p.cls == 0 || (decide (1 ≤ p.weight) && decide (p.weight ≤ 255)))

/-- The pages of a region list that lie in a 1 GiB region of memory. -/
def State.pagesIn (s : State) (c region : Nat) : List (Nat × Nat) :=
  (s.ctx c).regions.flatMap (fun g =>
    if g.part || g.kind != .device then []
    else (pagesOf g.base g.size g.page).filterMap (fun va =>
      match walk s.mem (s.ctx c).ptRoot va with
      | .leaf _ e _ => if e.kind == 0 && e.addr / 2 ^ 30 == region then some (va, g.page) else none
      | _ => none))

/-- Does another context of the device have memory in a region: a page, a partition or a counter region mapped from it (log 108)? -/
def State.othersIn (s : State) (c region : Nat) : Bool :=
  s.ctxs.any (fun e => e.1 != c &&
    (!(s.pagesIn e.1 region).isEmpty || e.2.pool.any (fun p => (regionsOf p.base p.size).contains region)))

/-- Partitions are the same, or do not meet; one entry for each host, and one at most for CXL. -/
def poolsFit : List PoolEntry → Bool
  | [] => true
  | p :: ps => ps.all (fun q => p.host != q.host && !(p.link.isNone && q.link.isNone) &&
      ((p.base == q.base && p.size == q.size) || decide (p.base + p.size ≤ q.base) || decide (q.base + q.size ≤ p.base))) && poolsFit ps

def openPool (s : State) (n c : Nat) (es : List PoolEntry) : Except Nat (State × Nat) :=
  match s.ctx? c with
  | none => .error 0xFF02
  | some x =>
    let rs := es.flatMap (fun p => regionsOf p.base p.size)
    if !s.bound n x.world || !x.pool.isEmpty || (es.any (fun p => p.link.isNone) && s.ctxs.any (fun e => e.2.pool.any (fun p => p.link.isNone))) then
      .error 0xFF04
    else if es.isEmpty || 8 < es.length || !es.all PoolEntry.ok || !poolsFit es ||
        !rs.all (fun r => decide (r < 1024) && s.regionWorld (r * 2 ^ 30) == x.world && !s.othersIn c r) then .error 0xFF02
    else
      let s := s.modCtx c (fun x => { x with pool := es })
      .ok ({ s.note 8 c es.length with mgmt := { (s.note 8 c es.length).mgmt with
        firewall := rs.foldl (fun f r => Cells.set f r (Cells.get f r ||| 0x10)) s.mgmt.firewall } }, 0)

def execOpenPool (session ctx : Nat) (entries : List PoolEntry) (s : State) : Host.Outcome State Fault Refusal :=
  command session (fun s => openPool s session ctx entries) s

/-! ## The firewall (R444, R445) -/

/-- A region without the pages of a list; what `alloc` or `map_object` took of them is gone with them. -/
def cutRegion (ps : List (Nat × Nat)) (g : Region) : List Region :=
  if g.part then (if ps.any (fun p => decide (p.1 < g.base + g.size) && decide (g.base < p.1 + p.2)) then [] else [g])
  else (pagesOf g.base g.size g.page).filterMap (fun va =>
    if ps.any (fun p => p.1 == va) then none else some { g with base := va, size := Nat.min g.page (g.base + g.size - va) })

/-- Step 1: the mappings are cleared, and the invalidation of each begins (step 2). -/
def unmapRegion (s : State) (region c : Nat) : State × List Nat :=
  let ps := s.pagesIn c region
  if ps.isEmpty then (s, [])
  else
    let s := s.modCtx c (fun x => { x with regions := x.regions.flatMap (fun g =>
      if g.kind == .device && (g.part || ps.any (fun p => decide (g.base ≤ p.1) && decide (p.1 < g.base + g.size))) then cutRegion ps g else [g]) })
    ps.foldl (fun (a : State × List Nat) p =>
      let (id, t) := (a.1.unmapPage c p.1).startInval c p.1 (some p.2)
      (t, a.2 ++ [id])) (s, [])

/-- May a region go to a world: to Levain, or one of a die latched to the world in which Levain has nothing of its own (R444)? -/
def State.mayOwn (s : State) (region w : Nat) : Bool :=
  w == 0 || ((s.die (region / 256)).latch == .assigned w && !s.levainHas region)

def beginReassign (s : State) (region w : Nat) : State :=
  let old := s.regionWorld (region * 2 ^ 30)
  let (s, ids) := (s.ctxs.filter (fun e => e.2.world == old && old != 0)).foldl (fun (a : State × List Nat) e =>
    let (t, is) := unmapRegion a.1 region e.1
    (t, a.2 ++ is)) (s, [])
  { s with mgmt := { s.mgmt with reassign := some (region, w, ids) } }

/-- Steps 3 and 4, once every invalidation is complete: the region is zeroed and its entry written. -/
def endReassign (s : State) (region w : Nat) : State :=
  let t := (s.scrubRange (region * 2 ^ 30) (2 ^ 30)).note 9 region w
  { t with mgmt := { t.mgmt with reassign := none, firewall := Cells.set t.mgmt.firewall region (BitVec.ofNat 8 w) } }

/-- The reassignment under way, when nothing holds it back any more. -/
def State.reassigned (s : State) : Option (Nat × Nat) :=
  s.mgmt.reassign.bind (fun x => if s.invals.any (fun v => x.2.2.contains v.id) then none else some (x.1, x.2.1))

def execFirewallReassign (region world : Nat) (s : State) : Host.Outcome State Fault Refusal :=
  .next (match s.mgmt.reassign with
    | some x => if x.1 = region ∧ x.2.1 = world ∧ s.reassigned.isSome then endReassign s region world else s
    | none => if region < 1024 ∧ world ≤ 15 ∧ s.mayOwn region world then beginReassign s region world else s)

end Sys2Proof.Machine
end

