-- ==== Sys2Proof/Machine/Hazard.lean ====
section
/-!
DEFINITION. Operands still on their way: the registers that a word names, and the lanes that wait for them before the schedulers
pick, so that only ready lanes count (05_group.md R101, R102, R104).
-/

set_option linter.unusedVariables false

namespace Sys2Proof.Machine

/-- The vector registers of a lane that a word names, as its meaning gives them to `runWord`; none for an event row. The
hypervector and tile words, which wait as whole paths, are not among them. -/
def wordUses (s : State) (i : Instr) : List Nat :=
  match i with
  | .brx f | .callx f | .yld f | .loop f | .rgrow f | .rshrink f | .halt f => srcUse false f.a
  | .join f => srcUse true f.a
  | .jwait f b _ => if b then srcUse false f.a else []
  | .add f m | .sub f m | .mul f m | .mulh f m | .div f m | .rem f m | .min f m | .max f m | .mulmod f m | .andB f m | .orB f m
  | .xorB f m => intUse f m false
  | .mad f m => intUse f m false ++ regUse m.ty.wide f.c
  | .abs f m | .neg f m | .notB f m | .clz f m | .popc f m | .brev f m => intUse1 f m
  | .shl f m | .shr f m | .sra f m | .rol f m | .bfe f m | .bfi f m => intUse f m true
  | .addL l m | .mulL l m | .andL l m | .orL l m | .xorL l m => regUse m.ty.wide l.d
  | .cmp f ty _ => srcUse ty.wide f.a ++ srcUse ty.wide f.b
  | .sel f ty _ => srcUse ty.wide f.a ++ srcUse ty.wide f.b ++ regUse ty.wide f.d
  | .mov f ty sc => srcUse ty.wide f.a ++ (if sc then [] else regUse ty.wide f.d)
  | .movl l ty sc => if sc then [] else regUse ty.wide l.d
  | .rdsr f ty sc => if sc then [] else regUse ty.wide f.d
  | .fadd f m | .fsub f m | .fmul f m | .fmin f m | .fmax f m | .fdiv f m => fltUse f m
  | .ffma f m => fltUse f m ++ regUse m.ty.wide f.c
  | .fabs f m | .fneg f m | .frcp f m | .frsq f m | .fsqrt f m | .fexp2 f m | .flog2 f m | .fsin f m | .fcos f m | .frnd f m =>
    fltUse1 f m
  | .fcmp f m _ => srcUse m.ty.wide f.a ++ srcUse m.ty.wide f.b
  | .faddL l m | .fmulL l m => regUse m.ty.wide l.d
  | .fclass f m => srcUse m.ty.wide f.a ++ regUse false f.d
  | .cvt f m ty2 => srcUse ty2.wide f.a ++ regUse m.ty.wide f.d
  | .pack f m ty2 _ => srcUse ty2.wide f.a ++ srcUse false f.b ++ regUse false f.d
  | .unpack f m _ _ => srcUse false f.a ++ srcUse false f.b ++ regUse m.ty.wide f.d
  | .lmul f m _ _ => srcUse false f.a ++ srcUse false f.b ++ regUse m.ty.wide f.d
  | .lcvt f m src => srcUse src.wide f.a ++ regUse m.ty.wide f.d
  | .ldot f _ => srcUse false f.a ++ srcUse false f.b ++ regUse false f.c ++ regUse false f.d
  | .vote f ty op => srcUse ty.wide f.a ++ srcUse true f.b ++ (if op == .ballot then regUse true f.d else [])
  | .shfl f ty _ => srcUse ty.wide f.a ++ srcUse false f.b ++ regUse ty.wide f.d
  | .matchK f ty => srcUse ty.wide f.a ++ srcUse true f.b ++ regUse true f.d
  | .lred f m _ _ => srcUse m.ty.wide f.a ++ regUse m.ty.wide f.d
  | .lscan f m _ _ _ => srcUse m.ty.wide f.a ++ regUse m.ty.wide f.d
  | .ld m _ | .ldSp m _ | .st m _ | .stSp m _ => baseUse m.base ++ regUse m.ty.wide m.data
  | .ldq m _ | .ldqSp m _ | .stq m _ | .stqSp m _ => baseUse m.base ++ quadUse m.data
  | .prf m _ | .cwb m _ | .cinv m _ | .pfetch m _ => baseUse m.base
  | .prel m => baseUse m.base
  | .atom m _ src _ nr => baseUse m.base ++ regUse m.ty.wide src ++ (if nr then [] else regUse m.ty.wide m.data)
  | .cas m src => baseUse m.base ++ regUse m.ty.wide src ++ regUse m.ty.wide m.data
  | .kcas m src n => baseUse m.base ++ manyUse src (2 * (n.toNat + 1)) ++ manyUse m.data (2 * (n.toNat + 1))
  | .kenq m src => baseUse m.base ++ regUse true src ++ regUse true m.data
  | .kdeq m => baseUse m.base ++ regUse true m.data
  | .kchase m src _ testKey => baseUse m.base ++ (if testKey then regUse true src else []) ++ quadUse m.data
  | .ldn m _ | .stn m _ => baseUse m.base ++ regUse true m.data
  | .peq f => srcUse true f.a ++ srcUse true f.b
  | .padd f | .psub f => srcUse true f.a ++ srcUse false f.b ++ regUse true f.d
  | .pinfo f | .pswz f | .pgq f => srcUse true f.a ++ regUse true f.d
  | .pnam f => srcUse true f.a ++ quadUse f.d
  | .cnadd f _ | .cnset f _ | .cnwait f _ => counterUse f
  | .cnget f _ sc => srcUse true f.a ++ (if sc then [] else regUse true f.d)
  | .trig f => counterUse f ++ regUse true f.c ++ regUse false f.d
  | .trigx f => srcUse false f.a ++ regUse false f.d
  | .cpy f _ _ _ => srcUse true f.a ++ srcUse false f.b ++ regUse true f.d
  | .nwr f _ | .nrd f _ => srcUse true f.a ++ srcUse false f.b ++ quadUse f.d
  | .natom f _ _ _ _ => srcUse true f.a ++ srcUse true f.b ++ quadUse f.d
  | .nlist f _ => srcUse true f.a ++ srcUse false f.b
  | .binit f _ | .barr f _ _ _ | .bwait f _ _ | .btest f _ _ => barrierUse f
  | .spawn f => srcUse false f.a ++ srcUse true f.b
  | .klaunch f _ => srcUse false f.a ++ srcUse true f.b ++ [f.c.toNat, f.c.toNat + 1] ++ [f.d.toNat]
  | .idem f n => (List.range n.toNat).map (fun k => srcIx f.a + k)
  | .sys f => sysUse f
  | .emget f => srcUse false f.a ++ regUse true f.d ++ recordUse s
  | .emset f _ => srcUse true f.a ++ recordUse s
  | .csrr f sc | .wid f sc => destUse sc true f.d
  | .csrw f | .csrwParkThreshold f | .csrwSpawnTimer f => srcUse true f.b
  | .fexr f _ sc => srcUse false f.a ++ destUse sc false f.d
  | .pginv f _ => srcUse true f.a ++ srcUse false f.b
  | .lnkq f _ sc => srcUse false f.a ++ destUse sc true f.d
  | .vtLd w | .vtSt w => vtUse w
  | .vtMap w => srcUse false (vtForm w).b
  | i =>
    match i.halves with
    | some (x, y) => halfUse (halfFn x.op) x.h ++ halfUse (halfFn y.op) y.h
    | none => []

/-- What a hypervector word waits for as a whole: its guard, the hypervectors and the vector registers that it names. -/
def hyperUses : Instr → Option (Guard × List Nat × List Nat)
  | .hld m _ | .hst m _ => some (m.g, [m.data.toNat], baseUse m.base)
  | .hmset m idx => some (m.g, [m.data.toNat], baseUse m.base ++ [idx.toNat])
  | .hmov f => some (f.g, [f.d.toNat, srcIx f.a], [])
  | .hxor f => some (f.g, [f.d.toNat, srcIx f.a, srcIx f.b], [])
  | .hrot f _ => some (f.g, [f.d.toNat, srcIx f.a], srcUse false f.b)
  | .hacc f _ => some (f.g, [srcIx f.a], [])
  | .hthr f => some (f.g, [f.d.toNat], [])
  | .hclr f acc => some (f.g, if acc then [] else [f.d.toNat], [])
  | .hpop f | .htie f => some (f.g, [srcIx f.a], [])
  | .hdist f => some (f.g, [srcIx f.a, srcIx f.b], [])
  | .hgen f => some (f.g, [f.d.toNat], srcUse true f.a)
  | .hmatch f q _ => some (f.g, [q.toNat], srcUse true f.a ++ srcUse false f.b)
  | _ => none

/-- The tile words that read scale bytes. -/
def tileUses : Instr → Option (TileKind × TForm)
  | .tcvt t => some (.tcvt, t)
  | .tmma t => some (.tmma, t)
  | .tloop t => some (.tloop, t)
  | _ => none

/-- The word that stands at an address, as the decoder reads it. -/
def peekInstr (s : State) (core ctx : Nat) (k : Kern) (pc : Nat) : Option Instr :=
  match codeWord s core ctx k pc with
  | none => none
  | some w =>
    match decode (if pc = 0 then none else codeWord s core ctx k (pc - 1)) w with
    | .ok i => some i
    | .error _ => none

/-- The key of a candidate in its group. -/
def Candidate.key (c : Candidate) : Nat := c.kern * 2 ^ 32 + c.pc

/-- Joins a lane to the candidate at its address. -/
def joinCandidate (blk grp l kern pc : Nat) : List Candidate → List Candidate
  | [] => [{ blk := blk, grp := grp, kern := kern, pc := pc, lanes := [l] }]
  | c :: cs => if c.kern = kern ∧ c.pc = pc then { c with lanes := c.lanes ++ [l] } :: cs else c :: joinCandidate blk grp l kern pc cs

/-- R102: the ready lanes of a group at one address form a candidate. -/
def candidates (blk gi : Nat) (g : Group) : List Candidate :=
  ((List.range g.lanes.length).filter (fun l => (g.lane l).st == .ready && g.mayIssue l)).foldl (fun cs l =>
    joinCandidate blk gi l (g.lane l).kern (g.lane l).pc cs) []

/-- The requests that lanes of a candidate wait for before its word can issue in them (R101). -/
def lateLanes (s : State) (c : Candidate) (i : Instr) : List (Nat × List Nat) :=
  let f : Focus := { blk := c.blk, grp := c.grp, kern := c.kern, pc := c.pc, lanes := c.lanes, word := 0 }
  let n := (s.fgroup f).nregs
  let all := fun (ids : List Nat) => if ids.isEmpty then [] else c.lanes.map (fun l => (l, ids))
  let own := fun (use : List Nat) (l : Nat) => if pendHit n use (s.flane f l) then pendIds s f n use l else []
  match hyperUses i, tileUses i with
  | some (g, hs, use), _ => (match lowestActing s f g with | none => [] | some l => all (hyperPending s f hs ++ own use l))
  | none, some (kind, t) => (match lowestActing s f t.g with | none => [] | some l => all (scalePending s f (tileCmdOf s f l kind t)))
  | none, none =>
    c.lanes.filterMap (fun l =>
      let ids := own (wordUses { s with focus := some f } i) l
      if ids.isEmpty then none else some (l, ids))

/-- R101: the ready lanes of a group whose next word needs a result not yet delivered wait for it. -/
def holdGroup (s : State) (blk gi : Nat) : State :=
  let b := s.block blk
  ((candidates blk gi (b.group gi)).flatMap (fun c =>
    match s.kern b.ctx c.kern with
    | none => []
    | some k => (match peekInstr s b.core b.ctx k c.pc with | none => [] | some i => lateLanes s c i))).foldl
    (fun s x => s.modLane blk gi x.1 (fun l => { l with st := .waiting (.reqs x.2) })) s

def Group.awaits (g : Group) : Bool := !g.hpend.isEmpty || g.lanes.any (fun l => !l.pend.isEmpty)

def State.holdLanes (s : State) : State :=
  s.blocks.foldl (fun s e =>
    if e.2.st = .resident ∧ e.2.groups.any Group.awaits ∧ !(s.core e.2.core).frozen then
      e.2.groups.zipIdx.foldl (fun s g => if g.1.awaits then holdGroup s e.1 g.2 else s) s
    else s) s

end Sys2Proof.Machine
end

