-- ==== Sys2Proof/Machine/Issue.lean ====
section
/-!
DEFINITION. The issue rule: the candidates of each scheduler, their ageing and the picks for its two slots (05_group.md R102 to
R105).
-/

set_option linter.unusedVariables false

namespace Sys2Proof.Machine

/-- A candidate as a scheduler sees it. -/
structure Choice where
  c : Candidate
  age : Nat
  num : Nat
  passed : Nat
  aged : Bool
  /-- Physical lanes of the scheduler. -/
  phys : List Nat
  deriving DecidableEq, Repr

def choicesOf (blk : Nat) (b : Block) (gi : Nat) (g : Group) : List Choice :=
  (candidates blk gi g).map (fun c =>
    { c := c, age := b.age, num := g.num, passed := (Tbl.at g.passed c.key).getD 0, aged := g.aged.contains c.key,
      phys := c.lanes.map (fun l => 16 * g.slice + l) })

/-- The ready candidates of a scheduler of a core. -/
def State.choices (s : State) (core sched : Nat) : List Choice :=
  if (s.core core).frozen then []
  else s.blocks.flatMap (fun e =>
    if e.2.core = core ∧ e.2.st = .resident then
      e.2.groups.zipIdx.flatMap (fun (g : Group × Nat) => if g.1.sched = sched then choicesOf e.1 e.2 g.2 g.1 else [])
    else [])

/-- More active lanes, then the older group, then the lower PC. -/
def Choice.before (a b : Choice) : Bool :=
  if a.c.lanes.length != b.c.lanes.length then decide (b.c.lanes.length < a.c.lanes.length)
  else if a.age != b.age then decide (a.age < b.age)
  else if a.num != b.num then decide (a.num < b.num)
  else decide (a.c.key < b.c.key)

/-- Among aged candidates the number of cycles passed over decides first. -/
def Choice.agedBefore (a b : Choice) : Bool := if a.passed != b.passed then decide (b.passed < a.passed) else a.before b

/-- The first element by an order. -/
def firstBy {α : Type} (lt : α → α → Bool) : List α → Option α
  | [] => none
  | x :: xs => some (xs.foldl (fun a b => if lt b a then b else a) x)

/-- R104: one pick. -/
def pickOne (cs : List Choice) : Option Choice :=
  let aged := cs.filter Choice.aged
  if aged.isEmpty then firstBy Choice.before cs else firstBy Choice.agedBefore aged

/-- R104: what the two slots take. -/
def pickTwo (cs : List Choice) : List Choice :=
  match pickOne cs with
  | none => []
  | some a =>
    match pickOne (cs.filter (fun b => b.c != a.c && b.phys.all (fun p => !a.phys.contains p))) with
    | none => [a]
    | some b => [a, b]

/-- A group's counts after a cycle: one more for each ready candidate that was passed over; the others have none. -/
def Group.pass (g : Group) (ready picked : List Candidate) : Group :=
  let rest := (ready.filter (fun c => !picked.contains c)).map Candidate.key
  { g with passed := rest.foldl (fun t k => Tbl.put t k ((Tbl.at g.passed k).getD 0 + 1)) [],
           aged := g.aged.filter (fun k => rest.contains k) }

/-- The cores that hold blocks. -/
def State.busyCores (s : State) : List Nat := s.blocks.foldl (fun l e => insertNat e.2.core l) []

/-- R104: lanes whose operands are on their way wait (R101), and every scheduler fills its slots; the word of the first slot goes before that of the second (R106). -/
def pickIssues (s : State) : State :=
  let s := s.holdLanes
  let slots := s.busyCores.flatMap (fun c => (List.range 4).flatMap (fun k => (pickTwo (s.choices c k)).zipIdx))
  let picks := slots.map (fun x => x.1.c)
  let issues := slots.map (fun x => Item.issue { x.1.c with second := x.2 == 1 })
  let blocks := s.blocks.map (fun (e : Nat × Block) =>
    if e.2.st = .resident && !(s.core e.2.core).frozen then
      (e.1, { e.2 with groups := e.2.groups.zipIdx.map (fun (g : Group × Nat) => g.1.pass (candidates e.1 g.2 g.1) picks) })
    else e)
  { s with blocks := blocks, agenda := issues ++ s.agenda }

/-- A candidate that has been passed over for 32 issue cycles is aged. -/
def Group.agesAt (g : Group) (pc : Nat) : List Nat :=
  (g.passed.filter (fun e => e.1 % 2 ^ 32 == pc && decide (32 ≤ e.2) && !g.aged.contains e.1)).map Prod.fst

def execCandidateAged (blk grp pc : Nat) (s : State) : Host.Outcome State Fault Refusal :=
  .next (s.modGroup blk grp (fun g => { g with aged := g.aged ++ g.agesAt pc }))

end Sys2Proof.Machine
end

