-- ==== Sys2Proof/Machine/Cycle.lean ====
section
/-!
DEFINITION. The end of a cycle, and the events that are due in the next one: what the hardware does by itself stands in the agenda
as soon as its condition holds, in the order below, after what comes from outside (log 2).
-/

set_option linter.unusedVariables false

namespace Sys2Proof.Machine

/-! ## The end of a cycle -/

/-- Blocks that run: resident, on a core that is not frozen. -/
def State.runs (s : State) (b : Block) : Bool := b.st == .resident && !(s.core b.core).frozen

/-- Every group of the blocks that run changed. -/
def State.onRunning (s : State) (f : Group → Group) : State :=
  { s with blocks := s.blocks.map (fun (e : Nat × Block) =>
      (e.1, if s.runs e.2 then { e.2 with groups := e.2.groups.map f } else e.2)) }

/-- R157: the cycles that the open executions of a running group have been open. -/
def Group.countExecs (g : Group) : Group :=
  if g.trap.isSome then g
  else { g with execs := g.execs.map (fun (x : Execution) => { x with cycles := x.cycles + 1 }) }

/-- R395: a LIVE context that has nothing left to do. -/
def State.idle (s : State) (c : Nat) (x : Context) : Bool :=
  x.st == .live && s.insts.all (fun e => e.2.ctx != c || e.2.st == .retired) &&
    s.blocks.all (fun e => e.2.ctx != c || e.2.st == .retired) &&
    s.cores.all (fun e => e.2.bins.all (fun b => (s.inst b.inst).ctx != c)) &&
    x.ring.isEmpty && x.aside.isEmpty && x.replies.isEmpty

def State.completeCtxs (s : State) : State :=
  { s with ctxs := s.ctxs.map (fun (e : Nat × Context) => (e.1, if s.idle e.1 e.2 then { e.2 with st := .complete } else e.2)) }

/-- R355, R397: since when every lane of a block's unit waits, and the threshold of that wait: a later threshold counts at once,
but 0 only for waits that begin after it. -/
def State.markWaits (s : State) : State :=
  { s with blocks := s.blocks.map (fun (e : Nat × Block) =>
      (e.1, if s.unitWaits e.1 then
          let now := (s.ctx e.2.ctx).parkThreshold.toNat
          (if e.2.waitSince.isSome then (if now = 0 then e.2 else { e.2 with waitThreshold := now })
           else { e.2 with waitSince := some s.ns, waitThreshold := now })
        else { e.2 with waitSince := none })) }

/-- The clock goes on by one cycle of the arithmetic clock, and the time base with it. -/
def State.tick (s : State) : State :=
  let r := s.nsRem + 1000
  { s with clock := s.clock + 1, ns := s.ns + r / Nat.max 1 s.mhz, nsRem := r % Nat.max 1 s.mhz }

/-- What the end of a cycle does by itself: requests that had no room leave (22_link.md R424, R433), the searches of Luna units go on
by the cycle's granules (16_hypervector.md R311), pages whose fills failed are reserved again (09_page.md R202), calls are posted,
executions and rejoin waits complete, ended contexts lose their queues (20_queue.md R382), a register deadlock is resolved (05_group.md
R126), instances start, contexts complete. -/
def State.settle (s : State) : State :=
  let s := s.launchWaiting
  let s := (s.cores.filter (fun e => !e.2.luna.isEmpty)).foldl (fun s e => lunaCycle s e.1) s
  let s := s.dropFailed
  let s := s.blocks.foldl (fun s e => s.postSys e.1) s
  let s := s.onRunning (fun g => (finishExecs g).countExecs.closeWaits)
  let s := s.ctxs.foldl (fun s e => if e.2.ended then s.freeEndedQueues e.1 else s) s
  let s := s.busyCores.foldl State.regDeadlock s
  s.startInsts.completeCtxs.markWaits

/-! ## Events that are due -/

/-- A due event takes place as its row of the opcode table says. -/
def Due.run (e : Due) (s : State) : Host.Outcome State Fault Refusal :=
  match e with
  | .candidateAged blk grp pc => execCandidateAged blk grp pc s
  | .laneResultArrival blk grp lane => execLaneResultArrival blk grp lane s
  | .jwaitTimeout blk grp j => execJwaitTimeout blk grp j s
  | .membershipTimeout blk grp pc => execMembershipTimeout blk grp pc s
  | .yieldExpiry blk grp lane => execYieldExpiry blk grp lane s
  | .rgrowGrant core => execRgrowGrant core s
  | .thresholdNotification ctx => execThresholdNotification ctx s
  | .blockRetire blk => execBlockRetire blk s
  | .instanceRetire inst => execInstanceRetire inst s
  | .unitPlacement die => execUnitPlacement die s
  | .preemptionGraceExpiry die => execPreemptionGraceExpiry die s
  | .preemptionHalt blk => execPreemptionHalt blk s
  | .blockSaveComplete blk => execBlockSaveComplete blk s
  | .parkThresholdExpiry blk => execParkThresholdExpiry blk s
  | .spawnTimerExpiry core bin => execSpawnTimerExpiry core bin s
  | .ktrigReleaseComplete blk => execKtrigReleaseComplete blk s
  | .leadCountUpdate blk nb => execLeadCountUpdate blk nb s
  | .codePrefetch core => execCodePrefetch core s
  | .homeSliceRequest req => execHomeSliceRequest req s
  | .noticeApply die home => execNoticeApply die home s
  | .replicaLineInstall die line => execReplicaLineInstall die line s
  | .loadReply req => execLoadReply req s
  | .storeAck req => execStoreAck req s
  | .atomicLeaseExpiry line => execAtomicLeaseExpiry line s
  | .atomicWriteBackComplete line => execAtomicWriteBackComplete line s
  | .combiningArrival req => execCombiningArrival req s
  | .combinedRequestForward die entry => execCombinedRequestForward die entry s
  | .decombineReply die rcd => execDecombineReply die rcd s
  | .combiningRecordExpiry die req => execCombiningRecordExpiry die req s
  | .kneaderPacketPerform req => execKneaderPacketPerform req s
  | .objectResolution res => execObjectResolution res s
  | .fetchComplete ctx slot => execFetchComplete ctx slot s
  | .slotInvalidationAck ctx slot core => execSlotInvalidationAck ctx slot core s
  | .pageFillComplete ctx page => execPageFillComplete ctx page s
  | .pageFillFail ctx page => execPageFillFail ctx page s
  | .invalidationReceipt inv agent => execInvalidationReceipt inv agent s
  | .invalidationAck inv agent => execInvalidationAck inv agent s
  | .launchAction die idx => execLaunchAction die idx s
  | .copyAction die idx => execCopyAction die idx s
  | .networkWriteAction die idx => execNetworkWriteAction die idx s
  | .networkReadAction die idx => execNetworkReadAction die idx s
  | .networkAtomicAction die idx => execNetworkAtomicAction die idx s
  | .addAction die idx => execAddAction die idx s
  | .wakeAction die idx => execWakeAction die idx s
  | .postAction die idx => execPostAction die idx s
  | .copyEngineCommandStart cmd => execCopyEngineCommandStart cmd s
  | .sendListEntry cmd => execSendListEntry cmd s
  | .copyEngineCommandComplete cmd => execCopyEngineCommandComplete cmd s
  | .networkArrival pkt => execNetworkArrival pkt s
  | .tileCommandExecute core => execTileCommandExecute core s
  | .tileCommandComplete core => execTileCommandComplete core s
  | .lunaSearchComplete core => execLunaSearchComplete core s
  | .sysReply ctx call => execSysReply ctx call s
  | .alloc ctx => execAlloc ctx s
  | .free ctx => execFree ctx s
  | .mapObject ctx => execMapObject ctx s
  | .evictObject ctx => execEvictObject ctx s
  | .hostCall ctx => execHostCall ctx s
  | .print ctx => execPrint ctx s
  | .sleep ctx => execSleep ctx s
  | .sleepExpiry ctx call => execSleepExpiry ctx call s
  | .yieldCore ctx => execYieldCore ctx s
  | .queryTime ctx => execQueryTime ctx s
  | .counterRegion ctx => execCounterRegion ctx s
  | .worldChannel ctx => execWorldChannel ctx s
  | .contextExit ctx => execContextExit ctx s
  | .firmwareSwitch => execFirmwareSwitch s
  | .leaderElectionTimeout => execLeaderElectionTimeout s
  | .pairHeartbeat die => execPairHeartbeat die s
  | .heartbeatMissed watcher => execHeartbeatMissed watcher s
  | .fenceRequest asker target => execFenceRequest asker target s
  | .scrubComplete die => execScrubComplete die s
  | .linkTrainingTimeout link => execLinkTrainingTimeout link s
  | .linkDropBurst link => execLinkDropBurst link s
  | .hostReply link tag => execHostReply link tag s
  | .poolUnitServe => execPoolUnitServe s
  | .poolArbiterWindowEnd => execPoolArbiterWindowEnd s
  | .fabricPacketReturn pkt => execFabricPacketReturn pkt s
  | .linkKeyExhausted link world => execLinkKeyExhausted link world s
  | .stopInterfaceRequest => execStopInterfaceRequest s
  | .sessionRingRequest ring => execSessionRingRequest ring s
  | .sessionRingReset ring => execSessionRingReset ring s
  | .firewallReassign region world => execFirewallReassign region world s
  | .clusterAtomicUnitRequest req => execClusterAtomicUnitRequest req s
  | .remoteScratchpadRequest req => execRemoteScratchpadRequest req s


def due (c : Bool) (i : Due) : List Due := if c then [i] else []

def dueOf {α : Type} (x : Option α) (i : Due) : List Due := due x.isSome i

/-- A request that the ports of a station take before another: the lower port, then the lower lane, then the earlier one (R335). -/
def Req.before (a b : Req) : Bool :=
  decide (a.core < b.core) || (a.core == b.core && (decide (a.lane < b.lane) || (a.lane == b.lane && decide (a.id < b.id))))

def insertReq (r : Req) : List Req → List Req
  | [] => [r]
  | q :: qs => if r.before q then r :: q :: qs else q :: insertReq r qs

/-- The requests that reach their stations, in the order of their ports. -/
def combineEvents (s : State) : List Due :=
  ((s.reqs.filter (fun r => r.stage == 0)).foldr insertReq []).flatMap (fun r => dueOf (combineArrive s r) (.combiningArrival r.id))

/-- May the reply of a request come in now, once those of its own word that it follows have? -/
def State.backNext (s : State) (r : Req) : Bool :=
  if r.performed then !(s.unnumbered r.id || s.inRecord r.id)
  else
    r.after.isEmpty && s.reqs.all (fun q => !r.follows q || q.wordId == r.wordId) &&
      (if r.place.far then s.packetThere r
       else s.readsReplica r && (s.replicaLine r).isSome &&
         (match r.place.home? with
          | some h => decide ((s.lane r.blk r.grp r.lane).D.get h ≤ (s.die (dieOfCore r.core)).applied.get h)
          | none => false))

/-- Have the replies of every lane of the word come as far as this one's? They reach their registers in one cycle, so that lanes that
issued together go on together (12_prog_cuckoo.md R249; log 100). -/
def State.wordBack (s : State) (r : Req) : Bool :=
  s.reqs.all (fun q => !(q.wordId == r.wordId && q.blk == r.blk && q.grp == r.grp && (q.isLd || q.dest != .none)) ||
    (decide (q.due ≤ s.clock) && s.backNext q))

/-- The kind of an agent's request decides which event it waits for, once the request, or its reply, has had its time on the way
(log 100). Requests of one place that follow each other may all be performed in one cycle, so a request that still waits for another
is listed too; its event does nothing if it has to wait on. -/
def reqEvents (s : State) (r : Req) : List Due :=
  if s.clock < r.due then []
  else due (r.place.home?.isSome && !r.kind.kneads && !r.performed && r.stage == 2 && !s.atUnit r) (.homeSliceRequest r.id) ++
  dueOf (clusterAtomic s r) (.clusterAtomicUnitRequest r.id) ++
  due (r.place.home?.isSome && r.kind.kneads && !r.performed) (.kneaderPacketPerform r.id) ++
  due (r.place.isRsp && !r.performed) (.remoteScratchpadRequest r.id) ++
  due (s.backNext r && s.wordBack r) (if r.isLd || r.dest != .none then .loadReply r.id else .storeAck r.id)

/-- The waits of lanes, rejoin masks and executions of a block. -/
def groupEvents (s : State) (b gi : Nat) (g : Group) : List Due :=
  (List.range g.lanes.length).flatMap (fun l =>
    due (s.laneDue b gi l) (.laneResultArrival b gi l) ++
    (match (g.lane l).st with
     | .waiting (.yielded till) => due (decide (till < s.clock)) (.yieldExpiry b gi l)
     | _ => [])) ++
  g.waits.flatMap (fun w => due (g.bounded s.clock w.j).isSome (.jwaitTimeout b gi w.j)) ++
  (g.execs.filter (fun x => decide (4096 ≤ x.cycles) && !x.complete g)).map (fun x => .membershipTimeout b gi x.pc) ++
  (g.passed.filter (fun e => decide (32 ≤ e.2) && !g.aged.contains e.1)).map (fun e => .candidateAged b gi (e.1 % 2 ^ 32))

def blockEvents (s : State) (b : Nat) (x : Block) : List Due :=
  (if s.runs x then x.groups.zipIdx.flatMap (fun (g : Group × Nat) => groupEvents s b g.2 g.1) else []) ++
  due (s.mayRetire b) (.blockRetire b) ++
  due x.halting (.preemptionHalt b) ++
  due (s.saveOver b) (.blockSaveComplete b) ++
  due (s.mayPark b) (.parkThresholdExpiry b) ++
  (match x.mark with | .releasing [] _ => [.ktrigReleaseComplete b] | _ => []) ++
  ((s.leadNeighbours b).filter (fun n => Tbl.at x.seen n != some (s.block n).advance)).map (fun n => .leadCountUpdate b n)

def coreEvents (s : State) (c : Nat) (k : Core) : List Due :=
  dueOf (s.nextGrow c) (.rgrowGrant c) ++
  due (k.prefetch != s.reserved c) (.codePrefetch c) ++
  dueOf (s.tileReady c) (.tileCommandExecute c) ++
  dueOf (s.tileDone c) (.tileCommandComplete c) ++
  dueOf (s.lunaDone c) (.lunaSearchComplete c)

/-- The bins of a core whose timers expire, the last first. -/
def binEvents (s : State) (c : Nat) (k : Core) : List Due :=
  (List.range k.bins.length).reverse.flatMap (fun i =>
    match k.bins[i]? with
    | some b => due (decide (b.since + ((s.ctx (s.inst b.inst).ctx).spawnTimer).toNat ≤ s.ns)) (.spawnTimerExpiry c i)
    | none => [])

/-- The action that a firing entry asks for, if it may be done now. -/
def actionEvents (s : State) (d idx : Nat) (e : TrigEntry) : List Due :=
  if e.st != .firing then []
  else
    match recNat e.record 0 1 with
    | 1 => dueOf (s.action? d idx 1) (.launchAction d idx)
    | 2 => dueOf (s.action? d idx 2) (.copyAction d idx)
    | 3 => dueOf (s.action? d idx 3) (.networkWriteAction d idx)
    | 4 => dueOf (s.action? d idx 4) (.networkReadAction d idx)
    | 5 => dueOf (s.action? d idx 5) (.networkAtomicAction d idx)
    | 6 => dueOf (s.action? d idx 6) (.addAction d idx)
    | 7 => dueOf (s.action? d idx 7) (.wakeAction d idx)
    | 8 => dueOf (s.action? d idx 8) (.postAction d idx)
    | _ => []

/-- Commands of the copy engines. -/
def cmdEvents (s : State) (c : CopyCmd) : List Due :=
  due (s.mayStart c) (.copyEngineCommandStart c.id) ++
  due (c.started && c.op == .nlist && decide (c.next < c.len)) (.sendListEntry c.id) ++
  due (c.started && c.packets.isEmpty && (c.op != .nlist || decide (c.len ≤ c.next))) (.copyEngineCommandComplete c.id)

/-- A station's output port takes an entry when the flow toward its device has room (22_link.md R433); a record whose reply has come is
split. -/
def stationEvents (s : State) (k : Nat) (x : Station) : List Due :=
  (x.table.filter s.entryRoom).map
    (fun e => .combinedRequestForward k e.id) ++
  (x.records.filter s.entryDone).map (fun e => .decombineReply k e.id)

def dieEvents (s : State) (d : Nat) : List Due :=
  let x := s.die d
  [0, 1, 2, 3].flatMap (fun h => due (x.notices.any (fun n => n.home == h && n.applicable x.applied && decide (n.due ≤ s.clock))) (.noticeApply d h)) ++
  (x.fills.filter (fun y => decide (y.m ≤ x.applied.get y.home))).map (fun y => .replicaLineInstall d y.line) ++
  (x.dups.filter (fun p => decide (p.till ≤ s.ns))).map (fun p => .combiningRecordExpiry d p.tag) ++
  x.entries.flatMap (fun e => actionEvents s d e.1 e.2) ++
  x.copyQ.flatMap (cmdEvents s) ++
  dueOf (s.placeTurn d) (.unitPlacement d) ++
  dueOf (s.victims d) (.preemptionGraceExpiry d) ++
  due (s.beatDue d) (.pairHeartbeat d) ++
  dueOf (s.missed d) (.heartbeatMissed d) ++
  dueOf (s.scrubs d) (.scrubComplete d)

/-- The event of a service call (21_context.md R406). -/
def callEvent (c : Nat) : Nat → Option Due
  | 1 => some (.alloc c)
  | 2 => some (.free c)
  | 3 => some (.mapObject c)
  | 4 => some (.evictObject c)
  | 5 => some (.hostCall c)
  | 6 => some (.print c)
  | 7 => some (.sleep c)
  | 8 => some (.yieldCore c)
  | 9 => some (.queryTime c)
  | 10 => some (.counterRegion c)
  | 11 => some (.worldChannel c)
  | 12 => some (.contextExit c)
  | _ => none

def ctxEvents (s : State) (c : Nat) (x : Context) : List Due :=
  x.replies.map (fun k => .sysReply c k.id) ++
  (match x.ring with
   | k :: _ => if (s.nextCall c k.number).isSome then (callEvent c k.number).toList else []
   | [] => []) ++
  (x.aside.filter (fun k => k.number == 7 && decide (k.till ≤ s.ns))).map (fun k => .sleepExpiry c k.id) ++
  due (x.msgs.any isThreshold && (s.ownerSession c).isSome) (.thresholdNotification c) ++
  (x.slots.filter (fun y => y.2.state == 1 && (fetchDone s c y.1).isSome)).map (fun y => .fetchComplete c y.1)

/-- Names and pages. -/
def pageEvents (s : State) : List Due :=
  ((s.resolutions.filter (fun r => r.slot.isNone)).map Resolution.id).map .objectResolution ++
  s.departs.flatMap (fun d => (d.cores.filter (fun c => c.2.all s.accessOver)).map
    (fun c => .slotInvalidationAck d.ctx d.slot c.1)) ++
  (s.pageFills.filter (fun p => p.failed.isNone)).map (fun p => if (fillDone s p).isSome then .pageFillComplete p.ctx p.page else .pageFillFail p.ctx p.page) ++
  s.invals.flatMap (fun v => v.toReceive.map (fun a => .invalidationReceipt v.id a) ++
    (v.waiting.filter (fun w => w.2.all (fun i => (s.req? i).all Req.performed))).map (fun w => .invalidationAck v.id w.1))

/-- Links, the fabric and the pool. -/
def linkEvents (s : State) : List Due :=
  (List.range 48 ++ (List.range 8).map (fun h => 64 + h)).flatMap (fun n =>
    due (s.trainingOver n) (.linkTrainingTimeout n) ++ due (s.dropBurst n) (.linkDropBurst n) ++
    ((s.link n).exhausted.toList.map (fun w => Due.linkKeyExhausted n w))) ++
  (List.range 8).flatMap (fun h => ((s.link (64 + h)).outbound.filter (fun q => (hostReply s h q.tag).isSome)).map
    (fun q => .hostReply h q.tag)) ++
  (s.packets.filter (fun p => (networkArrive s p).isSome)).map (fun p => .networkArrival p.id) ++
  (match s.mustReturn with | some p => [.fabricPacketReturn p] | none => []) ++
  dueOf s.mgmt.arbiter.pick .poolUnitServe ++
  due (s.windowOver && decide (0 < s.mgmt.arbiter.served)) .poolArbiterWindowEnd

def mgmtEvents (s : State) : List Due :=
  dueOf s.elects .leaderElectionTimeout ++
  (match s.mgmt.fences with | (a, t) :: _ => [.fenceRequest a t] | [] => []) ++
  due (s.mgmt.switch.isSome && !s.ctxs.any (fun e => e.2.inService)) .firmwareSwitch ++
  s.mgmt.rings.flatMap (fun r => due (s.ringDue r.2) (.sessionRingRequest r.1) ++ due (s.ringOver r.2) (.sessionRingReset r.1)) ++
  due s.stopOver .stopInterfaceRequest ++
  (match s.reassigned with | some (r, w) => [.firewallReassign r w] | none => [])

/-- Everything that is due. -/
def State.dueEvents (s : State) : List Due :=
  combineEvents s ++ s.stations.flatMap (fun e => stationEvents s e.1 e.2) ++ s.reqs.flatMap (reqEvents s) ++
  s.held.map (fun h => if h.writingBack then .atomicWriteBackComplete h.line else .atomicLeaseExpiry h.line) ++
  [0, 1, 2, 3].flatMap (dieEvents s) ++
  s.cores.flatMap (fun e => coreEvents s e.1 e.2) ++
  (s.busyCores.filter (fun c => (Tbl.at s.cores c).isNone)).flatMap (fun c => coreEvents s c {}) ++
  s.ctxs.flatMap (fun e => ctxEvents s e.1 e.2) ++
  pageEvents s ++ linkEvents s ++ mgmtEvents s ++
  s.blocks.flatMap (fun e => blockEvents s e.1 e.2) ++
  (s.insts.filter (fun e => s.instMayRetire e.1)).map (fun e => .instanceRetire e.1)

/-- R104: the cycle's work is done: the next begins with what has come from outside and what is due, and then the schedulers pick.
The timers of spawn bins come after the cycle's words, since a fill in the same cycle wins (19_kernel.md R372). -/
def endCycle (s : State) : State :=
  let s := s.settle.tick
  { s with inbox := [], agenda := s.inbox.map Item.event ++ s.dueEvents.map Item.due ++ [.pick] ++
      (s.cores.flatMap (fun e => binEvents s e.1 e.2)).map Item.due }

end Sys2Proof.Machine
end

