-- ==== Sys2Proof/Machine/Dispatch.lean ====
section
/-!
DEFINITION. One arm for each step of the machine: an instruction word or an event row of the opcode table.
-/

namespace Sys2Proof.Machine

def exec (i : Instr) (s : State) : Host.Outcome State Fault Refusal :=
  match i with
  | .nop f => Sys2Proof.Machine.execNop f s
  | .bra l => Sys2Proof.Machine.execBra l s
  | .brx f => Sys2Proof.Machine.execBrx f s
  | .call l => Sys2Proof.Machine.execCall l s
  | .callx f => Sys2Proof.Machine.execCallx f s
  | .ret f => Sys2Proof.Machine.execRet f s
  | .join f => Sys2Proof.Machine.execJoin f s
  | .jwait f bounded j => Sys2Proof.Machine.execJwait f bounded j s
  | .jdrop f => Sys2Proof.Machine.execJdrop f s
  | .exit f => Sys2Proof.Machine.execExit f s
  | .yld f => Sys2Proof.Machine.execYld f s
  | .add f m => Sys2Proof.Machine.execAdd f m s
  | .addL l m => Sys2Proof.Machine.execAddL l m s
  | .sub f m => Sys2Proof.Machine.execSub f m s
  | .mul f m => Sys2Proof.Machine.execMul f m s
  | .mulL l m => Sys2Proof.Machine.execMulL l m s
  | .mulh f m => Sys2Proof.Machine.execMulh f m s
  | .mad f m => Sys2Proof.Machine.execMad f m s
  | .div f m => Sys2Proof.Machine.execDiv f m s
  | .rem f m => Sys2Proof.Machine.execRem f m s
  | .min f m => Sys2Proof.Machine.execMin f m s
  | .max f m => Sys2Proof.Machine.execMax f m s
  | .abs f m => Sys2Proof.Machine.execAbs f m s
  | .neg f m => Sys2Proof.Machine.execNeg f m s
  | .mulmod f m => Sys2Proof.Machine.execMulmod f m s
  | .andB f m => Sys2Proof.Machine.execAndB f m s
  | .andL l m => Sys2Proof.Machine.execAndL l m s
  | .orB f m => Sys2Proof.Machine.execOrB f m s
  | .orL l m => Sys2Proof.Machine.execOrL l m s
  | .xorB f m => Sys2Proof.Machine.execXorB f m s
  | .xorL l m => Sys2Proof.Machine.execXorL l m s
  | .notB f m => Sys2Proof.Machine.execNotB f m s
  | .shl f m => Sys2Proof.Machine.execShl f m s
  | .shr f m => Sys2Proof.Machine.execShr f m s
  | .sra f m => Sys2Proof.Machine.execSra f m s
  | .rol f m => Sys2Proof.Machine.execRol f m s
  | .clz f m => Sys2Proof.Machine.execClz f m s
  | .popc f m => Sys2Proof.Machine.execPopc f m s
  | .brev f m => Sys2Proof.Machine.execBrev f m s
  | .bfe f m => Sys2Proof.Machine.execBfe f m s
  | .bfi f m => Sys2Proof.Machine.execBfi f m s
  | .cmp f ty c => Sys2Proof.Machine.execCmp f ty c s
  | .sel f ty p => Sys2Proof.Machine.execSel f ty p s
  | .mov f ty toScalar => Sys2Proof.Machine.execMov f ty toScalar s
  | .movl l ty toScalar => Sys2Proof.Machine.execMovl l ty toScalar s
  | .rdsr f ty toScalar => Sys2Proof.Machine.execRdsr f ty toScalar s
  | .fadd f m => Sys2Proof.Machine.execFadd f m s
  | .faddL l m => Sys2Proof.Machine.execFaddL l m s
  | .fsub f m => Sys2Proof.Machine.execFsub f m s
  | .fmul f m => Sys2Proof.Machine.execFmul f m s
  | .fmulL l m => Sys2Proof.Machine.execFmulL l m s
  | .ffma f m => Sys2Proof.Machine.execFfma f m s
  | .fmin f m => Sys2Proof.Machine.execFmin f m s
  | .fmax f m => Sys2Proof.Machine.execFmax f m s
  | .fabs f m => Sys2Proof.Machine.execFabs f m s
  | .fneg f m => Sys2Proof.Machine.execFneg f m s
  | .fcmp f m c => Sys2Proof.Machine.execFcmp f m c s
  | .fdiv f m => Sys2Proof.Machine.execFdiv f m s
  | .frcp f m => Sys2Proof.Machine.execFrcp f m s
  | .frsq f m => Sys2Proof.Machine.execFrsq f m s
  | .fsqrt f m => Sys2Proof.Machine.execFsqrt f m s
  | .fexp2 f m => Sys2Proof.Machine.execFexp2 f m s
  | .flog2 f m => Sys2Proof.Machine.execFlog2 f m s
  | .fsin f m => Sys2Proof.Machine.execFsin f m s
  | .fcos f m => Sys2Proof.Machine.execFcos f m s
  | .fclass f m => Sys2Proof.Machine.execFclass f m s
  | .frnd f m => Sys2Proof.Machine.execFrnd f m s
  | .cvt f m ty2 => Sys2Proof.Machine.execCvt f m ty2 s
  | .pack f m ty2 pk => Sys2Proof.Machine.execPack f m ty2 pk s
  | .unpack f m ty2 pk => Sys2Proof.Machine.execUnpack f m ty2 pk s
  | .lmul f m fmt pk => Sys2Proof.Machine.execLmul f m fmt pk s
  | .lcvt f m src => Sys2Proof.Machine.execLcvt f m src s
  | .ldot f m => Sys2Proof.Machine.execLdot f m s
  | .vote f ty op => Sys2Proof.Machine.execVote f ty op s
  | .shfl f ty op => Sys2Proof.Machine.execShfl f ty op s
  | .matchK f ty => Sys2Proof.Machine.execMatchK f ty s
  | .lred f m op pk => Sys2Proof.Machine.execLred f m op pk s
  | .lscan f m op pk excl => Sys2Proof.Machine.execLscan f m op pk excl s
  | .ld m off => Sys2Proof.Machine.execLd m off s
  | .ldSp m off => Sys2Proof.Machine.execLdSp m off s
  | .st m off => Sys2Proof.Machine.execSt m off s
  | .stSp m off => Sys2Proof.Machine.execStSp m off s
  | .ldq m off => Sys2Proof.Machine.execLdq m off s
  | .ldqSp m off => Sys2Proof.Machine.execLdqSp m off s
  | .stq m off => Sys2Proof.Machine.execStq m off s
  | .stqSp m off => Sys2Proof.Machine.execStqSp m off s
  | .prf m off => Sys2Proof.Machine.execPrf m off s
  | .cwb m off => Sys2Proof.Machine.execCwb m off s
  | .cinv m off => Sys2Proof.Machine.execCinv m off s
  | .wcnt f ld st cp tl => Sys2Proof.Machine.execWcnt f ld st cp tl s
  | .atom m op src comb nr => Sys2Proof.Machine.execAtom m op src comb nr s
  | .cas m src => Sys2Proof.Machine.execCas m src s
  | .fence m => Sys2Proof.Machine.execFence m s
  | .kcas m src n => Sys2Proof.Machine.execKcas m src n s
  | .kenq m src => Sys2Proof.Machine.execKenq m src s
  | .kdeq m => Sys2Proof.Machine.execKdeq m s
  | .kchase m src steps testKey => Sys2Proof.Machine.execKchase m src steps testKey s
  | .ldn m off => Sys2Proof.Machine.execLdn m off s
  | .stn m off => Sys2Proof.Machine.execStn m off s
  | .peq f => Sys2Proof.Machine.execPeq f s
  | .padd f => Sys2Proof.Machine.execPadd f s
  | .psub f => Sys2Proof.Machine.execPsub f s
  | .pinfo f => Sys2Proof.Machine.execPinfo f s
  | .pfetch m off => Sys2Proof.Machine.execPfetch m off s
  | .pswz f => Sys2Proof.Machine.execPswz f s
  | .pnam f => Sys2Proof.Machine.execPnam f s
  | .prel m => Sys2Proof.Machine.execPrel m s
  | .tld t => Sys2Proof.Machine.execTld t s
  | .tst t => Sys2Proof.Machine.execTst t s
  | .tzero t => Sys2Proof.Machine.execTzero t s
  | .bsld t => Sys2Proof.Machine.execBsld t s
  | .bsinv t => Sys2Proof.Machine.execBsinv t s
  | .tcvt t => Sys2Proof.Machine.execTcvt t s
  | .tact t => Sys2Proof.Machine.execTact t s
  | .tred t => Sys2Proof.Machine.execTred t s
  | .tmma t => Sys2Proof.Machine.execTmma t s
  | .tloop t => Sys2Proof.Machine.execTloop t s
  | .tmmod t => Sys2Proof.Machine.execTmmod t s
  | .tntt t => Sys2Proof.Machine.execTntt t s
  | .hld m off => Sys2Proof.Machine.execHld m off s
  | .hst m off => Sys2Proof.Machine.execHst m off s
  | .hmov f => Sys2Proof.Machine.execHmov f s
  | .hxor f => Sys2Proof.Machine.execHxor f s
  | .hrot f hi => Sys2Proof.Machine.execHrot f hi s
  | .hacc f neg => Sys2Proof.Machine.execHacc f neg s
  | .hthr f => Sys2Proof.Machine.execHthr f s
  | .hclr f acc => Sys2Proof.Machine.execHclr f acc s
  | .hpop f => Sys2Proof.Machine.execHpop f s
  | .hdist f => Sys2Proof.Machine.execHdist f s
  | .hgen f => Sys2Proof.Machine.execHgen f s
  | .htie f => Sys2Proof.Machine.execHtie f s
  | .hmatch f q sp => Sys2Proof.Machine.execHmatch f q sp s
  | .hmset m idx => Sys2Proof.Machine.execHmset m idx s
  | .cnadd f rel => Sys2Proof.Machine.execCnadd f rel s
  | .cnwait f acq => Sys2Proof.Machine.execCnwait f acq s
  | .cnget f acq toScalar => Sys2Proof.Machine.execCnget f acq toScalar s
  | .cnset f rel => Sys2Proof.Machine.execCnset f rel s
  | .trig f => Sys2Proof.Machine.execTrig f s
  | .trigx f => Sys2Proof.Machine.execTrigx f s
  | .cpy f x srcSp dstSp => Sys2Proof.Machine.execCpy f x srcSp dstSp s
  | .nwr f x => Sys2Proof.Machine.execNwr f x s
  | .nrd f x => Sys2Proof.Machine.execNrd f x s
  | .natom f x op ty comb => Sys2Proof.Machine.execNatom f x op ty comb s
  | .nlist f x => Sys2Proof.Machine.execNlist f x s
  | .binit f rsp => Sys2Proof.Machine.execBinit f rsp s
  | .barr f rsp grp rlx => Sys2Proof.Machine.execBarr f rsp grp rlx s
  | .bwait f rsp rlx => Sys2Proof.Machine.execBwait f rsp rlx s
  | .btest f rsp rlx => Sys2Proof.Machine.execBtest f rsp rlx s
  | .elect f role => Sys2Proof.Machine.execElect f role s
  | .lead f => Sys2Proof.Machine.execLead f s
  | .leadAdv f => Sys2Proof.Machine.execLeadAdv f s
  | .spawn f => Sys2Proof.Machine.execSpawn f s
  | .klaunch f dep => Sys2Proof.Machine.execKlaunch f dep s
  | .ktrig f => Sys2Proof.Machine.execKtrig f s
  | .kwait f => Sys2Proof.Machine.execKwait f s
  | .idem f n => Sys2Proof.Machine.execIdem f n s
  | .idemx f => Sys2Proof.Machine.execIdemx f s
  | .sys f => Sys2Proof.Machine.execSys f s
  | .tret f next => Sys2Proof.Machine.execTret f next s
  | .emget f => Sys2Proof.Machine.execEmget f s
  | .emset f t => Sys2Proof.Machine.execEmset f t s
  | .csrr f toScalar => Sys2Proof.Machine.execCsrr f toScalar s
  | .csrw f => Sys2Proof.Machine.execCsrw f s
  | .csrwParkThreshold f => Sys2Proof.Machine.execCsrwParkThreshold f s
  | .csrwSpawnTimer f => Sys2Proof.Machine.execCsrwSpawnTimer f s
  | .fexr f ctx toScalar => Sys2Proof.Machine.execFexr f ctx toScalar s
  | .halt f => Sys2Proof.Machine.execHalt f s
  | .pgq f => Sys2Proof.Machine.execPgq f s
  | .pginv f e => Sys2Proof.Machine.execPginv f e s
  | .lnkq f sel toScalar => Sys2Proof.Machine.execLnkq f sel toScalar s
  | .wid f toScalar => Sys2Proof.Machine.execWid f toScalar s
  | .loop f => Sys2Proof.Machine.execLoop f s
  | .lbrk f => Sys2Proof.Machine.execLbrk f s
  | .rgrow f => Sys2Proof.Machine.execRgrow f s
  | .rshrink f => Sys2Proof.Machine.execRshrink f s
  | .vtDecl w => Sys2Proof.Machine.execVtDecl w s
  | .vtLd w => Sys2Proof.Machine.execVtLd w s
  | .vtSt w => Sys2Proof.Machine.execVtSt w s
  | .vtMma w => Sys2Proof.Machine.execVtMma w s
  | .vtMap w => Sys2Proof.Machine.execVtMap w s
  | .vtRed w => Sys2Proof.Machine.execVtRed w s
  | .unassignedOpcodeWord w => Sys2Proof.Machine.execUnassignedOpcodeWord w s
  | .nopHalf h second => Sys2Proof.Machine.execNopHalf h second s
  | .addHalf h second => Sys2Proof.Machine.execAddHalf h second s
  | .subHalf h second => Sys2Proof.Machine.execSubHalf h second s
  | .mulHalf h second => Sys2Proof.Machine.execMulHalf h second s
  | .andHalf h second => Sys2Proof.Machine.execAndHalf h second s
  | .orHalf h second => Sys2Proof.Machine.execOrHalf h second s
  | .xorHalf h second => Sys2Proof.Machine.execXorHalf h second s
  | .shlHalf h second => Sys2Proof.Machine.execShlHalf h second s
  | .shrHalf h second => Sys2Proof.Machine.execShrHalf h second s
  | .sraHalf h second => Sys2Proof.Machine.execSraHalf h second s
  | .minI32Half h second => Sys2Proof.Machine.execMinI32Half h second s
  | .maxI32Half h second => Sys2Proof.Machine.execMaxI32Half h second s
  | .minN32Half h second => Sys2Proof.Machine.execMinN32Half h second s
  | .maxN32Half h second => Sys2Proof.Machine.execMaxN32Half h second s
  | .movHalf h second => Sys2Proof.Machine.execMovHalf h second s
  | .faddHalf h second => Sys2Proof.Machine.execFaddHalf h second s
  | .fsubHalf h second => Sys2Proof.Machine.execFsubHalf h second s
  | .fmulHalf h second => Sys2Proof.Machine.execFmulHalf h second s
  | .fminHalf h second => Sys2Proof.Machine.execFminHalf h second s
  | .fmaxHalf h second => Sys2Proof.Machine.execFmaxHalf h second s
  | .candidateAged blk grp pc => Sys2Proof.Machine.execCandidateAged blk grp pc s
  | .laneResultArrival blk grp lane => Sys2Proof.Machine.execLaneResultArrival blk grp lane s
  | .jwaitTimeout blk grp j => Sys2Proof.Machine.execJwaitTimeout blk grp j s
  | .membershipTimeout blk grp pc => Sys2Proof.Machine.execMembershipTimeout blk grp pc s
  | .yieldExpiry blk grp lane => Sys2Proof.Machine.execYieldExpiry blk grp lane s
  | .rgrowGrant core => Sys2Proof.Machine.execRgrowGrant core s
  | .thresholdNotification ctx => Sys2Proof.Machine.execThresholdNotification ctx s
  | .blockRetire blk => Sys2Proof.Machine.execBlockRetire blk s
  | .instanceRetire inst => Sys2Proof.Machine.execInstanceRetire inst s
  | .unitPlacement die => Sys2Proof.Machine.execUnitPlacement die s
  | .preemptionGraceExpiry die => Sys2Proof.Machine.execPreemptionGraceExpiry die s
  | .preemptionHalt blk => Sys2Proof.Machine.execPreemptionHalt blk s
  | .blockSaveComplete blk => Sys2Proof.Machine.execBlockSaveComplete blk s
  | .parkThresholdExpiry blk => Sys2Proof.Machine.execParkThresholdExpiry blk s
  | .spawnTimerExpiry core bin => Sys2Proof.Machine.execSpawnTimerExpiry core bin s
  | .ktrigReleaseComplete blk => Sys2Proof.Machine.execKtrigReleaseComplete blk s
  | .leadCountUpdate blk nb => Sys2Proof.Machine.execLeadCountUpdate blk nb s
  | .codePrefetch core => Sys2Proof.Machine.execCodePrefetch core s
  | .homeSliceRequest req => Sys2Proof.Machine.execHomeSliceRequest req s
  | .noticeApply die home => Sys2Proof.Machine.execNoticeApply die home s
  | .replicaLineInstall die line => Sys2Proof.Machine.execReplicaLineInstall die line s
  | .loadReply req => Sys2Proof.Machine.execLoadReply req s
  | .storeAck req => Sys2Proof.Machine.execStoreAck req s
  | .atomicLeaseExpiry line => Sys2Proof.Machine.execAtomicLeaseExpiry line s
  | .atomicWriteBackComplete line => Sys2Proof.Machine.execAtomicWriteBackComplete line s
  | .combiningArrival req => Sys2Proof.Machine.execCombiningArrival req s
  | .combinedRequestForward die entry => Sys2Proof.Machine.execCombinedRequestForward die entry s
  | .decombineReply die rcd => Sys2Proof.Machine.execDecombineReply die rcd s
  | .combiningRecordExpiry die req => Sys2Proof.Machine.execCombiningRecordExpiry die req s
  | .kneaderPacketPerform req => Sys2Proof.Machine.execKneaderPacketPerform req s
  | .objectResolution res => Sys2Proof.Machine.execObjectResolution res s
  | .fetchComplete ctx slot => Sys2Proof.Machine.execFetchComplete ctx slot s
  | .fetchLost ctx slot => Sys2Proof.Machine.execFetchLost ctx slot s
  | .slotEviction ctx slot => Sys2Proof.Machine.execSlotEviction ctx slot s
  | .objectHomeMove ctx slot home addr => Sys2Proof.Machine.execObjectHomeMove ctx slot home addr s
  | .slotInvalidationAck ctx slot core => Sys2Proof.Machine.execSlotInvalidationAck ctx slot core s
  | .pageFillComplete ctx page => Sys2Proof.Machine.execPageFillComplete ctx page s
  | .pageFillFail ctx page => Sys2Proof.Machine.execPageFillFail ctx page s
  | .invalidationReceipt inv agent => Sys2Proof.Machine.execInvalidationReceipt inv agent s
  | .invalidationAck inv agent => Sys2Proof.Machine.execInvalidationAck inv agent s
  | .launchAction die idx => Sys2Proof.Machine.execLaunchAction die idx s
  | .copyAction die idx => Sys2Proof.Machine.execCopyAction die idx s
  | .networkWriteAction die idx => Sys2Proof.Machine.execNetworkWriteAction die idx s
  | .networkReadAction die idx => Sys2Proof.Machine.execNetworkReadAction die idx s
  | .networkAtomicAction die idx => Sys2Proof.Machine.execNetworkAtomicAction die idx s
  | .addAction die idx => Sys2Proof.Machine.execAddAction die idx s
  | .wakeAction die idx => Sys2Proof.Machine.execWakeAction die idx s
  | .postAction die idx => Sys2Proof.Machine.execPostAction die idx s
  | .copyEngineCommandStart cmd => Sys2Proof.Machine.execCopyEngineCommandStart cmd s
  | .sendListEntry cmd => Sys2Proof.Machine.execSendListEntry cmd s
  | .copyEngineCommandComplete cmd => Sys2Proof.Machine.execCopyEngineCommandComplete cmd s
  | .networkArrival pkt => Sys2Proof.Machine.execNetworkArrival pkt s
  | .remoteFault cmd => Sys2Proof.Machine.execRemoteFault cmd s
  | .tileCommandExecute core => Sys2Proof.Machine.execTileCommandExecute core s
  | .tileCommandComplete core => Sys2Proof.Machine.execTileCommandComplete core s
  | .lunaSearchComplete core => Sys2Proof.Machine.execLunaSearchComplete core s
  | .sysReply ctx call => Sys2Proof.Machine.execSysReply ctx call s
  | .alloc ctx => Sys2Proof.Machine.execAlloc ctx s
  | .free ctx => Sys2Proof.Machine.execFree ctx s
  | .mapObject ctx => Sys2Proof.Machine.execMapObject ctx s
  | .evictObject ctx => Sys2Proof.Machine.execEvictObject ctx s
  | .hostCall ctx => Sys2Proof.Machine.execHostCall ctx s
  | .hostCallReply ctx call bytes => Sys2Proof.Machine.execHostCallReply ctx call bytes s
  | .print ctx => Sys2Proof.Machine.execPrint ctx s
  | .sleep ctx => Sys2Proof.Machine.execSleep ctx s
  | .sleepExpiry ctx call => Sys2Proof.Machine.execSleepExpiry ctx call s
  | .yieldCore ctx => Sys2Proof.Machine.execYieldCore ctx s
  | .queryTime ctx => Sys2Proof.Machine.execQueryTime ctx s
  | .counterRegion ctx => Sys2Proof.Machine.execCounterRegion ctx s
  | .worldChannel ctx => Sys2Proof.Machine.execWorldChannel ctx s
  | .contextExit ctx => Sys2Proof.Machine.execContextExit ctx s
  | .firmwareSwitch => Sys2Proof.Machine.execFirmwareSwitch s
  | .contextTeardown ctx => Sys2Proof.Machine.execContextTeardown ctx s
  | .throttleWindowEnd power t0 t1 t2 t3 => Sys2Proof.Machine.execThrottleWindowEnd power t0 t1 t2 t3 s
  | .thermalTrip die => Sys2Proof.Machine.execThermalTrip die s
  | .deviceReset => Sys2Proof.Machine.execDeviceReset s
  | .pairSelfTestComplete die passed => Sys2Proof.Machine.execPairSelfTestComplete die passed s
  | .leaderElectionTimeout => Sys2Proof.Machine.execLeaderElectionTimeout s
  | .pairHeartbeat die => Sys2Proof.Machine.execPairHeartbeat die s
  | .heartbeatMissed watcher => Sys2Proof.Machine.execHeartbeatMissed watcher s
  | .fenceRequest asker target => Sys2Proof.Machine.execFenceRequest asker target s
  | .pairLockstepMismatch die => Sys2Proof.Machine.execPairLockstepMismatch die s
  | .scrubComplete die => Sys2Proof.Machine.execScrubComplete die s
  | .flitReceive link seq world crcOk tag => Sys2Proof.Machine.execFlitReceive link seq world crcOk tag s
  | .replayRequest link seq => Sys2Proof.Machine.execReplayRequest link seq s
  | .linkRetrainOrder link => Sys2Proof.Machine.execLinkRetrainOrder link s
  | .linkTrained link peer => Sys2Proof.Machine.execLinkTrained link peer s
  | .linkTrainingTimeout link => Sys2Proof.Machine.execLinkTrainingTimeout link s
  | .linkPortFail link => Sys2Proof.Machine.execLinkPortFail link s
  | .linkPortRetrained link => Sys2Proof.Machine.execLinkPortRetrained link s
  | .linkDropBurst link => Sys2Proof.Machine.execLinkDropBurst link s
  | .hostRead link world tag addr len => Sys2Proof.Machine.execHostRead link world tag addr len s
  | .hostWrite link world tag addr bytes enables => Sys2Proof.Machine.execHostWrite link world tag addr bytes enables s
  | .hostAtomic link world tag addr op ty x => Sys2Proof.Machine.execHostAtomic link world tag addr op ty x s
  | .hostRaise link world tag addr inc => Sys2Proof.Machine.execHostRaise link world tag addr inc s
  | .hostReply link tag => Sys2Proof.Machine.execHostReply link tag s
  | .poolUnitServe => Sys2Proof.Machine.execPoolUnitServe s
  | .poolArbiterWindowEnd => Sys2Proof.Machine.execPoolArbiterWindowEnd s
  | .hostTrayTableUpdate session link domain => Sys2Proof.Machine.execHostTrayTableUpdate session link domain s
  | .fabricPacketArrival src world seq peer addr op arrival => Sys2Proof.Machine.execFabricPacketArrival src world seq peer addr op arrival s
  | .fabricPacketReturn pkt => Sys2Proof.Machine.execFabricPacketReturn pkt s
  | .routeTableUpdate dev link healthy => Sys2Proof.Machine.execRouteTableUpdate dev link healthy s
  | .linkKeyExhausted link world => Sys2Proof.Machine.execLinkKeyExhausted link world s
  | .bar0Write addr bytes => Sys2Proof.Machine.execBar0Write addr bytes s
  | .bar2Access stream world addr intact write bytes => Sys2Proof.Machine.execBar2Access stream world addr intact write bytes s
  | .configWrite frozenField => Sys2Proof.Machine.execConfigWrite frozenField s
  | .functionLevelReset => Sys2Proof.Machine.execFunctionLevelReset s
  | .ideKmRequest session stream intact => Sys2Proof.Machine.execIdeKmRequest session stream intact s
  | .lockInterfaceRequest world => Sys2Proof.Machine.execLockInterfaceRequest world s
  | .getDeviceInterfaceReport => Sys2Proof.Machine.execGetDeviceInterfaceReport s
  | .startInterfaceRequest => Sys2Proof.Machine.execStartInterfaceRequest s
  | .stopInterfaceRequest => Sys2Proof.Machine.execStopInterfaceRequest s
  | .cxlMemRead addr => Sys2Proof.Machine.execCxlMemRead addr s
  | .cxlMemWrite addr bytes => Sys2Proof.Machine.execCxlMemWrite addr bytes s
  | .sessionRingRequest ring => Sys2Proof.Machine.execSessionRingRequest ring s
  | .sessionRingReset ring => Sys2Proof.Machine.execSessionRingReset ring s
  | .getVersion session => Sys2Proof.Machine.execGetVersion session s
  | .getCapabilities session => Sys2Proof.Machine.execGetCapabilities session s
  | .negotiateAlgorithms session => Sys2Proof.Machine.execNegotiateAlgorithms session s
  | .getDigests session => Sys2Proof.Machine.execGetDigests session s
  | .getCertificate session => Sys2Proof.Machine.execGetCertificate session s
  | .getMeasurements session world => Sys2Proof.Machine.execGetMeasurements session world s
  | .keyExchange session => Sys2Proof.Machine.execKeyExchange session s
  | .finishSession session mutualAdmin => Sys2Proof.Machine.execFinishSession session mutualAdmin s
  | .keyUpdate session => Sys2Proof.Machine.execKeyUpdate session s
  | .spdmHeartbeat session => Sys2Proof.Machine.execSpdmHeartbeat session s
  | .endSession session => Sys2Proof.Machine.execEndSession session s
  | .assignWorld session world dies bind => Sys2Proof.Machine.execAssignWorld session world dies bind s
  | .teardownWorld session world => Sys2Proof.Machine.execTeardownWorld session world s
  | .createContext session world arena maps => Sys2Proof.Machine.execCreateContext session world arena maps s
  | .loadCode session ctx obj => Sys2Proof.Machine.execLoadCode session ctx obj s
  | .hostEnqueue session ctx kernel blocks queue prio arg dep => Sys2Proof.Machine.execHostEnqueue session ctx kernel blocks queue prio arg dep s
  | .firmwareUpdate session digest => Sys2Proof.Machine.execFirmwareUpdate session digest s
  | .openPool session ctx entries => Sys2Proof.Machine.execOpenPool session ctx entries s
  | .firewallReassign region world => Sys2Proof.Machine.execFirewallReassign region world s
  | .clusterAtomicUnitRequest req => Sys2Proof.Machine.execClusterAtomicUnitRequest req s
  | .remoteScratchpadRequest req => Sys2Proof.Machine.execRemoteScratchpadRequest req s
  | .uncorrectableSoftError t => Sys2Proof.Machine.execUncorrectableSoftError t s

end Sys2Proof.Machine
end

