-- ==== Sys2Proof/Machine/Place.lean ====
section
/-!
DEFINITION. A program placed from outside: one word of code, mapped for a context, with one group ready at it.
It stands for what a load, a launch and the queue manager do (02_notation.md R45, 20_queue.md R385).
-/

set_option linter.unusedVariables false

namespace Sys2Proof.Machine

/-- The address at which the placed code lies, and the frames of its page and of the tables. -/
def placedVa : Nat := 0x10000
def placedFrame : Nat := 0x10000
def placedRoot : Nat := 0x40200000
def placedTables : Nat := 0x40400000

/-- Page tables that map the page at `placedVa` for fetching, reading and writing. -/
def placedMap (m : Memory) : Memory :=
  let w := fun (m : Memory) (a : Nat) (e : DWord) => Memory.write m a (bytesOfWord e)
  let m := w m placedRoot (mkTable placedTables)
  let m := w m placedTables (mkTable (placedTables + 4096))
  let m := w m (placedTables + 4096) (mkTable (placedTables + 8192))
  w m (placedTables + 8192 + 8) (mkPte true true true false 0 placedFrame 0)

def placedKern : Kern :=
  { codeVa := placedVa, size := 8, entry := 0, pool := 1, blocks := 1, width := 16, groups := 1 }

def placedCtx : Context :=
  { world := 1, st := .live, ptRoot := placedRoot, kernels := [(0, placedKern)],
    regions := [{ base := placedVa, size := 65536, page := 65536, r := true, w := true, x := true }] }

def placedGroup : Group := { lanes := List.replicate 16 {} }

def placedBlock : Block := { ctx := 0, inst := 0, core := 0, groups := [placedGroup] }

def placedInst : Instance := { ctx := 0, kern := 0, st := .dispatched, placed := 1, handle := 0x80000001 }

/-- The state with a word at word index 0 of a kernel, a group of 16 lanes ready at it, and its issue next. -/
def placeWord (s : State) (w : DWord) : State :=
  { s with
    mem := Memory.write (placedMap s.mem) placedFrame (bytesOfWord w)
    tripped := false
    ctxs := Tbl.put s.ctxs 0 placedCtx
    insts := Tbl.put s.insts 0 placedInst
    blocks := Tbl.put s.blocks 0 placedBlock
    dies := Tbl.put s.dies 0 { s.die 0 with latch := .assigned 1 }
    mgmt := { s.mgmt with firewall := Cells.set s.mgmt.firewall 0 1 }
    cores := Tbl.del s.cores 0
    agenda := [.issue { blk := 0, grp := 0, kern := 0, pc := 0, lanes := List.range 16 }] }

end Sys2Proof.Machine
end

