-- ==== Sys2Proof/Machine/Step.lean ====
section
/-!
DEFINITION. One step of the machine: the next item of the current cycle, an event or the issue of a candidate;
and, when none is left, the end of the cycle.
-/

namespace Sys2Proof.Machine

def isReset : Instr → Bool
  | .deviceReset => true
  | _ => false

def Item.isReset : Item → Bool
  | .event i => Sys2Proof.Machine.isReset i
  | _ => false

/-- The issue of a candidate: its word is fetched, decoded and executed. -/
def issueStep (s : State) (c : Candidate) : Host.Outcome State Fault Refusal :=
  match fetch s c with
  | .none s' => .next s'
  | .word s' i => exec i s'

/-- After a thermal trip only a device reset goes on (01_device.md R23), wherever it stands among what has come from outside; what came
before it is lost. -/
def trippedStep (s : State) : Host.Outcome State Fault Refusal :=
  if s.agenda.any Item.isReset then exec .deviceReset { s with agenda := [] }
  else
    match s.inbox.dropWhile (fun i => !isReset i) with
    | _ :: rest => exec .deviceReset { s with inbox := rest, agenda := [] }
    | [] => .fault .thermalTrip

/-- One step. -/
def step (s : State) : Host.Outcome State Fault Refusal :=
  if s.tripped then trippedStep s
  else
    match s.agenda with
    | .event i :: rest => exec i { s with agenda := rest, focus := none }
    | .due e :: rest => e.run { s with agenda := rest, focus := none }
    | .issue c :: rest => issueStep { s with agenda := rest, focus := none } c
    | .pick :: rest => .next (pickIssues { s with agenda := rest, focus := none })
    | [] => .next (endCycle { s with focus := none })

/-- The state in which the very next step issues the instruction of a row of the opcode table. -/
def State.withFetchWord (s : State) (nbits w : Nat) : State := placeWord s (tableWord nbits w)

end Sys2Proof.Machine
end

