-- ==== Sys2Proof/Safety.lean ====
section
/-!
DEFINITION. The terms that claims use: the invariant that every step keeps, when a path may issue a word, and what a word that
works lane by lane leaves.
-/

namespace Sys2Proof.Machine

/-- Device memory keeps its canonical form: addresses strictly rising and no zero listed. -/
def Inv (s : State) : Prop := Memory.wf s.mem = true

/-- A path of the state: its block, its group and its lanes exist. -/
structure HasPath (s : State) (f : Focus) : Prop where
  block : (s.block? f.blk).isSome = true
  group : f.grp < (s.fblock f).groups.length
  lanes : ∀ i ∈ f.lanes, i < (s.fgroup f).lanes.length

/-- The path in focus is one of the state's, each of its lanes is ready and none is named twice. -/
structure OnPath (s : State) (f : Focus) : Prop extends HasPath s f where
  focus : s.focus = some f
  ready : ∀ i ∈ f.lanes, (s.flane f i).st = .ready
  once : f.lanes.Nodup
  some : f.lanes ≠ []

/-- The path in focus issues a word that names the vector registers `use`: none of them awaits a reply in any lane (05_group.md
R101). -/
structure Issues (s : State) (f : Focus) (use : List Nat) : Prop extends OnPath s f where
  delivered : ∀ i ∈ f.lanes, pendHit (s.fgroup f).nregs use (s.flane f i) = false

/-- Besides, the next word of every lane lies inside the kernel's code (05_group.md R110). -/
structure Ready (s : State) (f : Focus) (use : List Nat) : Prop extends Issues s f use where
  inside : ∀ i ∈ f.lanes, (s.flane f i).landing (f.pc + 1) < (s.fkern f).size

/-- The path is one lane, in which the word acts. -/
structure Solo (s : State) (f : Focus) (i : Nat) (g : Guard) (use : List Nat) : Prop extends Ready s f use where
  one : f.lanes = [i]
  acts : (s.flane f i).acts g = true

/-- Of the blocks nothing differs but the group of a path: the path's block is what it was but for its groups, the others of which are
unchanged, and so is every other block. -/
structure OnlyGroup (s t : State) (f : Focus) : Prop where
  block : t.fblock f = { s.fblock f with groups := (t.fblock f).groups }
  groups : (t.fblock f).groups.length = (s.fblock f).groups.length
  siblings : ∀ h, h ≠ f.grp → (t.fblock f).group h = (s.fblock f).group h
  blocks : ∀ b, b ≠ f.blk → t.block? b = s.block? b

/-- What a word that works lane by lane leaves: the lanes in which it acts are what `k` gives, all lanes of the path go on, and
nothing else differs but the counts of its events. -/
structure LaneResult (s t : State) (f : Focus) (g : Guard) (k : View → Nat → Lane × Events) : Prop extends OnlyGroup s t f where
  acted : ∀ i ∈ f.lanes, (s.flane f i).acts g = true → t.flane f i = (k (s.view f i) i).1.advance (f.pc + 1)
  idle : ∀ i ∈ f.lanes, (s.flane f i).acts g = false → t.flane f i = (s.flane f i).advance (f.pc + 1)
  others : ∀ i, i ∉ f.lanes → t.flane f i = s.flane f i
  group : t.fgroup f = { s.fgroup f with lanes := (t.fgroup f).lanes }
  rest : t = { countEvents s (s.fctx f) (s.fblock f).inst ((s.acting f g).flatMap (fun i => (k (s.view f i) i).2)) with
               blocks := t.blocks }

/-- What a word leaves that changes its own group alone: the group is `gr` of what it was but for its lanes, each lane of the path
is what `k` gives, and nothing else differs. -/
structure PathResult (s t : State) (f : Focus) (gr : Group → Group) (k : Nat → Lane → Lane) : Prop extends OnlyGroup s t f where
  lanes : ∀ i ∈ f.lanes, t.flane f i = k i (s.flane f i)
  others : ∀ i, i ∉ f.lanes → t.flane f i = s.flane f i
  group : t.fgroup f = { gr (s.fgroup f) with lanes := (t.fgroup f).lanes }
  rest : t = { s with blocks := t.blocks }

/-- Nothing but one block differs. -/
def OnlyBlock (s t : State) (b : Nat) : Prop :=
  t = { s with blocks := t.blocks } ∧ ∀ c, c ≠ b → t.block? c = s.block? c

end Sys2Proof.Machine
end

