-- ==== Sys2Proof/Certificates/Slice0/Obligations.lean ====
section
/-!
DEFINITION. The statements for the provers, with the tables they speak of. A table row gives an instruction the effect that the
spec's own table gives it; the statements say that `exec` answers a next state with that effect and nothing else.
-/

set_option linter.unusedVariables false

open Sys2Proof Sys2Proof.Machine

namespace Sys2Proof.Claims

/-! ## Register words that work lane by lane -/

/-- A register word: its predicate, the vector registers it names, and what a lane in which it acts becomes. -/
structure LaneWord where
  g : Guard
  use : List Nat
  lane : View → Nat → Lane × Events

/-- A word over the elements of two sources and a third register, with its exact result on the values (06_arith.md R135, R136). -/
def exact (f : FForm) (m : AMods) (third : BitVec 9) (use : List Nat) (k : Int → Int → Int → Int) : LaneWord :=
  ⟨f.g, use, intLane f m false third (fun a b c =>
    let val := intOf m.ty.signed m.width
    (deliver m.sat m.ty.signed m.width (k (val a) (val b) (val c)), []))⟩

/-- A word on the patterns of the elements; `b32` when source B is one unsigned 32-bit value. -/
def bits (f : FForm) (m : AMods) (b32 : Bool) (use : List Nat) (k : Nat → Nat → Nat → Nat) : LaneWord :=
  ⟨f.g, use, intLane f m b32 f.d (fun a b c => (k a b c, []))⟩

/-- A word with a 32-bit literal whose destination is its first source (R138). -/
def long (l : LForm) (m : AMods) (k : Nat → Nat → Nat) : LaneWord :=
  ⟨l.g, regUse m.ty.wide l.d, longLane l m (fun a b _ => (k a b, []))⟩

/-- R72: the quotient or the remainder, and whether the case is counted. -/
def divide (m : AMods) (rem : Bool) (a b : Nat) : Nat × Events :=
  let w := m.width
  let sg := m.ty.signed
  let x := intOf sg w a
  let y := intOf sg w b
  if y = 0 then
    (if rem then a % 2 ^ w else wrapTo w (if sg then (if 0 ≤ x then intMax true w else intMin true w) else intMax false w), [arithEvent])
  else if sg && x = intMin true w && y = -1 then
    (if rem then 0 else wrapTo w (if m.sat then intMax true w else intMin true w), [])
  else (wrapTo w (if rem then x.tmod y else x.tdiv y), [])

/-- Majors 1 and 2 (06_arith.md R135 to R140). -/
def integerWord : Instr → Option LaneWord
  | .add f m => some (exact f m f.d (intUse f m false) (fun a b _ => a + b))
  | .sub f m => some (exact f m f.d (intUse f m false) (fun a b _ => a - b))
  | .mul f m => some (exact f m f.d (intUse f m false) (fun a b _ => a * b))
  | .mulh f m => some (exact f m f.d (intUse f m false) (fun a b _ => a * b / (2 : Int) ^ m.width))
  | .mad f m => some (exact f m f.c (intUse f m false ++ regUse m.ty.wide f.c) (fun a b c => a * b + c))
  | .min f m => some (exact f m f.d (intUse f m false) (fun a b _ => min a b))
  | .max f m => some (exact f m f.d (intUse f m false) (fun a b _ => max a b))
  | .abs f m => some (exact f m f.d (intUse1 f m) (fun a _ _ => |a|))
  | .neg f m => some (exact f m f.d (intUse1 f m) (fun a _ _ => -a))
  | .div f m => some ⟨f.g, intUse f m false, intLane f m false f.d (fun a b _ => divide m false a b)⟩
  | .rem f m => some ⟨f.g, intUse f m false, intLane f m false f.d (fun a b _ => divide m true a b)⟩
  | .mulmod f m => some ⟨f.g, intUse f m false, fun v i =>
      let q := (v.src64 f.b).toNat
      let bad := decide (q = 0) || decide (2 ^ 62 ≤ q)
      (v.l.setPair v.g.nregs f.d.toNat
        (BitVec.ofNat 64 (if bad then 2 ^ 64 - 1 else (v.l.pair v.g.nregs f.d.toNat).toNat * (v.src64 f.a).toNat % q)),
       if bad then [arithEvent] else [])⟩
  | .addL l m => some (long l m (fun a b => deliver m.sat m.ty.signed m.width (intOf m.ty.signed m.width a + intOf m.ty.signed m.width b)))
  | .mulL l m => some (long l m (fun a b => deliver m.sat m.ty.signed m.width (intOf m.ty.signed m.width a * intOf m.ty.signed m.width b)))
  | .andB f m => some (bits f m false (intUse f m false) (fun a b _ => a &&& b))
  | .orB f m => some (bits f m false (intUse f m false) (fun a b _ => a ||| b))
  | .xorB f m => some (bits f m false (intUse f m false) (fun a b _ => a ^^^ b))
  | .andL l m => some (long l m (fun a b => a &&& b))
  | .orL l m => some (long l m (fun a b => a ||| b))
  | .xorL l m => some (long l m (fun a b => a ^^^ b))
  | .notB f m => some (bits f m false (intUse1 f m) (fun a _ _ => 2 ^ m.width - 1 - a))
  | .shl f m => some (bits f m true (intUse f m true) (fun a b _ => a * 2 ^ (b % m.width) % 2 ^ m.width))
  | .shr f m => some (bits f m true (intUse f m true) (fun a b _ => a / 2 ^ (b % m.width)))
  | .sra f m => some (bits f m true (intUse f m true) (fun a b _ => wrapTo m.width (intOf true m.width a / (2 : Int) ^ (b % m.width))))
  | .rol f m => some (bits f m true (intUse f m true)
      (fun a b _ => (a * 2 ^ (b % m.width) + a / 2 ^ (m.width - b % m.width)) % 2 ^ m.width))
  | .clz f m => some (bits f m false (intUse1 f m) (fun a _ _ => m.width - bitLen a))
  | .popc f m => some (bits f m false (intUse1 f m) (fun a _ _ => popBits a m.width))
  | .brev f m => some (bits f m false (intUse1 f m) (fun a _ _ => revBits a m.width))
  | .bfe f m => some (bits f m true (intUse f m true) (fun a b _ => bfeBits m.ty.signed m.width a b))
  | .bfi f m => some (bits f m true (intUse f m true) (fun a b d => bfiBits m.width a b d))
  | _ => none

/-- A float word over the patterns of its elements (R144). -/
def flt (f : FForm) (m : BMods) (third : BitVec 9) (use : List Nat) (k : Nat → Nat → Nat → Nat × Events) : LaneWord :=
  ⟨f.g, use, fltLane f m third k⟩

/-- Majors 4 and 5 (R141, R144 to R148): an operation on the values that the patterns stand for, rounded once. -/
def floatWord : Instr → Option LaneWord
  | .fadd f m => some (flt f m f.d (fltUse f m) (fun a b _ =>
      sumF (FFmt.of m.ty) m.rnd m.sat (decodeF (FFmt.of m.ty) a) (decodeF (FFmt.of m.ty) b)))
  | .fsub f m => some (flt f m f.d (fltUse f m) (fun a b _ =>
      sumF (FFmt.of m.ty) m.rnd m.sat (decodeF (FFmt.of m.ty) a) (negF (decodeF (FFmt.of m.ty) b))))
  | .fmul f m => some (flt f m f.d (fltUse f m) (fun a b _ =>
      mulF (FFmt.of m.ty) m.rnd m.sat (decodeF (FFmt.of m.ty) a) (decodeF (FFmt.of m.ty) b)))
  | .fdiv f m => some (flt f m f.d (fltUse f m) (fun a b _ =>
      divF (FFmt.of m.ty) m.rnd m.sat (decodeF (FFmt.of m.ty) a) (decodeF (FFmt.of m.ty) b)))
  | .ffma f m => some (flt f m f.c (fltUse f m ++ regUse m.ty.wide f.c) (fun a b c =>
      fmaF (FFmt.of m.ty) m.rnd m.sat (decodeF (FFmt.of m.ty) a) (decodeF (FFmt.of m.ty) b) (decodeF (FFmt.of m.ty) c)))
  | .faddL l m => some ⟨l.g, regUse m.ty.wide l.d, longFlt l m sumF⟩
  | .fmulL l m => some ⟨l.g, regUse m.ty.wide l.d, longFlt l m mulF⟩
  | .fmin f m => some (flt f m f.d (fltUse f m) (fun a b _ => (minMaxF (FFmt.of m.ty) false a b, [])))
  | .fmax f m => some (flt f m f.d (fltUse f m) (fun a b _ => (minMaxF (FFmt.of m.ty) true a b, [])))
  | .fabs f m => some (flt f m f.d (fltUse1 f m) (fun a _ _ => (absF (FFmt.of m.ty) a, [])))
  | .fneg f m => some (flt f m f.d (fltUse1 f m) (fun a _ _ => (negBitsF (FFmt.of m.ty) a, [])))
  | .fcmp f m c => some ⟨f.g, srcUse m.ty.wide f.a ++ srcUse m.ty.wide f.b, fun v i =>
      (v.l.setPred f.d.toNat (condF c (decodeF (FFmt.of m.ty) (v.fltSrc m f.a)) (decodeF (FFmt.of m.ty) (v.fltSrc m f.b))), [])⟩
  | .frcp f m => some (flt f m f.d (fltUse1 f m) (fun a _ _ => divF (FFmt.of m.ty) m.rnd m.sat oneF (decodeF (FFmt.of m.ty) a)))
  | .frsq f m => some (flt f m f.d (fltUse1 f m) (fun a _ _ => rsqrtF (FFmt.of m.ty) m.rnd m.sat (decodeF (FFmt.of m.ty) a)))
  | .fsqrt f m => some (flt f m f.d (fltUse1 f m) (fun a _ _ => sqrtF (FFmt.of m.ty) m.rnd m.sat (decodeF (FFmt.of m.ty) a)))
  | .fexp2 f m => some (flt f m f.d (fltUse1 f m) (fun a _ _ => exp2F (FFmt.of m.ty) m.rnd m.sat (decodeF (FFmt.of m.ty) a)))
  | .flog2 f m => some (flt f m f.d (fltUse1 f m) (fun a _ _ => log2F (FFmt.of m.ty) m.rnd m.sat (decodeF (FFmt.of m.ty) a)))
  | .fsin f m => some (flt f m f.d (fltUse1 f m) (fun a _ _ => sinPiF (FFmt.of m.ty) m.rnd m.sat (decodeF (FFmt.of m.ty) a)))
  | .fcos f m => some (flt f m f.d (fltUse1 f m) (fun a _ _ => cosPiF (FFmt.of m.ty) m.rnd m.sat (decodeF (FFmt.of m.ty) a)))
  | .fclass f m => some ⟨f.g, srcUse m.ty.wide f.a ++ regUse false f.d, fun v i =>
      (v.put false f.d (fltElems m (fun a _ _ => (classF (FFmt.of m.ty) a, [])) (v.fltSrc m f.a) 0 0).1, [])⟩
  | .frnd f m => some (flt f m f.d (fltUse1 f m) (fun a _ _ => (integralF (FFmt.of m.ty) m.rnd m.sat a, [])))
  | _ => none

/-- Majors 6 and 7 (R149 to R154): the value of the source, delivered in the destination type. -/
def convertWord : Instr → Option LaneWord
  | .cvt f m ty2 => some ⟨f.g, srcUse ty2.wide f.a ++ regUse m.ty.wide f.d, fun v i =>
      let x := convertTo (Machine.Num.of m.ty) m.rnd m.sat ((Machine.Num.of ty2).read (v.numSrc ty2 f.a))
      (v.putNum m.ty f.d x.1, x.2)⟩
  | .pack f m ty2 pk => some ⟨f.g, srcUse ty2.wide f.a ++ srcUse false f.b ++ regUse false f.d, fun v i =>
      let x := convertTo (Machine.Num.sub m.ty pk.width) m.rnd m.sat ((Machine.Num.of ty2).read (v.numSrc ty2 f.a))
      (v.put false f.d (setEl pk.width pk.count (v.l.reg v.g.nregs f.d.toNat).toNat ((v.src f.b).toNat % pk.count) x.1), x.2)⟩
  | .unpack f m ty2 pk => some ⟨f.g, srcUse false f.a ++ srcUse false f.b ++ regUse m.ty.wide f.d, fun v i =>
      let a := match f.a with
        | .lit x => (match Machine.Num.of ty2 with
            | .flt t => joinEls 16 [litF t x, litF t x]
            | _ => litEls pk x)
        | a => (v.src a).toNat
      let x := convertTo (Machine.Num.of m.ty) m.rnd m.sat ((Machine.Num.sub ty2 pk.width).read (subEl pk.width a ((v.src f.b).toNat % pk.count)))
      (v.putNum m.ty f.d x.1, x.2)⟩
  | .lmul f m fmt pk => some ⟨f.g, srcUse false f.a ++ srcUse false f.b ++ regUse m.ty.wide f.d, fun v i =>
      let el := fun (a b : Nat) => convertTo (Machine.Num.of m.ty) m.rnd m.sat (.flt (lprod (LFmt.of fmt) a b))
      let a := v.logSrc pk f.a
      let b := v.logSrc pk f.b
      if pk = .none then (v.put m.ty.wide f.d (el a b).1, (el a b).2)
      else
        let out := (List.range pk.count).map (fun j => el (subEl pk.width a j) (subEl pk.width b j))
        (v.put false f.d (joinEls pk.width (out.map Prod.fst)), out.flatMap Prod.snd)⟩
  | .lcvt f m src => some ⟨f.g, srcUse src.wide f.a ++ regUse m.ty.wide f.d, fun v i =>
      let x := match (Machine.Num.of src).read (v.numSrc src f.a) with
        | .log t b => .flt (decodeL t b)
        | y => y
      let y := convertTo (Machine.Num.of m.ty) m.rnd m.sat x
      (v.put m.ty.wide f.d y.1, y.2)⟩
  | .ldot f m => some ⟨f.g, srcUse false f.a ++ srcUse false f.b ++ regUse false f.c ++ regUse false f.d, fun v i =>
      let x := ldotEl m (v.logSrc (dotPack m.ty) f.a) (v.logSrc (dotPack m.ty) f.b) (v.l.reg v.g.nregs f.c.toNat).toNat
      (v.put false f.d x.1, x.2)⟩
  | _ => none

/-- Major 3 with a vector destination, and the pointer adds (R142, R143, 08_name.md R189). `rdsr` stands apart. -/
def moveWord : Instr → Option LaneWord
  | .cmp f ty c => some ⟨f.g, srcUse ty.wide f.a ++ srcUse ty.wide f.b, fun v i =>
      (v.l.setPred f.d.toNat (condI c (v.intVal ty f.a) (v.intVal ty f.b)), [])⟩
  | .sel f ty p => some ⟨f.g, srcUse ty.wide f.a ++ srcUse ty.wide f.b ++ regUse ty.wide f.d, fun v i =>
      (v.copy ty.wide f.d (if v.l.pred p.toNat then f.a else f.b), [])⟩
  | .mov f ty false => some ⟨f.g, srcUse ty.wide f.a ++ regUse ty.wide f.d, fun v i => (v.copy ty.wide f.d f.a, [])⟩
  | .movl l ty false => some ⟨l.g, regUse ty.wide l.d, fun v i =>
      (v.put ty.wide l.d (if ty.signed then l.lit.signExtend 64 else l.lit.setWidth 64).toNat, [])⟩
  | .padd f => some ⟨f.g, srcUse true f.a ++ srcUse false f.b ++ regUse true f.d, fun v i =>
      let a := v.src64 f.a
      (v.l.setTagged v.g.nregs f.d.toNat (a.extractLsb' 32 32 ++ (a.extractLsb' 0 32 + v.src f.b)) (v.tagOf f.a), [])⟩
  | .psub f => some ⟨f.g, srcUse true f.a ++ srcUse false f.b ++ regUse true f.d, fun v i =>
      let a := v.src64 f.a
      (v.l.setTagged v.g.nregs f.d.toNat (a.extractLsb' 32 32 ++ (a.extractLsb' 0 32 - v.src f.b)) (v.tagOf f.a), [])⟩
  | _ => none

/-- The operation and operands of a pair word's first half (03_formats.md R61). -/
def firstHalf : Instr → Option (HalfOp × HArgs × Half)
  | .nopHalf h y => some (.nop, h, y)
  | .addHalf h y => some (.add, h, y)
  | .subHalf h y => some (.sub, h, y)
  | .mulHalf h y => some (.mul, h, y)
  | .andHalf h y => some (.and, h, y)
  | .orHalf h y => some (.or, h, y)
  | .xorHalf h y => some (.xor, h, y)
  | .shlHalf h y => some (.shl, h, y)
  | .shrHalf h y => some (.shr, h, y)
  | .sraHalf h y => some (.sra, h, y)
  | .minI32Half h y => some (.minI, h, y)
  | .maxI32Half h y => some (.maxI, h, y)
  | .minN32Half h y => some (.minN, h, y)
  | .maxN32Half h y => some (.maxN, h, y)
  | .movHalf h y => some (.mov, h, y)
  | .faddHalf h y => some (.fadd, h, y)
  | .fsubHalf h y => some (.fsub, h, y)
  | .fmulHalf h y => some (.fmul, h, y)
  | .fminHalf h y => some (.fmin, h, y)
  | .fmaxHalf h y => some (.fmax, h, y)
  | _ => none

/-- The 32-bit result of a half on the patterns of d and s, and its events; `nop` writes nothing. -/
def halfValue : HalfOp → Nat → Nat → Option (Nat × Events)
  | .nop, _, _ => none
  | .add, d, s => some ((d + s) % 2 ^ 32, [])
  | .sub, d, s => some ((d + (2 ^ 32 - s)) % 2 ^ 32, [])
  | .mul, d, s => some (d * s % 2 ^ 32, [])
  | .and, d, s => some (d &&& s, [])
  | .or, d, s => some (d ||| s, [])
  | .xor, d, s => some (d ^^^ s, [])
  | .shl, d, s => some (d * 2 ^ (s % 32) % 2 ^ 32, [])
  | .shr, d, s => some (d / 2 ^ (s % 32), [])
  | .sra, d, s => some (wrapTo 32 (intOf true 32 d / (2 : Int) ^ (s % 32)), [])
  | .minI, d, s => some (wrapTo 32 (min (intOf true 32 d) (intOf true 32 s)), [])
  | .maxI, d, s => some (wrapTo 32 (max (intOf true 32 d) (intOf true 32 s)), [])
  | .minN, d, s => some (min d s, [])
  | .maxN, d, s => some (max d s, [])
  | .mov, _, s => some (s, [])
  | .fadd, d, s => some (sumF f32Fmt .rn false (decodeF f32Fmt d) (decodeF f32Fmt s))
  | .fsub, d, s => some (sumF f32Fmt .rn false (decodeF f32Fmt d) (negF (decodeF f32Fmt s)))
  | .fmul, d, s => some (mulF f32Fmt .rn false (decodeF f32Fmt d) (decodeF f32Fmt s))
  | .fmin, d, s => some (minMaxF f32Fmt false d s, [])
  | .fmax, d, s => some (minMaxF f32Fmt true d s, [])

/-- What a half gives a lane whose registers are as the word found them. -/
def halfResult (op : HalfOp) (h : HArgs) (v : View) : Option (Nat × Events) :=
  if v.l.pred h.p.toNat then
    halfValue op (v.l.reg v.g.nregs h.d.toNat).toNat (if h.s = 511 then 0 else (v.l.reg v.g.nregs h.s.toNat).toNat)
  else none

def writeHalf (n : Nat) (h : HArgs) (r : Option (Nat × Events)) (l : Lane) : Lane :=
  match r with
  | some x => l.setReg n h.d.toNat (BitVec.ofNat 32 x.1)
  | none => l

/-- Registers that a half names. -/
def halfRegs (op : HalfOp) (h : HArgs) : List Nat :=
  if op = .nop then [] else h.d.toNat :: (if h.s = 511 then [] else [h.s.toNat])

/-- R62: both halves read before either writes. -/
def pairWord (i : Instr) : Option LaneWord :=
  (firstHalf i).map (fun x => ⟨{ n := 7, neg := false }, halfRegs x.1 x.2.1 ++ halfRegs x.2.2.op x.2.2.h, fun v _ =>
    let a := halfResult x.1 x.2.1 v
    let b := halfResult x.2.2.op x.2.2.h v
    (writeHalf v.g.nregs x.2.2.h b (writeHalf v.g.nregs x.2.1 a v.l), (a.map Prod.snd).getD [] ++ (b.map Prod.snd).getD [])⟩)

end Sys2Proof.Claims

open Sys2Proof.Claims

/-- R136, R138, R139: every word of majors 1 and 2 completes: each lane in which it acts has its result, every lane of the path goes
on, and nothing else changes but the count of its events. -/
def Obligations.IntegerWordsComplete : Prop :=
  ∀ (i : Instr) (w : LaneWord) (s : State) (f : Focus), integerWord i = some w → Ready s f w.use →
    ∃ t, exec i s = .next t ∧ LaneResult s t f w.g w.lane

/-- The same for the float words of majors 4 and 5, and for the conversions and the log formats of majors 6 and 7, whose results are the
named operations on the values of the sources; what sums, products, quotients and conversions deliver is said by
`Obligations.ResultsAreRoundedOnce`. -/
def Obligations.FloatAndConversionWordsComplete : Prop :=
  (∀ (i : Instr) (w : LaneWord) (s : State) (f : Focus), floatWord i = some w → Ready s f w.use →
     ∃ t, exec i s = .next t ∧ LaneResult s t f w.g w.lane) ∧
  (∀ (i : Instr) (w : LaneWord) (s : State) (f : Focus), convertWord i = some w → Ready s f w.use →
     ∃ t, exec i s = .next t ∧ LaneResult s t f w.g w.lane)

/-- The same for compares, selects, moves to vector registers and the pointer adds, and for pair words, whose two halves each have a
predicate of their own. Where the `d` fields of both halves name one register modulo the register count, the second half's write
stands, which is the model's choice (log 91). -/
def Obligations.MoveAndPairWordsComplete : Prop :=
  (∀ (i : Instr) (w : LaneWord) (s : State) (f : Focus), moveWord i = some w → Ready s f w.use →
     ∃ t, exec i s = .next t ∧ LaneResult s t f w.g w.lane) ∧
  (∀ (i : Instr) (w : LaneWord) (s : State) (f : Focus), pairWord i = some w → Ready s f w.use →
     ∃ t, exec i s = .next t ∧ LaneResult s t f w.g w.lane)

namespace Sys2Proof.Claims

/-- The value of a finite number; none of a NaN or an infinity, or of a magnitude that stands for more than it writes. -/
def valQ : FVal → Option ℚ
  | .fin neg m => if m.more then none else some ((if neg then -1 else 1) * (m.mag : ℚ) * (2 : ℚ) ^ m.exp)
  | _ => none

/-- The magnitude that a pattern without its sign stands for (R75); the pattern of infinity counts as the power of two that follows the
largest finite value. -/
def magQ (t : FFmt) (y : Nat) : ℚ :=
  if y / 2 ^ t.fbits = 0 then (y : ℚ) * (2 : ℚ) ^ (t.emin - (t.fbits : Int))
  else ((2 ^ t.fbits + y % 2 ^ t.fbits : Nat) : ℚ) * (2 : ℚ) ^ (t.emin - (t.fbits : Int) + ((y / 2 ^ t.fbits - 1 : Nat) : Int))

/-- R77: the pattern without its sign that a magnitude is rounded to: nearest with ties to the even pattern, toward zero, or away
from it. -/
def RoundsTo (t : FFmt) (r : Rnd) (neg : Bool) (x : ℚ) (y : Nat) : Prop :=
  let down := y < t.infBits ∧ magQ t y ≤ x ∧ ∀ z, z < t.infBits → magQ t z ≤ x → z ≤ y
  let up := y ≤ t.infBits ∧ (y < t.infBits → x ≤ magQ t y) ∧ ∀ z, z < t.infBits → x ≤ magQ t z → y ≤ z
  match r with
  | .rn => y ≤ t.infBits ∧ ∀ z, z ≤ t.infBits → z ≠ y →
      |magQ t y - x| < |magQ t z - x| ∨ (|magQ t y - x| = |magQ t z - x| ∧ y % 2 = 0)
  | .rz => down
  | .rm => if neg then up else down
  | .rp => if neg then down else up

/-- A nonzero exact result, delivered: its sign and the rounded magnitude; with `sat` the largest finite value in place of infinity
(R71, R78). -/
def Delivers (ty : FTy) (r : Rnd) (sat : Bool) (q : ℚ) (x : Nat) : Prop :=
  ∃ y, RoundsTo (FFmt.of ty) r (decide (q < 0)) |q| y ∧
    x = withSign (FFmt.of ty) (decide (q < 0)) (if sat ∧ y = (FFmt.of ty).infBits then (FFmt.of ty).maxBits else y)

end Sys2Proof.Claims

/-- R75, R77, R78: the sum, the product, the fused product and sum, and the quotient of two finite values, and the conversion of one,
are the exact result rounded once in the mode to the nearest value or toward its direction; an exact sum of zero is +0 but under `.rm`,
where operands of opposite sign give −0; a NaN source gives the default NaN, and 0 × ∞, ∞ − ∞, ∞ / ∞ and 0 / 0 give it with the event of a
NaN produced. -/
def Obligations.ResultsAreRoundedOnce : Prop :=
  (∀ (ty : FTy) (r : Rnd) (sat : Bool) (a b c : FVal) (p q o : ℚ), valQ a = some p → valQ b = some q → valQ c = some o →
    let t := FFmt.of ty
    (p + q ≠ 0 → Delivers ty r sat (p + q) (sumF t r sat a b).1) ∧
    (p * q ≠ 0 → Delivers ty r sat (p * q) (mulF t r sat a b).1) ∧
    (p * q + o ≠ 0 → Delivers ty r sat (p * q + o) (fmaF t r sat a b c).1) ∧
    (p ≠ 0 → q ≠ 0 → Delivers ty r sat (p / q) (divF t r sat a b).1) ∧
    (p ≠ 0 → Delivers ty r sat p (convertTo (.flt t) r sat (.flt a)).1) ∧
    (p ≠ 0 → p + q = 0 → sumF t r sat a b = (withSign t (decide (r = .rm)) 0, []))) ∧
  (∀ (ty : FTy) (r : Rnd) (sat x y : Bool) (a : FVal) (m : Mag), m.mag = 0 →
    let t := FFmt.of ty
    (sumF t r sat .nan a = (t.nanBits, []) ∧ sumF t r sat a .nan = (t.nanBits, []) ∧ mulF t r sat .nan a = (t.nanBits, []) ∧
     mulF t r sat a .nan = (t.nanBits, []) ∧ divF t r sat .nan a = (t.nanBits, []) ∧ divF t r sat a .nan = (t.nanBits, [])) ∧
    (sumF t r sat (.inf x) (.inf !x) = (t.nanBits, [4 * t.code]) ∧ mulF t r sat (.fin y m) (.inf x) = (t.nanBits, [4 * t.code]) ∧
     divF t r sat (.inf x) (.inf y) = (t.nanBits, [4 * t.code]) ∧ divF t r sat (.fin x m) (.fin y m) = (t.nanBits, [4 * t.code])))

namespace Sys2Proof.Claims

/-- Where a lane of the path stands after a word that lets every lane go on. -/
def goOn (f : Focus) (_ : Nat) (l : Lane) : Lane := l.advance (f.pc + 1)

/-- A scalar, or an even pair of them, written in a group. -/
def writeScalar (wide : Bool) (d : BitVec 9) (x : DWord) (g : Group) : Group :=
  if wide then { g with s := Cells.set (Cells.set g.s d.toNat (x.extractLsb' 0 32)) (d.toNat + 1) (x.extractLsb' 32 32) }
  else { g with s := Cells.set g.s d.toNat (x.setWidth 32) }

/-- R143: the value of special register `n` in lane `i`. -/
def special (s : State) (f : Focus) (n i : Nat) : DWord :=
  let b := s.fblock f
  match n with
  | 0 => BitVec.ofNat 64 i
  | 1 => BitVec.ofNat 64 (s.fgroup f).num
  | 2 => BitVec.ofNat 64 b.index
  | 3 => BitVec.ofNat 64 (b.index / (s.blockKern b).cluster)
  | 4 => BitVec.ofNat 64 b.core
  | 5 => BitVec.ofNat 64 (b.core / 64)
  | 6 => BitVec.ofNat 64 (s.fgroup f).width
  | 7 => BitVec.ofNat 64 s.clock
  | _ => (s.flane f i).sp

end Sys2Proof.Claims

/-- R143: `rdsr` to a vector register or pair gives every lane in which it acts the special register that source A numbers. R132: a
scalar destination takes the value of the lowest active lane whose predicate is true; if there is none, nothing is written. -/
def Obligations.SpecialRegistersAndScalarDestinations : Prop :=
  (∀ (x : FForm) (ty : Ty) (n : BitVec 9) (s : State) (f : Focus), x.a = .v n → n.toNat ≤ 8 → Ready s f (regUse ty.wide x.d) →
    ∃ t, exec (.rdsr x ty false) s = .next t ∧
      LaneResult s t f x.g (fun v i => (v.put ty.wide x.d (special s f n.toNat i).toNat, []))) ∧
  ∀ (x : FForm) (l : LForm) (ty : Ty) (s : State) (f : Focus),
    (Ready s f (srcUse ty.wide x.a) →
      (∀ i, (s.acting f x.g).head? = some i →
        ∃ t, exec (.mov x ty true) s = .next t ∧
          PathResult s t f (writeScalar ty.wide x.d (if ty.wide then (s.view f i).src64 x.a else ((s.view f i).src x.a).setWidth 64))
            (goOn f)) ∧
      (s.acting f x.g = [] → ∃ t, exec (.mov x ty true) s = .next t ∧ PathResult s t f id (goOn f))) ∧
    (Ready s f [] →
      (s.acting f l.g ≠ [] → ∃ t, exec (.movl l ty true) s = .next t ∧
        PathResult s t f (writeScalar ty.wide l.d (if ty.signed then l.lit.signExtend 64 else l.lit.setWidth 64)) (goOn f)) ∧
      (s.acting f l.g = [] → ∃ t, exec (.movl l ty true) s = .next t ∧ PathResult s t f id (goOn f)) ∧
      (∀ n i, x.a = .v n → n.toNat ≤ 8 → (s.acting f x.g).head? = some i →
        ∃ t, exec (.rdsr x ty true) s = .next t ∧
          PathResult s t f (writeScalar ty.wide x.d (special s f n.toNat i)) (goOn f)) ∧
      (s.acting f x.g = [] → ∃ t, exec (.rdsr x ty true) s = .next t ∧ PathResult s t f id (goOn f)))

namespace Sys2Proof.Claims

/-- What a virtual word leaves that writes a tile: the block has the tile, the lanes go on, the events are counted, and nothing else
differs. -/
structure TileWritten (s t : State) (f : Focus) (n : Nat) (y : VTile × Events) : Prop where
  tile : Tbl.at (t.fblock f).vtiles n = some y.1
  block : t.fblock f = { s.fblock f with vtiles := Tbl.put (s.fblock f).vtiles n y.1, groups := (t.fblock f).groups }
  siblings : ∀ h, h ≠ f.grp → (t.fblock f).group h = (s.fblock f).group h
  blocks : ∀ b, b ≠ f.blk → t.block? b = s.block? b
  group : t.fgroup f = { s.fgroup f with lanes := (t.fgroup f).lanes }
  lanes : ∀ i ∈ f.lanes, t.flane f i = goOn f i (s.flane f i)
  rest : t = { countEvents s (s.fctx f) (s.fblock f).inst y.2 with blocks := t.blocks }

/-- A virtual word with no access to memory, and the registers that it reads and the tile that it gives. -/
def virtualWord (s : State) (f : Focus) (i : Nat) (w : BitVec 53) : Instr → Option (List Nat × (VTile × Events))
  | .vtDecl _ => some ([], (vtDecl ((getTy (w.extractLsb' 3 4)).getD .n8) ((s.view f i).src (vtForm w).a).toNat
      ((s.view f i).src (vtForm w).b).toNat, []))
  | .vtMma _ => some ([], vtMma (s.vtile f (vtForm w).d.toNat) (s.vtSrc f (vtForm w).a) (s.vtSrc f (vtForm w).b))
  | .vtMap _ => some (srcUse false (vtForm w).b, vtMap (w.extractLsb' 3 4).toNat (s.vtile f (vtForm w).d.toNat) (s.vtSrc f (vtForm w).a)
      ((s.view f i).src (vtForm w).b))
  | .vtRed _ => some ([], vtRed (w.extractLsb' 0 2).toNat (s.vtile f (vtForm w).d.toNat) (s.vtSrc f (vtForm w).a))
  | _ => none

end Sys2Proof.Claims

/-- R67, R68: in an image that was not translated a major-31 word raises the virtual-instruction trap, and a word with no opcode raises the
illegal-instruction trap, on the whole path and whatever the predicate. R290, R291: in a translated image a virtual word gives its tile,
by the lowest acting lane; that it does so at once, and that a load and a store of a tile wait for what the lane has in flight, is the
model's choice (log 18). `vt.ld` and `vt.st` complete where every row passes its checks and the firewall: the tile has the elements that the rows' bytes
hold, or each row's bytes are written. -/
def Obligations.VirtualAndUnassignedWords : Prop :=
  (∀ (w : BitVec 53) (u : BitVec 64) (s : State) (f : Focus), s.focus = some f →
    (s.emulates f = false → ∀ i, i = .vtDecl w ∨ i = .vtLd w ∨ i = .vtSt w ∨ i = .vtMma w ∨ i = .vtMap w ∨ i = .vtRed w →
      exec i s = .next (takeTrap s f { cause := 2 })) ∧
    exec (.unassignedOpcodeWord u) s = .next (takeTrap s f { cause := 1, sub := 1 })) ∧
  (∀ (w : BitVec 53) (x : Instr) (use : List Nat) (y : VTile × Events) (i : Nat) (s : State) (f : Focus), Ready s f use →
    x = .vtDecl w ∨ x = .vtMma w ∨ x = .vtMap w ∨ x = .vtRed w → s.emulates f = true → (s.acting f (vtForm w).g).head? = some i →
    virtualWord s f i w x = some (use, y) → ∃ t, exec x s = .next t ∧ TileWritten s t f (vtForm w).d.toNat y) ∧
  (∀ (w : BitVec 53) (i : Nat) (s : State) (f : Focus), Ready s f (vtUse w) → s.emulates f = true →
    (s.acting f (vtForm w).g).head? = some i → (s.fgroup f).region = none → s.laneReqs f.blk f.grp i = [] →
    s.gate f i true true false (if w.getLsbD 0 then .sp else .gl) = none →
    let n := (vtForm w).d.toNat
    let tile := s.vtile f n
    let rows := fun (need : Need) => vtRanges (s.view f i) (vtForm w) tile (w.getLsbD 0) need
    let who := s.agent (s.fblock f).core (s.fdie f) (s.fctx f)
    let open' := fun (need : Need) => ∀ r ∈ rows need, (∃ p e, vtCheck s f r = .ok p e) ∧
      ∀ o < r.len, ∀ p, s.locPlace who (vtLoc s f r) o need = some p → s.port who.world p = .pass
    (open' .read →
      ∃ t, exec (.vtLd w) s = .next t ∧ (∀ k ∈ f.lanes, (t.flane f k).pc = (s.flane f k).landing (f.pc + 1)) ∧
        ∃ bytes, Tbl.at (t.fblock f).vtiles n = some (vtLoad tile (fun o => bytes.getD o 0) 0 (((rows .read).map LocalRange.len).headD 0)) ∧
          (s.held = [] → s.poison = [] → (∀ r ∈ rows .read, ∀ o < r.len, ∃ p, s.locPlace who (vtLoc s f r) o .read = some p ∧
              s.cutOff p = false) →
            bytes = (rows .read).flatMap (fun r => s.readLoc who (vtLoc s f r) r.len))) ∧
    (open' .write →
      ∃ t, exec (.vtSt w) s = .next t ∧ (∀ k ∈ f.lanes, (t.flane f k).pc = (s.flane f k).landing (f.pc + 1)) ∧
        (t.fblock f).vtiles = (s.fblock f).vtiles ∧
        ∀ r, rows .write = [r] → w.getLsbD 0 = true →
          t.bytesAt (.rsp f.blk r.base.val.toNat) r.len = vtRow (vtFmt tile.ty) ((List.range tile.cols).map (tile.at 0))))

namespace Sys2Proof.Claims

/-- The step takes place: the machine goes on in a state of which `P` holds. -/
def Happens (i : Instr) (s : State) (P : State → Prop) : Prop := ∃ t, exec i s = .next t ∧ P t

/-- Nothing but blocks differs. -/
def BlocksOnly (s t : State) : Prop := t = { s with blocks := t.blocks }

/-- Every lane of the path lands inside the kernel's code where `k` sends it (R110). -/
def LandsIn (s : State) (f : Focus) (k : Nat → Lane → Lane) : Prop :=
  ∀ i ∈ f.lanes, (k i (s.flane f i)).pc < (s.fkern f).size

/-- The word acts in a lane. -/
def Acts (s : State) (f : Focus) (g : Guard) (i : Nat) : Bool := (s.flane f i).acts g

/-- A lane goes to `target i` where the word acts, and to the next word elsewhere. -/
def sendTo (s : State) (f : Focus) (g : Guard) (target : Nat → Nat) (i : Nat) (l : Lane) : Lane :=
  l.advance (if Acts s f g i then target i else f.pc + 1)

/-- R121: what `loop` gives a lane, with its count and the address after the body. -/
def startLoop (f : Focus) (slot n stop : Nat) (l : Lane) : Lane :=
  if n = 0 then l.advance stop
  else { l with lc := Cells.set l.lc slot (BitVec.ofNat 32 n),
                slots := ⟨slot, f.pc + 1, stop⟩ :: l.slots.filter (fun y => y.n != slot) }.advance (f.pc + 1)

/-- R123: what `lbrk` gives a lane. -/
def leaveLoop (f : Focus) (slot : Nat) (l : Lane) : Lane :=
  match l.slots.find? (fun y => y.n == slot) with
  | none => l.advance (f.pc + 1)
  | some y => { l with lc := Cells.set l.lc slot 0, slots := l.slots.filter (fun z => z.n != slot) }.advance y.stop

/-- The lanes that `jwait` holds: those in which it acts and which its mask names (R112). -/
def Holds (s : State) (f : Focus) (g : Guard) (j i : Nat) : Bool :=
  Acts s f g i && (Cells.get (s.fgroup f).j j).getLsbD i

end Sys2Proof.Claims

/-- R109: a branch sends each lane whose predicate is true to its target, and the other lanes of the path to the next word; it
writes no register and has no memory effect. R110: one of which some lane's target lies at or above the code size raises the bounds trap
in the lanes whose targets do, alone: that lanes of the word which would fall through the end of the code are not among them is the
model's choice (log 94). -/
def Obligations.BranchesSendEachLane : Prop :=
  ((∀ (l : LForm) (s : State) (f : Focus), Issues s f [] →
     (∀ i ∈ f.lanes, Acts s f l.g i = true → (BitVec.ofNat 32 (f.pc + 1) + l.lit).toNat < (s.fkern f).size) →
     LandsIn s f (sendTo s f l.g (fun _ => (BitVec.ofNat 32 (f.pc + 1) + l.lit).toNat)) →
     ∃ t, exec (.bra l) s = .next t ∧
       PathResult s t f id (sendTo s f l.g (fun _ => (BitVec.ofNat 32 (f.pc + 1) + l.lit).toNat))) ∧
   (∀ (x : FForm) (s : State) (f : Focus), Issues s f (srcUse false x.a) →
     (∀ i ∈ f.lanes, Acts s f x.g i = true → ((s.view f i).src x.a).toNat < (s.fkern f).size) →
     LandsIn s f (sendTo s f x.g (fun i => ((s.view f i).src x.a).toNat)) →
     ∃ t, exec (.brx x) s = .next t ∧ PathResult s t f id (sendTo s f x.g (fun i => ((s.view f i).src x.a).toNat)))) ∧
  (∀ (l : LForm) (s : State) (f : Focus), Issues s f [] → (s.acting f l.g) ≠ [] →
     (s.fkern f).size ≤ (BitVec.ofNat 32 (f.pc + 1) + l.lit).toNat →
     exec (.bra l) s = .next (takeTrap s f { cause := 5, lanes := s.acting f l.g })) ∧
  (∀ (x : FForm) (s : State) (f : Focus), Issues s f (srcUse false x.a) →
     let bad := (s.acting f x.g).filter (fun i => decide ((s.fkern f).size ≤ ((s.view f i).src x.a).toNat))
     bad ≠ [] → exec (.brx x) s = .next (takeTrap s f { cause := 5, lanes := bad }))

/-- R111, R112, R114: `join` writes its mask, `jwait` holds the lanes of its path that its mask names, until the end of a cycle
releases them (`CyclesEndAndSlotsFill`), and `jdrop` clears the bits of the lanes in which it acts; those are ready, so that none of
them is held. -/
def Obligations.RejoinWordsComplete : Prop :=
  ∀ (x : FForm) (j : BitVec 3) (bounded : Bool) (s : State) (f : Focus),
    (∀ i, Ready s f (srcUse true x.a) → (s.acting f x.g).head? = some i →
      ∃ t, exec (.join x) s = .next t ∧
        PathResult s t f (fun g => { g with j := Cells.set g.j x.d.toNat (laneMask g.width ((s.view f i).src64 x.a)) }) (goOn f)) ∧
    (Ready s f (srcUse true x.a) → s.acting f x.g = [] → ∃ t, exec (.join x) s = .next t ∧ PathResult s t f id (goOn f)) ∧
    (∀ i, Ready s f (if bounded then srcUse false x.a else []) → (s.acting f x.g).head? = some i →
      (∃ k ∈ f.lanes, Holds s f x.g j.toNat k = true) →
      (∃ k, k < (s.fgroup f).lanes.length ∧ (s.flane f k).st = .ready ∧ (k ∈ f.lanes → Holds s f x.g j.toNat k = false)) →
      ∃ t, exec (.jwait x bounded j) s = .next t ∧
        PathResult s t f
          (fun g => g.arrive j.toNat (if bounded then some (s.clock + ((s.view f i).src x.a).toNat) else none))
          (fun k l => if Holds s f x.g j.toNat k then { l with st := .held j.toNat } else l.advance (f.pc + 1))) ∧
    (Ready s f (if bounded then srcUse false x.a else []) → (∀ k ∈ f.lanes, Holds s f x.g j.toNat k = false) →
      ∃ t, exec (.jwait x bounded j) s = .next t ∧ PathResult s t f id (goOn f)) ∧
    (Ready s f [] → ∃ t, exec (.jdrop x) s = .next t ∧
      PathResult s t f
        (fun g => { g with j := Cells.set g.j x.d.toNat (Cells.get g.j x.d.toNat &&& ~~~ maskOf (s.acting f x.g)) }) (goOn f))

/-- R117 to R119: a call pushes the address of the next word on each lane's return stack and goes to its target; a return goes back
to the newest entry. Lanes with room for the push, or an entry to return to, touch no memory.
R101, R116, R119: `exit`, and `ret` with an empty return stack, leave every lane in which they act exited, be they the last word of
the code; the path's other lanes go on at the next word. So it is wherever the group is left with no lane, or with one that is not held
at a rejoin wait; where every lane left is held, R115 may find a deadlock. -/
def Obligations.CallsReturnsAndExitsComplete : Prop :=
  (∀ (l : LForm) (s : State) (f : Focus), Issues s f [] →
    (∀ i ∈ s.acting f l.g, (s.flane f i).stack.length < 4 ∧ (BitVec.ofNat 32 (f.pc + 1) + l.lit).toNat < (s.fkern f).size) →
    LandsIn s f (sendTo s f l.g (fun _ => (BitVec.ofNat 32 (f.pc + 1) + l.lit).toNat)) →
    ∃ t, exec (.call l) s = .next t ∧
      PathResult s t f id (fun i l' => if Acts s f l.g i
        then { l' with stack := l'.stack ++ [f.pc + 1] }.advance (BitVec.ofNat 32 (f.pc + 1) + l.lit).toNat
        else l'.advance (f.pc + 1))) ∧
  (∀ (x : FForm) (s : State) (f : Focus), Issues s f (srcUse false x.a) →
    (∀ i ∈ s.acting f x.g, (s.flane f i).stack.length < 4 ∧ ((s.view f i).src x.a).toNat < (s.fkern f).size) →
    LandsIn s f (sendTo s f x.g (fun i => ((s.view f i).src x.a).toNat)) →
    ∃ t, exec (.callx x) s = .next t ∧
      PathResult s t f id (fun i l' => if Acts s f x.g i
        then { l' with stack := l'.stack ++ [f.pc + 1] }.advance ((s.view f i).src x.a).toNat
        else l'.advance (f.pc + 1))) ∧
  (∀ (x : FForm) (s : State) (f : Focus), Issues s f [] → (s.fgroup f).region = none →
    (∀ i ∈ s.acting f x.g, ∃ a, (s.flane f i).stack.getLast? = some a ∧ a < (s.fkern f).size) →
    LandsIn s f (sendTo s f x.g (fun i => ((s.flane f i).stack.getLast?).getD 0)) →
    ∃ t, exec (.ret x) s = .next t ∧
      PathResult s t f id (fun i l' => if Acts s f x.g i
        then { l' with stack := l'.stack.dropLast }.advance (((s.flane f i).stack.getLast?).getD 0)
        else l'.advance (f.pc + 1))) ∧
  (∀ (x : FForm) (s : State) (f : Focus), Issues s f [] →
    (∀ i ∈ f.lanes, Acts s f x.g i = false → (s.flane f i).landing (f.pc + 1) < (s.fkern f).size) →
    let left := fun (k : Nat) => k < (s.fgroup f).lanes.length ∧ k ∉ s.acting f x.g ∧ (s.flane f k).st ≠ .exited
    (∀ k, ¬left k) ∨ (∃ k, left k ∧ ∀ j, (s.flane f k).st ≠ .held j) →
    let ends := fun (w : Instr) => Happens w s (fun t => t.mem = s.mem ∧ (∀ i ∈ s.acting f x.g, (t.flane f i).st = .exited) ∧
      (∀ i ∈ f.lanes, Acts s f x.g i = false → (t.flane f i).pc = (s.flane f i).landing (f.pc + 1) ∧ (t.flane f i).st = .ready ∧
        (t.flane f i).v = (s.flane f i).v) ∧
      ∀ i, i ∉ f.lanes → (t.flane f i).pc = (s.flane f i).pc ∧ (t.flane f i).st = (s.flane f i).st ∧
        (t.flane f i).v = (s.flane f i).v)
    ends (.exit x) ∧ ((∀ i ∈ s.acting f x.g, (s.flane f i).stack = [] ∧ (s.flane f i).depth = 0) → ends (.ret x)))

/-- R120: `nop` changes nothing but the PC. `yld n` makes its path not ready for n cycles and resets its passed-over count, and with
n = 0, or where it acts in no lane, acts as `nop`; the other candidates of the group keep their counts and their lanes stay as they are.
That the lanes of its path in which it does not act go on at once is the model's choice (log 110). -/
def Obligations.NopAndYieldComplete : Prop :=
  (∀ (x : FForm) (s : State) (f : Focus), Ready s f [] →
     ∃ t, exec (.nop x) s = .next t ∧ PathResult s t f id (goOn f)) ∧
  (∀ (x : FForm) (s : State) (f : Focus), Ready s f (srcUse false x.a) → s.acting f x.g = [] →
     ∃ t, exec (.yld x) s = .next t ∧ PathResult s t f id (goOn f)) ∧
  (∀ (x : FForm) (i : Nat) (s : State) (f : Focus), Ready s f (srcUse false x.a) → (s.acting f x.g).head? = some i →
     let n := ((s.view f i).src x.a).toNat
     let key := f.kern * 2 ^ 32 + f.pc
     (n = 0 → ∃ t, exec (.yld x) s = .next t ∧ PathResult s t f id (goOn f)) ∧
     (n ≠ 0 → ∃ t, exec (.yld x) s = .next t ∧
       PathResult s t f (fun g => { g with passed := (t.fgroup f).passed, aged := (t.fgroup f).aged })
         (fun k l => if Acts s f x.g k then { l.advance (f.pc + 1) with st := .waiting (.yielded (s.clock + n)) }
                     else l.advance (f.pc + 1)) ∧
       (Tbl.rising 0 (s.fgroup f).passed = true → Tbl.at (t.fgroup f).passed key = none ∧
         ∀ k, k ≠ key → Tbl.at (t.fgroup f).passed k = Tbl.at (s.fgroup f).passed k) ∧
       (∀ k, k ∈ (t.fgroup f).aged ↔ k ∈ (s.fgroup f).aged ∧ k ≠ key)))

/-- R121, R123: `loop` opens a slot with its count, or goes past the body when the count is 0; `lbrk` closes one. -/
def Obligations.LoopWordsComplete : Prop :=
  (∀ (x : FForm) (s : State) (f : Focus), Issues s f (srcUse false x.a) →
    LandsIn s f (fun i l => if Acts s f x.g i
      then startLoop f x.d.toNat ((s.view f i).src x.a).toNat (f.pc + 1 + ((s.view f i).src x.b).toNat) l else l.advance (f.pc + 1)) →
    ∃ t, exec (.loop x) s = .next t ∧
      PathResult s t f id (fun i l => if Acts s f x.g i
        then startLoop f x.d.toNat ((s.view f i).src x.a).toNat (f.pc + 1 + ((s.view f i).src x.b).toNat) l
        else l.advance (f.pc + 1))) ∧
  (∀ (x : FForm) (s : State) (f : Focus), Issues s f [] →
    LandsIn s f (fun i l => if Acts s f x.g i then leaveLoop f x.d.toNat l else l.advance (f.pc + 1)) →
    ∃ t, exec (.lbrk x) s = .next t ∧
      PathResult s t f id (fun i l => if Acts s f x.g i then leaveLoop f x.d.toNat l else l.advance (f.pc + 1)))

/-- R124, R125: `rgrow` that the core's free units can meet leaves its request at the core, its lanes wait, and the grant gives the
block's share its units, the group its new register count, the scalar that count, and lets the lanes go on; a request that no core could
ever meet, or for no unit, gives the scalar the count of registers as it stands and goes on at once. Units that freed slices have returned
count neither in a share nor in the floor of `rshrink`, which is the model's choice (log 109). `rshrink` returns units, down to those
of the launch, gives the scalar the new count, and goes on. -/
def Obligations.RegisterShareWordsComplete : Prop :=
  ∀ (x : FForm) (i n : Nat) (s : State) (f : Focus), Ready s f (srcUse false x.a) → (s.acting f x.g).head? = some i →
    ((s.view f i).src x.a).toNat = n → (s.fblock f).st = .resident →
    let core := (s.fblock f).core
    let k := s.shareKern (s.fblock f)
    let share := shareOf k (s.fgroup f)
    let units := (s.fblock f).regUnits.getD share 0
    (0 < n → n ≤ 64 → (s.fblock f).units + n ≤ 192 → n ≤ s.freeUnits core → (s.core core).grows = [] →
      ∃ t u, exec (.rgrow x) s = .next t ∧
        (t.core core).grows = [{ id := s.nextId, blk := f.blk, grp := f.grp, lanes := s.acting f x.g, sreg := x.d.toNat, units := n }] ∧
        (∀ j ∈ s.acting f x.g, t.flane f j = { s.flane f j with st := .waiting (.rgrow s.nextId) }) ∧
        exec (.rgrowGrant core) t = .next u ∧
        (u.core core).grows = [] ∧
        (u.fblock f).regUnits = (s.fblock f).regUnits.set share (units + n) ∧
        (u.fgroup f).nregs = shareCount k (s.fblock f) share (units + n) ∧
        (u.fgroup f).s = Cells.set (s.fgroup f).s x.d.toNat (BitVec.ofNat 32 (u.fgroup f).nregs) ∧
        ∀ j ∈ s.acting f x.g, (u.flane f j).st = .ready ∧ (u.flane f j).pc = (s.flane f j).landing ((s.flane f j).pc + 1)) ∧
    ((n = 0 ∨ 64 < n ∨ 192 < (s.fblock f).units + n) → (∀ g ∈ (s.core core).grows, g.blk ≠ f.blk) →
      ∃ t, exec (.rgrow x) s = .next t ∧
        PathResult s t f (writeScalar false x.d (BitVec.ofNat 64 (s.fgroup f).nregs)) (goOn f)) ∧
    (∃ t, exec (.rshrink x) s = .next t ∧ OnlyBlock s t f.blk ∧
      (t.fblock f).regUnits = (s.fblock f).regUnits.set share (max ((s.fblock f).baseUnits.getD share 0) (units - n)) ∧
      (t.fgroup f).nregs = shareCount k (s.fblock f) share (max ((s.fblock f).baseUnits.getD share 0) (units - n)) ∧
      (t.fgroup f).s = Cells.set (s.fgroup f).s x.d.toNat (BitVec.ofNat 32 (t.fgroup f).nregs) ∧
      ∀ j ∈ f.lanes, (t.flane f j).st = .ready ∧ (t.flane f j).pc = (s.flane f j).landing (f.pc + 1))

namespace Sys2Proof.Claims

/-- The word opens its execution, with the lanes that `named` gives besides those of the path, or joins the one that is open (R156). -/
def joinsExecution (f : Focus) (i : Instr) (ms : List Member) (named more : List Nat) (g : Group) : Group :=
  let among := fun (old : List Nat) => (f.lanes ++ more).foldl (fun l x => insertNat x l) old
  match g.execAt f.kern f.pc with
  | some _ => { g with execs := g.execs.map (fun (x : Execution) =>
      if x.kern == f.kern && x.pc == f.pc then { x with members := among x.members, issued := x.issued ++ ms } else x) }
  | none => { g with execs := g.execs ++ [{ kern := f.kern, pc := f.pc, instr := i, word := f.word, members := among named,
                                            issued := ms, cycles := 0 }] }

def waitsAsMember (_ : Nat) (l : Lane) : Lane := { l with st := .waiting .member }

/-- R161: what a reduction or scan gives a lane: its value of one tree over the path's acting lanes, or of one for each half. -/
def reducedLane (s : State) (f : Focus) (scan excl : Bool) (x : FForm) (m : CMods) (op : RedOp) (pk : Pack) (v : View) (i : Nat) :
    Lane × Events :=
  let ls := s.acting f x.g
  let n := if pk = .none then 1 else 2
  let w := if pk = .none then m.ty.bits else 16
  let row := fun (j : Nat) => (List.range (s.fgroup f).width).map (fun k =>
    if ls.contains k then subEl w ((s.view f k).redSrc m pk x.a) j else redIdentity op m.ty)
  let trees := (List.range n).map (fun j => redTree scan excl op m (row j) ls)
  (v.putRed m pk x.d (joinEls w (trees.map (fun t => t.1 i))), if ls.head? = some i then trees.flatMap Prod.snd else [])

/-- A lane's word has made a request for which `P` holds: it stands among those in flight, the registers it will write await it, and
the lane goes on at the next word with nothing in memory changed. -/
structure Asked (s t : State) (f : Focus) (i : Nat) (P : Req → Prop) : Prop where
  request : ∃ r ∈ t.reqs, r.id = s.nextId ∧ r.blk = f.blk ∧ r.grp = f.grp ∧ r.lane = i ∧ P r ∧
    ∀ x ∈ r.dest.named, (t.flane f i).pend.contains (regIx (s.fgroup f).nregs x) = true
  pc : (t.flane f i).pc = (s.flane f i).landing (f.pc + 1)
  mem : t.mem = s.mem

/-- A lane's access of a memory word leaves: nothing holds it back, its checks pass and its window has room. -/
structure Leaves (s : State) (i : Nat) (hold : Option Wait) (c : Chk) (p : Place) : Prop where
  open' : hold = none
  passes : ∃ seen, c = .ok p seen
  room : s.windowRoom p = true

/-- The load words: the form, the offset, and whether four registers are filled. -/
def loadOf : Instr → Option (MForm × BitVec 14 × Bool)
  | .ld m off => some (m, off, false)
  | .ldSp m off => some (m, off, false)
  | .ldq m off => some (m, off, true)
  | .ldqSp m off => some (m, off, true)
  | _ => none

def loadSize (m : MForm) (quad : Bool) : Nat := if quad then 16 else tySize m.ty

/-- R226: the vector registers of lane `i` once the bytes of a load, as one number, have reached its destination. -/
def loadedRegs (s : State) (f : Focus) (i : Nat) (m : MForm) (quad : Bool) (x : Nat) : Lane :=
  if quad then (s.flane f i).setRegs (s.fgroup f).nregs m.data.toNat (regsOf (BitVec.ofNat 512 x) 4)
  else if m.ty.wide then (s.flane f i).setPair (s.fgroup f).nregs m.data.toNat (BitVec.ofNat 64 (widen m.ty (BitVec.ofNat 512 x).toNat))
  else (s.flane f i).setReg (s.fgroup f).nregs m.data.toNat (BitVec.ofNat 32 (widen m.ty (BitVec.ofNat 512 x).toNat))

/-- The next request of the path, a read of device memory at its home, is answered as soon as it comes there: nothing else is in
flight, no line is held, the die's port lets it pass, and no station or kept answer stands between. -/
structure HomeAnswers (s : State) (f : Focus) (pa : Nat) : Prop where
  quiet : s.reqs = []
  unheld : s.held = []
  port : s.port (s.ctx (s.fctx f)).world (.mem pa) = .pass
  alone : s.inRecord s.nextId = false
  fresh : ∀ d, s.dupOf d (s.fblock f).core s.nextId = none

end Sys2Proof.Claims

/-- R156, R157: a cross-lane word with members opens its execution or joins it, and its lanes wait for the members. -/
def Obligations.MemberWordsOpenTheirExecution : Prop :=
  ∀ (x : FForm) (ty : Ty) (op : VoteOp) (k : ShflOp) (s : State) (f : Focus),
    (Ready s f (srcUse ty.wide x.a ++ srcUse true x.b ++ (if op == .ballot then regUse true x.d else [])) →
      ∃ t, exec (.vote x ty op) s = .next t ∧
        PathResult s t f (joinsExecution f (.vote x ty op) (membersOf s f x.g ty.wide x.a (fun _ _ => 0)) (maskLanes s f x.b) [])
          waitsAsMember) ∧
    (Ready s f (srcUse ty.wide x.a ++ srcUse true x.b ++ regUse true x.d) →
      ∃ t, exec (.matchK x ty) s = .next t ∧
        PathResult s t f (joinsExecution f (.matchK x ty) (membersOf s f x.g ty.wide x.a (fun _ _ => 0)) (maskLanes s f x.b) [])
          waitsAsMember) ∧
    (Ready s f (srcUse ty.wide x.a ++ srcUse false x.b ++ regUse ty.wide x.d) →
      let source := fun (v : View) (i : Nat) => shflSource k (s.fgroup f).width i (v.src x.b).toNat
      ∃ t, exec (.shfl x ty k) s = .next t ∧
        PathResult s t f
          (joinsExecution f (.shfl x ty k) (membersOf s f x.g ty.wide x.a (fun v i => BitVec.ofNat 64 (source v i))) []
            (((membersOf s f x.g ty.wide x.a (fun v i => BitVec.ofNat 64 (source v i))).filter Member.acts).map (fun m => m.b.toNat)))
          waitsAsMember)

/-- R160: the source lane of each mode of `shfl`. R157, R159: when an execution completes, all its members go on, and each in which the
word acts has the result over the members: of a vote over the values supplied, which is 0 of a member that has exited or in which the
word does not act; of a match the members with its key; of a shuffle the value and tag of its source lane, which is 0 of one that has
exited. -/
def Obligations.CrossLaneResults : Prop :=
  (∀ (w l b : Nat), 0 < w → l < w →
     shflSource .idx w l b = b % w ∧
     shflSource .up w l b = (if b ≤ l then l - b else l) ∧
     shflSource .down w l b = (if l + b < w then l + b else l) ∧
     shflSource .xor w l b = (if l ^^^ b < w then l ^^^ b else l) ∧
     ∀ op, shflSource op w l b < w) ∧
  (∀ (g : Group) (x : Execution) (m : Member) (val : Nat → DWord), m ∈ x.issued → (x.issued.map Member.lane).Nodup →
     m.lane < g.lanes.length → (g.lane m.lane).st = .waiting .member → (∀ k ∈ x.issued, val k.lane = if k.acts then k.a else 0) →
     (∀ l, l ∉ x.issued.map Member.lane → val l = 0) →
     let l := g.lane m.lane
     let becomes := fun (k : Lane) => (finishExec g x).lane m.lane = k.advance (x.pc + 1)
     (m.acts = false → becomes l) ∧
     (∀ f ty, m.acts = true →
       (x.instr = .vote f ty .any → becomes (l.setPred f.d.toNat (decide (∃ k ∈ x.members, val k ≠ 0)))) ∧
       (x.instr = .vote f ty .all → becomes (l.setPred f.d.toNat (decide (∀ k ∈ x.members, val k ≠ 0)))) ∧
       (x.instr = .vote f ty .uni → becomes (l.setPred f.d.toNat (decide (∀ j ∈ x.members, ∀ k ∈ x.members, val j = val k)))) ∧
       (x.instr = .vote f ty .ballot → ∃ y : DWord, becomes (l.setPair g.nregs f.d.toNat y) ∧
         ∀ k, k < 64 → (y.getLsbD k = true ↔ k ∈ x.members ∧ val k ≠ 0)) ∧
       (x.instr = .matchK f ty → ∃ y : DWord, becomes (l.setPair g.nregs f.d.toNat y) ∧
         ∀ k, k < 64 → (y.getLsbD k = true ↔ ∃ j ∈ x.issued, j.lane = k ∧ j.a = m.a)) ∧
       (∀ op, x.instr = .shfl f ty op →
         let give := fun (a : DWord) (tag : Bool) =>
           becomes (if ty.wide then l.setTagged g.nregs f.d.toNat a tag else l.setReg g.nregs f.d.toNat (a.setWidth 32))
         (∀ k ∈ x.issued, k.lane = m.b.toNat → give k.a k.tag) ∧ (m.b.toNat ∉ x.issued.map Member.lane → give 0 false))))

/-- R161: a reduction or scan of the path completes at once, and gives each lane in which it acts its value of the tree.
R93, R94: the tree of an unsaturated integer sum gives every lane the sum of all values, wrapped to the type. -/
def Obligations.ReductionsComplete : Prop :=
  (∀ (x : FForm) (m : CMods) (op : RedOp) (pk : Pack) (excl : Bool) (s : State) (f : Focus),
     Ready s f (srcUse m.ty.wide x.a ++ regUse m.ty.wide x.d) →
     (∃ t, exec (.lred x m op pk) s = .next t ∧ LaneResult s t f x.g (reducedLane s f false false x m op pk)) ∧
     (∃ t, exec (.lscan x m op pk excl) s = .next t ∧ LaneResult s t f x.g (reducedLane s f true excl x m op pk))) ∧
  (∀ (m : CMods) (row ls : List Nat) (i : Nat), (Machine.Num.of m.ty) = .int m.ty.signed m.ty.bits → m.sat = false →
     row.length = 16 ∨ row.length = 32 ∨ row.length = 64 → (∀ a ∈ row, a < 2 ^ m.ty.bits) →
     (redTree false false .add m row ls).1 i = row.sum % 2 ^ m.ty.bits)

/-- R213, R215, R226: a load of one lane from constant space or from the scratchpad completes at once: its destination holds the bytes,
and no byte changes, in memory or in any block. R211, R214, R226: one from device memory or a remote scratchpad asks the place of its address for its bytes, and its
lane goes on; from device memory, once the home has performed the request and its reply has come, the destination holds the bytes. -/
def Obligations.LoadsReadTheirBytes : Prop :=
  ∀ (w : Instr) (m : MForm) (off : BitVec 14) (quad : Bool) (s : State) (f : Focus) (i : Nat), loadOf w = some (m, off, quad) →
    Solo s f i m.g (baseUse m.base ++ (if quad then quadUse m.data else regUse m.ty.wide m.data)) →
    s.gate f i true false false m.space = none →
    let size := loadSize m quad
    let check := checkM m (scaled off size) size [.read] .load false s f i
    (∀ a, m.space = .const → check = .const a →
      ∃ t, exec w s = .next t ∧ BlocksOnly s t ∧ OnlyGroup s t f ∧ (t.flane f i).pc = (s.flane f i).landing (f.pc + 1) ∧
        (t.flane f i).v = (loadedRegs s f i m quad (natOfBytes ((s.fkern f).constBytes a size))).v) ∧
    (∀ a seen, m.space = .sp → check = .ok (.rsp f.blk a) seen →
      ∃ t, exec w s = .next t ∧ t.mem = s.mem ∧ OnlyGroup s t f ∧
        (t.flane f i).pc = (s.flane f i).landing (f.pc + 1) ∧
        (t.flane f i).v = (loadedRegs s f i m quad (s.natAt (.rsp f.blk a) size)).v) ∧
    (∀ p seen, m.space = .gl ∨ m.space = .rsp → check = .ok p seen → s.windowRoom p = true →
      ∃ t, exec w s = .next t ∧ Asked s t f i (fun r => r.kind = .load ∧ r.place = p ∧ r.size = size ∧
        r.dest = (if quad then .regs m.data.toNat 4 else .reg m.data.toNat m.ty) ∧ r.scope = m.scope ∧ r.ord = m.ord)) ∧
    (∀ pa seen, m.space = .gl → check = .ok (.mem pa) seen → HomeAnswers s f pa →
      (atHomeHint m.hint = true ∨ dieOfAddr pa = dieOfCore (s.fblock f).core) →
      ∃ t u v, exec w s = .next t ∧ exec (.homeSliceRequest s.nextId) t = .next u ∧ exec (.loadReply s.nextId) u = .next v ∧
        v.mem = s.mem ∧ v.reqs = [] ∧ (v.flane f i).pc = (s.flane f i).landing (f.pc + 1) ∧
        (v.flane f i).v = (loadedRegs s f i m quad (s.natAt (.mem pa) size)).v)

namespace Sys2Proof.Claims

/-- What a load, store or atomic word is to the checks of R245: its form, its offset in bytes and its size, the registers that it names
besides its base, and whether it reads and writes. -/
structure AccessWord where
  m : MForm
  off : Int
  size : Nat
  use : List Nat
  reads : Bool
  writes : Bool

def accessOf : Instr → Option AccessWord
  | .ld m off => some ⟨m, scaled off (tySize m.ty), tySize m.ty, regUse m.ty.wide m.data, true, false⟩
  | .ldSp m off => some ⟨m, scaled off (tySize m.ty), tySize m.ty, regUse m.ty.wide m.data, true, false⟩
  | .ldq m off => some ⟨m, scaled off 16, 16, quadUse m.data, true, false⟩
  | .ldqSp m off => some ⟨m, scaled off 16, 16, quadUse m.data, true, false⟩
  | .st m off => some ⟨m, scaled off (tySize m.ty), tySize m.ty, regUse m.ty.wide m.data, false, true⟩
  | .stSp m off => some ⟨m, scaled off (tySize m.ty), tySize m.ty, regUse m.ty.wide m.data, false, true⟩
  | .stq m off => some ⟨m, scaled off 16, 16, quadUse m.data, false, true⟩
  | .stqSp m off => some ⟨m, scaled off 16, 16, quadUse m.data, false, true⟩
  | .atom m _ src _ nr => some ⟨m, 0, tySize m.ty, regUse m.ty.wide src ++ (if nr then [] else regUse m.ty.wide m.data), true, true⟩
  | .cas m src => some ⟨m, 0, tySize m.ty, regUse m.ty.wide src ++ regUse m.ty.wide m.data, true, true⟩
  | _ => none

def AccessWord.kind (a : AccessWord) : AccKind := if a.reads then (if a.writes then .atomic else .load) else .store

/-- The rights that it needs (R199). -/
def AccessWord.needs (a : AccessWord) : List Need := (if a.reads then [.read] else []) ++ (if a.writes then [.write] else [])

/-- A right that it needs is not among those given. -/
def AccessWord.lacks (a : AccessWord) (r w : Bool) : Prop := (a.reads = true ∧ r = false) ∨ (a.writes = true ∧ w = false)

/-- A range registered on the core meets the bytes at `lo` in device space: a destination, or a source for a word that writes (R221). -/
def RangeHit (s : State) (f : Focus) (lo len : Nat) (writes : Bool) : Prop :=
  ∃ k ∈ (s.core (s.fblock f).core).locks, k.spBlk = none ∧ k.ctx = s.fctx f ∧ (k.dest = true ∨ writes = true) ∧
    lo < k.lo + k.len ∧ k.lo < lo + len

end Sys2Proof.Claims

/-- R245, R246, R377: a load, store or atomic of one lane that writes outside the scratchpad, in an idempotent region, takes the
idempotence trap before every other check. Then, in order: R217, the alignment trap; R213, in the scratchpad the bounds trap; R173, R175,
at a window address the tag fault of an untagged or scalar base, the stale-pointer trap of another colour or a retired slot, the bounds
trap, and the tag fault of a right that the slot does not grant; R194, R199, R200, at another address the page fault, with its sub-cause;
R221, the range trap where a range of the core's table is met. The trap names its address and kind and nothing else happens. -/
def Obligations.BadAddressesTrap : Prop :=
  ∀ (w : Instr) (a : AccessWord) (s : State) (f : Focus) (i : Nat), accessOf w = some a → Solo s f i a.m.g (baseUse a.m.base ++ a.use) →
    let b := (s.view f i).base a.m.base
    let x : Int := (b.val.toNat : Int) + a.off
    let va := (BitVec.ofInt 64 x).toNat
    let c := s.ctx (s.fctx f)
    let traps := fun (tr : Trap) => exec w s = .next (takeTrap s f { tr with kind := a.kind, addr := BitVec.ofInt 64 x, lanes := [i] })
    ((s.fgroup f).region.isSome = true → a.writes = true → a.m.space = .gl ∨ a.m.space = .rsp →
      exec w s = .next (takeTrap s f { cause := 7, sub := 1, lanes := [i] })) ∧
    ((s.fgroup f).region = none ∨ a.writes = false ∨ a.m.space = .sp →
      s.gate f i a.reads a.writes (a.writes && isRel a.m.ord) a.m.space = none →
      (va % a.size ≠ 0 → traps { cause := 11 }) ∧
      (a.m.space = .sp → va % a.size = 0 → x < 0 ∨ (s.fblock f).scratch * 16384 ≤ x →
        traps { cause := 5 }) ∧
      (a.m.space = .gl → va % a.size = 0 →
        let y := c.slot (b.val.extractLsb' 32 20).toNat
        let o : Int := ((b.val.extractLsb' 0 32).toNat : Int) + a.off
        (inWindow b.val.toNat = true ∨ inWindow va = true →
          let stale := (b.val.extractLsb' 52 8).toNat ≠ y.colour ∨ y.state = 6
          let outside := o < 0 ∨ (y.size : Int) < o + a.size
          (b.tag = false → traps { cause := 3, sub := 3, named := b.named }) ∧
          (b.tag = true → stale → traps { cause := 4, named := b.named }) ∧
          (b.tag = true → ¬stale → outside → traps { cause := 5, named := b.named }) ∧
          (b.tag = true → ¬stale → ¬outside → a.lacks y.r y.w → traps { cause := 3, sub := 5, named := b.named }) ∧
          (b.tag = true → ¬stale → ¬outside → ¬a.lacks y.r y.w → RangeHit s f va a.size a.writes → traps { cause := 6 })) ∧
        (inWindow b.val.toNat = false → inWindow va = false →
          let mapped := fun (e : Pte) =>
            (a.lacks e.r e.w → traps { cause := 8, sub := 2 }) ∧
            (¬a.lacks e.r e.w → RangeHit s f va a.size a.writes → traps { cause := 6 })
          (x < 0 ∨ 2 ^ 57 ≤ x → traps { cause := 8, sub := 3 }) ∧
          (0 ≤ x → x < 2 ^ 57 →
            (∀ t, cached (s.core (s.fblock f).core).tlb (s.fctx f) va = some t → mapped (pteOf t.entry)) ∧
            (cached (s.core (s.fblock f).core).tlb (s.fctx f) va = none →
              (c.region va = none → traps { cause := 8, sub := 1 }) ∧
              (∀ g, c.region va = some g → g.kind ≠ .sram → walk s.mem c.ptRoot va = .malformed → traps { cause := 8, sub := 4 }) ∧
              (∀ g l e bits, c.region va = some g → g.kind ≠ .sram → walk s.mem c.ptRoot va = .leaf l e bits → mapped e))))))

/-- R232, R233: an atomic of one lane outside the scratchpad asks its place to combine the operand; without `.nr` its destination
awaits the old value. `cas` asks with the destination as the compare value. -/
def Obligations.AtomicsAskTheirPlace : Prop :=
  ∀ (m : MForm) (op : AtomOp) (src : BitVec 9) (comb nr : Bool) (s : State) (f : Focus) (i : Nat) (p : Place),
    m.space = .gl ∨ m.space = .rsp → (s.fgroup f).region = none →
    Leaves s i (s.gate f i true true (isRel m.ord) m.space) (checkM m 0 (tySize m.ty) [.read, .write] .atomic true s f i) p →
    (Solo s f i m.g (baseUse m.base ++ regUse m.ty.wide src ++ (if nr then [] else regUse m.ty.wide m.data)) →
      ∃ t, exec (.atom m op src comb nr) s = .next t ∧ Asked s t f i (fun r => r.kind = .atomic op comb ∧ r.place = p ∧
        r.size = tySize m.ty ∧ r.ty = m.ty ∧ r.data = BitVec.ofNat 512 ((s.view f i).operand m.ty src % 2 ^ (8 * tySize m.ty)) ∧
        r.dest = (if nr then .none else .reg m.data.toNat m.ty))) ∧
    (Solo s f i m.g (baseUse m.base ++ regUse m.ty.wide src ++ regUse m.ty.wide m.data) →
      ∃ t, exec (.cas m src) s = .next t ∧ Asked s t f i (fun r => r.kind = .cas ∧ r.place = p ∧ r.size = tySize m.ty ∧
        r.data = BitVec.ofNat 512 ((s.view f i).operand m.ty src) ∧ r.cmp = BitVec.ofNat 512 ((s.view f i).operand m.ty m.data) ∧
        r.dest = .reg m.data.toNat m.ty))

/-- R211, R226, R227: a store of one lane asks the place of its address to take its data, after what a release names.
R213, R226, R227: a scratchpad store writes its bytes at once, in its block's scratchpad and nowhere else. R218, R233: an atomic
at the scratchpad banks reads the old value, writes the combined one, and delivers the old one at once; it changes no other byte. -/
def Obligations.StoresWriteTheirBytes : Prop :=
  (∀ (m : MForm) (off : BitVec 14) (s : State) (f : Focus) (i : Nat) (p : Place), m.space = .gl ∨ m.space = .rsp →
     (s.fgroup f).region = none →
     (Solo s f i m.g (baseUse m.base ++ regUse m.ty.wide m.data) →
       Leaves s i (s.gate f i false true (isRel m.ord) m.space)
         (checkM m (scaled off (tySize m.ty)) (tySize m.ty) [.write] .store true s f i) p →
       ∃ t, exec (.st m off) s = .next t ∧ Asked s t f i (fun r => r.kind = .store ∧ r.place = p ∧ r.size = tySize m.ty ∧
         r.data = BitVec.ofNat 512 (storeData (s.view f i) m.data (tySize m.ty)) ∧ r.after = s.before f i (isRel m.ord))) ∧
     (Solo s f i m.g (baseUse m.base ++ quadUse m.data) →
       Leaves s i (s.gate f i false true (isRel m.ord) m.space) (checkM m (scaled off 16) 16 [.write] .store true s f i) p →
       ∃ t, exec (.stq m off) s = .next t ∧ Asked s t f i (fun r => r.kind = .store ∧ r.place = p ∧ r.size = 16 ∧
         r.data = BitVec.ofNat 512 (storeData (s.view f i) m.data 16) ∧ r.after = s.before f i (isRel m.ord)))) ∧
  ((∀ (m : MForm) (off : BitVec 14) (s : State) (f : Focus) (i a : Nat), m.space = .sp → Cells.wf (s.fblock f).spad = true →
      (Solo s f i m.g (baseUse m.base ++ regUse m.ty.wide m.data) →
        Leaves s i (s.gate f i false true (isRel m.ord) .sp)
          (checkM m (scaled off (tySize m.ty)) (tySize m.ty) [.write] .store true s f i) (.rsp f.blk a) →
        ∃ t, exec (.stSp m off) s = .next t ∧ BlocksOnly s t ∧ (∀ b, b ≠ f.blk → t.block? b = s.block? b) ∧ (t.flane f i).pc = (s.flane f i).landing (f.pc + 1) ∧
          t.bytesAt (.rsp f.blk a) (tySize m.ty) = bytesOfNat (storeData (s.view f i) m.data (tySize m.ty)) (tySize m.ty) ∧
          ∀ b, b < a ∨ a + tySize m.ty ≤ b → Cells.get (t.fblock f).spad b = Cells.get (s.fblock f).spad b) ∧
      (Solo s f i m.g (baseUse m.base ++ quadUse m.data) →
        Leaves s i (s.gate f i false true (isRel m.ord) .sp) (checkM m (scaled off 16) 16 [.write] .store true s f i) (.rsp f.blk a) →
        ∃ t, exec (.stqSp m off) s = .next t ∧ BlocksOnly s t ∧ (∀ b, b ≠ f.blk → t.block? b = s.block? b) ∧ (t.flane f i).pc = (s.flane f i).landing (f.pc + 1) ∧
          t.bytesAt (.rsp f.blk a) 16 = bytesOfNat (storeData (s.view f i) m.data 16) 16 ∧
          ∀ b, b < a ∨ a + 16 ≤ b → Cells.get (t.fblock f).spad b = Cells.get (s.fblock f).spad b)) ∧
   (∀ (m : MForm) (op : AtomOp) (src : BitVec 9) (comb : Bool) (s : State) (f : Focus) (i a : Nat), m.space = .sp →
      Cells.wf (s.fblock f).spad = true →
      Leaves s i (s.gate f i true true (isRel m.ord) .sp) (checkM m 0 (tySize m.ty) [.read, .write] .atomic true s f i) (.rsp f.blk a) →
      Solo s f i m.g (baseUse m.base ++ regUse m.ty.wide src ++ regUse m.ty.wide m.data) →
      let old := s.natAt (.rsp f.blk a) (tySize m.ty)
      let got := widen m.ty (BitVec.ofNat 512 old).toNat
      let lane := (if m.ty.wide then (s.flane f i).setPair (s.fgroup f).nregs m.data.toNat (BitVec.ofNat 64 got)
                   else (s.flane f i).setReg (s.fgroup f).nregs m.data.toNat (BitVec.ofNat 32 got)).v
      let rest := fun (t : State) => t.mem = s.mem ∧ (∀ b, b ≠ f.blk → t.block? b = s.block? b) ∧
        ∀ b, b < a ∨ a + tySize m.ty ≤ b → Cells.get (t.fblock f).spad b = Cells.get (s.fblock f).spad b
      (∃ t, exec (.atom m op src comb false) s = .next t ∧ (t.flane f i).v = lane ∧ rest t ∧
        t.bytesAt (.rsp f.blk a) (tySize m.ty) =
          bytesOfNat (atomNew op m.ty old ((s.view f i).operand m.ty src % 2 ^ (8 * tySize m.ty))).1 (tySize m.ty)) ∧
      (∃ t, exec (.cas m src) s = .next t ∧ (t.flane f i).v = lane ∧ rest t ∧
        t.bytesAt (.rsp f.blk a) (tySize m.ty) =
          bytesOfNat (if old = (s.view f i).operand m.ty m.data then (s.view f i).operand m.ty src else old) (tySize m.ty))))

/-- R237 to R241: a Kneader command of one lane leaves as one packet; the lane goes on at the next word and waits for the reply. -/
def Obligations.KneaderCommandsLeaveAndWait : Prop :=
  ∀ (m : MForm) (src : BitVec 9) (n : BitVec 2) (steps : BitVec 4) (key : Bool) (s : State) (f : Focus) (i : Nat) (p : Place),
    (s.fgroup f).region = none →
    let k := n.toNat + 1
    let v := s.view f i
    let waits := fun (t : State) => (t.flane f i).st = .waiting (.reqs [s.nextId])
    (Solo s f i m.g (baseUse m.base ++ manyUse src (2 * k) ++ manyUse m.data (2 * k)) →
      Leaves s i (kGate m s f i) (checkK m 8 (8 * k) (fun a _ => oneLine k a) s f i) p →
      ∃ t, exec (.kcas m src n) s = .next t ∧ waits t ∧ Asked s t f i (fun r => r.kind = .kcas k ∧ r.place = p ∧
        r.data = BitVec.ofNat 512 (v.wideRegs src (2 * k)) ∧ r.cmp = BitVec.ofNat 512 (v.wideRegs m.data (2 * k)) ∧
        r.dest = .regs m.data.toNat (2 * k))) ∧
    (Solo s f i m.g (baseUse m.base ++ regUse true src ++ regUse true m.data) →
      Leaves s i (kGate m s f i) (checkK m 16 16 (fun _ w => nodeOk (w.wideRegs src 2)) s f i) p →
      ∃ t, exec (.kenq m src) s = .next t ∧ waits t ∧ Asked s t f i (fun r => r.kind = .kenq ∧ r.place = p ∧
        r.data = BitVec.ofNat 512 (v.wideRegs src 2) ∧ r.dest = .regs m.data.toNat 2)) ∧
    (Solo s f i m.g (baseUse m.base ++ regUse true m.data) →
      Leaves s i (kGate m s f i) (checkK m 16 16 (fun _ _ => true) s f i) p →
      ∃ t, exec (.kdeq m) s = .next t ∧ waits t ∧ Asked s t f i (fun r => r.kind = .kdeq ∧ r.place = p ∧
        r.dest = .regs m.data.toNat 2)) ∧
    (Solo s f i m.g (baseUse m.base ++ (if key then regUse true src else []) ++ quadUse m.data) →
      Leaves s i (kGate m s f i) (checkK m 16 (if key then 24 else 16) (fun _ _ => true) s f i) p →
      ∃ t, exec (.kchase m src steps key) s = .next t ∧ waits t ∧ Asked s t f i (fun r => r.kind = .kchase (steps.toNat + 1) key ∧
        r.place = p ∧ r.data = BitVec.ofNat 512 (v.wideRegs src 2) ∧
        r.cmp = BitVec.ofNat 512 (v.base m.base).val.toNat ∧ r.dest = .regs m.data.toNat 4))

/-- R229: a prefetch that meets no range lock writes no register and no byte; that a misaligned address, or one that does not translate,
makes it do nothing is the model's reading (log 52). R231: `cinv`, once the earlier accesses that it is ordered
after are performed, drops the line of its address from the instruction caches and loop buffers of the cores in its scope. R186, R187:
`pfetch` and `prel` write no register and no byte. R230: `cwb` is an ordered store of nothing to its line, and writes no register. -/
def Obligations.LineAndHintWordsComplete : Prop :=
  (∀ (m : MForm) (off : BitVec 14) (s : State) (f : Focus) (i : Nat), Solo s f i m.g (baseUse m.base) →
     (∀ j, (j = .prf m off ∧ ∀ t, prefetchCheck m off s f i ≠ .bad rankLock t) ∨ (j = .cinv m off ∧ cinvGate s f i = none) ∨
         j = .pfetch m off ∨ j = .prel m →
       ∃ t, exec j s = .next t ∧ t.mem = s.mem ∧ t.flane f i = (s.flane f i).advance (f.pc + 1)) ∧
     (∀ t pa, cinvGate s f i = none → exec (.cinv m off) s = .next t →
       (let a : Int := (((s.view f i).base m.base).val.toNat : Int) + scaled off 1
        0 ≤ a ∧ canonical a.toNat = true ∧ s.physOf (s.fblock f).core (s.fctx f) a.toNat = some pa) →
       ∀ c ∈ cinvCores s f m.scope, (t.core c).codeLine (pa / 64) = none) ∧
     (∀ t, exec (.prel m) s = .next t →
       (let b := (s.view f i).base m.base
        b.tag = true ∧ ptrColour b.val = ((s.ctx (s.fctx f)).slot (ptrSlot b.val)).colour) → (s.ctx? (s.fctx f)).isSome →
       (Tbl.at (s.ctx (s.fctx f)).slots (ptrSlot ((s.view f i).base m.base).val)).isSome →
       ((t.ctx (s.fctx f)).slot (ptrSlot ((s.view f i).base m.base).val)).hint = true)) ∧
  (∀ (m : MForm) (off : BitVec 14) (s : State) (f : Focus) (i : Nat) (p : Place), Solo s f i m.g (baseUse m.base) →
     (s.fgroup f).region = none → Leaves s i (s.gate f i false true false .gl) (checkLine m off .write .store s f i) p →
     ∃ t, exec (.cwb m off) s = .next t ∧ (t.flane f i).v = (s.flane f i).v ∧
       Asked s t f i (fun r => r.kind = .cwb ∧ r.place = p ∧ r.after = s.before f i false))

/-- R236: a fence makes the later accesses of each of its lanes wait for what its order names, and its lanes go on.
R242 to R244: `wcnt` goes on once the group's counts are within its bounds, and waits until then. -/
def Obligations.FencesAndCountsOrder : Prop :=
  (∀ (m : MForm) (s : State) (f : Focus) (i : Nat), Solo s f i m.g [] →
     ∃ t, exec (.fence m) s = .next t ∧ OnlyBlock s t f.blk ∧ (t.flane f i).pc = (s.flane f i).landing (f.pc + 1) ∧
       (t.flane f i).v = (s.flane f i).v ∧
       (isAcq m.ord = true → ∀ r ∈ s.laneReqs f.blk f.grp i, r.isLd = true → r.id ∈ (t.flane f i).order.all) ∧
       (isRel m.ord = true → ∀ r ∈ s.laneReqs f.blk f.grp i, r.id ∈ (t.flane f i).order.writes)) ∧
  (∀ (x : FForm) (ld st cp tl : BitVec 3) (s : State) (f : Focus), Ready s f [] → s.acting f x.g ≠ [] →
     (s.countsOk f.blk f.grp ld.toNat st.toNat cp.toNat tl.toNat = true →
       ∃ t, exec (.wcnt x ld st cp tl) s = .next t ∧ OnlyBlock s t f.blk ∧
         ∀ i ∈ f.lanes, (t.flane f i).pc = (s.flane f i).landing (f.pc + 1) ∧ (t.flane f i).st = .ready ∧ (t.flane f i).v = (s.flane f i).v) ∧
     (s.countsOk f.blk f.grp ld.toNat st.toNat cp.toNat tl.toNat = false →
       ∃ t, exec (.wcnt x ld st cp tl) s = .next t ∧
         PathResult s t f id (fun _ l => { l with st := .waiting (.counts ld.toNat st.toNat cp.toNat tl.toNat) })))

/-- R183, R184: `ldn` of one lane asks for the granule of its address and waits for it; a lane whose granule is an untagged zero gets
an untagged zero, one whose granule holds a name whose slot it has been told gets a tagged pointer to that slot. R185: `stn` of one lane
whose data pair is tagged and of the slot's colour sends the long name of the pointer. -/
def Obligations.NameAccessesComplete : Prop :=
  (∀ (m : MForm) (off : BitVec 14) (s : State) (f : Focus) (i : Nat), Solo s f i m.g (baseUse m.base ++ regUse true m.data) →
     (∀ p, (s.flane f i).gran = none →
       Leaves s i (s.gate f i true false false .gl) (checkM m (scaled off 16) 16 [.read] .load false s f i) p →
       ∃ t ids, exec (.ldn m off) s = .next t ∧ t.mem = s.mem ∧ (t.flane f i).st = .waiting (.reqs ids) ∧ s.nextId ∈ ids ∧
         ∃ r ∈ t.reqs, r.id = s.nextId ∧ r.kind = .load ∧ r.place = p ∧ r.size = 16 ∧ r.dest = .granule) ∧
     ((s.flane f i).gran = some ⟨0, false⟩ → (s.flane f i).res = none →
       ∃ t, exec (.ldn m off) s = .next t ∧ OnlyBlock s t f.blk ∧ (t.flane f i).pc = (s.flane f i).landing (f.pc + 1) ∧
         (t.flane f i).v = ((s.flane f i).setTagged (s.fgroup f).nregs m.data.toNat 0 false).v) ∧
     (∀ g n k c, (s.flane f i).gran = some ⟨g, true⟩ → parseName g = some n → (s.flane f i).res = some (.slot k c) →
       ∃ t, exec (.ldn m off) s = .next t ∧ t.mem = s.mem ∧ (t.flane f i).pc = (s.flane f i).landing (f.pc + 1) ∧
         (t.flane f i).v = ((s.flane f i).setTagged (s.fgroup f).nregs m.data.toNat (pointerBits k c n.offset) true).v ∧
         (t.flane f i).tags = ((s.flane f i).setTagged (s.fgroup f).nregs m.data.toNat (pointerBits k c n.offset) true).tags)) ∧
  (∀ (m : MForm) (off : BitVec 14) (s : State) (f : Focus) (i : Nat) (p : Place), Solo s f i m.g (baseUse m.base ++ regUse true m.data) →
     (s.fgroup f).region = none → Leaves s i (s.gate f i false true (isRel m.ord) .gl) (stnCheck m off s f i) p →
     ∃ t, exec (.stn m off) s = .next t ∧ Asked s t f i (fun r => r.kind = .stn ∧ r.place = p ∧ r.size = 16 ∧
       r.data = (((s.ctx (s.fctx f)).slot (ptrSlot ((s.flane f i).pair (s.fgroup f).nregs m.data.toNat))).name
         (ptrOffset ((s.flane f i).pair (s.fgroup f).nregs m.data.toNat))).setWidth 512))

/-- R188, R190, R192: `peq` compares what its operands designate, `pinfo` describes the operand's slot and `pnam` gives its long
name. R191: `pswz` keeps an untagged pair and a pointer of its slot's colour as they are. -/
def Obligations.PointerWordsComplete : Prop :=
  (∀ (x : FForm) (s : State) (f : Focus) (i : Nat) (a b : Des), s.acting f x.g = [i] → f.lanes = [i] →
     (s.view f i).designates (s.ctx (s.fctx f)) x.a = a → (∀ k, a ≠ .fault k) →
     (Ready s f (srcUse true x.a ++ srcUse true x.b) → (s.view f i).designates (s.ctx (s.fctx f)) x.b = b → (∀ k, b ≠ .fault k) →
       ∃ t, exec (.peq x) s = .next t ∧ OnlyBlock s t f.blk ∧
         t.flane f i = ((s.flane f i).setPred x.d.toNat (match a, b with
           | .null, .null => true
           | .slot y p, .slot z q => y.home == z.home && y.serial == z.serial && ptrOffset p == ptrOffset q
           | _, _ => false)).advance (f.pc + 1)) ∧
     (Ready s f (srcUse true x.a ++ regUse true x.d) →
       ∃ t, exec (.pinfo x) s = .next t ∧ OnlyBlock s t f.blk ∧
         t.flane f i = ((s.flane f i).setPair (s.fgroup f).nregs x.d.toNat (match a with
           | .slot y p => slotInfo y p
           | _ => 0)).advance (f.pc + 1)) ∧
     (Ready s f (srcUse true x.a ++ quadUse x.d) →
       ∃ t, exec (.pnam x) s = .next t ∧ OnlyBlock s t f.blk ∧
         t.flane f i = ((s.flane f i).setRegs (s.fgroup f).nregs x.d.toNat (regsOf ((match a with
           | .slot y p => y.name (ptrOffset p)
           | _ => 0).setWidth 512) 4)).advance (f.pc + 1))) ∧
  (∀ (x : FForm) (s : State) (f : Focus) (i : Nat), Solo s f i x.g (srcUse true x.a ++ regUse true x.d) →
     (let p := (s.view f i).src64 x.a
      let y := (s.ctx (s.fctx f)).slot (ptrSlot p)
      (s.view f i).tagOf x.a = false ∨ (ptrColour p = y.colour ∧ y.state ≠ 5 ∧ y.state ≠ 6)) →
     ∃ t, exec (.pswz x) s = .next t ∧ OnlyBlock s t f.blk ∧
       t.flane f i = ((s.flane f i).setTagged (s.fgroup f).nregs x.d.toNat ((s.view f i).src64 x.a)
         ((s.view f i).tagOf x.a)).advance (f.pc + 1))


namespace Sys2Proof.Claims

/-- The tile command that a word gives. -/
def tileOf : Instr → Option (TileKind × TForm)
  | .tld t => some (.tld, t)
  | .tst t => some (.tst, t)
  | .tzero t => some (.tzero, t)
  | .bsld t => some (.bsld, t)
  | .bsinv t => some (.bsinv, t)
  | .tcvt t => some (.tcvt, t)
  | .tact t => some (.tact, t)
  | .tred t => some (.tred, t)
  | .tmma t => some (.tmma, t)
  | .tloop t => some (.tloop, t)
  | .tmmod t => some (.tmmod, t)
  | .tntt t => some (.tntt, t)
  | _ => none

/-- A hypervector word that changes its own group alone: the hypervectors and vector registers that it names, and what the group
becomes under the operands of lane `i`. -/
structure UnitWord where
  g : Guard
  named : List Nat
  use : List Nat
  group : View → Group → Group

/-- R302 to R307. -/
def hyperOf : Instr → Option UnitWord
  | .hmov x => some ⟨x.g, [x.d.toNat, srcIx x.a], [], fun _ g =>
      { g with h := Cells.set g.h x.d.toNat (if srcIx x.a = 16 then g.htie else Cells.get g.h (srcIx x.a)) }⟩
  | .hxor x => some ⟨x.g, [x.d.toNat, srcIx x.a, srcIx x.b], [], fun _ g =>
      { g with h := Cells.set g.h x.d.toNat (Cells.get g.h (srcIx x.a) ^^^ Cells.get g.h (srcIx x.b)) }⟩
  | .hrot x hi => some ⟨x.g, [x.d.toNat, srcIx x.a], srcUse false x.b, fun v g =>
      { g with h := Cells.set g.h x.d.toNat ((Cells.get g.h (srcIx x.a)).rotateLeft (hrotAmount v x.b hi)) }⟩
  | .hthr x => some ⟨x.g, [x.d.toNat], [], fun _ g =>
      { g with h := Cells.set g.h x.d.toNat (thresholdBits (Cells.get g.acc (srcIx x.a)) g.htie) }⟩
  | .hclr x false => some ⟨x.g, [x.d.toNat], [], fun _ g => { g with h := Cells.set g.h x.d.toNat 0 }⟩
  | .hclr x true => some ⟨x.g, [], [], fun _ g => { g with acc := Cells.set g.acc x.d.toNat 0 }⟩
  | .hpop x => some ⟨x.g, [srcIx x.a], [], fun _ g =>
      { g with s := Cells.set g.s x.d.toNat (BitVec.ofNat 32 (popcount (Cells.get g.h (srcIx x.a)))) }⟩
  | .hdist x => some ⟨x.g, [srcIx x.a, srcIx x.b], [], fun _ g =>
      { g with s := Cells.set g.s x.d.toNat
                 (BitVec.ofNat 32 (popcount (Cells.get g.h (srcIx x.a) ^^^ Cells.get g.h (srcIx x.b)))) }⟩
  | .hgen x => some ⟨x.g, [x.d.toNat], srcUse true x.a, fun v g =>
      { g with h := Cells.set g.h x.d.toNat (hgenBits (v.src64 x.a)) }⟩
  | .htie x => some ⟨x.g, [srcIx x.a], [], fun _ g => { g with htie := Cells.get g.h (srcIx x.a) }⟩
  | _ => none

/-- Nothing in flight holds back a hypervector word of the path whose lowest acting lane is `i`. -/
structure HyperReady (s : State) (f : Focus) (g : Guard) (i : Nat) (named use : List Nat) : Prop extends Ready s f [] where
  lowest : (s.acting f g).head? = Option.some i
  loaded : hyperPending s f named = []
  delivered' : pendHit (s.fgroup f).nregs use (s.flane f i) = false

/-- The ranges of an engine's command translate, with their pages there, and the windows of their links have room. -/
def Present (s : State) (w : Agent) (rs : List (Loc × Nat × Need)) : Prop :=
  ∀ r ∈ rs, (∀ p k a, s.rangeNow w r.1 r.2.1 r.2.2 ≠ .fill p k a) ∧ (∀ n t, s.rangeNow w r.1 r.2.1 r.2.2 ≠ .bad n t) ∧
    s.rangeRoom w r.1 r.2.1 r.2.2 = true

/-- A search that has read `n` granules of the entries `entry`, in order. -/
def readGranules (entry : Nat → HVec) (j : LunaJob) : Nat → LunaJob
  | 0 => j
  | n + 1 =>
    let k := readGranules entry j n
    k.past ((entry k.next).extractLsb' (128 * k.gran) 128).toNat {}

end Sys2Proof.Claims

/-- R273, R275: a tile command that passes its checks and finds room enters its core's queue as the group's scalars give it, and the
path goes on; nothing in memory changes until it is performed. -/
def Obligations.TileCommandsQueue : Prop :=
  ∀ (i : Instr) (kind : TileKind) (w : TForm) (s : State) (f : Focus) (l : Nat), tileOf i = some (kind, w) → Ready s f [] →
    (s.acting f w.g).head? = some l →
    let c := tileCmdOf s f l kind w
    let k := s.core (s.fblock f).core
    ((s.fgroup f).region.isSome && c.external) = false →
    (c.range.isSome = true ∨ w.en = true → s.gate f l true true false .gl = none) → scalePending s f c = [] →
    (∀ n x, worst (tileChecks s f c) ≠ .bad n x) → (∀ p a b, worst (tileChecks s f c) ≠ .fill p a b) →
    c.inCapacity = true → linesOk k f.blk c = true → tileRoom k c = true →
    ∃ t after rel, exec i s = .next t ∧ (t.core (s.fblock f).core).tileQ = k.tileQ ++ [{ c with after := after, rel := rel }] ∧
      t.mem = s.mem ∧ (∀ j ∈ f.lanes, (t.flane f j).pc = (s.flane f j).landing (f.pc + 1) ∧ (t.flane f j).v = (s.flane f j).v) ∧
      (t.fblock f).tiles = (s.fblock f).tiles

/-- R275, R277: the engine takes the command at the head of a core's queue, when nothing holds it back and its pages are there, at least one step further:
`tzero` zeroes its tile register, `tmma` gives every element the result of its one step, read whole before any element is written also
where its destination is a source (the model's reading: log 42), `bsinv` ends its block's ownership of its lines. A command whose steps are done leaves the queue, and its range locks end. -/
def Obligations.TileEngineWorks : Prop :=
  ∀ (core : Nat) (c : TileCmd) (q : List TileCmd) (s : State), core < 256 → (s.core core).tileQ = c :: q →
    (s.block? c.blk).isSome = true → (∀ x ∈ q, x.id ≠ c.id) →
    (c.steps ≤ c.done → Present s (c.who core) (c.ctr.toList.map (fun a => (.va a, 8, .write))) →
      ∃ t, exec (.tileCommandComplete core) s = .next t ∧ (t.core core).tileQ = q ∧
        (∀ x ∈ (t.core core).locks, x.cmd ≠ c.id)) ∧
    (c.done < c.steps → c.done = 0 → c.after = [] → (c.range = none ∨ (s.die (dieOfCore core)).applied.covers c.vec = true) →
      Present s (c.who core) (c.range.toList.map (fun r => (c.mem, r.2.1, r.2.2))) →
      ∃ t, exec (.tileCommandExecute core) s = .next t ∧
        (∃ d v, (t.core core).tileQ = { c with done := d, vec := v } :: q ∧ 0 < d) ∧
        (c.kind = .tzero → t.mem = s.mem ∧ (Cells.wf (s.block c.blk).tiles = true →
          ∀ o, o < 16384 → (t.block c.blk).tileByte c.t.td o = 0)) ∧
        (c.kind = .tmma → Cells.wf (s.block c.blk).tiles = true → ∀ i j, i < 64 → j < 64 →
          (t.block c.blk).cell c.t.td i j = (stepCell (s.block c.blk) (s.core core) c i j).1 % 2 ^ 32) ∧
        (c.kind = .bsinv → t.mem = s.mem ∧ ∀ l ∈ c.lines.2, Tbl.at (t.core core).owner l ≠ some c.blk))

/-- R297, R302, R303, R305 to R307: a word of the hypervector unit executes once, for its group. A rotation takes bit b to bit b + r
modulo 8,192; a threshold gives the sign of each counter, and the tie vector's bit for a counter of 0; the vector of a seed is made of 128
words, each the mix of the seed advanced once more. -/
def Obligations.HypervectorWordsComplete : Prop :=
  (∀ (i : Instr) (w : UnitWord) (s : State) (f : Focus) (l : Nat), hyperOf i = some w → HyperReady s f w.g l w.named w.use →
    ∃ t, exec i s = .next t ∧ PathResult s t f (w.group (s.view f l)) (goOn f)) ∧
  (∀ (h : HVec) (r b : Nat), b < 8192 → (h.rotateLeft r).getLsbD ((b + r) % 8192) = h.getLsbD b) ∧
  (∀ (a : BitVec 65536) (tie : HVec) (b : Nat), b < 8192 →
    (0 < accCounter a b → (thresholdBits a tie).getLsbD b = true) ∧ (accCounter a b < 0 → (thresholdBits a tie).getLsbD b = false) ∧
    (accCounter a b = 0 → (thresholdBits a tie).getLsbD b = tie.getLsbD b)) ∧
  (∀ (seed : DWord) (w : Nat), w < 128 →
    let x := seed + BitVec.ofNat 64 (w + 1) * 0x9E3779B97F4A7C15#64
    let y := (x ^^^ (x >>> 30)) * 0xBF58476D1CE4E5B9#64
    let z := (y ^^^ (y >>> 27)) * 0x94D049BB133111EB#64
    (hgenBits seed).extractLsb' (64 * w) 64 = z ^^^ (z >>> 31))

/-- R304: `hacc` adds 1 to the counter of each set bit and subtracts 1 from that of each clear one, clamped to −127 and 127; with
`.neg` the other way round. Each counter that the clamp changes adds one to the context's `hv.sat`. -/
def Obligations.BundlesCountEachBit : Prop :=
  (∀ (neg : Bool) (h : HVec) (a : BitVec 65536),
    let sum := fun (b : Nat) => accCounter a b + (if h.getLsbD b = neg then -1 else 1)
    (∀ b, b < 8192 → accCounter (accumulate neg h a).1 b = max (-127) (min 127 (sum b))) ∧
    (accumulate neg h a).2 = (List.range 8192).countP (fun b => decide (127 < sum b) || decide (sum b < -127))) ∧
  (∀ (x : FForm) (neg : Bool) (s : State) (f : Focus) (l : Nat), HyperReady s f x.g l [srcIx x.a] [] →
    let r := accumulate neg (Cells.get (s.fgroup f).h (srcIx x.a)) (Cells.get (s.fgroup f).acc x.d.toNat)
    ∃ t, exec (.hacc x neg) s = .next t ∧
      t.fgroup f = { s.fgroup f with acc := Cells.set (s.fgroup f).acc x.d.toNat r.1, lanes := (t.fgroup f).lanes } ∧
      (∀ i ∈ f.lanes, t.flane f i = goOn f i (s.flane f i)) ∧
      t = { s with blocks := t.blocks, ctxs := t.ctxs } ∧
      ((s.ctx? (s.fctx f)).isSome = true → (t.ctx (s.fctx f)).n.hvSat = sat32 ((s.ctx (s.fctx f)).n.hvSat + r.2)))

/-- R310: a search that has read its n entries whole stands at the least Hamming distance and the lowest index that has it. -/
def Obligations.SearchFindsTheNearestEntry : Prop :=
  ∀ (entry : Nat → HVec) (j : LunaJob) (n : Nat), 0 < n → j.next = 0 → j.gran = 0 → j.diff = 0 → j.best = 0 → j.dmin = 8193 →
    let r := readGranules entry j (64 * n)
    r.next = n ∧ r.gran = 0 ∧ r.best < n ∧ popcount (j.query ^^^ entry r.best) = r.dmin ∧
    (∀ e, e < n → r.dmin ≤ popcount (j.query ^^^ entry e)) ∧
    ∀ e, e < r.best → r.dmin < popcount (j.query ^^^ entry e)

/-- R308, R309: `hld`, `hst` and `hmset` of an image in the scratchpad complete at once: the hypervector holds its 1,024 bytes, or the
bytes are the hypervector's; of one in device memory they ask for, or send, its 64 granules, and the path goes on. R310, R311: `hmatch`
over no entry completes at once, with all ones; over some it leaves a search at the core's Luna engine and its lanes wait for it. Once the
engine has read the last entry, the end of the search gives the group's scalar pair the least distance and its index, or all ones for the
index when the distance is above the limit. -/
def Obligations.ImagesAndSearchesComplete : Prop :=
  (∀ (m : MForm) (off : BitVec 14) (idx : BitVec 9) (s : State) (f : Focus) (l : Nat),
     (s.fgroup f).region = none → Cells.wf (s.fblock f).spad = true →
     let goes := fun (t : State) => t.mem = s.mem ∧
       ∀ j ∈ f.lanes, (t.flane f j).pc = (s.flane f j).landing (f.pc + 1) ∧ (t.flane f j).v = (s.flane f j).v
     let asks := fun (t : State) (p : Place) (P : Nat → Req → Prop) => ∀ k, k < 64 → ∃ r ∈ t.reqs, r.place = p.plus (16 * k) ∧
       r.size = 16 ∧ r.blk = f.blk ∧ r.grp = f.grp ∧ r.lane = l ∧ P k r
     let image := Cells.get (s.fgroup f).h m.data.toNat
     let ldChk := checkM m (scaled off 1024) 1024 [.read] .load false s f l
     let stChk := checkM m (scaled off 1024) 1024 [.write] .store true s f l
     let setChk := checkM m (1024 * (((s.flane f l).reg (s.fgroup f).nregs idx.toNat).toNat : Int)) 1024 [.write] .store true s f l
     let stored := fun (w : Instr) (chk : Chk) =>
       (∀ a seen, m.space = .sp → chk = .ok (.rsp f.blk a) seen →
         ∃ t, exec w s = .next t ∧ goes t ∧ t.bytesAt (.rsp f.blk a) 1024 = bytesOfNat image.toNat 1024 ∧
           ∀ b, b < a ∨ a + 1024 ≤ b → Cells.get (t.fblock f).spad b = Cells.get (s.fblock f).spad b) ∧
       (∀ p seen, m.space = .gl → chk = .ok p seen → s.unitRoom p 64 = true →
         ∃ t, exec w s = .next t ∧ goes t ∧
           asks t p (fun k r => r.kind = .store ∧ r.data = (image.extractLsb' (128 * k) 128).setWidth 512))
     (HyperReady s f m.g l [m.data.toNat] (baseUse m.base) → s.gate f l true false false m.space = none →
       (∀ a seen, m.space = .sp → ldChk = .ok (.rsp f.blk a) seen →
         ∃ t, exec (.hld m off) s = .next t ∧ goes t ∧ (t.fblock f).spad = (s.fblock f).spad ∧
           t.fgroup f = { s.fgroup f with h := Cells.set (s.fgroup f).h m.data.toNat (BitVec.ofNat 8192 (s.natAt (.rsp f.blk a) 1024)),
                                          lanes := (t.fgroup f).lanes }) ∧
       (∀ p seen, m.space = .gl → ldChk = .ok p seen → s.unitRoom p 64 = true →
         ∃ t, exec (.hld m off) s = .next t ∧ goes t ∧ asks t p (fun k r => r.kind = .load ∧ r.dest = .hyper m.data.toNat k))) ∧
     (s.gate f l false true (isRel m.ord) m.space = none →
       (HyperReady s f m.g l [m.data.toNat] (baseUse m.base) → stored (.hst m off) stChk) ∧
       (HyperReady s f m.g l [m.data.toNat] (baseUse m.base ++ [idx.toNat]) → stored (.hmset m idx) setChk))) ∧
  ((∀ (x : FForm) (q : BitVec 4) (sp : Bool) (s : State) (f : Focus) (l : Nat),
     HyperReady s f x.g l [q.toNat] (srcUse true x.a ++ srcUse false x.b) →
     let n := ((s.view f l).src x.b).toNat
     (n = 0 → ∃ t, exec (.hmatch x q sp) s = .next t ∧
       PathResult s t f (fun g => { g with s := Cells.set (Cells.set g.s x.d.toNat 0xFFFFFFFF) (x.d.toNat + 1) 0xFFFFFFFF }) (goOn f)) ∧
     (0 < n → n ≤ 65536 → s.gate f l true false false (if sp then .sp else .gl) = none →
       (∃ p seen, checkSearch s f (srcBase (s.view f l) x.a) sp (1024 * n) = .ok p seen) →
       ∃ t job, exec (.hmatch x q sp) s = .next t ∧ t.mem = s.mem ∧
         (t.core (s.fblock f).core).luna = (s.core (s.fblock f).core).luna ++ [job] ∧
         job.count = n ∧ job.query = Cells.get (s.fgroup f).h q.toNat ∧ job.dst = x.d.toNat ∧
         job.limit = ((s.fgroup f).sreg x.c.toNat).toNat ∧ job.blk = f.blk ∧ job.grp = f.grp ∧ job.lane = l ∧
         job.next = 0 ∧ job.gran = 0 ∧ job.diff = 0 ∧ job.best = 0 ∧ job.dmin = 8193 ∧
         ∀ i ∈ f.lanes, (t.flane f i).st = .waiting (.luna job.id) ∧ (t.flane f i).pc = (s.flane f i).landing (f.pc + 1))) ∧
   (∀ (core : Nat) (j : LunaJob) (js : List LunaJob) (s : State), (s.core core).luna = j :: js → (s.core core).frozen = false →
     (∀ r ∈ s.laneReqs j.blk j.grp j.lane, j.id ≤ r.id ∨ r.performed = true) → j.count ≤ j.next → (s.block? j.blk).isSome = true →
     j.grp < (s.block j.blk).groups.length →
     ∃ t, exec (.lunaSearchComplete core) s = .next t ∧ t.mem = s.mem ∧ (t.core core).luna = js ∧
       (let index := if j.limit < j.dmin then 0xFFFFFFFF#32 else BitVec.ofNat 32 j.best
        (t.group j.blk j.grp).s = Cells.set (Cells.set (s.group j.blk j.grp).s j.dst index) (j.dst + 1) (BitVec.ofNat 32 j.dmin))))


namespace Sys2Proof.Claims

/-- The lane goes on at the next word with the registers it had, and no byte of device memory differs. -/
structure GoesOn (s t : State) (f : Focus) (i : Nat) : Prop where
  pc : (t.flane f i).pc = (s.flane f i).landing (f.pc + 1)
  regs : (t.flane f i).v = (s.flane f i).v
  mem : t.mem = s.mem

/-- A command that each acting lane, or with `one` the path, gives to a copy engine. -/
structure EngineWord where
  g : Guard
  use : List Nat
  args : State → View → CmdArgs

/-- R329, R330. -/
def engineOf : Instr → Option EngineWord
  | .cpy x c a b => some ⟨x.g, srcUse true x.a ++ srcUse false x.b ++ regUse true x.d, cpyArgs x c a b⟩
  | .nwr x c => some ⟨x.g, srcUse true x.a ++ srcUse false x.b ++ quadUse x.d, nwrArgs x c⟩
  | .nrd x c => some ⟨x.g, srcUse true x.a ++ srcUse false x.b ++ quadUse x.d, nrdArgs x c⟩
  | .natom x c op ty comb => some ⟨x.g, srcUse true x.a ++ srcUse true x.b ++ quadUse x.d, natomArgs x c op ty comb⟩
  | .nlist x c => some ⟨x.g, srcUse true x.a ++ srcUse false x.b, nlistArgs x c⟩
  | _ => none

/-- The gates and the check of a barrier word of lane `i` are passed, and its record is `r`. -/
structure AtRecord (s : State) (f : Focus) (i : Nat) (rsp rel : Bool) (a : Src) (kind : AccKind) (r : Nat × Nat) : Prop where
  region : (s.fgroup f).region = none
  open' : s.gate f i true true false .sp = none
  quiet : rel = true → s.laneReqs f.blk f.grp i = []
  found : checkRecord s f rsp ((s.view f i).src64 a) kind = .ok r
  block : (s.block? r.1).isSome = true
  bytes : Cells.wf (s.block r.1).spad = true

/-- A word that reads a value of the machine: its form, whether it has a scalar destination, whether that is a pair, the vector
registers it names, and the value in a lane. -/
structure ValueWord where
  x : FForm
  toScalar : Bool
  wide : Bool
  use : List Nat
  val : State → Focus → Nat → Option DWord

/-- R209, R397, R414, R440, R458. -/
def valueOf : Instr → Option ValueWord
  | .csrr x b => some ⟨x, b, true, destUse b true x.d, fun s f i => csrRead s (s.fctx f) ((s.view f i).src x.a).toNat⟩
  | .fexr x c b => some ⟨x, b, false, srcUse false x.a ++ destUse b false x.d, fun s f i => fexValue s f c ((s.view f i).src x.a).toNat⟩
  | .pgq x => some ⟨x, false, true, srcUse true x.a ++ regUse true x.d, fun s f i =>
      some (BitVec.ofNat 64 (pageInfo s (s.fblock f).core (s.fctx f) ((s.view f i).src64 x.a).toNat))⟩
  | .lnkq x sel b => some ⟨x, b, true, srcUse false x.a ++ destUse b true x.d, fun s f i => linkInfo s sel ((s.view f i).src x.a).toNat⟩
  | .wid x b => some ⟨x, b, true, destUse b true x.d, fun s f _ => some (BitVec.ofNat 64 (worldInfo s (s.fdie f)))⟩
  | _ => none

end Sys2Proof.Claims

/-- R326, R327: a counter word of one lane. `cnadd` asks for an addition and `cnset` for a store of the counter's eight bytes, `cnget`
for a read at the counter's home, whose value a scalar destination has, and the path goes on, once it has come; `cnwait` goes on when the counter has reached its value and waits until then. -/
def Obligations.CounterWordsComplete : Prop :=
  ∀ (x : FForm) (flag : Bool) (s : State) (f : Focus) (i : Nat) (p : Place), (s.fgroup f).region = none →
    let asked := fun (o : Host.Outcome State Fault Refusal) (P : Req → Prop) =>
      ∃ t, o = .next t ∧ Asked s t f i (fun r => r.place = p ∧ r.size = 8 ∧ P r)
    (Solo s f i x.g (srcUse true x.a ++ srcUse true x.b) → ∀ kind, Leaves s i (s.gate f i false true flag .gl)
        (counterChk x.a .write kind s f i) p →
      (kind = .atomic → asked (exec (.cnadd x flag) s) (fun r => r.kind = .atomic .add false ∧ r.ty = .n64 ∧
        r.data = ((s.view f i).src64 x.b).setWidth 512 ∧ r.dest = .none)) ∧
      (kind = .store → asked (exec (.cnset x flag) s) (fun r => r.kind = .store ∧
        r.data = ((s.view f i).src64 x.b).setWidth 512 ∧ r.dest = .none))) ∧
    (Leaves s i (s.gate f i true false false .gl) (counterChk x.a .read .load s f i) p →
      (Solo s f i x.g (srcUse true x.a ++ regUse true x.d) → asked (exec (.cnget x flag false) s)
        (fun r => r.kind = .load ∧ r.atHome = true ∧ r.dest = .reg x.d.toNat .n64)) ∧
      (Solo s f i x.g (srcUse true x.a) →
        (∃ t, exec (.cnget x flag true) s = .next t ∧ t.mem = s.mem ∧ (t.flane f i).st = .waiting (.cnget s.nextId) ∧
          (t.flane f i).pc = (s.flane f i).pc ∧ ∃ r ∈ t.reqs, r.id = s.nextId ∧ r.kind = .load ∧ r.place = p ∧ r.size = 8 ∧
            r.atHome = true ∧ r.dest = .scalar x.d.toNat 2) ∧
        ∀ pa, p = .mem pa → HomeAnswers s f pa →
          ∃ t u v w, exec (.cnget x flag true) s = .next t ∧ exec (.homeSliceRequest s.nextId) t = .next u ∧
            exec (.loadReply s.nextId) u = .next v ∧ exec (.laneResultArrival f.blk f.grp i) v = .next w ∧ w.mem = s.mem ∧
            (w.flane f i).st = .ready ∧ (w.flane f i).pc = (s.flane f i).landing ((s.flane f i).pc + 1) ∧
            (w.fgroup f).s = Cells.set (Cells.set (s.fgroup f).s x.d.toNat (BitVec.ofNat 32 (s.natAt p 8))) (x.d.toNat + 1)
              (BitVec.ofNat 32 (s.natAt p 8 / 2 ^ 32)))) ∧
    (Solo s f i x.g (srcUse true x.a ++ srcUse true x.b) → s.held = [] → s.port (s.ctx (s.fctx f)).world p = .pass →
      Leaves s i (orGate (fun s f i => s.gate f i true false false .gl) (overlapGate 8 (counterChk x.a .read .load)) s f i)
        (counterChk x.a .read .load s f i) p →
      (((s.view f i).src64 x.b).toNat ≤ s.natAt p 8 → ∃ t, exec (.cnwait x flag) s = .next t ∧ GoesOn s t f i) ∧
      (s.natAt p 8 < ((s.view f i).src64 x.b).toNat → ∃ t, exec (.cnwait x flag) s = .next t ∧ t.mem = s.mem ∧
        (t.flane f i).st = .waiting (.counter ((s.view f i).src64 x.a).toNat ((s.view f i).src64 x.b).toNat) ∧
        (t.flane f i).pc = (s.flane f i).pc))

/-- R319 to R322, R328: `trig` arms the lowest free entry of the counter's home (which free one is
the model's choice: log 120) with the record it reads, or fires it at once when the
counter has reached the threshold, and gives its handle; a malformed record gives 2 and a full table 1. `trigx` frees an armed entry
and gives 1, and gives 0 where its handle names none. -/
def Obligations.TriggerWordsComplete : Prop :=
  (∀ (x : FForm) (s : State) (f : Focus) (i : Nat) (p q : Place) (seen : Seen),
    Solo s f i x.g (srcUse true x.a ++ srcUse true x.b ++ regUse true x.c ++ regUse false x.d) →
    (s.fgroup f).region = none → s.held = [] → s.port (s.ctx (s.fctx f)).world p = .pass →
    Leaves s i (orGate (fun s f i => s.gate f i true true false .gl) quietGate s f i) (trigChk x s f i) p →
    recordChk x.c s f i = .ok q seen →
    let r := BitVec.ofNat 512 (s.natAt q 64)
    let d := s.die (p.home?.getD 0)
    let free := (List.range 4096).find? (fun n => (d.entry n).st == .free)
    let gives := fun (w : Word) (P : State → Prop) => ∃ t, exec (.trig x) s = .next t ∧ t.mem = s.mem ∧
      (t.flane f i).pc = (s.flane f i).landing (f.pc + 1) ∧
      (t.flane f i).v = ((s.flane f i).setReg (s.fgroup f).nregs x.d.toNat w).v ∧ P t
    (recMalformed r = true → gives 2 (fun t => t.dies = s.dies)) ∧
    (recMalformed r = false → free = none → gives 1 (fun t => t.dies = s.dies)) ∧
    (∀ n, recMalformed r = false → free = some n → gives (handleOf (d.entry n).gen (p.home?.getD 0) n) (fun t =>
      let e := (t.die (p.home?.getD 0)).entry n
      e.ctx = s.fctx f ∧ e.ctr = ctrKey p ∧ e.threshold = ((s.view f i).src64 x.b).toNat ∧ e.record = r ∧ e.gen = (d.entry n).gen ∧
      e.st = (if ((s.view f i).src64 x.b).toNat ≤ s.natAt p 8 then .firing else .armed)))) ∧
  (∀ (x : FForm) (s : State) (f : Focus) (i : Nat), Solo s f i x.g (srcUse false x.a ++ regUse false x.d) →
    (s.fgroup f).region = none →
    let gives := fun (w : Word) (P : State → Prop) => ∃ t, exec (.trigx x) s = .next t ∧ t.mem = s.mem ∧
      t.flane f i = ((s.flane f i).setReg (s.fgroup f).nregs x.d.toNat w).advance (f.pc + 1) ∧ P t
    (s.armedAt (s.fctx f) ((s.view f i).src x.a) = none → gives 0 (fun t => t = { s with blocks := t.blocks })) ∧
    (∀ d n, s.armedAt (s.fctx f) ((s.view f i).src x.a) = some (d, n) →
      gives 1 (fun t => (t.die d).entry n = { gen := nextGen ((s.die d).entry n).gen })))

/-- R331: a copy or network command of one lane that passes its checks and finds room enters its die's queue with the operands that
its registers give, and the lane goes on. -/
def Obligations.EngineCommandsQueue : Prop :=
  ∀ (j : Instr) (w : EngineWord) (s : State) (f : Focus) (i : Nat), engineOf j = some w → Solo s f i w.g w.use →
    let b := s.fblock f
    let c := w.args s (s.view f i)
    let k := checkCmd s b.core b.ctx (some f.blk) c
    (s.fgroup f).region = none → s.gate f i true true false .gl = none → (∀ n x, k ≠ .bad n x) → (∀ p a d, k ≠ .fill p a d) →
    s.cmdRoom b.core (dieOfCore b.core) b.ctx (some f.blk) c = true →
    ∃ t m, exec j s = .next t ∧ GoesOn s t f i ∧
      (t.die (dieOfCore b.core)).copyQ = (s.die (dieOfCore b.core)).copyQ ++ [m] ∧
      m.op = c.op ∧ m.len = c.len ∧ m.dev = c.dev ∧ m.raddr = c.raddr ∧ m.arrival = c.arrival ∧ m.ctr = c.ctr ∧
      m.owner = some (f.blk, f.grp, i) ∧ m.vec = ((s.flane f i).passGate true).D ∧ m.started = false ∧
      m.src = locOf s b.core b.ctx (some f.blk) c.src ∧ m.dst = locOf s b.core b.ctx (some f.blk) c.dst

/-- R348 to R351: a barrier word of one lane. `binit` writes a fresh record; `barr` adds its arrival to the oldest open phase, and
the arrival that fills the phase opens the next; `bwait` goes on past a complete phase and waits at one that is open; `btest` says which
it is. R354: `lead` sets the block's allowance, at most 3; `lead.adv` adds 1 to the group's count and goes on unless a neighbour is too far behind. -/
def Obligations.BarrierWordsComplete : Prop :=
  (∀ (x : FForm) (rsp grp rlx : Bool) (s : State) (f : Focus) (i : Nat) (a : Nat × Nat),
     Solo s f i x.g (srcUse true x.a ++ srcUse false x.b) →
     let v := s.view f i
     let p := (v.src x.b).toNat
     let r := recOfBits (s.recordBits a)
     let slot := r.slots.getD (p % 4) default
     (AtRecord s f i rsp false x.a .store a → 0 < p → p ≤ 65535 → s.recordWaiters a = [] →
       ∃ t, exec (.binit x rsp) s = .next t ∧ GoesOn s t f i ∧
         recOfBits (t.recordBits a) = ⟨0, true, List.replicate 4 ⟨p, 0, false⟩⟩ ∧ t.hiddenAt a = {}) ∧
     (AtRecord s f i rsp (!rlx) x.a .atomic a → r.valid = true → p = r.base →
       (slot.arrived + 1 < slot.expected →
         ∃ t, exec (.barr x rsp grp rlx) s = .next t ∧ GoesOn s t f i ∧
           recOfBits (t.recordBits a) = { r with slots := r.slots.set (p % 4) { slot with arrived := slot.arrived + 1 } }) ∧
       (slot.arrived + 1 = slot.expected →
         (r.slots.getD ((p + 1) % 4) default).arrived ≠ (r.slots.getD ((p + 1) % 4) default).expected →
         ∃ t, exec (.barr x rsp grp rlx) s = .next t ∧ GoesOn s t f i ∧
           recOfBits (t.recordBits a) = { r with base := (p + 1) % 2 ^ 32,
                                                 slots := r.slots.set (p % 4) { slot with arrived := 0, flip := !slot.flip } })) ∧
     (AtRecord s f i rsp false x.a .load a →
       (r.complete p = true → ∃ t, exec (.bwait x rsp rlx) s = .next t ∧ OnlyBlock s t f.blk ∧ GoesOn s t f i) ∧
       (r.complete p = false → r.beyond p = false → ∃ t, exec (.bwait x rsp rlx) s = .next t ∧ OnlyBlock s t f.blk ∧
         (t.flane f i).st = .waiting (.barrier rsp (v.src64 x.a).toNat (v.src x.b) (!rlx)) ∧ (t.flane f i).pc = (s.flane f i).pc) ∧
       ∃ t, exec (.btest x rsp rlx) s = .next t ∧ OnlyBlock s t f.blk ∧ GoesOn s t f i ∧
         (t.flane f i).p = ((s.flane f i).setPred x.d.toNat (r.complete p)).p)) ∧
  (∀ (x : FForm) (s : State) (f : Focus) (i : Nat), Ready s f [] → (s.acting f x.g).head? = some i →
     (∃ t, exec (.lead x) s = .next t ∧ OnlyBlock s t f.blk ∧ (t.fblock f).allowance = min ((s.view f i).src x.a).toNat 3 ∧
       ∀ k ∈ f.lanes, t.flane f k = (s.flane f k).advance (f.pc + 1)) ∧
     (let u := s.onGroup f (fun g => { g with adv := (g.adv + 1) % 2 ^ 32 })
      (s.fgroup f).region = none → u.leadHolds f.blk (((s.fgroup f).adv + 1) % 2 ^ 32) = false →
       ∃ t, exec (.leadAdv x) s = .next t ∧
         PathResult s t f (fun g => { g with adv := (g.adv + 1) % 2 ^ 32 }) (goOn f)))

/-- R353: `elect` picks one thread of the block. Its group is the operand, or with `.role` the lowest-numbered group of the issuing
group's role, 0 in a kernel without roles. The predicate becomes true in the lowest acting lane, if the issuing group has that number,
and false in the other acting lanes. -/
def Obligations.ElectPicksOneThread : Prop :=
  ∀ (x : FForm) (role : Bool) (s : State) (f : Focus), Ready s f [] →
    (∀ i n, (s.acting f x.g).head? = some i →
      (role = false → n = ((s.view f i).src x.a).toNat) →
      (role = true → (s.fkern f).roleGroups = [] → n = 0) →
      (role = true → (s.fkern f).roleGroups ≠ [] → n < (s.fblock f).groups.length ∧
        ((s.fblock f).group n).role = (s.fgroup f).role ∧ ∀ m, m < n → ((s.fblock f).group m).role ≠ (s.fgroup f).role) →
      ∃ t, exec (.elect x role) s = .next t ∧ PathResult s t f id (fun k l =>
        if Acts s f x.g k then (l.setPred x.d.toNat ((s.fgroup f).num == n && k == i)).advance (f.pc + 1) else l.advance (f.pc + 1))) ∧
    (s.acting f x.g = [] → ∃ t, exec (.elect x role) s = .next t ∧ PathResult s t f id (goOn f))

/-- R367 to R374: `klaunch` gives a status or the handle of an instance that it enqueues (whose queue is that of
the context: the model's reading, log 45); `spawn` adds a thread to the bin of its
target; `ktrig` marks its block; `kwait` goes on when the producers have triggered. -/
def Obligations.KernelWordsComplete : Prop :=
  (∀ (x : FForm) (dep : Bool) (s : State) (f : Focus) (i : Nat),
    Solo s f i x.g (srcUse false x.a ++ srcUse true x.b ++ [x.c.toNat, x.c.toNat + 1] ++ [x.d.toNat]) →
    (s.fgroup f).region = none → s.laneReqs f.blk f.grp i = [] →
    let v := s.view f i
    let asks := launchArgs s f dep (v.src x.a).toNat (v.src64 x.b) (v.l.reg v.g.nregs x.c.toNat).toNat
      (v.l.reg v.g.nregs (x.c.toNat + 1)).toNat (maxD s f [i])
    let gives := fun (w : Word) (P : State → Prop) => ∃ t, exec (.klaunch x dep) s = .next t ∧ t.mem = s.mem ∧
      t.flane f i = ((s.flane f i).setReg (s.fgroup f).nregs x.d.toNat w).advance (f.pc + 1) ∧ P t
    (∀ n, asks = .error n → gives (BitVec.ofNat 32 n) (fun t => t.insts = s.insts)) ∧
    (∀ e, asks = .ok e → s.enqueue e = none → gives 3 (fun t => t.insts = s.insts)) ∧
    (∀ e n, asks = .ok e → (s.ctx? e.ctx).isSome = true → (s.ctx e.ctx).ended = false →
      (s.die e.die).queueFor e.ctx e.q = some n →
      gives (queueHandle e.die e.q (s.die e.die).handleSeq) (fun t => ∃ y, Tbl.at t.insts s.nextId = some y ∧ y.kern = e.kern ∧
        y.arg = e.arg ∧ y.blocks = e.blocks ∧ y.dep = dep ∧ y.st = .queued ∧ y.vec = e.vec))) ∧
  (∀ (x : FForm) (s : State) (f : Focus) (i : Nat), Solo s f i x.g (srcUse false x.a ++ srcUse true x.b) →
    (s.fgroup f).region = none → s.laneReqs f.blk f.grp i = [] →
    let b := s.fblock f
    let k := s.blockKern b
    let target := ((s.view f i).src x.a).toNat
    let bin := ((s.core b.core).bins.find? (fun y => y.inst == b.inst && y.target == target)).getD ⟨b.inst, target, [], s.ns⟩
    target < k.size → k.cluster ≤ 1 → (s.core b.core).bins.length < 8 → bin.threads.length + 1 < k.width →
    ∃ t, exec (.spawn x) s = .next t ∧ GoesOn s t f i ∧
      { bin with threads := bin.threads ++ [⟨(s.view f i).src64 x.b, (s.view f i).tagOf x.b, (s.flane f i).D⟩] } ∈ (t.core b.core).bins) ∧
  (∀ (x : FForm) (s : State) (f : Focus), Ready s f [] → s.acting f x.g ≠ [] →
    ((s.fgroup f).region = none → (s.fblock f).mark = .no →
      ∃ t, exec (.ktrig x) s = .next t ∧ OnlyBlock s t f.blk ∧
        (t.fblock f).mark = .releasing (f.lanes.flatMap (fun l => (s.laneReqs f.blk f.grp l).map Req.id))
          (f.lanes.map (fun l => (f.grp, l))) ∧
        ∀ k ∈ f.lanes, t.flane f k = (s.flane f k).advance (f.pc + 1)) ∧
    (let ps := (s.inst (s.fblock f).inst).producers
     (ps = [] → ∃ t, exec (.kwait x) s = .next t ∧ PathResult s t f id (goOn f)) ∧
     (ps ≠ [] → s.producersVec ps = none →
      ∃ t, exec (.kwait x) s = .next t ∧ PathResult s t f id (fun _ l => { l with st := .waiting .producers })) ∧
     (∀ v, ps ≠ [] → s.producersVec ps = some v →
      ∃ t, exec (.kwait x) s = .next t ∧ PathResult s t f id
        (fun _ l => { l with D := l.D.max v, order := { l.order with cover := true } }.advance (f.pc + 1)))))

/-- R376: `idem` keeps the group's scalars and masks and the named registers of every lane, when the path holds every live lane;
`idemx` drops what was kept. R404: `sys` leaves its lanes waiting for their service call; the ring has no entry before every live lane of
the block waits. -/
def Obligations.RegionAndServiceWordsComplete : Prop :=
  (∀ (x : FForm) (n : BitVec 4) (s : State) (f : Focus),
     Ready s f ((List.range n.toNat).map (fun k => srcIx x.a + k)) → s.acting f x.g ≠ [] →
     ((∀ l ∈ (s.fgroup f).live, l ∈ f.lanes) →
       ∃ t, exec (.idem x n) s = .next t ∧ PathResult s t f (fun g =>
         { g with region := some { entry := f.pc + 1, kern := f.kern, s := g.s, j := g.j,
                                   lanes := g.lanes.map (snapLane g.nregs (srcIx x.a) n.toNat) } }) (goOn f)) ∧
     (∃ t, exec (.idemx x) s = .next t ∧ PathResult s t f (fun g => { g with region := none }) (goOn f))) ∧
  (∀ (x : FForm) (s : State) (f : Focus), Ready s f (sysUse x) → (s.fgroup f).region = none → (s.fgroup f).trap = none →
     (∀ i ∈ s.acting f x.g, 1 ≤ ((s.view f i).src x.a).toNat ∧ ((s.view f i).src x.a).toNat ≤ 12) →
     ((s.fblock f).st ≠ .resident ∨
       ∃ b ∈ (s.fblock f).liveLanes, b ∉ f.lanes.map (fun i => (f.grp, i)) ∧ unposted (s.lane f.blk b.1 b.2).st = none) →
     (∀ h, h < (s.fblock f).groups.length → (s.group f.blk h).trap = none) →
     ∃ t, exec (.sys x) s = .next t ∧ PathResult s t f id (fun _ l => { l with st := .waiting (.sys 0 x) }))

/-- R399: a vector is usable when its bit 63 is set, its kernel exists and its word index lies below that kernel's code size. With a
usable vector a trap of a group that is not trapped writes its record, sends the trapping lanes to the vector's word in the vector's
kernel, and holds every other lane of the group, which stands where it stood (one of the path that had read a granule for its word has it
no more, since it issues the word afresh). Nothing else changes but the count of stale-pointer traps, when it is one. -/
def Obligations.TakingATrap : Prop :=
  (∀ (c : Context) (w k : Nat), c.vector = some (w, k) ↔ c.trapVector.getLsbD 63 = true ∧ w = (c.trapVector.extractLsb' 0 32).toNat ∧
    k = (c.trapVector.extractLsb' 32 16).toNat ∧ ∃ y, Tbl.at c.kernels k = some y ∧ w < y.size) ∧
  (∀ (s : State) (f : Focus) (tr : Trap), OnPath s f → (∀ i ∈ tr.lanes, i ∈ f.lanes) →
    let ls := if tr.lanes = [] then f.lanes else tr.lanes
    let u := if tr.cause = 4 then s.modCtx (s.fctx f) (fun x => x.count (fun n => { n with stale := sat32 (n.stale + 1) })) else s
    let t := takeTrap s f tr
    (∀ w k, (s.fgroup f).trap = none → (s.ctx (s.fctx f)).vector = some (w, k) →
      BlocksOnly u t ∧ OnlyGroup s t f ∧ (t.fgroup f).trap = some ⟨{ tr with lanes := ls }, f.word, f.pc, f.kern, ls⟩ ∧
      (∀ i ∈ ls, t.flane f i = { s.flane f i with pc := w, kern := k, st := .ready, gran := none, res := none }) ∧
      (∀ i ∈ f.lanes, i ∉ ls → t.flane f i = { s.flane f i with gran := none, res := none }) ∧
      (∀ i, i ∉ f.lanes → t.flane f i = s.flane f i) ∧
      t.fgroup f = { s.fgroup f with trap := (t.fgroup f).trap, lanes := (t.fgroup f).lanes } ∧
      ∀ i, (t.fgroup f).mayIssue i = true ↔ i ∈ ls))

namespace Sys2Proof.Claims

/-- R50, R402: a source of the trapped word as `emget` reads it in a lane. -/
def trappedSource (v : View) (kind ix : Nat) : DWord :=
  if kind = 0 then v.l.pair v.g.nregs ix
  else if kind = 1 then Cells.get v.g.s ((ix + 1) % 64) ++ Cells.get v.g.s (ix % 64)
  else if kind = 2 then v.k.const (ix / 128) ((ix % 128 + 1) % 128) ++ v.k.const (ix / 128) (ix % 128)
  else (BitVec.ofNat 9 ix).signExtend 64

/-- R402: the item `n` of a trap record, as a lane of the trapped kernel reads it, is `y`. -/
def IsItem (r : TrapRec) (v : View) (n : Nat) (y : DWord) : Prop :=
  (n = 0 → y = r.word) ∧
  (n = 1 → ∀ k, k < 64 → (y.getLsbD k = true ↔ k ∈ r.trap.lanes)) ∧
  (n = 2 → y.extractLsb' 0 8 = BitVec.ofNat 8 r.trap.cause ∧ y.extractLsb' 8 8 = BitVec.ofNat 8 r.trap.sub ∧
    y.extractLsb' 16 4 = (match r.trap.kind with | .none => 0 | .load => 1 | .store => 2 | .atomic => 3 | .fetch => 4 | .engine => 5) ∧
    y.extractLsb' 20 9 = BitVec.ofNat 9 r.trap.named ∧ y.extractLsb' 29 35 = 0) ∧
  (n = 3 → y = r.trap.addr) ∧
  (n = 4 → y.extractLsb' 0 32 = BitVec.ofNat 32 r.pc ∧ y.extractLsb' 32 16 = BitVec.ofNat 16 r.kern ∧ y.extractLsb' 48 16 = 0) ∧
  (n = 5 → y = trappedSource v (r.word.extractLsb' 38 2).toNat (r.word.extractLsb' 29 9).toNat) ∧
  (n = 6 → y = trappedSource v (r.word.extractLsb' 27 2).toNat (r.word.extractLsb' 18 9).toNat) ∧
  (n = 7 → y = v.l.pair v.g.nregs (r.word.extractLsb' 9 9).toNat)

/-- R403: what `emset` gives a lane, with the destination field of the trapped word. -/
def emulated (k : EmTarget) (d n : Nat) (x : DWord) (l : Lane) : Lane :=
  match k with
  | .reg => l.setReg n d (x.extractLsb' 0 32)
  | .pair => l.setPair n (2 * (d / 2)) x
  | .pred => if d % 8 = 7 then l else l.setPred (d % 8) (x.getLsbD 0)

end Sys2Proof.Claims

/-- R400: a trap in a handler, or with no usable vector, ends the context, with its cause in the status. R401 to R403: in a handler `tret`
sends its lanes back to the trapped word, `tret.next` to the word after it; `emget` reads the record, with the constant banks of the
trapped kernel (the model's reading: log 66), and `emset` writes the destination that the trapped word names. R398, R416: outside a handler
each of them raises the illegal-instruction trap. -/
def Obligations.HandlerWordsComplete : Prop :=
  (∀ (s : State) (f : Focus) (tr : Trap), OnPath s f → (s.fgroup f).trap.isSome = true ∨ (s.ctx (s.fctx f)).vector = none →
    (s.ctx? (s.fctx f)).isSome = true →
    let c := (takeTrap s f tr).ctx (s.fctx f)
    (takeTrap s f tr).mem = s.mem ∧ c.st = .trapped ∧ c.cause = tr.cause ∧ c.sub = tr.sub ∧ c.nested = (s.fgroup f).trap.isSome ∧
    c.vecInvalid = (s.fgroup f).trap.isNone) ∧
  (∀ (x : FForm) (next : Bool) (s : State) (f : Focus) (r : TrapRec), Ready s f [] → (s.fgroup f).trap = some r →
    ∃ t, exec (.tret x next) s = .next t ∧ t = { s with blocks := t.blocks } ∧
      (∀ i ∈ s.acting f x.g, (t.flane f i).kern = r.kern ∧ (t.flane f i).v = (s.flane f i).v ∧
        (next = false → (t.flane f i).pc = r.pc) ∧
        (next = true → (s.flane f i).landing (r.pc + 1) < ((s.kern (s.fctx f) r.kern).getD {}).size →
          (t.flane f i).pc = (s.flane f i).landing (r.pc + 1))) ∧
      ((∀ i ∈ r.inside, i ∈ s.acting f x.g) → s.acting f x.g ≠ [] → (t.fgroup f).trap = none)) ∧
  (∀ (x : FForm) (k : EmTarget) (s : State) (f : Focus) (r : TrapRec), (s.fgroup f).trap = some r →
    (Ready s f (srcUse false x.a ++ regUse true x.d ++ recordUse s) → (∀ i ∈ s.acting f x.g, ((s.view f i).src x.a).toNat < 8) →
      ∃ t, exec (.emget x) s = .next t ∧ LaneResult s t f x.g (fun v i => (v.l.setPair v.g.nregs x.d.toNat
        (recordItem r { v with k := (s.kern (s.fctx f) r.kern).getD {} } (v.src x.a).toNat), []))) ∧
    (∀ v n, n < 8 → IsItem r v n (recordItem r v n)) ∧
    (Ready s f (srcUse true x.a ++ recordUse s) →
      ∃ t, exec (.emset x k) s = .next t ∧ LaneResult s t f x.g (fun v i =>
        (emulated k (r.word.extractLsb' 40 9).toNat v.g.nregs (v.src64 x.a) v.l, [])))) ∧
  (∀ (x : FForm) (next : Bool) (k : EmTarget) (s : State) (f : Focus), (s.fgroup f).trap = none →
    let traps := fun (i : Instr) => exec i s = .next (takeTrap s f { cause := 1, sub := 5 })
    (Ready s f [] → traps (.tret x next)) ∧ (Ready s f (srcUse false x.a ++ regUse true x.d) → traps (.emget x)) ∧
    (Ready s f (srcUse true x.a) → traps (.emset x k)))

namespace Sys2Proof.Claims

/-- R394, R396: the control registers of a context. -/
def ControlRegisters (s : State) (c : Nat) : Prop :=
  let x := s.ctx c
  let reads := fun (a : Nat) (y : DWord) => csrRead s c a = some y
  let counts := fun (a n : Nat) => reads a (BitVec.ofNat 64 n)
  (∃ y, reads 0x000 y ∧ y.extractLsb' 32 32 = x.code ∧ y.extractLsb' 24 8 = 0 ∧ y.extractLsb' 16 8 = BitVec.ofNat 8 x.sub ∧
    y.extractLsb' 8 8 = BitVec.ofNat 8 x.cause ∧ y.getLsbD 7 = x.lossFlag ∧ y.getLsbD 6 = x.nested ∧ y.getLsbD 5 = x.vecInvalid ∧
    y.getLsbD 4 = x.exited ∧ y.getLsbD 3 = false ∧
    y.extractLsb' 0 3 = (match x.st with | .live => 0 | .complete => 1 | .frozen => 2 | .trapped => 3)) ∧
  (∃ y, reads 0x001 y ∧ y.extractLsb' 0 8 = BitVec.ofNat 8 c ∧ y.extractLsb' 8 4 = BitVec.ofNat 4 x.world ∧ y.extractLsb' 12 52 = 0) ∧
  reads 0x002 (Config.revision.setWidth 64) ∧ reads 0x003 Config.features ∧ reads 0x004 x.seed ∧ counts 0x005 x.ptRoot ∧
  counts 0x006 x.arenaBase ∧ counts 0x007 x.arenaSize ∧ reads 0x010 x.trapVector ∧ reads 0x011 x.parkThreshold ∧
  reads 0x012 x.spawnTimer ∧ (∀ n, n < 16 → reads (0x020 + n) ((Tbl.at x.fexThreshold n).getD 0xFFFFFFFF)) ∧
  counts 0x030 x.n.arith ∧ counts 0x040 x.n.dataLoss ∧ counts 0x041 x.n.fetch ∧ counts 0x042 x.n.slot ∧ counts 0x043 x.n.depart ∧
  counts 0x044 x.n.stale ∧ counts 0x045 x.n.lost ∧ counts 0x046 x.n.hvSat ∧ counts 0x047 x.n.fire ∧ counts 0x048 x.n.fault ∧
  counts 0x049 x.n.park ∧ counts 0x04A x.n.restart ∧ counts 0x04B x.n.preempt ∧ counts 0x050 s.ns ∧
  (∀ a, 7 < a → a < 0x010 ∨ 0x012 < a → a < 0x020 ∨ 0x030 < a → a < 0x040 ∨ 0x04B < a → a ≠ 0x050 → csrRead s c a = none)

/-- R414: the event counters of a block's instance and of its context. -/
def EventCounters (s : State) (f : Focus) : Prop :=
  (∀ n, n < 16 → fexValue s f false n = some ((Cells.get (s.inst (s.fblock f).inst).fex n).setWidth 64) ∧
    fexValue s f true n = some ((Cells.get (s.ctx (s.fctx f)).fexTotal n).setWidth 64)) ∧
  (∀ b, fexValue s f b 16 = some (BitVec.ofNat 64 (s.ctx (s.fctx f)).n.arith)) ∧ ∀ b n, 16 < n → fexValue s f b n = none

/-- R209: the fields of a mapped address. -/
def MappedAs (y : DWord) (target kind size : Nat) (measured r w x : Bool) : Prop :=
  y.extractLsb' 32 32 = BitVec.ofNat 32 target ∧ y.extractLsb' 9 23 = 0 ∧ y.extractLsb' 7 2 = BitVec.ofNat 2 kind ∧
  y.extractLsb' 5 2 = (if size = 2 ^ 30 then 2 else if size = 2 ^ 21 then 1 else 0) ∧ y.getLsbD 4 = measured ∧
  y.getLsbD 3 = x ∧ y.getLsbD 2 = w ∧ y.getLsbD 1 = r ∧ y.getLsbD 0 = true

/-- R209: what a query of an address answers. -/
def PageQuery (s : State) (core c va : Nat) : Prop :=
  let y := BitVec.ofNat 64 (pageInfo s core c va)
  let x := s.ctx c
  let leaf := fun (e : Pte) (size : Nat) =>
    MappedAs y (if e.kind = 0 then dieOfAddr e.addr else e.target) e.kind size e.measured e.r e.w e.x
  (inWindow va = true → y = 1024) ∧
  (inWindow va = false → 2 ^ 57 ≤ va → y = 2048) ∧
  (inWindow va = false → va < 2 ^ 57 →
    (∀ g d, x.region va = some g → g.kind = .sram → g.target = some d → d < 4 → MappedAs y d 0 0 false g.r g.w g.x) ∧
    ((∀ g, x.region va = some g → g.kind ≠ .sram) →
      (∀ t, cached (s.core core).tlb c va = some t → leaf (pteOf t.entry) t.size) ∧
      (cached (s.core core).tlb c va = none →
        (∀ l e b, walk s.mem x.ptRoot va = .leaf l (pteOf e) b → leaf (pteOf e) (leafSize l)) ∧
        (walk s.mem x.ptRoot va = .malformed → y = 0) ∧
        (walk s.mem x.ptRoot va = .notMapped → ((x.region va).isSome = true → y = 512) ∧ (x.region va = none → y = 0)))))

/-- R440: what a query of a link or a route answers. -/
def LinkQuery (s : State) (n : Nat) : Prop :=
  let l := s.link n
  let none' := fun (sel : LinkSel) => linkInfo s sel n = none
  (n < 48 ∨ (64 ≤ n ∧ n < 72) →
    linkInfo s .retry n = some (BitVec.ofNat 64 l.replays) ∧ linkInfo s .drop n = some (BitVec.ofNat 64 l.drops) ∧
    linkInfo s .window n = some (if n < 48 then 0 else BitVec.ofNat 64 (l.outbound.map HostReq.units).sum) ∧
    ∃ y, linkInfo s .state n = some y ∧ y.extractLsb' 32 8 = 0 ∧ y.extractLsb' 3 13 = 0 ∧
      y.extractLsb' 40 24 = (if l.st = .up ∨ l.st = .half then BitVec.ofNat 24 l.peer else 0) ∧
      y.extractLsb' 16 16 = BitVec.ofNat 16 (min 65535 (s.depth n)) ∧
      y.extractLsb' 0 3 = (match l.st with | .down => 0 | .training => 1 | .up => 2 | .half => 3)) ∧
  (48 ≤ n → n < 64 ∨ 72 ≤ n → none' .retry ∧ none' .drop ∧ none' .window ∧ none' .state) ∧
  (n = 0 ∨ 0x8D1 < n → none' .route) ∧
  (1 ≤ n → n ≤ 0x8D1 → (n = s.devNum → linkInfo s .route n = some 0) ∧
    (n ≠ s.devNum →
      let r := minimalRoute s.devNum n
      r.first < 256 → r.second < 256 → ∃ y, linkInfo s .route n = some y ∧ y.extractLsb' 42 22 = 0 ∧ y.getLsbD 41 = r.via.isNone ∧
        y.getLsbD 40 = routeHealthy s s.devNum r ∧ (∀ m, r.via = some m → m < 2 ^ 24 → y.extractLsb' 16 24 = BitVec.ofNat 24 m) ∧
        (r.via = none → y.extractLsb' 16 24 = 0 ∧ y.extractLsb' 8 8 = 0xFF) ∧ y.extractLsb' 0 8 = BitVec.ofNat 8 r.first ∧
        ∀ m, r.via = some m → m < 2 ^ 24 → y.extractLsb' 8 8 = BitVec.ofNat 8 r.second))

/-- R458: what `wid` answers on a die that is latched to a world. -/
def WorldQuery (s : State) (die : Nat) : Prop :=
  ∀ w, (s.die die).latch = .assigned w → 1 ≤ w → w ≤ 15 → s.mgmt.leader.getD 0 < 4 →
    let y := BitVec.ofNat 64 (worldInfo s die)
    let r := (Tbl.at s.mgmt.worlds w).getD {}
    y.extractLsb' 32 32 = BitVec.ofNat 32 r.entries.length ∧ y.extractLsb' 18 14 = 0 ∧
    (y.getLsbD 17 = true ↔ s.mgmt.tdisp = .run ∧ s.mgmt.lent = w) ∧ y.getLsbD 16 = r.mutableCode ∧ y.extractLsb' 14 2 = 0 ∧
    y.extractLsb' 12 2 = BitVec.ofNat 2 (s.mgmt.leader.getD 0) ∧
    (∀ d, d < 4 → (y.getLsbD (8 + d) = true ↔ (s.die d).latch = .assigned w)) ∧ y.extractLsb' 4 4 = 0 ∧
    y.extractLsb' 0 4 = BitVec.ofNat 4 w

end Sys2Proof.Claims

/-- R209, R397, R414, R440, R458: a word that reads a control register, an event counter, a mapping, a link or the world gives every
acting lane its value, or a scalar the lowest one's; R394, R396, R209, R414, R440, R458: the values are those of the tables.
R396, R397: `csrw` writes the trap vector, the park threshold, the spawn timer, held to 1 to 1,000,000, or an event threshold;
a write of another register of the map changes nothing. R415: `halt` ends its context TRAPPED with the code of its source, when every
lane of the path may. R210: `pginv` of the system world starts an invalidation and waits for it; of any other world it is a violation,
which freezes the core. -/
def Obligations.SystemRegisterWordsComplete : Prop :=
  (∀ (j : Instr) (w : ValueWord) (s : State) (f : Focus), valueOf j = some w → Ready s f w.use →
     (∀ i ∈ s.acting f w.x.g, (w.val s f i).isSome = true) →
     (w.toScalar = false → ∃ t, exec j s = .next t ∧ LaneResult s t f w.x.g (fun v i =>
       (let y := (w.val s f i).getD 0
        if w.wide then v.l.setPair v.g.nregs w.x.d.toNat y else v.l.setReg v.g.nregs w.x.d.toNat (y.setWidth 32), []))) ∧
     (∀ i, w.toScalar = true → (s.acting f w.x.g).head? = some i →
       ∃ t, exec j s = .next t ∧ PathResult s t f (writeScalar w.wide w.x.d ((w.val s f i).getD 0)) (goOn f))) ∧
  (∀ (s : State) (f : Focus) (core c n : Nat), ControlRegisters s c ∧ EventCounters s f ∧ PageQuery s core c n ∧ LinkQuery s n ∧
    WorldQuery s n) ∧
  ((∀ (x : FForm) (s : State) (f : Focus) (i : Nat), Ready s f (srcUse true x.b) → (s.acting f x.g).head? = some i →
      (s.ctx? (s.fctx f)).isSome = true →
      let a := ((s.view f i).src x.a).toNat
      let y := (s.view f i).src64 x.b
      let c := s.ctx (s.fctx f)
      let timer := if y.toNat < 1 then 1 else if 1000000 < y.toNat then 1000000 else y
      let writes := fun (j : Instr) (c' : Context) => ∃ t, exec j s = .next t ∧ t = { s with blocks := t.blocks, ctxs := t.ctxs } ∧
        t.ctx (s.fctx f) = c' ∧ (∀ d, d ≠ s.fctx f → t.ctx d = s.ctx d) ∧
        ∀ k ∈ f.lanes, t.flane f k = (s.flane f k).advance (f.pc + 1)
      (a = 0x010 → writes (.csrw x) { c with trapVector := y }) ∧
      (a = 0x011 → writes (.csrw x) { c with parkThreshold := y }) ∧
      (a = 0x012 → writes (.csrw x) { c with spawnTimer := timer }) ∧
      (0x020 ≤ a → a ≤ 0x02F → writes (.csrw x) { c with fexThreshold := Tbl.put c.fexThreshold (a - 0x020) y }) ∧
      ((csrRead s (s.fctx f) a).isSome = true → a < 0x010 ∨ 0x02F < a → writes (.csrw x) c) ∧
      writes (.csrwParkThreshold x) { c with parkThreshold := y } ∧ writes (.csrwSpawnTimer x) { c with spawnTimer := timer }) ∧
   ((∀ (x : FForm) (s : State) (f : Focus) (i : Nat), Ready s f (srcUse false x.a) → (s.acting f x.g).head? = some i →
      idleOutside s f x.g = [] → (s.ctx? (s.fctx f)).isSome = true →
      ∃ t, exec (.halt x) s = .next t ∧ (t.ctx (s.fctx f)).st = .trapped ∧ (t.ctx (s.fctx f)).cause = 12 ∧
        (t.ctx (s.fctx f)).code = (s.view f i).src x.a ∧ t.mem = s.mem ∧ ∀ d, d ≠ s.fctx f → t.ctx d = s.ctx d) ∧
    (∀ (x : FForm) (e : Extent) (s : State) (f : Focus) (i : Nat), Ready s f (srcUse true x.a ++ srcUse false x.b) →
      (s.acting f x.g).head? = some i → (s.fgroup f).region = none →
      ((s.ctx (s.fctx f)).world ≠ 0 →
        ∃ t, exec (.pginv x e) s = .next t ∧ s.fctx f ∈ (t.core (s.fblock f).core).frozenBy) ∧
      ((s.ctx (s.fctx f)).world = 0 → (s.ctx? ((s.view f i).src x.b).toNat).isSome = true →
        ∃ t id, exec (.pginv x e) s = .next t ∧ t.mem = s.mem ∧
          (∀ k ∈ f.lanes, (t.flane f k).st = .waiting (.inval id) ∧ (t.flane f k).pc = (s.flane f k).landing (f.pc + 1)) ∧
          ∃ v ∈ t.invals, v.id = id ∧ v.ctx = ((s.view f i).src x.b).toNat))))


namespace Sys2Proof.Claims

/-- Candidate `b` is picked before candidate `a`: among aged ones the number of cycles passed over decides first, then the number of
active lanes, the age of the group's block, the group's number and the PC (R104). -/
def PickedBefore (aged : Bool) (b a : Choice) : Prop :=
  (aged = true ∧ a.passed < b.passed) ∨ ((aged = true → b.passed = a.passed) ∧
    (a.c.lanes.length < b.c.lanes.length ∨ (a.c.lanes.length = b.c.lanes.length ∧
      (b.age < a.age ∨ (b.age = a.age ∧ (b.num < a.num ∨ (b.num = a.num ∧ b.c.key < a.c.key)))))))

/-- The pick of a set of candidates: an aged one if there is any, and no other of its kind before it. -/
def Picked (cs : List Choice) (a : Choice) : Prop :=
  a ∈ cs ∧ ((∃ b ∈ cs, b.aged = true) → a.aged = true) ∧
    ∀ b ∈ cs, (a.aged = true → b.aged = true) → ¬PickedBefore a.aged b a

/-- The group exists. -/
def HasGroup (s : State) (b g : Nat) : Prop := (s.block? b).isSome = true ∧ g < (s.block b).groups.length

/-- The lane exists. -/
def HasLane (s : State) (b g i : Nat) : Prop := HasGroup s b g ∧ i < (s.group b g).lanes.length

end Sys2Proof.Claims

/-- R104: of the ready candidates of a scheduler the first slot takes the pick, and the second the pick of those whose physical lanes are
disjoint from the first's; a slot with no candidate stays empty. R106: the word of a first slot goes before that of the second. R112: the
end of a cycle closes every rejoin wait whose named lanes have all arrived, and its held lanes go on at the word after their `jwait`.
R156: it closes every execution whose members have all issued the word or exited, and its waiting lanes go on. Both happen in the step
that ends a cycle, in each group of a block that runs. -/
def Obligations.CyclesEndAndSlotsFill : Prop :=
  (∀ cs : List Choice, (cs = [] → pickTwo cs = []) ∧
    (cs ≠ [] → ∃ a rest, pickTwo cs = a :: rest ∧ Picked cs a ∧
      (let others := cs.filter (fun b => b.c != a.c && b.phys.all (fun p => !a.phys.contains p))
       (others = [] ∧ rest = []) ∨ ∃ b, rest = [b] ∧ Picked others b))) ∧
  (∀ (rest : List Item) (s : State), s.tripped = false → s.agenda = .pick :: rest →
    let u := { s with agenda := rest, focus := none }.holdLanes
    ∃ t, step s = .next t ∧ t.mem = s.mem ∧
      t.agenda = u.busyCores.flatMap (fun c => [0, 1, 2, 3].flatMap (fun k =>
        (pickTwo (u.choices c k)).zipIdx.map (fun x => Item.issue { x.1.c with second := x.2 == 1 }))) ++ rest) ∧
  (∀ g : Group, (g.waits.map JWait.j).Nodup →
    let t := g.closeWaits
    let met := fun (w : JWait) => ∀ i, i < g.lanes.length → (Cells.get g.j w.j).getLsbD i = true →
      (g.lane i).st = .held w.j ∨ (g.lane i).st = .exited ∨ i ∈ w.timed
    (∀ w, w ∈ t.waits ↔ w ∈ g.waits ∧ ¬met w) ∧
    ∀ i, i < g.lanes.length →
      ((∃ w ∈ g.waits, met w ∧ (g.lane i).st = .held w.j) → t.lane i = (g.lane i).advance ((g.lane i).pc + 1)) ∧
      ((∀ w ∈ g.waits, met w → (g.lane i).st ≠ .held w.j) → t.lane i = g.lane i)) ∧
  (∀ (g : Group) (x : Execution), g.execs = [x] →
    let met := ∀ l ∈ x.members, l ∈ x.issued.map Member.lane ∨ (g.lane l).st = .exited
    let t := finishExecs g
    (¬met → t = g) ∧
    (met → t.execs = [] ∧ ∀ i, i < g.lanes.length →
      (i ∈ x.issued.map Member.lane → (g.lane i).st = .waiting .member →
        (t.lane i).pc = (g.lane i).landing (x.pc + 1) ∧ (t.lane i).st = .ready) ∧
      (i ∉ x.issued.map Member.lane → t.lane i = g.lane i))) ∧
  (∀ (b g : Nat) (s : State), s.tripped = false → s.agenda = [] → s.cores = [] → s.reqs = [] → HasGroup s b g →
    s.runs (s.block b) = true → (∀ e ∈ s.blocks, ∀ h ∈ e.2.groups, ∀ l ∈ h.lanes, ∀ n x, l.st ≠ .waiting (.sys n x)) →
    ∃ t, step s = .next t ∧ t.mem = s.mem ∧ t.clock = s.clock + 1 ∧
      t.group b g = ((finishExecs (s.group b g)).countExecs).closeWaits)

/-- The events that end a wait in a group: a candidate passed over for 32 cycles ages (R104); a lane whose result has come is ready,
at the next word where the wait was the last part of its own (R101, R350); the bound of a rejoin wait ends it (R113); an execution open for 4,096 cycles traps the lanes that have issued it (R156); a
yield ends (R120); a register request is met (R124); a mark's release
completes, with a vector that covers what each marking lane knows (R373; which maximum is the model's reading: logs 50, 99); a core learns its neighbour's count (R354).
The queue manager's events: a block and an instance retire (R362, R364); a unit is placed (R385); a blocking unit's victims are
chosen, and one halts, discarded if every live group of it is inside a region (R378, R388, R389); a save completes; a waiting unit
parks (R355); a spawn bin's timer expires (R372); a core prefetches its next instance's code (R390). -/
def Obligations.GroupAndQueueEventsHappen : Prop :=
  ((∀ (b g pc k n : Nat) (s : State), HasGroup s b g → (k, n) ∈ (s.group b g).passed → k % 2 ^ 32 = pc → 32 ≤ n →
     Happens (.candidateAged b g pc) s (fun t => BlocksOnly s t ∧ k ∈ (t.group b g).aged)) ∧
   (∀ (b g i : Nat) (w : Wait) (s : State), HasLane s b g i → (s.lane b g i).st = .waiting w → s.waitOver b g i w = true →
     Happens (.laneResultArrival b g i) s (fun t => BlocksOnly s t ∧
       (∀ id, w = .lead id ∨ w = .cnget id → t.lane b g i = (s.lane b g i).advance ((s.lane b g i).pc + 1)) ∧
       (∀ rsp a p acq r, w = .barrier rsp a p acq → s.recordAt b rsp a = some r →
         t.lane b g i = (s.lane b g i).passRec (s.hiddenAt r).vc acq) ∧
       ((∀ id, w ≠ .lead id ∧ w ≠ .cnget id) → (∀ rsp a p acq, w ≠ .barrier rsp a p acq) →
         t.lane b g i = { s.lane b g i with st := .ready }))) ∧
   (∀ (b g i j n : Nat) (w : JWait) (s : State), HasLane s b g i → (s.block b).st = .resident → w ∈ (s.group b g).waits → w.j = j →
     w.bound = some n → n < s.clock → (s.group b g).allArrived w = false → (s.lane b g i).st = .held j →
     Happens (.jwaitTimeout b g j) s (fun t => BlocksOnly s t ∧ t.lane b g i = (s.lane b g i).advance ((s.lane b g i).pc + 1))) ∧
   (∀ (b g : Nat) (x : Execution) (v : Nat × Nat) (s : State), HasGroup s b g → (s.group b g).execs = [x] → 4096 ≤ x.cycles →
     x.complete (s.group b g) = false → (s.group b g).trap = none → (s.ctx (s.block b).ctx).vector = some v → x.issued ≠ [] →
     Happens (.membershipTimeout b g x.pc) s (fun t => (t.group b g).execs = [] ∧
       ∃ r, (t.group b g).trap = some r ∧ r.trap.cause = 9 ∧ r.trap.lanes = x.issued.map Member.lane)) ∧
   (∀ (b g i n : Nat) (s : State), HasLane s b g i → (s.lane b g i).st = .waiting (.yielded n) → n < s.clock →
     Happens (.yieldExpiry b g i) s (fun t => BlocksOnly s t ∧ t.lane b g i = { s.lane b g i with st := .ready })) ∧
   (∀ (core i : Nat) (r : GrowReq) (s : State), (s.core core).grows = [r] → s.nextGrow core = some r → HasLane s r.blk r.grp i →
     i ∈ r.lanes → r.lanes.Nodup → (s.lane r.blk r.grp i).st = .waiting (.rgrow r.id) →
     Happens (.rgrowGrant core) s (fun t => (t.core core).grows = [] ∧
       (t.lane r.blk r.grp i).st = .ready ∧
       (t.lane r.blk r.grp i).pc = (s.lane r.blk r.grp i).landing ((s.lane r.blk r.grp i).pc + 1))) ∧
   (∀ (b : Nat) (ls : List (Nat × Nat)) (s : State), (s.block? b).isSome = true → (s.block b).mark = .releasing [] ls →
     Happens (.ktrigReleaseComplete b) s (fun t => BlocksOnly s t ∧
       (t.block b).mark = .done (ls.foldl (fun (d : VecD) x => d.max (s.lane b x.1 x.2).known) {}))) ∧
   (∀ (b nb : Nat) (s : State), (s.block? b).isSome = true → nb ∈ s.leadNeighbours b →
     Happens (.leadCountUpdate b nb) s (fun t => BlocksOnly s t ∧ Tbl.at (t.block b).seen nb = some (s.block nb).advance))) ∧
  ((∀ (b : Nat) (s : State), (s.block? b).isSome = true → s.mayRetire b = true → (s.inst? (s.block b).inst).isSome = true →
     Happens (.blockRetire b) s (fun t => (t.block b).st = .retired ∧ t.mem = s.mem ∧
       ∀ e ∈ (t.core (s.block b).core).owner, e.2 ≠ b)) ∧
   (∀ (i : Nat) (s : State), s.instMayRetire i = true →
     Happens (.instanceRetire i) s (fun t => t.mem = s.mem ∧ (∀ e ∈ t.blocks, e.2.inst ≠ i) ∧
       ∀ e ∈ t.dies, ∀ q ∈ e.2.queues, i ∉ q.2.insts)) ∧
   (∀ (die i q core : Nat) (s : State), s.firstUnit die = some (.new i q) → s.fitUnit die [] (.new i q) = some [core] →
     (s.inst? i).isSome = true →
     Happens (.unitPlacement die) s (fun t => (t.inst i).placed = (s.inst i).placed + 1 ∧ ∃ n b, Tbl.at t.blocks n = some b ∧
       b.inst = i ∧ b.core = core ∧ b.index = (s.inst i).placed ∧ b.st = .resident)) ∧
   (∀ (die v : Nat) (vs : List Nat) (s : State), s.victims die = some vs → v ∈ vs → (s.block? v).isSome = true →
     Happens (.preemptionGraceExpiry die) s (fun t => (t.block v).halting = true ∧ t.mem = s.mem)) ∧
   (∀ (b : Nat) (s : State), (s.block? b).isSome = true → (s.block b).halting = true → (s.block b).st = .resident →
     Happens (.preemptionHalt b) s (fun t => (t.block b).halting = false ∧
       (t.block b).st = (if (s.block b).discardable then .discarded else .saving))) ∧
   (∀ (b : Nat) (s : State), (s.block? b).isSome = true → (s.block b).st = .saving → s.hasTile b = false →
     Happens (.blockSaveComplete b) s (fun t => (t.block b).st = .saved ∧ t.mem = s.mem ∧
       b ∈ (t.die (s.inst (s.block b).inst).die).relaunch)) ∧
   (∀ (b : Nat) (s : State), (s.block? b).isSome = true → (s.blockKern (s.block b)).cluster ≤ 1 → s.mayPark b = true →
     (s.block b).st = .resident → Happens (.parkThresholdExpiry b) s (fun t => (t.block b).st = .parking ∧ t.mem = s.mem)) ∧
   (∀ (core n : Nat) (bin : SpawnBin) (s : State), (s.core core).bins[n]? = some bin →
     bin.since + ((s.ctx (s.inst bin.inst).ctx).spawnTimer).toNat ≤ s.ns →
     Happens (.spawnTimerExpiry core n) s (fun t => (t.core core).bins = (s.core core).bins.eraseIdx n ∧ t.mem = s.mem ∧
       ∃ k b, Tbl.at t.blocks k = some b ∧ b.st = .formed ∧ b.spawned = true ∧ b.inst = bin.inst ∧ b.core = core)) ∧
   (∀ (core i : Nat) (s : State), s.reserved core = some i → (s.core core).prefetch ≠ some i →
     Happens (.codePrefetch core) s (fun t => (t.core core).prefetch = some i ∧ t.mem = s.mem)))

namespace Sys2Proof.Claims

/-- A request awaits its ordering point and nothing holds it back there: it is known by its identity, not yet performed, past its
combining station, inside no combined request, free of earlier ones, and not answered before; its port lets it pass and its line is not
held. -/
structure AtHome (s : State) (r : Req) : Prop where
  known : s.req? r.id = some r
  open' : r.performed = false
  past : r.stage = 2
  alone : s.inRecord r.id = false
  free : s.free r = true
  port : s.port r.world r.place = .pass
  unheld : s.isHeld r.place = false
  home : (r.place.home?).isSome = true
  fresh : ∀ d, s.dupOf d r.core r.id = none

end Sys2Proof.Claims

/-- R251 to R253: what a home does with a request that nothing holds back. A load answers the bytes as they stand, after a
free delay of the model's (log 100); a store writes its
bytes, takes the home's next number and leaves a notice at each of the other dies; an atomic writes the combined value and answers the
old one. A held line is written back first. At a cluster atomic unit the line is taken and the atomic performed on it (R219); a
scratchpad's port answers by itself (R214).
R253 to R256: a notice is applied in its home's order, to the applied vector and the replica's lines; a fill is installed; a reply
writes its registers and raises D, and an acknowledgement raises D, and each ends its request; a held line's lease ends and its
write-back completes (R219). -/
def Obligations.RequestsAreAnswered : Prop :=
  ((∀ (r : Req) (s : State), AtHome s r → r.kind = .load → r.replicable = false →
     Happens (.homeSliceRequest r.id) s (fun t => t.mem = s.mem ∧
       { r with performed := true, reply := BitVec.ofNat 512 (s.natAt r.place r.size), tag := s.tagAt r.place,
                raises := s.latestAt r.place r.size, due := s.clock + Config.replyDelay r.wordId } ∈ t.reqs)) ∧
   (∀ (r : Req) (pa : Nat) (s : State), AtHome s r → r.kind = .store → r.place = .mem pa → 0 < r.size →
     Happens (.homeSliceRequest r.id) s (fun t =>
       let h := dieOfAddr pa
       t.mem = Memory.write s.mem pa (bytesOfNat r.data.toNat r.size) ∧ (t.die h).seq = (s.die h).seq + 1 ∧
       (∃ q ∈ t.reqs, q.id = r.id ∧ q.performed = true) ∧
       ∀ d, d < 4 → d ≠ h → ∃ n ∈ (t.die d).notices, n.home = h ∧ n.n = (s.die h).seq + 1 ∧
         n.cells = runCells pa (bytesOfNat r.data.toNat r.size))) ∧
   (∀ (r : Req) (pa : Nat) (op : AtomOp) (comb : Bool) (s : State), AtHome s r → r.kind = .atomic op comb → r.place = .mem pa →
     s.atUnit r = false →
     Happens (.homeSliceRequest r.id) s (fun t =>
       t.mem = Memory.write s.mem pa (bytesOfNat (atomNew op r.ty (s.natAt r.place r.size) r.data.toNat).1 r.size) ∧
       ∃ q ∈ t.reqs, q.id = r.id ∧ q.performed = true ∧ q.reply = BitVec.ofNat 512 (s.natAt r.place r.size))) ∧
   (∀ (r : Req) (pa : Nat) (h : Held) (s : State), s.req? r.id = some r → s.free r = true → s.inRecord r.id = false →
     r.kind = .load → r.place = .mem pa → s.port r.world r.place = .pass → s.heldLine (pa / 64) = some h →
     Happens (.homeSliceRequest r.id) s (fun t => t.mem = s.mem ∧ t.heldLine (pa / 64) = some { h with writingBack := true })) ∧
   (∀ (r : Req) (pa : Nat) (op : AtomOp) (comb : Bool) (s : State), s.req? r.id = some r → s.free r = true → r.place = .mem pa →
     r.kind = .atomic op comb → s.atUnit r = true → s.port r.world r.place = .pass → s.heldLine (pa / 64) = none →
     Happens (.clusterAtomicUnitRequest r.id) s (fun t =>
       t.mem = Memory.write s.mem pa (bytesOfNat (atomNew op r.ty (Memory.readNat s.mem pa r.size) r.data.toNat).1 r.size) ∧
       (∃ h, t.heldLine (pa / 64) = some h ∧ h.holder = dieOfCore r.core ∧ h.till = s.ns + 1000 ∧ h.writingBack = false) ∧
       ∃ q ∈ t.reqs, q.id = r.id ∧ q.performed = true ∧ q.reply = BitVec.ofNat 512 (Memory.readNat s.mem pa r.size))) ∧
   (∀ (r : Req) (b a : Nat) (s : State), s.req? r.id = some r → s.free r = true → r.performed = false → r.place = .rsp b a →
     r.kind = .store → Happens (.remoteScratchpadRequest r.id) s (fun t => t.mem = s.mem ∧
       ((s.block? b).isSome = true → (t.block b).spad = (setSpad (s.block b) a (bytesOfNat r.data.toNat r.size) r.vec).spad) ∧
       ∃ q ∈ t.reqs, q.id = r.id ∧ q.performed = true))) ∧
  ((∀ (die home : Nat) (x : Notice) (s : State), x ∈ (s.die die).notices → x.home = home → x.applicable (s.die die).applied = true →
     (∀ y ∈ (s.die die).notices, y.home = home → y.n = x.n → y = x) →
     Happens (.noticeApply die home) s (fun t => t.mem = s.mem ∧ (t.die die).applied = (s.die die).applied.set home x.n ∧
       (∀ y ∈ (t.die die).notices, ¬(y.home = home ∧ y.n = x.n)) ∧
       ∀ n l, Tbl.at (s.die die).replica n = some l → Tbl.at (t.die die).replica n = some (patchLine n l x))) ∧
   (∀ (die line : Nat) (y : Fill) (s : State), y ∈ (s.die die).fills → y.line = line → y.m ≤ (s.die die).applied.get y.home →
     (∀ z ∈ (s.die die).fills, z.line = line → z = y) →
     Happens (.replicaLineInstall die line) s (fun t => Tbl.at (t.die die).replica line = some y.data ∧
       (∀ z ∈ (t.die die).fills, z.line ≠ line) ∧ t.mem = s.mem)) ∧
   (∀ (r : Req) (d : Nat) (ty : Ty) (s : State), s.req? r.id = some r → r.performed = true → s.unnumbered r.id = false →
     s.inRecord r.id = false → r.isLd = true → r.dest = .reg d ty → r.lost = false → HasLane s r.blk r.grp r.lane →
     (s.lane r.blk r.grp r.lane).st ≠ .exited → isAcq r.ord = false → r.place.isRsp = false →
     Happens (.loadReply r.id) s (fun t => t.mem = s.mem ∧ (∀ q ∈ t.reqs, q.id ≠ r.id) ∧
       (let l := s.lane r.blk r.grp r.lane
        let n := (s.group r.blk r.grp).nregs
        let y := widen ty r.reply.toNat
        (t.lane r.blk r.grp r.lane).v =
          (if ty.wide then l.setPair n d (BitVec.ofNat 64 y) else l.setReg n d (BitVec.ofNat 32 y)).v ∧
        (t.lane r.blk r.grp r.lane).D = l.D.max r.raises ∧
        ∀ k ∈ r.dest.named, (t.lane r.blk r.grp r.lane).pend.contains (regIx n k) = false))) ∧
   (∀ (r : Req) (s : State), s.req? r.id = some r → r.performed = true → s.unnumbered r.id = false → s.inRecord r.id = false →
     r.isLd = false → r.dest = .none → r.lost = false → HasLane s r.blk r.grp r.lane → isAcq r.ord = false → r.place.isRsp = false →
     Happens (.storeAck r.id) s (fun t => t.mem = s.mem ∧ (∀ q ∈ t.reqs, q.id ≠ r.id) ∧
       (t.lane r.blk r.grp r.lane).v = (s.lane r.blk r.grp r.lane).v ∧
       (t.lane r.blk r.grp r.lane).D = (s.lane r.blk r.grp r.lane).D.max r.raises)) ∧
   (∀ (line : Nat) (h : Held) (s : State), s.heldLine line = some h →
     (h.writingBack = false → h.till ≤ s.ns →
       Happens (.atomicLeaseExpiry line) s (fun t => t.mem = s.mem ∧ t.heldLine line = some { h with writingBack := true })) ∧
     (h.writingBack = true → Happens (.atomicWriteBackComplete line) s (fun t => t.heldLine line = none ∧
       (h.writes = [] → t.mem = s.mem)))))

/-- R334 to R338: a combinable request joins a waiting one of its station, waits by itself, or passes a full station; an entry that
leaves, once its flow has room, takes its requests on, and toward another device one packet carries the sum of the increments and their
list; a combined reply is split once all of it is performed; a kept answer is dropped after its 4 µs. R238: `kcas`
at its Kneader writes its words when the old ones equal its compare words, and answers the old ones. -/
def Obligations.StationsAndKneadersWork : Prop :=
  (∀ (r : Req) (s : State), s.req? r.id = some r → r.stage = 0 → r.after = [] → (∀ q ∈ s.reqs, r.follows q = false) →
    let k := stationOf r.place
    let table := (s.station k).table
    let mine := entryOf r s.nextId
    let goes := fun (P : List StEntry → Prop) (stage : Nat) => Happens (.combiningArrival r.id) s (fun t => t.mem = s.mem ∧
      P (t.station k).table ∧ (t.station k).records = (s.station k).records ∧ ∃ q ∈ t.reqs, q.id = r.id ∧ q.stage = stage)
    (∀ e ∈ table, e.takes mine = true → goes (fun u => e.merge mine ∈ u ∧ (e.merge mine).leaves = e.leaves ++ [leafOf r]) 1) ∧
    ((∀ e ∈ table, e.takes mine = false) →
      (table.length < 64 → goes (fun u => u = table ++ [mine] ∧ mine.leaves = [leafOf r]) 1) ∧
      (64 ≤ table.length → goes (fun u => u = table) 2))) ∧
  (∀ (k n : Nat) (e : StEntry) (s : State), (s.station k).table.find? (fun x => x.id == n) = some e →
    s.entryRoom e = true →
    Happens (.combinedRequestForward k n) s (fun t => t.mem = s.mem ∧ (∀ y ∈ (t.station k).table, y.id ≠ n) ∧
      (1 < e.leaves.length → e ∈ (t.station k).records) ∧
      (∀ d a, e.place = .dev d a → 1 < e.leaves.length → ∃ p ∈ t.packets, p.leaves = e.leaves ∧ p.addr = a ∧
        p.bytes = bytesOfNat e.sum.toNat (tySize e.ty)) ∧
      ∀ l ∈ e.leaves, l.cmd = false → ∀ q ∈ t.reqs, q.id = l.tag → q.stage = 2)) ∧
  (∀ (k n : Nat) (e : StEntry) (s : State), e ∈ (s.station k).records → e.id = n →
    (∀ y ∈ (s.station k).records, y.id = n → y = e) → s.entryDone e = true →
    Happens (.decombineReply k n) s (fun t => t.mem = s.mem ∧ ∀ y ∈ (t.station k).records, y.id ≠ n)) ∧
  (∀ (die n : Nat) (p : Dup) (s : State), p ∈ (s.die die).dups → p.tag = n → p.till ≤ s.ns →
    Happens (.combiningRecordExpiry die n) s (fun t => t.mem = s.mem ∧ ∀ q ∈ (t.die die).dups, q.tag = n → s.ns < q.till)) ∧
  (∀ (r : Req) (pa n : Nat) (s : State), s.req? r.id = some r → s.free r = true → r.kind = .kcas n → n ≤ 4 → r.place = .mem pa →
    s.port r.world r.place = .pass → s.isHeld r.place = false → Inv s →
    Happens (.kneaderPacketPerform r.id) s (fun t =>
      (∃ q ∈ t.reqs, q.id = r.id ∧ q.performed = true ∧ q.reply = BitVec.ofNat 512 (s.natAt r.place (8 * n))) ∧
      (s.natAt r.place (8 * n) ≠ r.cmp.toNat → t.mem = s.mem) ∧
      (s.natAt r.place (8 * n) = r.cmp.toNat →
        Memory.readNat t.mem pa (8 * n) = r.data.toNat % 2 ^ (64 * n) ∧
        ∀ a, a < pa ∨ pa + 8 * n ≤ a → Memory.byte t.mem a = Memory.byte s.mem a)))

/-- R172, R176 to R180: a resolution tells its lane the slot and colour of its name, or that there is no such object, which is found out
before anything else (log 61); a fetch ends with the replica that a slot of the world is resident on; a fetched slot that is lost
departs, as an evicted one and one whose object moves do, each with a new colour and a record (where a moved object lies is log 103); a departure is acknowledged core by core, once what the core had under way there is over.
R201 to R206: a page fill ends with a zeroed frame and its leaf entry, or with the page-fault trap of the lowest
path that waits for it (log 64); an
invalidation reaches an agent, which drops what it caches of the extent, and is acknowledged once what the agent had translated is
performed. -/
def Obligations.NameAndPageEventsHappen : Prop :=
  ((∀ (n l : Nat) (r : Resolution) (s : State), s.resolutions.find? (fun q => q.id == n && q.slot.isNone) = some r → r.lane = some l →
     HasLane s r.blk r.grp l → (s.lane r.blk r.grp l).st = .waiting (.object r.id) →
     let c := s.ctx r.ctx
     let told := fun (o : ResOut) => Happens (.objectResolution n) s (fun t => t.mem = s.mem ∧
       t.lane r.blk r.grp l = { s.lane r.blk r.grp l with res := some o } ∧
       ∀ q ∈ t.resolutions, ¬(q.id = r.id ∧ q.lane = r.lane))
     (∀ i x, c.slotOf r.home r.serial r.rights.toNat = some (i, x) → x.state ≠ 1 → x.state ≠ 5 → told (.slot i x.colour)) ∧
     let now := s.homeOf c.world r.home r.serial
     (c.slotOf r.home r.serial r.rights.toNat = none → c.slotOf now r.serial r.rights.toNat = none → s.body? c.world now r.serial = none →
       told (.fault 6))) ∧
   (∀ (c n : Nat) (x : Slot) (s : State), (s.ctx? c).isSome = true → Tbl.at (s.ctx c).slots n = some x → x.colour ≠ 255 →
     let departs := fun (t : State) (state cause : Nat) =>
       ((t.ctx c).slot n).state = state ∧ ((t.ctx c).slot n).colour = x.colour + 1 ∧
       ((t.ctx c).slot n).ring.head? = some { old := x.colour, new := x.colour + 1, cause := cause }
     (∀ r, x.state = 1 → s.replicasObj.find? (fun r => r.home == x.home && r.serial == x.serial && r.world == (s.ctx c).world &&
           s.replicaLive r) = some r →
       Happens (.fetchComplete c n) s (fun t => t.mem = s.mem ∧ (t.ctx c).slot n = { x with state := 3, storage := r.storage } ∧
         ∀ q ∈ t.resolutions, ¬(q.ctx = c ∧ q.slot = some n))) ∧
     (x.state = 1 → Happens (.fetchLost c n) s (fun t => t.mem = s.mem ∧ departs t 5 2 ∧ (t.ctx c).lossFlag = true ∧
       (t.ctx c).n.lost = sat32 ((s.ctx c).n.lost + 1) ∧ ∀ q ∈ t.resolutions, ¬(q.ctx = c ∧ q.slot = some n))) ∧
     (x.state = 3 → Happens (.slotEviction c n) s (fun t => t.mem = s.mem ∧ departs t 5 0)) ∧
     (∀ home addr a, x.state = 2 ∨ x.state = 4 → isDomain home = true → home ≠ x.home → addr % 16 = 0 →
       (home ≠ s.devNum ∧ s.listed (s.ctx c).world home x.serial = none ∧ a = addr ∧
         ∀ p ∈ [x.place 0, bodyPlace home addr], s.cutOff p = false ∧ s.unitRoom p (Nat.min 16384 ((x.size + 63) / 64)) = true) ∨
       s.listed (s.ctx c).world home x.serial = some a →
       Happens (.objectHomeMove c n home addr) s (fun t => t.mem = s.mem ∧ departs t (if home = s.devNum then 2 else 4) 1 ∧
         ((t.ctx c).slot n).home = home ∧ ((t.ctx c).slot n).storage = a))) ∧
   (∀ (c n core : Nat) (ids : List Nat) (d : Depart) (s : State), d ∈ s.departs → d.ctx = c → d.slot = n → (core, ids) ∈ d.cores →
     (∀ i ∈ ids, s.accessOver i = true) →
     Happens (.slotInvalidationAck c n core) s (fun t => t.mem = s.mem ∧ ∀ e ∈ t.departs, e.ctx = c → e.slot = n →
       ∀ k ∈ e.cores, k.1 = core → ∃ i ∈ k.2, s.accessOver i = false))) ∧
  ((∀ (c page pa : Nat) (p : PageFill) (g : Region) (u s : State), s.fillOf c page = some p → (s.ctx p.ctx).region p.page = some g →
     let t : State := { s with pageFills := s.pageFills.filter (fun q => !q.is p.ctx p.page) }
     let dies := match p.die with | some d => [d] | none => s.diesOf (s.ctx p.ctx).world
     t.levainRoom 16384 4096 = true →
     dies.findSome? (fun d => t.takeFrame d (s.ctx p.ctx).world p.size p.size) = some (pa, u) →
     Happens (.pageFillComplete c page) s (fun t =>
       t = (u.zero pa p.size).mapPage p.ctx p.page p.size (regionPte g 0 pa 0) ∧ p ∉ t.pageFills)) ∧
   (∀ (c page b g i addr : Nat) (kind : AccKind) (a : DWord) (v : Nat × Nat) (p : PageFill) (s : State), s.fillOf c page = some p →
     fillDone s p = none →
     Happens (.pageFillFail c page) s (fun t =>
       (∀ q ∈ t.pageFills, q.ctx = c → q.page = page → q.failed = some s.clock) ∧
       (s.groupIds c = [(b, g)] → HasLane s b g i → (s.lane b g i).st = .waiting (.page c page kind a) →
         (∀ j, j < i → ∀ k d, (s.lane b g j).st ≠ .waiting (.page c page k d)) → (s.group b g).trap = none →
         (s.ctx (s.block b).ctx).vector = some v →
         ∃ r, (t.group b g).trap = some r ∧ r.trap.cause = 8 ∧ r.trap.sub = 5 ∧ r.trap.kind = kind ∧ r.trap.addr = a))) ∧
   (∀ (n agent : Nat) (v : Inval) (s : State), s.invals.find? (fun v => v.id == n && v.toReceive.contains agent) = some v →
     Happens (.invalidationReceipt n agent) s (fun t => t.mem = s.mem ∧ (∀ w ∈ t.invals, w.id = n → agent ∉ w.toReceive) ∧
       (agent < 256 → ∀ e ∈ (t.core agent).tlb, v.meets e = false) ∧
       (256 ≤ agent → agent < 260 → ∀ e ∈ (t.die (agent - 256)).prooferTlb, v.meets e = false) ∧
       (260 ≤ agent → ∀ e ∈ (t.die (agent - 260)).engineTlb, v.meets e = false))) ∧
   (∀ (n agent : Nat) (ids : List Nat) (v : Inval) (s : State), v ∈ s.invals → v.id = n → (agent, ids) ∈ v.waiting →
     (∀ i ∈ ids, ∀ q, s.req? i = some q → q.performed = true) →
     Happens (.invalidationAck n agent) s (fun t => t.mem = s.mem ∧
       (∀ w ∈ t.invals, w.id = n → ∀ k ∈ w.waiting, k.1 = agent → ∃ i ∈ k.2, ∃ q, s.req? i = some q ∧ q.performed = false) ∧
       (v.toReceive = [] → v.waiting = [(agent, ids)] → (∀ w ∈ s.invals, w.id = n → w = v) → ∀ w ∈ t.invals, w.id ≠ n))))


/-- R319 to R323: the action of a firing entry. A launch is enqueued; a copy or network command enters its die's engine; an addition
changes its counter and no other byte; a wake queues the parked blocks that wait on its counter; a post reaches Levain. Each leaves its
entry free with the next generation.
R331 to R333: a command starts, and a network command sends its packets, which enter their flow or wait for its room; a send list goes
on entry by entry; a packet arrives at its target, and a write's bytes stand there (log 7: a peer's memory is what this device wrote
to it); a finished command leaves its queue, a copy with its bytes moved whole in this step (log 47); a remote fault ends the packets of
its message, with void markers in their place, or the atomics of a combined packet, and is counted. -/
def Obligations.ActionsAndEngineCommandsRun : Prop :=
  (∀ (die idx : Nat) (e : TrigEntry) (s : State),
     let freed := fun (t : State) => (t.die die).entry idx = { gen := nextGen ((s.die die).entry idx).gen }
     (∀ q n, s.action? die idx 1 = some e → actionEnqueue s die e = .ok q → (s.die q.die).queueFor q.ctx q.q = some n →
       Happens (.launchAction die idx) s (fun t => t.mem = s.mem ∧ freed t ∧ ∃ y, Tbl.at t.insts s.nextId = some y ∧ y.ctx = e.ctx ∧
         y.kern = q.kern ∧ y.arg = q.arg ∧ y.blocks = q.blocks ∧ y.queue = q.q ∧ y.st = .queued)) ∧
     (∀ kind i, (kind = 2 ∧ i = .copyAction die idx) ∨ (kind = 3 ∧ i = .networkWriteAction die idx) ∨
         (kind = 4 ∧ i = .networkReadAction die idx) ∨ (kind = 5 ∧ i = .networkAtomicAction die idx) → s.action? die idx kind = some e →
       let c := actionArgs e.record kind
       let k := checkCmd s (prooferCore die) e.ctx none c
       (∀ n x, k ≠ .bad n x) → (∀ p a d, k ≠ .fill p a d) → s.cmdRoom (prooferCore die) die e.ctx none c = true →
       Happens i s (fun t => t.mem = s.mem ∧ freed t ∧ ∃ m, (t.die die).copyQ = (s.die die).copyQ ++ [m] ∧ m.op = c.op ∧ m.len = c.len ∧
         m.dev = c.dev ∧ m.raddr = c.raddr ∧ m.arrival = c.arrival ∧ m.ctr = c.ctr ∧ m.vec = e.vec ∧ m.owner = none)) ∧
     (∀ pa seen, s.action? die idx 6 = some e → s.held = [] → Inv s →
       checkCounter s (prooferCore die) e.ctx (BitVec.ofNat 64 (recNat e.record 8 16)) .write .atomic = .ok (.mem pa) seen →
       s.port (s.ctx e.ctx).world (.mem pa) = .pass →
       Happens (.addAction die idx) s (fun t => freed t ∧
         Memory.readNat t.mem pa 8 = (Memory.readNat s.mem pa 8 + recNat e.record 40 48) % 2 ^ 64 ∧
         ∀ a, a < pa ∨ pa + 8 ≤ a → Memory.byte t.mem a = Memory.byte s.mem a)) ∧
     (∀ p seen w, s.action? die idx 7 = some e →
       checkCounter s (prooferCore die) e.ctx (BitVec.ofNat 64 (recNat e.record 8 16)) .read .load = .ok p seen →
       w ∈ (s.die (p.home?.getD 0)).waiters → w.ctx = e.ctx → w.ctr = ctrKey p → (s.block? w.blk).isSome = true →
       (s.blockKern (s.block w.blk)).cluster ≤ 1 → (s.block w.blk).st = .parked →
       Happens (.wakeAction die idx) s (fun t => t.mem = s.mem ∧ freed t ∧
         w.blk ∈ (t.die (s.inst (s.block w.blk).inst).die).relaunch)) ∧
     (s.action? die idx 8 = some e →
       Happens (.postAction die idx) s (fun t => t.mem = s.mem ∧ freed t ∧
         (t.ctx e.ctx).msgs = (s.ctx e.ctx).msgs ++ [.post (e.record.extractLsb' 384 128)]))) ∧
  ((∀ (n : Nat) (c : CopyCmd) (s : State), s.cmd? n = some c → s.mayStart c = true →
     (c.op = .nwr → Present s c.who [(c.src, c.len, .read)]) →
     Happens (.copyEngineCommandStart n) s (fun t => (∃ k, t.cmd? n = some k ∧ k.started = true ∧ k.op = c.op) ∧
       (c.op = .cpy ∨ c.op = .nlist → t = s.updCmd n (fun k => { k with started := true, got := [] })) ∧
       (c.op = .nrd ∨ c.op = .nwr → ∃ p ∈ t.packets ++ t.queued, p.cmd = some n ∧ p.dst = c.dev ∧ p.addr = c.raddr))) ∧
   (∀ (n a : Nat) (c : CopyCmd) (s : State), s.cmd? n = some c → c.started = true → c.op = .nlist → c.next < c.len → c.src = .va a →
     let entry : Loc := .va (a + 64 * c.next)
     let t := s.flushLoc c.who entry 64
     let e := listEntry (t.readLoc c.who entry 64)
     let goes := fun (P : State → Prop) => Happens (.sendListEntry n) s (fun u => (∃ k, u.cmd? n = some k ∧ k.next = c.next + 1) ∧ P u)
     Present s c.who [(entry, 64, .read)] →
     (e.bad = true → (t.ctx? c.ctx).isSome = true →
       goes (fun u => (u.ctx c.ctx).n.fault = sat32 ((t.ctx c.ctx).n.fault + 1) ∧ u.packets = t.packets)) ∧
     (e.bad = false → inWindow e.src = false → Present s c.who [(.va e.src, e.len, .read)] → e.dev ≠ s.devNum →
       s.peerOk c.ctx e.dev e.raddr (16 + Nat.max e.len 1) = true → s.payloadWaits c e = false →
       goes (fun u => ∃ p ∈ u.packets ++ u.queued, p.cmd = some n ∧ p.dst = e.dev ∧ p.addr = e.raddr))) ∧
   (∀ (n : Nat) (c : CopyCmd) (s : State), s.cmd? n = some c → c.started = true → c.packets = [] →
     (c.op = .nlist → c.len ≤ c.next) → Present s c.who c.ends →
     Happens (.copyEngineCommandComplete n) s (fun t => (∀ e ∈ t.dies, ∀ k ∈ e.2.copyQ, k.id ≠ n) ∧
       (∀ b1 a1 b2 a2, c.op = .cpy → c.src = .at (.rsp b1 a1) → c.dst = .at (.rsp b2 a2) → c.ctr = none →
         (s.block? b2).isSome = true → Cells.wf (s.block b2).spad = true →
         t.mem = s.mem ∧ ∀ i, i < c.len → Cells.get (t.block b2).spad (a2 + i) = Cells.get (s.block b1).spad (a1 + i)))) ∧
   (∀ (n k : Nat) (c : CopyCmd) (p : Packet) (s : State), s.packets.find? (fun p => p.id == n) = some p → p.cmd = some k →
     p.req = none → p.leaves = [] → s.cmd? k = some c → s.packetTurn p = true → s.stuck p = false → n < s.nextId →
     (∀ f a d, packetNow s c p ≠ .fill f a d) → packetRoom s c p = true →
     Happens (.networkArrival n) s (fun t => (∀ q ∈ t.packets, q.id ≠ n) ∧
       (p.void = false → c.op = .nwr → p.dst ≠ s.devNum →
         t.bytesAt (.dev (8192 + p.dst) p.addr) p.bytes.length = p.bytes ∧ t.mem = s.mem))) ∧
   (∀ (n : Nat) (c : CopyCmd) (p : Packet) (s : State), s.cmd? n = some c → s.packetAway c = some p → (s.ctx? c.ctx).isSome = true →
     (p.leaves = [] → Happens (.remoteFault n) s (fun t => t.mem = s.mem ∧ t.packets.length = s.packets.length ∧
       (∀ q ∈ t.packets ++ t.queued, q.cmd = some n → c.op = .nlist ∧ q.msg ≠ p.msg) ∧
       (c.op = .nrd → (t.ctx c.ctx).lossFlag = true) ∧
       (c.op ≠ .nrd → (t.ctx c.ctx).n.fault = sat32 ((s.ctx c.ctx).n.fault + 1)))) ∧
     (∀ l, p.leaves = [l] → l.cmd = true → s.cmdOf l.tag = some c → s.queued = [] → Happens (.remoteFault n) s (fun t => t.mem = s.mem ∧
       t.packets = s.packets.filter (fun q => q.id != p.id) ∧ (t.ctx c.ctx).n.fault = sat32 ((s.ctx c.ctx).n.fault + 1) ∧
       ∀ k, t.cmd? n = some k → l.tag ∉ k.packets))))

namespace Sys2Proof.Claims

/-- Call `k` of context `c` has been carried out with these results: it is off the ring and its reply is on its way. -/
def Answered (s t : State) (c : Nat) (k : Call) (results : List (Nat × Nat × DWord)) : Prop :=
  (t.ctx c).replies = (s.ctx c).replies ++ [{ k with results := results }] ∧ ∀ q ∈ (t.ctx c).ring, q.id ≠ k.id

/-- R406: an error of a call. -/
def errorCode (n : Nat) : DWord := BitVec.ofNat 64 (0xFFFFFFFFFFFFFF00 + n)

end Sys2Proof.Claims

/-- R404 to R407: the service calls of memory and of objects. `alloc` takes an arena block or answers 0xFF03, and 0 for no bytes; `free`
returns one or answers 0xFF02; `map_object` enters an object in the directory; `evict_object` makes the world's resident copies depart;
`counter_region` gives a run of counter words at
an address of Levain's choice (log 8), and `world_channel` opens a channel to this device or one of the context's run, or answers 0xFF05
for a number of no device (log 71).
R80, R404 to R408: the calls that reach the owner, the log, the time and the core, replies, and the end of a context: `host_call`
sends bytes and is set aside until its reply, which is cut to the reply length (log 70); `print` appends to the log; `sleep` is set aside until its time; `yield_core` saves its
block; `query_time` answers the time base; `exit` completes its context; a reply resumes the waiting lanes with their results; a firmware
switch takes place between calls; a teardown removes a context; a threshold message reaches the owner. -/
def Obligations.ServicesAreCarriedOut : Prop :=
  (∀ (c : Nat) (k : Call) (s : State),
     (∀ g i size, s.nextCall c 1 = some k → k.lanes = [(g, i, size)] →
       (size = 0 → Happens (.alloc c) s (fun t => Answered s t c k [(g, i, 0)] ∧ t.mem = s.mem)) ∧
       (size ≠ 0 → buddyPick (s.ctx c).arena (s.ctx c).arenaSize (buddySize size.toNat) = none →
         Happens (.alloc c) s (fun t => Answered s t c k [(g, i, errorCode 3)] ∧ t.mem = s.mem)) ∧
       (∀ off, size ≠ 0 → buddyPick (s.ctx c).arena (s.ctx c).arenaSize (buddySize size.toNat) = some off →
         Happens (.alloc c) s (fun t => Answered s t c k [(g, i, BitVec.ofNat 64 ((s.ctx c).arenaBase + off))] ∧
           (t.ctx c).arena = Tbl.put (s.ctx c).arena off (buddySize size.toNat)))) ∧
     (∀ g i addr, s.nextCall c 2 = some k → k.lanes = [(g, i, addr)] → addr ≠ 0 →
       let off := addr.toNat - (s.ctx c).arenaBase
       ((s.ctx c).arenaBase ≤ addr.toNat → (Tbl.at (s.ctx c).arena off).isSome = true →
         Happens (.free c) s (fun t => Answered s t c k [(g, i, 0)] ∧ t.mem = s.mem ∧ (t.ctx c).arena = Tbl.del (s.ctx c).arena off)) ∧
       (addr.toNat < (s.ctx c).arenaBase ∨ Tbl.at (s.ctx c).arena off = none →
         Happens (.free c) s (fun t => Answered s t c k [(g, i, errorCode 2)] ∧ t.mem = s.mem ∧ (t.ctx c).arena = (s.ctx c).arena))) ∧
     (s.nextCall c 3 = some k →
       let va := (k.arg 0).toNat
       let size := (k.arg 1).toNat
       let id := (k.arg 2).toNat
       let kind := (k.arg 3).toNat
       ((s.ctx c).region va = none → Happens (.mapObject c) s (fun t => Answered s t c k (k.all (errorCode 2)) ∧ t.mem = s.mem)) ∧
       (∀ g pa, (s.ctx c).region va = some g → 0 < size → size < 2 ^ 32 → 0 < id → id < 2 ^ 40 → kind ≤ 1 → va % 16 = 0 →
         g.kind = .device → va + size ≤ g.base + g.size →
         (∀ o ∈ s.objects, ¬(o.home = s.devNum ∧ o.serial = id ∧ o.world = (s.ctx c).world)) →
         (s.fillRange c va size).together c va size = some pa →
         Happens (.mapObject c) s (fun t => Answered s t c k (k.all 0) ∧ t.objects = s.objects ++
           [{ home := s.devNum, serial := id, live := kind == 1, size := size, storage := pa, world := (s.ctx c).world }]))) ∧
     (∀ n, s.nextCall c 4 = some k → s.nameAt c (k.arg 0).toNat = some n →
       (n.home = s.devNum ∨ 8 ≤ n.rights → Happens (.evictObject c) s (fun t => Answered s t c k (k.all (errorCode 4)) ∧ t.mem = s.mem)) ∧
       (n.home ≠ s.devNum → n.rights < 8 → Happens (.evictObject c) s (fun t => Answered s t c k (k.all 0) ∧ t.mem = s.mem ∧
         ∀ i x, Tbl.at (s.ctx c).slots i = some x → x.home = n.home → x.serial = n.serial → ((t.ctx c).slot i).state ≠ 3))) ∧
     (∀ a, s.nextCall c 10 = some k → 0 < (k.arg 0).toNat → (k.arg 0).toNat ≤ 8192 → (k.arg 1).toNat ≤ 3 →
       (s.ctx c).world = 0 ∨ (k.arg 1).toNat ∈ s.diesOf (s.ctx c).world →
       let d := (k.arg 1).toNat
       let va := s.freeVa c (8 * (k.arg 0).toNat) 65536
       sramRoom (s.die d).sramUse (k.arg 0).toNat ((s.die d).sramUse.length + 1) 0 = some a →
       Happens (.counterRegion c) s (fun t => Answered s t c k (k.all (BitVec.ofNat 64 va)) ∧ t.mem = s.mem ∧
         (t.ctx c).ctrRegions = (s.ctx c).ctrRegions ++ [{ die := d, first := a, count := (k.arg 0).toNat, va := va }] ∧
         (t.die d).sramUse = (s.die d).sramUse ++ [(c, a, (k.arg 0).toNat)])) ∧
     (s.nextCall c 11 = some k →
       let dev := (k.arg 0).toNat
       (isDevice dev = false → Happens (.worldChannel c) s (fun t => Answered s t c k (k.all (errorCode 5)) ∧ t.mem = s.mem)) ∧
       (isDevice dev = true → dev = s.devNum ∨ dev ∈ (s.ctx c).peers → Happens (.worldChannel c) s (fun t => Answered s t c k (k.all 0) ∧ t.mem = s.mem ∧
         { dev := dev, base := (k.arg 1).toNat, size := (k.arg 2).toNat } ∈ (t.ctx c).channels)))) ∧
  (∀ (c : Nat) (k : Call) (s : State),
     (∀ u bytes, s.nextCall c 5 = some k → (s.fillRange c (k.arg 0).toNat (k.arg 2).toNat).callBytes c (k.arg 0).toNat (k.arg 1).toNat = some (u, bytes) →
       u.rangeOk c (k.arg 0).toNat (k.arg 2).toNat .write = true → (s.ownerSession c).isSome = true →
       Happens (.hostCall c) s (fun t => (t.ctx c).aside = (s.ctx c).aside ++ [k] ∧ (∀ q ∈ (t.ctx c).ring, q.id ≠ k.id) ∧
         (t.ctx c).sent = (s.ctx c).sent ++ [(k.id, bytes)])) ∧
     (∀ bytes, (s.ctx c).aside.find? (fun q => q.id == k.id && q.number == 5) = some k →
       Happens (.hostCallReply c k.id bytes) s (fun t => (∀ q ∈ (t.ctx c).aside, q.id ≠ k.id) ∧
         (t.ctx c).replies = (s.ctx c).replies ++
           [{ k with results := k.all (BitVec.ofNat 64 (bytes.take (k.arg 2).toNat).length) }])) ∧
     (∀ u bytes, s.nextCall c 6 = some k → (k.arg 1).toNat ≤ 4096 →
       s.callBytes c (k.arg 0).toNat (k.arg 1).toNat = some (u, bytes) →
       Happens (.print c) s (fun t => Answered s t c k (k.all 0) ∧ (t.ctx c).log = (s.ctx c).log ++ bytes)) ∧
     (s.nextCall c 7 = some k → Happens (.sleep c) s (fun t => t.mem = s.mem ∧ (∀ q ∈ (t.ctx c).ring, q.id ≠ k.id) ∧
       (t.ctx c).aside = (s.ctx c).aside ++ [{ k with till := s.ns + (k.arg 0).toNat }])) ∧
     ((s.ctx c).aside.find? (fun q => q.id == k.id && q.number == 7 && decide (q.till ≤ s.ns)) = some k →
       Happens (.sleepExpiry c k.id) s (fun t => t.mem = s.mem ∧ (∀ q ∈ (t.ctx c).aside, q.id ≠ k.id) ∧
         (t.ctx c).replies = (s.ctx c).replies ++ [{ k with results := k.all 0 }])) ∧
     (s.nextCall c 8 = some k → (s.block? k.blk).isSome = true → (s.block k.blk).st = .resident →
       Happens (.yieldCore c) s (fun t => Answered s t c k (k.all 0) ∧ t.mem = s.mem ∧ (t.block k.blk).st = .saving)) ∧
     (s.nextCall c 9 = some k →
       Happens (.queryTime c) s (fun t => Answered s t c k (k.all (BitVec.ofNat 64 s.ns)) ∧ t = { s with ctxs := t.ctxs, mgmt := { s.mgmt with journal := t.mgmt.journal } })) ∧
     (s.nextCall c 12 = some k → Happens (.contextExit c) s (fun t => t.mem = s.mem ∧ (t.ctx c).st = .complete ∧
       (t.ctx c).exited = true ∧ (t.ctx c).code = (k.arg 0).setWidth 32 ∧ ∀ e ∈ t.insts, e.2.ctx ≠ c)) ∧
     (∀ g i x v, (s.ctx c).replies.find? (fun q => q.id == k.id) = some k → HasLane s k.blk g i →
       (s.lane k.blk g i).st = .waiting (.sys k.id x) →
       (k.results.find? (fun r => r.1 == g && r.2.1 == i)) = some (g, i, v) →
       Happens (.sysReply c k.id) s (fun t => t.mem = s.mem ∧ (∀ q ∈ (t.ctx c).replies, q.id ≠ k.id) ∧
         (t.lane k.blk g i).v = ((s.lane k.blk g i).setPair (s.group k.blk g).nregs x.d.toNat v).v ∧
         (t.lane k.blk g i).pc = (s.lane k.blk g i).landing ((s.lane k.blk g i).pc + 1) ∧
         (t.lane k.blk g i).D = (s.lane k.blk g i).D.max s.seqs)) ∧
     (∀ d, s.mgmt.switch = some d → (∀ e ∈ s.ctxs, e.2.inService = false) →
       Happens .firmwareSwitch s (fun t => t = { s with mgmt := t.mgmt } ∧ t.mgmt.levain = d ∧ t.mgmt.switch = none)) ∧
     (Tbl.rising 0 s.ctxs = true → (s.ctx? c).isSome = true → (s.ctx c).st ≠ .live → s.quiet c = true →
       Happens (.contextTeardown c) s (fun t => t.ctx? c = none ∧ t.mem = s.mem ∧ (∀ e ∈ t.blocks, e.2.ctx ≠ c) ∧
         ∀ d, d ≠ c → t.ctx? d = s.ctx? d)) ∧
     (∀ n y kern idx value limit ns, s.ownerSession c = some n → Tbl.at s.mgmt.sessions n = some y →
       (s.ctx c).msgs.find? isThreshold = some (.threshold kern idx value limit ns) →
       Happens (.thresholdNotification c) s (fun t => t.mem = s.mem ∧
         Tbl.at t.mgmt.sessions n = some { y with out := .notice (noticeBytes c kern idx value limit ns) :: y.out })))


/-- R20, R22: the throttle rule at a window's end: a decrease, or a record alone at 1.0 GHz, when power or a temperature is over its
limit, with the cause; an increase after 100 consecutive windows under the limits; the count of those windows. A window is 100 µs,
and nothing happens before its end. The clock stays from 1.0 to 4.0 GHz, in steps of 250 MHz. Power and temperatures come in whole
watts and degrees, which is the model's choice (log 95). -/
def Obligations.ThrottleRule : Prop :=
  ∀ (power t0 t1 t2 t3 : Nat) (s : State),
    let ts := [t0, t1, t2, t3]
    let step := fun (mhz cause : Nat) (t : State) => t = { s with
      mhz := mhz, underRun := 0, windowSince := s.ns / 100000 * 100000,
      throttleLog := (({ ns := s.ns, old := s.mhz, new := mhz, cause := cause } : ThrottleRec) :: s.throttleLog).take 1024 }
    let under := power < 3400 ∧ ∀ x ∈ ts, x < 90
    let run := fun (n : Nat) (t : State) => t = { s with underRun := n, windowSince := s.ns / 100000 * 100000 }
    let ended := s.windowSince + 100000 ≤ s.ns
    (¬ended → Happens (.throttleWindowEnd power t0 t1 t2 t3) s (fun t => t = s)) ∧
    (ended → ∀ cause, (3600 < power ∧ cause = 0) ∨
        (power ≤ 3600 ∧ ∃ d, cause = 1 + d ∧ 95 < ts.getD d 0 ∧ ∀ e, e < d → ts.getD e 0 ≤ 95) →
      Happens (.throttleWindowEnd power t0 t1 t2 t3) s (step (if 1000 < s.mhz then s.mhz - 250 else s.mhz) cause)) ∧
    (ended → under → 100 ≤ s.underRun + 1 → s.mhz < 4000 →
      Happens (.throttleWindowEnd power t0 t1 t2 t3) s (step (s.mhz + 250) 5)) ∧
    (ended → under → s.underRun + 1 < 100 ∨ 4000 ≤ s.mhz →
      Happens (.throttleWindowEnd power t0 t1 t2 t3) s (run (s.underRun + 1))) ∧
    (ended → ¬under → power ≤ 3600 → (∀ x ∈ ts, x ≤ 95) →
      Happens (.throttleWindowEnd power t0 t1 t2 t3) s (run 0)) ∧
    (∀ k t, k ≤ 12 → s.mhz = 1000 + 250 * k → exec (.throttleWindowEnd power t0 t1 t2 t3) s = .next t →
      ∃ j, j ≤ 12 ∧ t.mhz = 1000 + 250 * j)

/-- R23: a thermal trip stops the clock, counts, logs and reports it (through AER: log 95), and freezes every context
that is LIVE or COMPLETE with cause 4; a device reset makes the machine run again, with no context, at 4 GHz,
and keeps memory (log 30) and the device's number (log 6). R454 to R456: a pair that has tested itself awaits the election (log 75), which
takes the lowest passing die; a heartbeat is marked, and a pair that misses beats is named to be
fenced, fenced and served by its watcher, which runs again the calls whose reply the journal lacks; a pair in mismatch stops. R443: a scrub zeroes the regions of its world. R163, R289, R298,
R337, R409: what an uncorrectable error strikes reads zero, and the loss is counted or flagged; a lost decombining record takes the slow
path; a corrected error is counted alone. -/
def Obligations.DeviceEventsHappen : Prop :=
  (∀ (die : Nat) (s : State), die < 4 → Happens (.thermalTrip die) s (fun t => t.tripped = true ∧ t.mem = s.mem ∧
    (t.die die).n.trips = (s.die die).n.trips + 1 ∧ t.mgmt.tripLog = s.mgmt.tripLog ++ [(s.ns, die)] ∧ t.mgmt.aer = s.mgmt.aer + 1 ∧
    ∀ c, (s.ctx? c).isSome = true →
      ((s.ctx c).st = .live ∨ (s.ctx c).st = .complete → (t.ctx c).st = .frozen ∧ (t.ctx c).cause = 4) ∧
      ((s.ctx c).st = .trapped ∨ (s.ctx c).st = .frozen → t.ctx c = s.ctx c))) ∧
  (∀ s, Happens .deviceReset s (fun t => t.tripped = false ∧ t.mhz = 4000 ∧ t.clock = 0 ∧ t.mem = s.mem ∧ t.devNum = s.devNum ∧
    t.dies = [] ∧ t.cores = [] ∧ t.ctxs = [] ∧ t.insts = [] ∧ t.blocks = [] ∧ t.reqs = [] ∧
    ∀ h, h < 8 → (t.link (64 + h)).st = if Cells.get s.mgmt.trayTable h = 0 then .down else .training)) ∧
  (∀ (die : Nat) (passed : Bool) (s : State), die < 4 → (s.die die).pair = .rom →
    let good := passed && Config.signaturesVerify s.mgmt.levain
    Happens (.pairSelfTestComplete die passed) s (fun t => t = { s with dies := t.dies } ∧ (∀ d, d ≠ die → t.die d = s.die d) ∧
      (good = true → (t.die die).pair = (if s.mgmt.leader.isSome then .follower else .selfTest) ∧
        (t.die die).images = [s.mgmt.levain]) ∧
      (good = false → (t.die die).pair = .offline ∧ (t.die die).latch = .unassigned))) ∧
  (∀ (l : Nat) (s : State), s.mgmt.leader = none → l < 4 → (s.die l).pair = .selfTest → (∀ d, d < l → (s.die d).pair ≠ .selfTest) →
    (∀ d, d < 4 → (s.die d).pair ≠ .rom) ∨ 100000000 ≤ s.ns →
    Happens .leaderElectionTimeout s (fun t => t.mgmt.leader = some l ∧ (t.die l).pair = .leader ∧
      ∀ d, d < 4 → d ≠ l → (t.die d).pair = if (s.die d).pair = .selfTest then .follower else (s.die d).pair)) ∧
  (∀ (die : Nat) (s : State), (s.die die).pair = .leader ∨ (s.die die).pair = .follower →
    ((s.die die).lastBeat + 100000 ≤ s.ns →
      Happens (.pairHeartbeat die) s (fun t => t = s.setDie die { s.die die with lastBeat := s.ns })) ∧
    Happens (.pairLockstepMismatch die) s (fun t => t = s.setDie die { s.die die with pair := .stopped })) ∧
  (∀ (watcher d : Nat) (s : State), (s.die watcher).pair = .leader ∨ (s.die watcher).pair = .follower → s.watched watcher = some d →
    (s.die d).lastBeat + 400000 ≤ s.ns → (watcher, d) ∉ s.mgmt.fences →
    Happens (.heartbeatMissed watcher) s (fun t => t = { s with mgmt := { s.mgmt with fences := s.mgmt.fences ++ [(watcher, d)] } })) ∧
  (∀ (asker target : Nat) (s : State), asker ≠ target → s.mgmt.fences.head? = some (asker, target) →
    let turned := (s.die asker).pair = .fenced ∨ (s.die target).pair = .fenced ∨ (s.die target).pair = .offline
    (turned → Happens (.fenceRequest asker target) s (fun t =>
      t = { s with mgmt := { s.mgmt with fences := s.mgmt.fences.drop 1 } })) ∧
    (¬turned → Happens (.fenceRequest asker target) s (fun t => t = { s with dies := t.dies, mgmt := t.mgmt, ctxs := t.ctxs } ∧
      t.mgmt.fences = s.mgmt.fences.drop 1 ∧ (t.die target).pair = .fenced ∧
      (t.die asker).serves = (s.die asker).serves ++ target :: (s.die target).serves ∧
      (∀ c x, s.ctx? c = some x → t.ctx? c =
        some (if x.ringDie = target ∨ x.ringDie ∈ (s.die target).serves then x.takenOver s.mgmt.journal c else x)) ∧
      (s.mgmt.leader = some target → t.mgmt.leader = some asker ∧
        (t.die asker).pair = if (s.die asker).pair = .follower then .leader else (s.die asker).pair) ∧
      (s.mgmt.leader ≠ some target → t.mgmt.leader = s.mgmt.leader ∧ (t.die asker).pair = (s.die asker).pair)))) ∧
  (∀ (die w : Nat) (s : State), (s.die die).latch = .scrubbing w → s.drained w = true →
    Happens (.scrubComplete die) s (fun t => (t.die die).latch = .unassigned ∧ (t.die die).sram = [] ∧
      (∀ c, dieOfCore c = die → (t.core c).bstore = []) ∧
      ∀ r ∈ s.worldRegions die w, Cells.get t.mgmt.firewall r = 0 ∧
        ∀ a, r * 2 ^ 30 ≤ a → a < (r + 1) * 2 ^ 30 → Memory.byte t.mem a = 0)) ∧
  (∀ (a : Nat) (s : State), Inv s → Happens (.uncorrectableSoftError (.dram a)) s (fun t => t.blocks = s.blocks ∧ a / 16 ∈ t.poison ∧
    (t.die (dieOfAddr a)).n.dramUncorrected = (s.die (dieOfAddr a)).n.dramUncorrected + 1 ∧
    ∀ b, Memory.byte t.mem b = if b / 16 = a / 16 then 0 else Memory.byte s.mem b)) ∧
  (∀ (b g h lo len : Nat) (s : State), HasGroup s b g → h < 16 →
    (s.residents (s.block b).core).any (fun e => e.1 == b) = true → (s.blockKern (s.block b)).hyper = true →
    Cells.wf (s.group b g).h = true → (s.ctx? (s.block b).ctx).isSome = true →
    Happens (.uncorrectableSoftError (.hyper b g h lo len)) s (fun t => t.mem = s.mem ∧ (t.ctx (s.block b).ctx).lossFlag = true ∧
      ∀ j, (Cells.get (t.group b g).h h).getLsbD j =
        ((Cells.get (s.group b g).h h).getLsbD j && !(decide (lo ≤ j) && decide (j < lo + len))))) ∧
  (∀ (b n lo len : Nat) (s : State), (s.block? b).isSome = true → (s.ctx? (s.block b).ctx).isSome = true →
    Happens (.uncorrectableSoftError (.accum b n lo len)) s (fun t => t.mem = s.mem ∧ (t.ctx (s.block b).ctx).lossFlag = true ∧
      ∀ j, j < len → Cells.get (t.block b).tiles (16384 * n + lo + j) = 0)) ∧
  (∀ (c line col : Nat) (s : State), line < 2048 → Happens (.uncorrectableSoftError (.bstore c line col)) s (fun t => t.mem = s.mem ∧
    ∀ j, j < 64 → Cells.get (t.core c).bstore (131072 * col + 64 * line + j) = 0)) ∧
  (∀ (k : Nat) (e : StEntry) (s : State), e ∈ (s.station k).records → e.slow = false →
    Happens (.uncorrectableSoftError (.record k e.id)) s (fun t => t.mem = s.mem ∧ t.reqs = s.reqs ∧
      { e with slow := true } ∈ (t.station k).records ∧
      (t.die (dieOfStation k)).n.combLost = (s.die (dieOfStation k)).n.combLost + 1)) ∧
  (∀ (d : Nat) (s : State), d < 4 →
    Happens (.uncorrectableSoftError (.dramCorrected d)) s (fun t =>
      t = s.setDie d ((s.die d).count (fun n => { n with dramCorrected := n.dramCorrected + 1 }))) ∧
    Happens (.uncorrectableSoftError (.sramCorrected d)) s (fun t =>
      t = s.setDie d ((s.die d).count (fun n => { n with sramCorrected := n.sramCorrected + 1 }))))

/-- R435 to R438, R445: the management port. The interface to a lent world is locked, reported, started and stopped, which ends the
world; a change of a frozen field, a function-level reset and a broken message put a locked or running interface in error, and its
world's contexts freeze with the cause that the specification leaves open (log 34); in error a function-level reset acts as a stop does
(log 36). A key message makes a stream secure. BAR0 writes the session ring, which stands in its first 2 MiB (log 107); BAR2
reads and writes memory of the lent world in RUN on a secure stream; a CXL request waits for its turn, or has no memory to reach, and one
whose integrity check fails is dropped with all that follow until new keys (log 117). A firewall region is unmapped, then zeroed and given to its new world. -/
def Obligations.PortEventsHappen : Prop :=
  let errs := fun (i : Instr) (s : State) => s.mgmt.tdisp = .configLocked ∨ s.mgmt.tdisp = .run →
    Happens i s (fun t => t.mem = s.mem ∧ t.mgmt.tdisp = .error ∧ ∀ c, (s.ctx? c).isSome = true → (s.ctx c).world = s.mgmt.lent →
      (s.ctx c).st = .live ∨ (s.ctx c).st = .complete →
      (t.ctx c).st = .frozen ∧ (t.ctx c).cause = Config.interfaceCause.toNat)
  (∀ (world : Nat) (s : State), s.mgmt.tdisp = .configUnlocked → 1 ≤ world → world ≤ 15 →
    Happens (.lockInterfaceRequest world) s (fun t => t = { s with mgmt := { s.mgmt with tdisp := .configLocked, lent := world } })) ∧
  (∀ s : State, s.mgmt.tdisp = .configLocked →
    Happens .getDeviceInterfaceReport s (fun t =>
      t = { s with mgmt := { s.mgmt with reports := s.mgmt.reports ++ [⟨[(0, 2 ^ 24), (2, 2 ^ 40)], s.measurements s.mgmt.lent⟩] } }) ∧
    Happens .startInterfaceRequest s (fun t => t = { s with mgmt := { s.mgmt with tdisp := .run } })) ∧
  (∀ s : State, s.mgmt.tdisp ≠ .configUnlocked →
    (s.mgmt.stopping = false → Tbl.rising 0 s.ctxs = true → Happens .stopInterfaceRequest s (fun t =>
      (∀ c, (s.ctx? c).isSome = true → (s.ctx c).world = s.mgmt.lent → t.ctx? c = none) ∧
      (∀ d ∈ s.diesOf s.mgmt.lent, (t.die d).latch = .scrubbing s.mgmt.lent) ∧
      (s.heldDies s.mgmt.lent ≠ [] → t.mgmt.stopping = true ∧ t.mgmt.tdisp = s.mgmt.tdisp))) ∧
    (s.mgmt.stopping = true → s.heldDies s.mgmt.lent = [] → Happens .stopInterfaceRequest s (fun t =>
      t = { s with mgmt := { s.mgmt with tdisp := .configUnlocked, lent := 0, stopping := false } }))) ∧
  (∀ s, errs (.configWrite true) s ∧ errs .functionLevelReset s ∧ Happens (.configWrite false) s (fun t => t = s) ∧
    (s.mgmt.tdisp = .configUnlocked → Happens .functionLevelReset s (fun t => t = s)) ∧
    (s.mgmt.tdisp = .error → exec .functionLevelReset s = exec .stopInterfaceRequest s)) ∧
  (∀ (session stream : Nat) (s : State), s.established session = true → stream < 4 →
    Happens (.ideKmRequest session stream true) s (fun t => t = { s with mgmt := t.mgmt } ∧ stream ∈ t.mgmt.streams) ∧
    errs (.ideKmRequest session stream false) s) ∧
  (∀ (session : Nat) (intact : Bool) (s : State), s.established session = true →
    Happens (.ideKmRequest session 4 intact) s (fun t => t = { s with mgmt := { s.mgmt with cxlInsecure := !intact } })) ∧
  (∀ (addr : Nat) (bytes : List Byte) (s : State),
    (∀ b, s.mgmt.tdisp ≠ .error → addr + bytes.length ≤ 2 ^ 21 → s.bar0Ring = some b → s.held = [] → Inv s →
      Happens (.bar0Write addr bytes) s (fun t => Memory.read t.mem (b + addr) bytes.length = bytes ∧
        t.bar0Read addr bytes.length = some bytes ∧
        ∀ a, a < b + addr ∨ b + addr + bytes.length ≤ a → Memory.byte t.mem a = Memory.byte s.mem a)) ∧
    (s.mgmt.tdisp ≠ .error → addr + bytes.length ≤ 2 ^ 24 → s.bar0Ring = none ∨ 2 ^ 21 ≤ addr → s.held = [] →
      Happens (.bar0Write addr bytes) s (fun t => t = s)) ∧
    (s.mgmt.tdisp = .error → addr + bytes.length ≤ 2 ^ 24 → Happens (.bar0Write addr bytes) s (fun t =>
      t = s.answerHost 73 { tag := 0, data := none } ∧ t.bar0Read addr bytes.length = none))) ∧
  (∀ (stream world addr : Nat) (bytes : List Byte) (s : State),
    let open' := s.mgmt.tdisp = .run ∧ world = s.mgmt.lent ∧ stream ∈ s.mgmt.streams
    let reached := addr + bytes.length ≤ 2 ^ 40 ∧ ∀ r ∈ regionsOf addr bytes.length, s.port world (.mem (r * 2 ^ 30)) = .pass
    (open' → reached → s.held = [] → Inv s → bytes ≠ [] →
      Happens (.bar2Access stream world addr true true bytes) s (fun t => Memory.read t.mem addr bytes.length = bytes ∧
        ∀ a, a < addr ∨ addr + bytes.length ≤ a → Memory.byte t.mem a = Memory.byte s.mem a) ∧
      Happens (.bar2Access stream world addr true false bytes) s (fun t =>
        t = s.answerHost 73 { tag := 0, data := some (s.bytesAt (.mem addr) bytes.length) })) ∧
    (¬open' ∨ ¬reached → ∀ write, Happens (.bar2Access stream world addr true write bytes) s (fun t =>
      t = s.answerHost 73 { tag := 0, data := none })) ∧
    (∀ write, Happens (.bar2Access stream world addr false write bytes) s (fun t => t.mem = s.mem ∧ stream ∉ t.mgmt.streams) ∧
      errs (.bar2Access stream world addr false write bytes) s)) ∧
  (∀ (addr : Nat) (bytes : List Byte) (s : State),
    let refused := fun (i : Instr) => Happens i s (fun t => t = s.answerHost 72 { tag := 0, data := none })
    let dropped := fun (i : Instr) => Happens i s (fun t => t = { s with mgmt := { s.mgmt with cxlInsecure := true } })
    (dropped (.cxlMemRead ⟨addr, false⟩) ∧ dropped (.cxlMemWrite ⟨addr, false⟩ bytes)) ∧
    (s.mgmt.cxlInsecure = true → dropped (.cxlMemRead ⟨addr, true⟩) ∧ dropped (.cxlMemWrite ⟨addr, true⟩ bytes)) ∧
    (s.mgmt.cxlInsecure = false → s.cxlEntry addr = none →
      refused (.cxlMemRead ⟨addr, true⟩) ∧ refused (.cxlMemWrite ⟨addr, true⟩ bytes)) ∧
    (∀ w p, s.mgmt.cxlInsecure = false → s.cxlEntry addr = some (w, p) → addr % 64 = 0 → s.hostOpen addr 64 = true → s.port w (.mem addr) = .pass →
      let waits := fun (k : InKind) (t : State) => t.mem = s.mem ∧ t.mgmt.arbiter.wait = s.mgmt.arbiter.wait ++
        [{ cls := p.cls, weight := p.weight, link := 72, world := w, tag := s.nextId, addr := addr, kind := k, last := true }]
      Happens (.cxlMemRead ⟨addr, true⟩) s (waits (.read 64)) ∧
      Happens (.cxlMemWrite ⟨addr, true⟩ bytes) s (waits (.write (bytes.take 64) (List.replicate (Nat.min bytes.length 64) true))))) ∧
  (∀ (region world : Nat) (s : State),
    (s.mgmt.reassign = none → region < 1024 → world ≤ 15 → s.mayOwn region world = true →
      Happens (.firewallReassign region world) s (fun t =>
        ∃ ids, t.mgmt = { s.mgmt with reassign := some (region, world, ids) })) ∧
    (∀ ids, s.mgmt.reassign = some (region, world, ids) → (∀ v ∈ s.invals, v.id ∉ ids) → Cells.wf s.mgmt.firewall = true →
      Happens (.firewallReassign region world) s (fun t => t.mgmt.reassign = none ∧
        Cells.get t.mgmt.firewall region = BitVec.ofNat 8 world ∧
        ∀ a, region * 2 ^ 30 ≤ a → a < (region + 1) * 2 ^ 30 → Memory.byte t.mem a = 0)))

namespace Sys2Proof.Claims

/-- The latest response of a session. -/
def Says (t : State) (n : Nat) (r : Resp) : Prop := ∃ x, Tbl.at t.mgmt.sessions n = some x ∧ x.out.head? = some r

/-- A request waits, unit by unit, behind those that waited before, and no memory differs. -/
def Waits (s t : State) (u : PoolUnit) : Prop :=
  t.mem = s.mem ∧ ∃ us : List PoolUnit, t.mgmt.arbiter.wait = s.mgmt.arbiter.wait ++ us ∧ us.length = Nat.max 1 ((u.kind.size + 63) / 64) ∧
    ∀ i v, us[i]? = some v → v = { u with last := i + 1 == us.length }

end Sys2Proof.Claims

/-- R418 to R422, R434, R446, R447. A flit that fails its check or is out of sequence is asked for again and changes nothing else; a good one
moves the sequence on; a failed tag drops the packet, counts it and retires the key, and the request that it answers ends as lost. A replay
counts and repeats the flits from one on; a packet with a flit at its eighth is dropped, with a void marker in its place. A link goes from
DOWN to TRAINING by an order, to UP when both ports report the expected peer, to DOWN at a wrong peer, after 100 ms, or when its second
port fails; one port's failure halves it; a host link that goes down loses what is outstanding. A packet that comes back leaves again by
another way, and is dropped at its eighth return. The route table holds the last word on each link. A key is replaced before a count reaches
2^32. A tray-table update by an administrator writes the table and trains the link; any other is refused with the model's code (log 41). The
die that counts a drop or a replay is the model's (logs 31, 32). -/
def Obligations.LinkEventsHappen : Prop :=
  (∀ (link seq world : Nat) (crcOk : Bool) (tag : FlitTag) (s : State), isLink link = true → (s.link link).healthy = true →
    let x := s.link link
    (crcOk = false ∨ x.rxSeq ≠ seq →
      Happens (.flitReceive link seq world crcOk tag) s (fun t => t = s.setLink link { x with asks := x.asks + 1 })) ∧
    (x.rxSeq = seq →
      Happens (.flitReceive link seq world true .good) s (fun t =>
        t = s.setLink link { x with rxSeq := (seq + 1) % 2 ^ 32, acks := x.acks + 1 }) ∧
      (∀ k p id, link < 48 → s.packets.find? (fun p => p.id == k && !p.void && p.dst != s.devNum) = some p →
        p.req = some id → (s.req? id).isSome = true → Happens (.flitReceive link seq world true (.bad (some k))) s (fun t =>
          (∀ q ∈ t.reqs, q.id = id → q.performed = true ∧ q.lost = true) ∧ world ∈ (t.link link).retired)) ∧
      (Tbl.rising 0 x.keys = true → Happens (.flitReceive link seq world true (.bad none)) s (fun t => t.mem = s.mem ∧
        (t.link link).rxSeq = (seq + 1) % 2 ^ 32 ∧ Tbl.at (t.link link).keys world = none ∧ world ∈ (t.link link).retired ∧
        (t.link link).drops = x.drops + 1 ∧ (t.die 0).n.dropped = (s.die 0).n.dropped + 1))) ∧
    ((∀ f ∈ x.fromSeq seq, f.replays + 1 < 8) → Happens (.replayRequest link seq) s (fun t =>
      t = { s with links := t.links, dies := t.dies } ∧ t.link link = x.replay seq ∧
      (t.die 0).n.flitRetries = (s.die 0).n.flitRetries + (x.fromSeq seq).length)) ∧
    (∀ f p id, f ∈ x.fromSeq seq → 8 ≤ f.replays + 1 → (∀ g ∈ x.fromSeq seq, 8 ≤ g.replays + 1 → g.what = f.what) →
      f.what = .packet p.id → s.packets.find? (fun q => q.id == p.id) = some p → s.firstLink p = link → p.req = some id →
      Happens (.replayRequest link seq) s (fun t => (∀ q ∈ t.reqs, q.id = id → q.performed = true ∧ q.lost = true) ∧
        (∀ q ∈ t.packets, q.id = p.id → q.void = true ∧ q.seq = p.seq) ∧ (t.link link).drops = x.drops + 1))) ∧
  (∀ (link : Nat) (s : State), s.linkDead link = false →
    let x := s.link link
    let to' := fun (st : LinkSt) (t : State) => t.mem = s.mem ∧ (t.link link).st = st ∧
      t.mgmt.linkLog = s.mgmt.linkLog ++ [{ ns := s.ns, link := link, st := st }]
    (x.st = .down → Happens (.linkRetrainOrder link) s (fun t => to' .training t ∧ (t.link link).since = s.ns)) ∧
    (x.st = .training →
      Happens (.linkTrained link (s.expected link)) s (fun t => to' .up t ∧ (t.link link).peer = s.expected link) ∧
      (∀ peer, peer ≠ s.expected link → Happens (.linkTrained link peer) s (fun t => to' .down t ∧
        (t.link link).wrongPeers = x.wrongPeers + 1)) ∧
      (x.since + 100000000 ≤ s.ns → Happens (.linkTrainingTimeout link) s (to' .down))) ∧
    (x.st = .up → Happens (.linkPortFail link) s (fun t => to' .half t ∧ (t.link link).failed = 1)) ∧
    (x.st = .half →
      Happens (.linkPortFail link) s (fun t => to' .down t ∧ (t.link link).failed = 2 ∧
        (64 ≤ link → (∀ h ∈ x.outbound, ∀ q ∈ t.reqs, q.id = h.req → q.lost = true) ∧ (t.link link).flits = [] ∧
          (t.link link).inUnits = 0 ∧ ∀ u ∈ t.mgmt.arbiter.wait, u.link ≠ link)) ∧
      Happens (.linkPortRetrained link) s (fun t => to' .up t ∧ (t.link link).failed = 0)) ∧
    (s.dropBurst link = true → Happens (.linkDropBurst link) s (to' .down))) ∧
  (∀ (pkt : Nat) (p : Packet) (s : State), s.packets.find? (fun p => p.id == pkt && !p.void && p.dst != s.devNum) = some p →
    (p.returns + 1 < 8 → Happens (.fabricPacketReturn pkt) s (fun t => ∃ via, t = { s with
      freeCount := s.freeCount + 1, links := t.links,
      packets := s.packets.map (fun q => if q.id = pkt then { p with via := via, returns := p.returns + 1 } else q) })) ∧
    (8 ≤ p.returns + 1 → p.req = none → p.cmd = none → p.leaves = [] → Happens (.fabricPacketReturn pkt) s (fun t => t.mem = s.mem ∧ t.reqs = s.reqs ∧
      ∀ q ∈ t.packets, q.id = pkt → q.void = true))) ∧
  (∀ (dev link : Nat) (healthy : Bool) (s : State), isDevice dev = true → link < 48 →
    Happens (.routeTableUpdate dev link healthy) s (fun t => t = { s with mgmt := { s.mgmt with unhealthy := t.mgmt.unhealthy } } ∧
      ∀ e, e ∈ t.mgmt.unhealthy ↔ if e = (dev, link) then healthy = false else e ∈ s.mgmt.unhealthy)) ∧
  (∀ (link world a b : Nat) (s : State), Tbl.at (s.link link).keys world = some (a, b) → 2 ^ 32 ≤ a + 1 ∨ 2 ^ 32 ≤ b + 1 →
    Happens (.linkKeyExhausted link world) s (fun t => t = { s with links := t.links } ∧
      Tbl.at (t.link link).keys world = some (0, 0))) ∧
  (∀ (session link domain : Nat) (s : State), s.established session = true → s.hasMessage session = true →
    let taken := domain ≠ 0 ∧ ∃ h, h < 8 ∧ h ≠ link ∧ (Cells.get s.mgmt.trayTable h).toNat = domain
    let good := s.isAdmin session = true ∧ link < 8 ∧ ¬taken ∧ (domain = 0 ∨ (0x100000 ≤ domain ∧ domain ≤ 0xFFFFFF))
    (good → Cells.wf s.mgmt.trayTable = true → Happens (.hostTrayTableUpdate session link domain) s (fun t => t.mem = s.mem ∧
      (Cells.get t.mgmt.trayTable link).toNat = domain ∧ (t.link (64 + link)).st = (if domain = 0 then .down else .training) ∧
      Says t session (.done 0))) ∧
    (¬good → Happens (.hostTrayTableUpdate session link domain) s (fun t => t.mem = s.mem ∧
      t.mgmt.trayTable = s.mgmt.trayTable ∧ Says t session (.refused 0xFF04))))

/-- R423 to R428, R433: requests of hosts and of other devices. One inside its allowance waits for its turn, one outside it gets an
error reply and closes the port to its world; the arbiter serves a unit, and the last unit of a request performs it; a window ends; the
tray answers an outbound request; a packet of a flow is performed when it is next in its sequence, which no other packet of the flow
passes (log 80), and its reply goes onto a link. A host's tag that comes again ends the flits of the answer it had (log 104), and a ring's
requests need no key (log 33). A session packet of another device's Levain keys the fabric links for a world that has a die here (log
116). -/
def Obligations.OutsideRequestsArePerformed : Prop :=
  (∀ (h world tag addr : Nat) (k : InKind) (i : Instr) (s : State),
    (∃ n, k = .read n ∧ i = .hostRead h world tag addr n) ∨ (∃ bs es, k = .write bs es ∧ i = .hostWrite h world tag addr bs es) ∨
      (∃ op ty x, k = .atomic op ty x ∧ i = .hostAtomic h world tag addr op ty x) ∨
      (∃ x, k = .raise x ∧ i = .hostRaise h world tag addr x) →
    h < 8 → (s.link (64 + h)).healthy = true → hostShape addr k = true → (s.link (64 + h)).inUnits + (k.size + 63) / 64 ≤ 16384 →
    let l := s.link (64 + h)
    let u : PoolUnit := { cls := 4, weight := 1, link := 64 + h, world := world, tag := tag, addr := addr, kind := k, last := false }
    let ring := s.ringAt (some h) addr k.size
    let r := s.setLink (64 + h) (l.dropFlits (.answer tag))
    (world ∈ l.frozenWorlds → Happens i s (fun t => t = r.answerHost (64 + h) { tag := tag, data := none })) ∧
    (world ∉ l.frozenWorlds → ring ≠ none → Happens i s (fun t => Waits s t u)) ∧
    (world ∉ l.frozenWorlds → ring = none → world ∈ l.retired ∨ Tbl.at l.keys world = none → Happens i s (fun t => t = r)) ∧
    (∀ a b, world ∉ l.frozenWorlds → ring = none → world ∉ l.retired → Tbl.at l.keys world = some (a, b) →
      (∀ c p, s.poolEntry (some h) world addr k.size = some (c, p) → s.hostOpen addr k.size = true → s.port world (.mem addr) = .pass →
        Happens i s (fun t => Waits s t { u with cls := p.cls, weight := p.weight } ∧
          Tbl.at (t.link (64 + h)).keys world = some (a, b + 1))) ∧
      (¬(∃ c p, s.poolEntry (some h) world addr k.size = some (c, p) ∧ s.hostOpen addr k.size = true ∧ s.port world (.mem addr) = .pass) →
        Happens i s (fun t => t.mem = s.mem ∧
        (t.link (64 + h)).answers.head? = some { tag := tag, data := none } ∧ world ∈ (t.link (64 + h)).frozenWorlds ∧
        (t.die 0).n.violations = (s.die 0).n.violations + 1)))) ∧
  (∀ (i : Nat) (a : Arbiter) (u : PoolUnit) (s : State), s.mgmt.arbiter.pick = some (i, a) → a.wait[i]? = some u →
    let rest := a.wait.eraseIdx i
    let own := s.poolEntry (if u.link = 72 then none else some (u.link - 64)) u.world u.addr u.kind.size
    let open' := own ≠ none ∧ s.port u.world (.mem u.addr) = .pass
    Happens .poolUnitServe s (fun t =>
      t.mgmt.arbiter = { a with wait := rest, credit := if rest.any (fun v => v.cls == a.turn) then a.credit else 0 } ∧
      (t.link u.link).inUnits = (s.link u.link).inUnits - (if u.last then u.kind.units else 0) ∧
      (u.last = false → t = { s with mgmt := t.mgmt }) ∧
      (u.last = true → u.cls ≠ 4 → ¬open' → t.mem = s.mem ∧
        (t.link u.link).answers.head? = some { tag := u.tag, data := none }) ∧
      (u.last = true → u.cls = 4 ∨ open' → s.held = [] → Inv s →
        let same := fun (lo n : Nat) => ∀ a, a < lo ∨ lo + n ≤ a → Memory.byte t.mem a = Memory.byte s.mem a
        let answers := fun (bs : List Byte) => ∃ x, (t.link u.link).answers.head? = some x ∧ x.tag = u.tag ∧ x.data = some bs
        (∀ n, u.kind = .read n → same 0 0 ∧ answers (if u.link = 72 ∧ s.struck u.addr n = true then List.replicate n 0
          else s.bytesAt (.mem u.addr) n)) ∧
        (∀ bs es, u.kind = .write bs es → same u.addr bs.length ∧ answers [] ∧ ∀ j, j < bs.length →
          Memory.byte t.mem (u.addr + j) = if es.getD j false then bs.getD j 0 else Memory.byte s.mem (u.addr + j)) ∧
        (∀ x, u.kind = .raise x → same u.addr 8 ∧ answers [] ∧
          Memory.readNat t.mem u.addr 8 = (Memory.readNat s.mem u.addr 8 + x.toNat) % 2 ^ 64) ∧
        (∀ op ty x, u.kind = .atomic op ty x →
          let n := tySize ty
          let old := Memory.readNat s.mem u.addr n
          same u.addr n ∧ answers (bytesOfNat old n) ∧
            Memory.read t.mem u.addr n = bytesOfNat (atomNew op ty old (x.toNat % 2 ^ (8 * n))).1 n)))) ∧
  (∀ s : State, s.mgmt.arbiter.since + 1000 ≤ s.ns → Happens .poolArbiterWindowEnd s (fun t => t = { s with mgmt := { s.mgmt with
    arbiter := { s.mgmt.arbiter with served := 0, served0 := 0, since := s.ns } } })) ∧
  (∀ (link tag : Nat) (h : HostReq) (r : Req) (s : State), (s.link (64 + link)).outbound.find? (fun h => h.tag == tag) = some h →
    s.req? h.req = some r →
    (r.performed = true → Happens (.hostReply link tag) s (fun t => t = s.reply r)) ∧
    (∀ u q, r.performed = false → s.free r = true → s.performFar r = some u → u.req? r.id = some q → q.performed = true →
      Happens (.hostReply link tag) s (fun t => t = u.reply q))) ∧
  (∀ (link src world seq addr : Nat) (peer : Option Nat) (op : FabricOp) (arrival : BitVec 32) (s : State), isDevice src = true →
    src ≠ s.devNum → seq < 2 ^ 32 → op.size ≤ 256 → link < 48 → (s.link link).healthy = true →
    let f := s.inFlow src world
    let x : InOp := { seq := seq, link := link, peer := peer, addr := addr, op := op, arrival := arrival }
    let i : Instr := .fabricPacketArrival ⟨src, link⟩ world seq peer addr op arrival
    let after := fun (r : Option (List (BitVec 8))) (t : State) => t.inFlow src world =
      { f with next := (seq + 1) % 2 ^ 32, waiting := [], replies := f.replies ++ [(seq, r)] : InFlow }.trim
    (s.fabricKeyed link world op = false → Happens i s (fun t => t = s)) ∧
    (s.fabricKeyed link world op = true → f.isNew seq = false →
      Happens i s (fun t => t.mem = s.mem ∧ t.inFlow src world = { f with repeats := f.repeats + 1 })) ∧
    (s.fabricKeyed link world op = true → f.isNew seq = true → f.waiting = [] → seq ≠ f.next →
      Happens i s (fun t => t.mem = s.mem ∧ t.inFlow src world = { f with waiting := [x] : InFlow }.trim)) ∧
    (s.fabricKeyed link world op = true → seq = f.next → f.waiting = [] → peer = none →
      (op = .void → Happens i s (fun t => t.mem = s.mem ∧ after (some []) t)) ∧
      (∀ w, op = .session w →
        (s.diesOf w = [] → Happens i s (fun t => t.mem = s.mem ∧ after none t)) ∧
        (s.diesOf w ≠ [] → Happens i s (fun t => t.mem = s.mem ∧ after (some []) t ∧
          ∀ n, n < 48 → (Tbl.at (t.link n).keys w).isSome = true ∧ w ∉ (t.link n).retired))) ∧
      (op.touches = true → 2 ^ 40 ≤ addr → Happens i s (fun t => t.mem = s.mem ∧ after none t)) ∧
      (addr + 256 ≤ 2 ^ 40 → (∀ a, addr ≤ a → a < addr + 256 → s.port world (.mem a) = .pass) → s.held = [] → Inv s →
        let same := fun (n : Nat) (t : State) => ∀ a, a < addr ∨ addr + n ≤ a → Memory.byte t.mem a = Memory.byte s.mem a
        (∀ n, op = .read n → Happens i s (fun t => t.mem = s.mem ∧ after (some (s.bytesAt (.mem addr) n)) t)) ∧
        (∀ bs, op = .write bs → Happens i s (fun t => Memory.read t.mem addr bs.length = bs ∧ same bs.length t ∧ after (some []) t)) ∧
        (∀ o ty v, op = .atomic o ty v →
          let n := tySize ty
          let old := Memory.readNat s.mem addr n
          Happens i s (fun t => same n t ∧ after (some (bytesOfNat old n)) t ∧
            Memory.read t.mem addr n = bytesOfNat (atomNew o ty old (v.toNat % 2 ^ (8 * n))).1 n)) ∧
        (∀ ty cmp v, op = .cas ty cmp v →
          let n := tySize ty
          let old := Memory.readNat s.mem addr n
          Happens i s (fun t => same n t ∧ after (some (bytesOfNat old n)) t ∧
            Memory.readNat t.mem addr n = if old = cmp.toNat % 2 ^ (8 * n) then v.toNat % 2 ^ (8 * n) else old)))))

/-- R449 to R452: session rings and the requests of SPDM. A ring's slots are consumed, and their messages wait to be carried out; a head
that runs too far is counted and stops the ring, its error response comes after those of what was consumed, and then the ring starts again;
responses are written as far as there is room, and vector 0 is signalled (log 106). A request moves its session on when the session's state
allows it and is answered, and is refused otherwise (log 39). Which rings there are, and the slots that a response takes, are the model's
(logs 37, 38), as is what becomes of a slot of other fields (log 118). -/
def Obligations.SessionEventsHappen : Prop :=
  (∀ (n : Nat) (r : Ring) (s : State), Tbl.at s.mgmt.rings n = some r →
    (r.overrun = false → s.overRing r = true → Happens (.sessionRingRequest n) s (fun t => t.mem = s.mem ∧
      (t.die (dieOfAddr r.base)).n.violations = (s.die (dieOfAddr r.base)).n.violations + 1 ∧
      Tbl.at t.mgmt.rings n = some { r with overrun := true, part := [] })) ∧
    (r.overrun = true → r.told = false → r.inbox = [] → Happens (.sessionRingRequest n) s (fun t => t.mem = s.mem ∧
      Tbl.at t.mgmt.rings n = some { r with told := true, pending := r.pending ++ [.overrun r.tail] })) ∧
    (r.overrun = false → s.overRing r = false → r.tail < s.ringWord r 0 → s.held = [] → Inv s → Happens (.sessionRingRequest n) s (fun t =>
      Tbl.at t.mgmt.rings n = some { ((List.range (s.ringWord r 0 - r.tail)).map (fun i => s.slotAt r (r.tail + i))).foldl Ring.takeSlot r with
        tail := s.ringWord r 0 } ∧ t.ringWord r 8 = s.ringWord r 0 ∧
      ∀ a, a < r.base + 8 ∨ r.base + 16 ≤ a → Memory.byte t.mem a = Memory.byte s.mem a)) ∧
    (∀ m rest, r.overrun = true → r.told = true ∨ r.inbox ≠ [] → r.pending = m :: rest → r.head + m.slots ≤ s.ringWord r 24 + 255 →
      Happens (.sessionRingRequest n) s (fun t => Tbl.at t.mgmt.vectors 0 = some ((Tbl.at s.mgmt.vectors 0).getD 0 + 1) ∧
        (Inv s → r.head + m.slots < 2 ^ 64 → t.ringWord r 16 = r.head + m.slots) ∧
        Tbl.at t.mgmt.rings n = some { r with pending := rest, head := r.head + m.slots })) ∧
    (s.ringOver r = true → s.held = [] → Inv s → Happens (.sessionRingReset n) s (fun t => t.mgmt.sessions = s.mgmt.sessions ∧
      Tbl.at t.mgmt.rings n = some { r with tail := 0, head := 0, overrun := false, told := false } ∧
      ∀ off, off = 0 ∨ off = 8 ∨ off = 16 ∨ off = 24 → t.ringWord r off = 0))) ∧
  (∀ (n w : Nat) (admin : Bool) (x : Session) (s : State), Tbl.at s.mgmt.sessions n = some x → s.hasMessage n = true →
    let asks := fun (i : Instr) (sts : List SessSt) (P : State → Prop) =>
      (x.st ∈ sts → Happens i s (fun t => t.mem = s.mem ∧ P t)) ∧
      (x.st ∉ sts → Happens i s (fun t => t.mem = s.mem ∧ Tbl.at t.mgmt.sessions n = some { x with out := .refused 0xFF02 :: x.out }))
    let known := [.negotiated, .exchanged, .established]
    let becomes := fun (y : Session) (r : Resp) (t : State) => Tbl.at t.mgmt.sessions n = some { y with out := r :: x.out }
    asks (.getVersion n) [.none, .version, .capable, .negotiated, .exchanged, .ended]
      (becomes { x with st := .version, world := none, admin := false } .version) ∧
    asks (.getCapabilities n) [.version] (becomes { x with st := .capable } .capabilities) ∧
    asks (.negotiateAlgorithms n) [.capable] (becomes { x with st := .negotiated } .algorithms) ∧
    asks (.getDigests n) known (becomes x (.digests s.freeCount)) ∧
    asks (.getCertificate n) known (becomes x (.certificate s.freeCount)) ∧
    asks (.getMeasurements n w) known (becomes x (.measurements w (s.measurements w) s.freeCount)) ∧
    asks (.keyExchange n) [.negotiated] (becomes { x with st := .exchanged } (.keyExchange s.freeCount)) ∧
    asks (.finishSession n admin) [.exchanged] (fun t =>
      becomes { x with st := .established, admin := admin, opened := s.nextId, keyGen := 0 } .finished t ∧
      (ringOf n ≠ 0 → Tbl.at (t.link (63 + ringOf n)).keys 0 = some (0, 0))) ∧
    asks (.keyUpdate n) [.established] (fun t => becomes { x with keyGen := x.keyGen + 1 } .keyUpdated t ∧
      (ringOf n ≠ 0 → Tbl.at (t.link (63 + ringOf n)).keys (x.world.getD 0) = some (0, 0))) ∧
    asks (.spdmHeartbeat n) [.established] (becomes x .heartbeat) ∧
    asks (.endSession n) [.established] (becomes { x with st := .ended, world := none, admin := false } .ended))

/-- R41 to R44, R395, R396, R408, R427, R443, R448: the commands of an established session, each answered by `done` when it is carried
out: dies are assigned to a world, a world ends, a context is created, a code object is loaded from its bytes, an instance enqueued, the
firmware switched, and a pool opened. A further session is bound to a world only by the one that its assign command came from. An object
whose chosen image has another digest than its entry is refused. One that may not be carried out is answered by its code, and changes
nothing else; the codes of refused loads and commands are the model's (log 41), as are the address of the code (log 8), the release vector
of a launch from the host (log 84), and the die that it takes for 0xFF (log 85). -/
def Obligations.CommandsAreCarriedOut : Prop :=
  ∀ (n : Nat) (x : Session) (s : State), Tbl.at s.mgmt.sessions n = some x → x.st = .established →
    s.hasMessage n = true →
    let asked := s.takeMessage n
    let done := fun (v : Nat) (t : State) => Says t n (.done v)
    let refuses := fun (i : Instr) (code : Nat) => Happens i s (fun t => t = asked.respond n (.refused code))
    (∀ w d, 1 ≤ w → w ≤ 15 → d < 4 → x.world = none → Tbl.at s.mgmt.worlds w = none → s.heldDies w = [] →
      (s.die d).latch = .unassigned → s.served d = true → (s.die d).pair ≠ .offline →
      Happens (.assignWorld n w [d] none) s (fun t => t.mem = s.mem ∧ (t.die d).latch = .assigned w ∧ done 0 t ∧
        (Tbl.at t.mgmt.sessions n).bind Session.world = some w ∧
        Tbl.at t.mgmt.worlds w = some { images := [s.mgmt.levain], owner := n })) ∧
    (∀ dies bind, refuses (.assignWorld n 0 dies bind) 0xFF02) ∧
    (∀ w m r, 1 ≤ w → w ≤ 15 → Tbl.at s.mgmt.worlds w = some r → r.owner ≠ n → refuses (.assignWorld n w [] (some m)) 0xFF04) ∧
    (∀ w, x.world = some w → Tbl.rising 0 s.ctxs = true → Happens (.teardownWorld n w) s (fun t => t.mem = s.mem ∧ done 0 t ∧
      (∀ c, (s.ctx? c).isSome = true → (s.ctx c).world = w → t.ctx? c = none) ∧
      ∀ d ∈ s.diesOf w, (t.die d).latch = .scrubbing w)) ∧
    (∀ w, x.world ≠ some w → refuses (.teardownWorld n w) 0xFF04) ∧
    (∀ w k c, x.world = some w → s.diesOf w ≠ [] → k < 23 → s.levainRoom (2 ^ 26) (2 ^ 25) = true → s.freeCtx = some c →
      Happens (.createContext n w (65536 * 2 ^ k) []) s (fun t => done c t ∧ s.ctx? c = none ∧ (t.ctx c).world = w ∧
        (t.ctx c).st = .complete ∧ (t.ctx c).arenaSize = 65536 * 2 ^ k ∧ (t.ctx c).owner = some (n, x.opened) ∧ (t.ctx c).kernels = [])) ∧
    (∀ w arena maps, x.world ≠ some w → refuses (.createContext n w arena maps) 0xFF04) ∧
    (∀ c obj t v, loadCode asked n c obj = .ok (t, v) → Happens (.loadCode n c obj) s (fun u => u = t.respond n (.done v))) ∧
    (∀ c spec i obj u, (s.ctx? c).isSome = true → x.world = some (s.ctx c).world → object spec.bytes = some obj → obj.images = [i] →
      obj.data = [] → obj.objects = [] → obj.mutableCode = false → i.isNative = true → i.rev = Config.revision → sha384 i.bytes = i.digest →
      i.kernels.length ≤ 256 → (s.ctx c).objects < 256 → ((Tbl.at s.mgmt.worlds (s.ctx c).world).getD {}).entries.length < 240 →
      let codes := i.kernels.map (kernelCode i)
      let m := pageCount (8 * (codeWords codes).length)
      let g : Region := { base := s.freeVa c (65536 * m) 65536, size := 65536 * m, page := 65536, r := false, w := false, x := true,
                          measured := true }
      (kernsFrom [] 0 i.kernels codes).all Kern.loadable = true →
      asked.placeBytes c g (List.replicate m (s.anyDie (s.ctx c).world)) (wordsBytes (codeWords codes)) = some u →
      Happens (.loadCode n c spec) s (fun t => t.mem = u.mem ∧ done (s.ctx c).objects t ∧ (t.ctx c).objects = (s.ctx c).objects + 1 ∧
        ∀ j k, (kernsFrom (labelsAt 0 obj.labels spec.labelAt) g.base i.kernels codes)[j]? = some k →
          Tbl.at (t.ctx c).kernels (256 * (s.ctx c).objects + j) = some k)) ∧
    (∀ c spec obj i, (s.ctx? c).isSome = true → x.world = some (s.ctx c).world → object spec.bytes = some obj →
      chooseImage obj.images = some i → sha384 i.bytes ≠ i.digest ∨ (∃ j ∈ obj.images, 256 < j.kernels.length) →
      refuses (.loadCode n c spec) 0xFF02) ∧
    (∀ c spec, (s.ctx? c).isSome = true → x.world = some (s.ctx c).world → object spec.bytes = none →
      refuses (.loadCode n c spec) 0xFF02) ∧
    (∀ c obj, s.ctx? c = none → refuses (.loadCode n c obj) 0xFF02) ∧
    (∀ c obj, (s.ctx? c).isSome = true → x.world ≠ some (s.ctx c).world → refuses (.loadCode n c obj) 0xFF04) ∧
    (∀ c kern k blocks q prio arg dep t h, (s.ctx? c).isSome = true → x.world = some (s.ctx c).world →
      Tbl.at (s.ctx c).kernels kern = some k → 1 ≤ blocks → blocks < 2 ^ 32 → blocks % k.cluster = 0 → q < 64 → prio < 4 →
      asked.enqueue { ctx := c, die := if k.die = 255 then 0 else k.die, kern := kern, arg := arg, blocks := blocks, q := q, prio := prio,
                      dep := dep, vec := s.seqs } = some (t, h) →
      Happens (.hostEnqueue n c kern blocks q prio arg dep) s (fun u => u = t.respond n (.done h.toNat))) ∧
    (∀ c kern blocks q prio arg dep, (s.ctx? c).isSome = true → x.world = some (s.ctx c).world →
      (Tbl.at (s.ctx c).kernels kern = none → refuses (.hostEnqueue n c kern blocks q prio arg dep) 1) ∧
      (∀ k, Tbl.at (s.ctx c).kernels kern = some k → 64 ≤ q ∨ 4 ≤ prio → refuses (.hostEnqueue n c kern blocks q prio arg dep) 2)) ∧
    (∀ digest, (Config.signaturesVerify digest = true → Happens (.firmwareUpdate n digest) s (fun t => done 0 t ∧
        t.mgmt.switch = some digest ∧ t = { s with mgmt := t.mgmt })) ∧
      (Config.signaturesVerify digest = false → refuses (.firmwareUpdate n digest) 0xFF04)) ∧
    (∀ c p, (s.ctx? c).isSome = true → x.world = some (s.ctx c).world → (s.ctx c).pool = [] → PoolEntry.ok p = true →
      (p.link = none → ∀ e ∈ s.ctxs, ∀ q ∈ e.2.pool, q.link ≠ none) →
      (∀ r ∈ regionsOf p.base p.size, r < 1024 ∧ s.regionWorld (r * 2 ^ 30) = (s.ctx c).world ∧ s.othersIn c r = false) → Cells.wf s.mgmt.firewall = true →
      Happens (.openPool n c [p]) s (fun t => t.mem = s.mem ∧ done 0 t ∧ (t.ctx c).pool = [p] ∧
        ∀ r ∈ regionsOf p.base p.size, Cells.get t.mgmt.firewall r = Cells.get s.mgmt.firewall r ||| 0x10)) ∧
    (∀ c es, s.ctx? c = none → refuses (.openPool n c es) 0xFF02)

namespace Sys2Proof.Claims

/-- The instructions that are the meaning of a word, by the format of their row; the others are event rows. -/
def isWordRow (i : Instr) : Bool :=
  i.shape.isSome || i.halves.isSome ||
  match i with
  | .bra _ | .call _ | .addL _ _ | .mulL _ _ | .andL _ _ | .orL _ _ | .xorL _ _ | .movl _ _ _ | .faddL _ _ | .fmulL _ _ => true
  | .ld _ _ | .ldSp _ _ | .st _ _ | .stSp _ _ | .ldq _ _ | .ldqSp _ _ | .stq _ _ | .stqSp _ _ | .prf _ _ | .cwb _ _ | .cinv _ _ => true
  | .atom _ _ _ _ _ | .cas _ _ | .fence _ | .kcas _ _ _ | .kenq _ _ | .kdeq _ | .kchase _ _ _ _ => true
  | .ldn _ _ | .stn _ _ | .pfetch _ _ | .prel _ | .hld _ _ | .hst _ _ | .hmset _ _ => true
  | .tld _ | .tst _ | .tzero _ | .bsld _ | .bsinv _ | .tcvt _ | .tact _ | .tred _ | .tmma _ | .tloop _ | .tmmod _ | .tntt _ => true
  | .vtDecl _ | .vtLd _ | .vtSt _ | .vtMma _ | .vtMap _ | .vtRed _ | .unassignedOpcodeWord _ => true
  | _ => false

/-- The guard that always holds. -/
def always : Guard := { n := 7, neg := false }

end Sys2Proof.Claims

/-- R47 to R68: for every well-formed instruction of every word format the decoder reads back from its encoded word the same
instruction, with every operand and every modifier. -/
def Obligations.DecodeOfEncode : Prop :=
  ∀ i : Instr, WellFormed i = true → isWordRow i = true → decode3 (encode i) = .ok i

/-- R47, R49, R52, R54, R56, R59, R66, R67: words of formats F, L, M and T and a pair word, written out from the encodings, decode to
what they stand for; the all-zero word is one of no assigned opcode, and a word with a reserved bit set is refused as that. -/
def Obligations.SampleWordsDecode : Prop :=
  decode none 0x061C06000003E820 = .ok (.addL { g := always, d := 6, lit := 1000 } { ty := .i32, pk := .none, sat := false }) ∧
  decode none 0x243C080100106300 = .ok (.st
    { g := always, data := 8, base := .v 4, scope := .dev, ord := .rlx, ty := .n32, space := .gl, hint := .none } 16) ∧
  decode none 0x107C1400E03002C0 = .ok (.ffma { g := always, d := 20, a := .v 7, b := .v 12, c := 1, keep := .a }
    { ty := .f32, rnd := .rn, sat := false, x2 := false }) ∧
  decode none 0x387C00102008000C = .ok (.bsld
    { g := always, td := 0, ts := 0, p := 2, cnt := 64, x := 4, y := 0, ctr := 0, en := false, flags := 12 }) ∧
  decode none 0x4884188158402800 = .ok (.trig { g := { n := 1, neg := false }, d := 24, a := .c 0 10, b := .lit 16, c := 20, keep := .none }) ∧
  decode none 0 = .ok (.unassignedOpcodeWord 0) ∧ decode none 0x003C000000000001 = .error .reservedField ∧
  decode none 0x81C0000081C00000 = .ok (.nopHalf { p := 7, d := 0, s := 0, keep := false }
    { op := .nop, h := { p := 7, d := 0, s := 0, keep := false } })

/-- What a step of the machine is. The issue of a candidate whose word is in memory at a fetchable address runs the decoded
instruction (of a translated image, that of the virtual word which the native code stands for: log 18), with the path in focus, the
translation cached and the line, if the core has not got it, in its instruction cache, with the loss counted that a struck line is; a word that the decoder refuses
takes the trap of cause 1 with its sub-cause; an event is that instruction; an event that is due is some instruction too. -/
def Obligations.StepRunsTheDecodedInstruction : Prop :=
  (∀ (c : Candidate) (rest : List Item) (k : Kern) (pa : Nat) (e : TlbEntry) (s : State), s.tripped = false →
    s.agenda = .issue c :: rest → readyLanes s c ≠ [] →
    let b := s.block c.blk
    let w : DWord := k.wordAs c.pc (BitVec.ofNat 64 (Memory.readNat s.mem pa 8))
    let lost := if (s.core b.core).codeLine (pa / 64) = none then s.readLoss b.ctx (.mem (64 * (pa / 64))) 64 else s
    s.kern b.ctx c.kern = some k → pa % 8 = 0 →
    translate s.mem (s.core b.core).tlb b.ctx (s.ctx b.ctx) (k.codeVa + 8 * c.pc) .fetch = .at (.mem pa) e →
    (s.core b.core).codeLine (pa / 64) = none ∨ (s.core b.core).codeLine (pa / 64) = some (lineWords s.mem (pa / 64)) →
    let f : Focus := { blk := c.blk, grp := c.grp, kern := c.kern, pc := c.pc, lanes := readyLanes s c, word := w, second := c.second }
    let prev := fun (u : State) => if c.pc = 0 then none else codeWord u b.core b.ctx k (c.pc - 1)
    ∃ u : State, u = { s with agenda := rest, focus := none, cores := u.cores, freeCount := u.freeCount, ctxs := lost.ctxs } ∧
      (∀ n, n ≠ b.core → u.core n = s.core n) ∧
      u.core b.core = { s.core b.core with tlb := addTlb e (s.core b.core).tlb, icache := (u.core b.core).icache,
                                           loopBuf := (u.core b.core).loopBuf } ∧
      ((s.core b.core).codeLine (pa / 64) = none → (u.core b.core).cachedCode (pa / 64) = some (lineWords s.mem (pa / 64))) ∧
      (∀ i, decode (prev u) w = .ok i → step s = exec i { u with focus := some f }) ∧
      (∀ x, decode (prev u) w = .error x → step s = .next (takeTrap u f { cause := 1, sub := x.code, lanes := f.lanes }))) ∧
  (∀ (i : Instr) (rest : List Item) (s : State), s.tripped = false → s.agenda = .event i :: rest →
    step s = exec i { s with agenda := rest, focus := none }) ∧
  (∀ (e : Due) (rest : List Item) (s : State), s.tripped = false → s.agenda = .due e :: rest →
    ∃ i : Instr, isWordRow i = false ∧ step s = exec i { s with agenda := rest, focus := none })

/-- No instruction is refused and none stops: `exec` answers a next state for every instruction in every state. A step stops on one
ground alone, a thermal trip that no device reset has ended. -/
def Obligations.EveryInstructionGoesOn : Prop :=
  (∀ (i : Instr) (s : State), ∃ t, exec i s = .next t) ∧
  (∀ s : State, s.tripped = false → ∃ t, step s = .next t) ∧
  (∀ s : State, s.tripped = true → Item.event .deviceReset ∈ s.agenda ∨ Instr.deviceReset ∈ s.inbox →
    ∃ t, step s = .next t ∧ t.tripped = false) ∧
  (∀ s : State, s.tripped = true → Item.event .deviceReset ∉ s.agenda → Instr.deviceReset ∉ s.inbox → step s = .fault .thermalTrip)

/-- The invariant that device memory keeps its canonical form, so that equal contents are equal memories: every step keeps it. -/
def Obligations.StepsKeepMemoryInForm : Prop := ∀ s t : State, Inv s → step s = .next t → Inv t

/-- The initial state of the model, with every register as a reset leaves it: memory lists nothing, which reads as zero (log 4), and is in
its form, no context, instance, block or request exists, the clock is 4.0 GHz and stands at cycle 0, every die is unassigned with its pair
in the ROM, nothing is assigned a region, every trigger entry is free, fabric links 0 to 46 train and the host links are down (log 11), and
the interface is in CONFIG_UNLOCKED (log 12). A later device reset keeps memory (log 30). -/
def Obligations.ResetState : Prop :=
  Inv State.reset ∧ State.reset.tripped = false ∧ State.reset.mhz = 4000 ∧ State.reset.clock = 0 ∧ State.reset.ctxs = [] ∧
  State.reset.insts = [] ∧ State.reset.blocks = [] ∧ State.reset.reqs = [] ∧ (∀ a, Memory.byte State.reset.mem a = 0) ∧
  (∀ d, (State.reset.die d).latch = .unassigned ∧ (State.reset.die d).pair = .rom ∧ (State.reset.die d).entries = [] ∧
    (State.reset.die d).sram = []) ∧
  (∀ r, Cells.get State.reset.mgmt.firewall r = 0) ∧ State.reset.mgmt.tdisp = .configUnlocked ∧ State.reset.mgmt.leader = none ∧
  (∀ n, n < 47 → (State.reset.link n).st = .training) ∧ (∀ h, h < 8 → (State.reset.link (64 + h)).st = .down)
end

