-- ==== Sys2Proof/Laws/State.lean ====
section
/-!
SUPPORT. What the updates of one entry leave alone: one lemma for each field of the state and each update.
-/

namespace Sys2Proof.Machine

@[simp] theorem State.setDie_clock (s : State) (d : Nat) (x : Die) : (s.setDie d x).clock = s.clock := rfl
@[simp] theorem State.setDie_ns (s : State) (d : Nat) (x : Die) : (s.setDie d x).ns = s.ns := rfl
@[simp] theorem State.setDie_nsRem (s : State) (d : Nat) (x : Die) : (s.setDie d x).nsRem = s.nsRem := rfl
@[simp] theorem State.setDie_mhz (s : State) (d : Nat) (x : Die) : (s.setDie d x).mhz = s.mhz := rfl
@[simp] theorem State.setDie_underRun (s : State) (d : Nat) (x : Die) : (s.setDie d x).underRun = s.underRun := rfl
@[simp] theorem State.setDie_throttleLog (s : State) (d : Nat) (x : Die) : (s.setDie d x).throttleLog = s.throttleLog := rfl
@[simp] theorem State.setDie_tripped (s : State) (d : Nat) (x : Die) : (s.setDie d x).tripped = s.tripped := rfl
@[simp] theorem State.setDie_devNum (s : State) (d : Nat) (x : Die) : (s.setDie d x).devNum = s.devNum := rfl
@[simp] theorem State.setDie_mem (s : State) (d : Nat) (x : Die) : (s.setDie d x).mem = s.mem := rfl
@[simp] theorem State.setDie_gtags (s : State) (d : Nat) (x : Die) : (s.setDie d x).gtags = s.gtags := rfl
@[simp] theorem State.setDie_writes (s : State) (d : Nat) (x : Die) : (s.setDie d x).writes = s.writes := rfl
@[simp] theorem State.setDie_remote (s : State) (d : Nat) (x : Die) : (s.setDie d x).remote = s.remote := rfl
@[simp] theorem State.setDie_remoteTags (s : State) (d : Nat) (x : Die) : (s.setDie d x).remoteTags = s.remoteTags := rfl
@[simp] theorem State.setDie_poison (s : State) (d : Nat) (x : Die) : (s.setDie d x).poison = s.poison := rfl
@[simp] theorem State.setDie_reqs (s : State) (d : Nat) (x : Die) : (s.setDie d x).reqs = s.reqs := rfl
@[simp] theorem State.setDie_held (s : State) (d : Nat) (x : Die) : (s.setDie d x).held = s.held := rfl
@[simp] theorem State.setDie_cores (s : State) (d : Nat) (x : Die) : (s.setDie d x).cores = s.cores := rfl
@[simp] theorem State.setDie_ctxs (s : State) (d : Nat) (x : Die) : (s.setDie d x).ctxs = s.ctxs := rfl
@[simp] theorem State.setDie_insts (s : State) (d : Nat) (x : Die) : (s.setDie d x).insts = s.insts := rfl
@[simp] theorem State.setDie_blocks (s : State) (d : Nat) (x : Die) : (s.setDie d x).blocks = s.blocks := rfl
@[simp] theorem State.setDie_objects (s : State) (d : Nat) (x : Die) : (s.setDie d x).objects = s.objects := rfl
@[simp] theorem State.setDie_trayObjs (s : State) (d : Nat) (x : Die) : (s.setDie d x).trayObjs = s.trayObjs := rfl
@[simp] theorem State.setDie_replicasObj (s : State) (d : Nat) (x : Die) : (s.setDie d x).replicasObj = s.replicasObj := rfl
@[simp] theorem State.setDie_resolutions (s : State) (d : Nat) (x : Die) : (s.setDie d x).resolutions = s.resolutions := rfl
@[simp] theorem State.setDie_departs (s : State) (d : Nat) (x : Die) : (s.setDie d x).departs = s.departs := rfl
@[simp] theorem State.setDie_invals (s : State) (d : Nat) (x : Die) : (s.setDie d x).invals = s.invals := rfl
@[simp] theorem State.setDie_pageFills (s : State) (d : Nat) (x : Die) : (s.setDie d x).pageFills = s.pageFills := rfl
@[simp] theorem State.setDie_stations (s : State) (d : Nat) (x : Die) : (s.setDie d x).stations = s.stations := rfl
@[simp] theorem State.setDie_links (s : State) (d : Nat) (x : Die) : (s.setDie d x).links = s.links := rfl
@[simp] theorem State.setDie_flows (s : State) (d : Nat) (x : Die) : (s.setDie d x).flows = s.flows := rfl
@[simp] theorem State.setDie_packets (s : State) (d : Nat) (x : Die) : (s.setDie d x).packets = s.packets := rfl
@[simp] theorem State.setDie_inFlows (s : State) (d : Nat) (x : Die) : (s.setDie d x).inFlows = s.inFlows := rfl
@[simp] theorem State.setDie_mgmt (s : State) (d : Nat) (x : Die) : (s.setDie d x).mgmt = s.mgmt := rfl
@[simp] theorem State.setDie_levainNext (s : State) (d : Nat) (x : Die) : (s.setDie d x).levainNext = s.levainNext := rfl
@[simp] theorem State.setDie_levainFrame (s : State) (d : Nat) (x : Die) : (s.setDie d x).levainFrame = s.levainFrame := rfl
@[simp] theorem State.setDie_frames (s : State) (d : Nat) (x : Die) : (s.setDie d x).frames = s.frames := rfl
@[simp] theorem State.setDie_windowSince (s : State) (d : Nat) (x : Die) : (s.setDie d x).windowSince = s.windowSince := rfl
@[simp] theorem State.setDie_nextId (s : State) (d : Nat) (x : Die) : (s.setDie d x).nextId = s.nextId := rfl
@[simp] theorem State.setDie_freeCount (s : State) (d : Nat) (x : Die) : (s.setDie d x).freeCount = s.freeCount := rfl
@[simp] theorem State.setDie_agenda (s : State) (d : Nat) (x : Die) : (s.setDie d x).agenda = s.agenda := rfl
@[simp] theorem State.setDie_inbox (s : State) (d : Nat) (x : Die) : (s.setDie d x).inbox = s.inbox := rfl
@[simp] theorem State.setDie_focus (s : State) (d : Nat) (x : Die) : (s.setDie d x).focus = s.focus := rfl

@[simp] theorem State.modDie_clock (s : State) (d : Nat) (f : Die → Die) : (s.modDie d f).clock = s.clock := rfl
@[simp] theorem State.modDie_ns (s : State) (d : Nat) (f : Die → Die) : (s.modDie d f).ns = s.ns := rfl
@[simp] theorem State.modDie_nsRem (s : State) (d : Nat) (f : Die → Die) : (s.modDie d f).nsRem = s.nsRem := rfl
@[simp] theorem State.modDie_mhz (s : State) (d : Nat) (f : Die → Die) : (s.modDie d f).mhz = s.mhz := rfl
@[simp] theorem State.modDie_underRun (s : State) (d : Nat) (f : Die → Die) : (s.modDie d f).underRun = s.underRun := rfl
@[simp] theorem State.modDie_throttleLog (s : State) (d : Nat) (f : Die → Die) : (s.modDie d f).throttleLog = s.throttleLog := rfl
@[simp] theorem State.modDie_tripped (s : State) (d : Nat) (f : Die → Die) : (s.modDie d f).tripped = s.tripped := rfl
@[simp] theorem State.modDie_devNum (s : State) (d : Nat) (f : Die → Die) : (s.modDie d f).devNum = s.devNum := rfl
@[simp] theorem State.modDie_mem (s : State) (d : Nat) (f : Die → Die) : (s.modDie d f).mem = s.mem := rfl
@[simp] theorem State.modDie_gtags (s : State) (d : Nat) (f : Die → Die) : (s.modDie d f).gtags = s.gtags := rfl
@[simp] theorem State.modDie_writes (s : State) (d : Nat) (f : Die → Die) : (s.modDie d f).writes = s.writes := rfl
@[simp] theorem State.modDie_remote (s : State) (d : Nat) (f : Die → Die) : (s.modDie d f).remote = s.remote := rfl
@[simp] theorem State.modDie_remoteTags (s : State) (d : Nat) (f : Die → Die) : (s.modDie d f).remoteTags = s.remoteTags := rfl
@[simp] theorem State.modDie_poison (s : State) (d : Nat) (f : Die → Die) : (s.modDie d f).poison = s.poison := rfl
@[simp] theorem State.modDie_reqs (s : State) (d : Nat) (f : Die → Die) : (s.modDie d f).reqs = s.reqs := rfl
@[simp] theorem State.modDie_held (s : State) (d : Nat) (f : Die → Die) : (s.modDie d f).held = s.held := rfl
@[simp] theorem State.modDie_cores (s : State) (d : Nat) (f : Die → Die) : (s.modDie d f).cores = s.cores := rfl
@[simp] theorem State.modDie_ctxs (s : State) (d : Nat) (f : Die → Die) : (s.modDie d f).ctxs = s.ctxs := rfl
@[simp] theorem State.modDie_insts (s : State) (d : Nat) (f : Die → Die) : (s.modDie d f).insts = s.insts := rfl
@[simp] theorem State.modDie_blocks (s : State) (d : Nat) (f : Die → Die) : (s.modDie d f).blocks = s.blocks := rfl
@[simp] theorem State.modDie_objects (s : State) (d : Nat) (f : Die → Die) : (s.modDie d f).objects = s.objects := rfl
@[simp] theorem State.modDie_trayObjs (s : State) (d : Nat) (f : Die → Die) : (s.modDie d f).trayObjs = s.trayObjs := rfl
@[simp] theorem State.modDie_replicasObj (s : State) (d : Nat) (f : Die → Die) : (s.modDie d f).replicasObj = s.replicasObj := rfl
@[simp] theorem State.modDie_resolutions (s : State) (d : Nat) (f : Die → Die) : (s.modDie d f).resolutions = s.resolutions := rfl
@[simp] theorem State.modDie_departs (s : State) (d : Nat) (f : Die → Die) : (s.modDie d f).departs = s.departs := rfl
@[simp] theorem State.modDie_invals (s : State) (d : Nat) (f : Die → Die) : (s.modDie d f).invals = s.invals := rfl
@[simp] theorem State.modDie_pageFills (s : State) (d : Nat) (f : Die → Die) : (s.modDie d f).pageFills = s.pageFills := rfl
@[simp] theorem State.modDie_stations (s : State) (d : Nat) (f : Die → Die) : (s.modDie d f).stations = s.stations := rfl
@[simp] theorem State.modDie_links (s : State) (d : Nat) (f : Die → Die) : (s.modDie d f).links = s.links := rfl
@[simp] theorem State.modDie_flows (s : State) (d : Nat) (f : Die → Die) : (s.modDie d f).flows = s.flows := rfl
@[simp] theorem State.modDie_packets (s : State) (d : Nat) (f : Die → Die) : (s.modDie d f).packets = s.packets := rfl
@[simp] theorem State.modDie_inFlows (s : State) (d : Nat) (f : Die → Die) : (s.modDie d f).inFlows = s.inFlows := rfl
@[simp] theorem State.modDie_mgmt (s : State) (d : Nat) (f : Die → Die) : (s.modDie d f).mgmt = s.mgmt := rfl
@[simp] theorem State.modDie_levainNext (s : State) (d : Nat) (f : Die → Die) : (s.modDie d f).levainNext = s.levainNext := rfl
@[simp] theorem State.modDie_levainFrame (s : State) (d : Nat) (f : Die → Die) : (s.modDie d f).levainFrame = s.levainFrame := rfl
@[simp] theorem State.modDie_frames (s : State) (d : Nat) (f : Die → Die) : (s.modDie d f).frames = s.frames := rfl
@[simp] theorem State.modDie_windowSince (s : State) (d : Nat) (f : Die → Die) : (s.modDie d f).windowSince = s.windowSince := rfl
@[simp] theorem State.modDie_nextId (s : State) (d : Nat) (f : Die → Die) : (s.modDie d f).nextId = s.nextId := rfl
@[simp] theorem State.modDie_freeCount (s : State) (d : Nat) (f : Die → Die) : (s.modDie d f).freeCount = s.freeCount := rfl
@[simp] theorem State.modDie_agenda (s : State) (d : Nat) (f : Die → Die) : (s.modDie d f).agenda = s.agenda := rfl
@[simp] theorem State.modDie_inbox (s : State) (d : Nat) (f : Die → Die) : (s.modDie d f).inbox = s.inbox := rfl
@[simp] theorem State.modDie_focus (s : State) (d : Nat) (f : Die → Die) : (s.modDie d f).focus = s.focus := rfl

@[simp] theorem State.setCore_clock (s : State) (c : Nat) (x : Core) : (s.setCore c x).clock = s.clock := rfl
@[simp] theorem State.setCore_ns (s : State) (c : Nat) (x : Core) : (s.setCore c x).ns = s.ns := rfl
@[simp] theorem State.setCore_nsRem (s : State) (c : Nat) (x : Core) : (s.setCore c x).nsRem = s.nsRem := rfl
@[simp] theorem State.setCore_mhz (s : State) (c : Nat) (x : Core) : (s.setCore c x).mhz = s.mhz := rfl
@[simp] theorem State.setCore_underRun (s : State) (c : Nat) (x : Core) : (s.setCore c x).underRun = s.underRun := rfl
@[simp] theorem State.setCore_throttleLog (s : State) (c : Nat) (x : Core) : (s.setCore c x).throttleLog = s.throttleLog := rfl
@[simp] theorem State.setCore_tripped (s : State) (c : Nat) (x : Core) : (s.setCore c x).tripped = s.tripped := rfl
@[simp] theorem State.setCore_devNum (s : State) (c : Nat) (x : Core) : (s.setCore c x).devNum = s.devNum := rfl
@[simp] theorem State.setCore_mem (s : State) (c : Nat) (x : Core) : (s.setCore c x).mem = s.mem := rfl
@[simp] theorem State.setCore_gtags (s : State) (c : Nat) (x : Core) : (s.setCore c x).gtags = s.gtags := rfl
@[simp] theorem State.setCore_writes (s : State) (c : Nat) (x : Core) : (s.setCore c x).writes = s.writes := rfl
@[simp] theorem State.setCore_remote (s : State) (c : Nat) (x : Core) : (s.setCore c x).remote = s.remote := rfl
@[simp] theorem State.setCore_remoteTags (s : State) (c : Nat) (x : Core) : (s.setCore c x).remoteTags = s.remoteTags := rfl
@[simp] theorem State.setCore_poison (s : State) (c : Nat) (x : Core) : (s.setCore c x).poison = s.poison := rfl
@[simp] theorem State.setCore_reqs (s : State) (c : Nat) (x : Core) : (s.setCore c x).reqs = s.reqs := rfl
@[simp] theorem State.setCore_held (s : State) (c : Nat) (x : Core) : (s.setCore c x).held = s.held := rfl
@[simp] theorem State.setCore_dies (s : State) (c : Nat) (x : Core) : (s.setCore c x).dies = s.dies := rfl
@[simp] theorem State.setCore_ctxs (s : State) (c : Nat) (x : Core) : (s.setCore c x).ctxs = s.ctxs := rfl
@[simp] theorem State.setCore_insts (s : State) (c : Nat) (x : Core) : (s.setCore c x).insts = s.insts := rfl
@[simp] theorem State.setCore_blocks (s : State) (c : Nat) (x : Core) : (s.setCore c x).blocks = s.blocks := rfl
@[simp] theorem State.setCore_objects (s : State) (c : Nat) (x : Core) : (s.setCore c x).objects = s.objects := rfl
@[simp] theorem State.setCore_trayObjs (s : State) (c : Nat) (x : Core) : (s.setCore c x).trayObjs = s.trayObjs := rfl
@[simp] theorem State.setCore_replicasObj (s : State) (c : Nat) (x : Core) : (s.setCore c x).replicasObj = s.replicasObj := rfl
@[simp] theorem State.setCore_resolutions (s : State) (c : Nat) (x : Core) : (s.setCore c x).resolutions = s.resolutions := rfl
@[simp] theorem State.setCore_departs (s : State) (c : Nat) (x : Core) : (s.setCore c x).departs = s.departs := rfl
@[simp] theorem State.setCore_invals (s : State) (c : Nat) (x : Core) : (s.setCore c x).invals = s.invals := rfl
@[simp] theorem State.setCore_pageFills (s : State) (c : Nat) (x : Core) : (s.setCore c x).pageFills = s.pageFills := rfl
@[simp] theorem State.setCore_stations (s : State) (c : Nat) (x : Core) : (s.setCore c x).stations = s.stations := rfl
@[simp] theorem State.setCore_links (s : State) (c : Nat) (x : Core) : (s.setCore c x).links = s.links := rfl
@[simp] theorem State.setCore_flows (s : State) (c : Nat) (x : Core) : (s.setCore c x).flows = s.flows := rfl
@[simp] theorem State.setCore_packets (s : State) (c : Nat) (x : Core) : (s.setCore c x).packets = s.packets := rfl
@[simp] theorem State.setCore_inFlows (s : State) (c : Nat) (x : Core) : (s.setCore c x).inFlows = s.inFlows := rfl
@[simp] theorem State.setCore_mgmt (s : State) (c : Nat) (x : Core) : (s.setCore c x).mgmt = s.mgmt := rfl
@[simp] theorem State.setCore_levainNext (s : State) (c : Nat) (x : Core) : (s.setCore c x).levainNext = s.levainNext := rfl
@[simp] theorem State.setCore_levainFrame (s : State) (c : Nat) (x : Core) : (s.setCore c x).levainFrame = s.levainFrame := rfl
@[simp] theorem State.setCore_frames (s : State) (c : Nat) (x : Core) : (s.setCore c x).frames = s.frames := rfl
@[simp] theorem State.setCore_windowSince (s : State) (c : Nat) (x : Core) : (s.setCore c x).windowSince = s.windowSince := rfl
@[simp] theorem State.setCore_nextId (s : State) (c : Nat) (x : Core) : (s.setCore c x).nextId = s.nextId := rfl
@[simp] theorem State.setCore_freeCount (s : State) (c : Nat) (x : Core) : (s.setCore c x).freeCount = s.freeCount := rfl
@[simp] theorem State.setCore_agenda (s : State) (c : Nat) (x : Core) : (s.setCore c x).agenda = s.agenda := rfl
@[simp] theorem State.setCore_inbox (s : State) (c : Nat) (x : Core) : (s.setCore c x).inbox = s.inbox := rfl
@[simp] theorem State.setCore_focus (s : State) (c : Nat) (x : Core) : (s.setCore c x).focus = s.focus := rfl

@[simp] theorem State.modCore_clock (s : State) (c : Nat) (f : Core → Core) : (s.modCore c f).clock = s.clock := rfl
@[simp] theorem State.modCore_ns (s : State) (c : Nat) (f : Core → Core) : (s.modCore c f).ns = s.ns := rfl
@[simp] theorem State.modCore_nsRem (s : State) (c : Nat) (f : Core → Core) : (s.modCore c f).nsRem = s.nsRem := rfl
@[simp] theorem State.modCore_mhz (s : State) (c : Nat) (f : Core → Core) : (s.modCore c f).mhz = s.mhz := rfl
@[simp] theorem State.modCore_underRun (s : State) (c : Nat) (f : Core → Core) : (s.modCore c f).underRun = s.underRun := rfl
@[simp] theorem State.modCore_throttleLog (s : State) (c : Nat) (f : Core → Core) : (s.modCore c f).throttleLog = s.throttleLog := rfl
@[simp] theorem State.modCore_tripped (s : State) (c : Nat) (f : Core → Core) : (s.modCore c f).tripped = s.tripped := rfl
@[simp] theorem State.modCore_devNum (s : State) (c : Nat) (f : Core → Core) : (s.modCore c f).devNum = s.devNum := rfl
@[simp] theorem State.modCore_mem (s : State) (c : Nat) (f : Core → Core) : (s.modCore c f).mem = s.mem := rfl
@[simp] theorem State.modCore_gtags (s : State) (c : Nat) (f : Core → Core) : (s.modCore c f).gtags = s.gtags := rfl
@[simp] theorem State.modCore_writes (s : State) (c : Nat) (f : Core → Core) : (s.modCore c f).writes = s.writes := rfl
@[simp] theorem State.modCore_remote (s : State) (c : Nat) (f : Core → Core) : (s.modCore c f).remote = s.remote := rfl
@[simp] theorem State.modCore_remoteTags (s : State) (c : Nat) (f : Core → Core) : (s.modCore c f).remoteTags = s.remoteTags := rfl
@[simp] theorem State.modCore_poison (s : State) (c : Nat) (f : Core → Core) : (s.modCore c f).poison = s.poison := rfl
@[simp] theorem State.modCore_reqs (s : State) (c : Nat) (f : Core → Core) : (s.modCore c f).reqs = s.reqs := rfl
@[simp] theorem State.modCore_held (s : State) (c : Nat) (f : Core → Core) : (s.modCore c f).held = s.held := rfl
@[simp] theorem State.modCore_dies (s : State) (c : Nat) (f : Core → Core) : (s.modCore c f).dies = s.dies := rfl
@[simp] theorem State.modCore_ctxs (s : State) (c : Nat) (f : Core → Core) : (s.modCore c f).ctxs = s.ctxs := rfl
@[simp] theorem State.modCore_insts (s : State) (c : Nat) (f : Core → Core) : (s.modCore c f).insts = s.insts := rfl
@[simp] theorem State.modCore_blocks (s : State) (c : Nat) (f : Core → Core) : (s.modCore c f).blocks = s.blocks := rfl
@[simp] theorem State.modCore_objects (s : State) (c : Nat) (f : Core → Core) : (s.modCore c f).objects = s.objects := rfl
@[simp] theorem State.modCore_trayObjs (s : State) (c : Nat) (f : Core → Core) : (s.modCore c f).trayObjs = s.trayObjs := rfl
@[simp] theorem State.modCore_replicasObj (s : State) (c : Nat) (f : Core → Core) : (s.modCore c f).replicasObj = s.replicasObj := rfl
@[simp] theorem State.modCore_resolutions (s : State) (c : Nat) (f : Core → Core) : (s.modCore c f).resolutions = s.resolutions := rfl
@[simp] theorem State.modCore_departs (s : State) (c : Nat) (f : Core → Core) : (s.modCore c f).departs = s.departs := rfl
@[simp] theorem State.modCore_invals (s : State) (c : Nat) (f : Core → Core) : (s.modCore c f).invals = s.invals := rfl
@[simp] theorem State.modCore_pageFills (s : State) (c : Nat) (f : Core → Core) : (s.modCore c f).pageFills = s.pageFills := rfl
@[simp] theorem State.modCore_stations (s : State) (c : Nat) (f : Core → Core) : (s.modCore c f).stations = s.stations := rfl
@[simp] theorem State.modCore_links (s : State) (c : Nat) (f : Core → Core) : (s.modCore c f).links = s.links := rfl
@[simp] theorem State.modCore_flows (s : State) (c : Nat) (f : Core → Core) : (s.modCore c f).flows = s.flows := rfl
@[simp] theorem State.modCore_packets (s : State) (c : Nat) (f : Core → Core) : (s.modCore c f).packets = s.packets := rfl
@[simp] theorem State.modCore_inFlows (s : State) (c : Nat) (f : Core → Core) : (s.modCore c f).inFlows = s.inFlows := rfl
@[simp] theorem State.modCore_mgmt (s : State) (c : Nat) (f : Core → Core) : (s.modCore c f).mgmt = s.mgmt := rfl
@[simp] theorem State.modCore_levainNext (s : State) (c : Nat) (f : Core → Core) : (s.modCore c f).levainNext = s.levainNext := rfl
@[simp] theorem State.modCore_levainFrame (s : State) (c : Nat) (f : Core → Core) : (s.modCore c f).levainFrame = s.levainFrame := rfl
@[simp] theorem State.modCore_frames (s : State) (c : Nat) (f : Core → Core) : (s.modCore c f).frames = s.frames := rfl
@[simp] theorem State.modCore_windowSince (s : State) (c : Nat) (f : Core → Core) : (s.modCore c f).windowSince = s.windowSince := rfl
@[simp] theorem State.modCore_nextId (s : State) (c : Nat) (f : Core → Core) : (s.modCore c f).nextId = s.nextId := rfl
@[simp] theorem State.modCore_freeCount (s : State) (c : Nat) (f : Core → Core) : (s.modCore c f).freeCount = s.freeCount := rfl
@[simp] theorem State.modCore_agenda (s : State) (c : Nat) (f : Core → Core) : (s.modCore c f).agenda = s.agenda := rfl
@[simp] theorem State.modCore_inbox (s : State) (c : Nat) (f : Core → Core) : (s.modCore c f).inbox = s.inbox := rfl
@[simp] theorem State.modCore_focus (s : State) (c : Nat) (f : Core → Core) : (s.modCore c f).focus = s.focus := rfl

@[simp] theorem State.setLink_clock (s : State) (n : Nat) (x : Link) : (s.setLink n x).clock = s.clock := rfl
@[simp] theorem State.setLink_ns (s : State) (n : Nat) (x : Link) : (s.setLink n x).ns = s.ns := rfl
@[simp] theorem State.setLink_nsRem (s : State) (n : Nat) (x : Link) : (s.setLink n x).nsRem = s.nsRem := rfl
@[simp] theorem State.setLink_mhz (s : State) (n : Nat) (x : Link) : (s.setLink n x).mhz = s.mhz := rfl
@[simp] theorem State.setLink_underRun (s : State) (n : Nat) (x : Link) : (s.setLink n x).underRun = s.underRun := rfl
@[simp] theorem State.setLink_throttleLog (s : State) (n : Nat) (x : Link) : (s.setLink n x).throttleLog = s.throttleLog := rfl
@[simp] theorem State.setLink_tripped (s : State) (n : Nat) (x : Link) : (s.setLink n x).tripped = s.tripped := rfl
@[simp] theorem State.setLink_devNum (s : State) (n : Nat) (x : Link) : (s.setLink n x).devNum = s.devNum := rfl
@[simp] theorem State.setLink_mem (s : State) (n : Nat) (x : Link) : (s.setLink n x).mem = s.mem := rfl
@[simp] theorem State.setLink_gtags (s : State) (n : Nat) (x : Link) : (s.setLink n x).gtags = s.gtags := rfl
@[simp] theorem State.setLink_writes (s : State) (n : Nat) (x : Link) : (s.setLink n x).writes = s.writes := rfl
@[simp] theorem State.setLink_remote (s : State) (n : Nat) (x : Link) : (s.setLink n x).remote = s.remote := rfl
@[simp] theorem State.setLink_remoteTags (s : State) (n : Nat) (x : Link) : (s.setLink n x).remoteTags = s.remoteTags := rfl
@[simp] theorem State.setLink_poison (s : State) (n : Nat) (x : Link) : (s.setLink n x).poison = s.poison := rfl
@[simp] theorem State.setLink_reqs (s : State) (n : Nat) (x : Link) : (s.setLink n x).reqs = s.reqs := rfl
@[simp] theorem State.setLink_held (s : State) (n : Nat) (x : Link) : (s.setLink n x).held = s.held := rfl
@[simp] theorem State.setLink_dies (s : State) (n : Nat) (x : Link) : (s.setLink n x).dies = s.dies := rfl
@[simp] theorem State.setLink_cores (s : State) (n : Nat) (x : Link) : (s.setLink n x).cores = s.cores := rfl
@[simp] theorem State.setLink_ctxs (s : State) (n : Nat) (x : Link) : (s.setLink n x).ctxs = s.ctxs := rfl
@[simp] theorem State.setLink_insts (s : State) (n : Nat) (x : Link) : (s.setLink n x).insts = s.insts := rfl
@[simp] theorem State.setLink_blocks (s : State) (n : Nat) (x : Link) : (s.setLink n x).blocks = s.blocks := rfl
@[simp] theorem State.setLink_objects (s : State) (n : Nat) (x : Link) : (s.setLink n x).objects = s.objects := rfl
@[simp] theorem State.setLink_trayObjs (s : State) (n : Nat) (x : Link) : (s.setLink n x).trayObjs = s.trayObjs := rfl
@[simp] theorem State.setLink_replicasObj (s : State) (n : Nat) (x : Link) : (s.setLink n x).replicasObj = s.replicasObj := rfl
@[simp] theorem State.setLink_resolutions (s : State) (n : Nat) (x : Link) : (s.setLink n x).resolutions = s.resolutions := rfl
@[simp] theorem State.setLink_departs (s : State) (n : Nat) (x : Link) : (s.setLink n x).departs = s.departs := rfl
@[simp] theorem State.setLink_invals (s : State) (n : Nat) (x : Link) : (s.setLink n x).invals = s.invals := rfl
@[simp] theorem State.setLink_pageFills (s : State) (n : Nat) (x : Link) : (s.setLink n x).pageFills = s.pageFills := rfl
@[simp] theorem State.setLink_stations (s : State) (n : Nat) (x : Link) : (s.setLink n x).stations = s.stations := rfl
@[simp] theorem State.setLink_flows (s : State) (n : Nat) (x : Link) : (s.setLink n x).flows = s.flows := rfl
@[simp] theorem State.setLink_packets (s : State) (n : Nat) (x : Link) : (s.setLink n x).packets = s.packets := rfl
@[simp] theorem State.setLink_inFlows (s : State) (n : Nat) (x : Link) : (s.setLink n x).inFlows = s.inFlows := rfl
@[simp] theorem State.setLink_mgmt (s : State) (n : Nat) (x : Link) : (s.setLink n x).mgmt = s.mgmt := rfl
@[simp] theorem State.setLink_levainNext (s : State) (n : Nat) (x : Link) : (s.setLink n x).levainNext = s.levainNext := rfl
@[simp] theorem State.setLink_levainFrame (s : State) (n : Nat) (x : Link) : (s.setLink n x).levainFrame = s.levainFrame := rfl
@[simp] theorem State.setLink_frames (s : State) (n : Nat) (x : Link) : (s.setLink n x).frames = s.frames := rfl
@[simp] theorem State.setLink_windowSince (s : State) (n : Nat) (x : Link) : (s.setLink n x).windowSince = s.windowSince := rfl
@[simp] theorem State.setLink_nextId (s : State) (n : Nat) (x : Link) : (s.setLink n x).nextId = s.nextId := rfl
@[simp] theorem State.setLink_freeCount (s : State) (n : Nat) (x : Link) : (s.setLink n x).freeCount = s.freeCount := rfl
@[simp] theorem State.setLink_agenda (s : State) (n : Nat) (x : Link) : (s.setLink n x).agenda = s.agenda := rfl
@[simp] theorem State.setLink_inbox (s : State) (n : Nat) (x : Link) : (s.setLink n x).inbox = s.inbox := rfl
@[simp] theorem State.setLink_focus (s : State) (n : Nat) (x : Link) : (s.setLink n x).focus = s.focus := rfl

@[simp] theorem State.modLink_clock (s : State) (n : Nat) (f : Link → Link) : (s.modLink n f).clock = s.clock := rfl
@[simp] theorem State.modLink_ns (s : State) (n : Nat) (f : Link → Link) : (s.modLink n f).ns = s.ns := rfl
@[simp] theorem State.modLink_nsRem (s : State) (n : Nat) (f : Link → Link) : (s.modLink n f).nsRem = s.nsRem := rfl
@[simp] theorem State.modLink_mhz (s : State) (n : Nat) (f : Link → Link) : (s.modLink n f).mhz = s.mhz := rfl
@[simp] theorem State.modLink_underRun (s : State) (n : Nat) (f : Link → Link) : (s.modLink n f).underRun = s.underRun := rfl
@[simp] theorem State.modLink_throttleLog (s : State) (n : Nat) (f : Link → Link) : (s.modLink n f).throttleLog = s.throttleLog := rfl
@[simp] theorem State.modLink_tripped (s : State) (n : Nat) (f : Link → Link) : (s.modLink n f).tripped = s.tripped := rfl
@[simp] theorem State.modLink_devNum (s : State) (n : Nat) (f : Link → Link) : (s.modLink n f).devNum = s.devNum := rfl
@[simp] theorem State.modLink_mem (s : State) (n : Nat) (f : Link → Link) : (s.modLink n f).mem = s.mem := rfl
@[simp] theorem State.modLink_gtags (s : State) (n : Nat) (f : Link → Link) : (s.modLink n f).gtags = s.gtags := rfl
@[simp] theorem State.modLink_writes (s : State) (n : Nat) (f : Link → Link) : (s.modLink n f).writes = s.writes := rfl
@[simp] theorem State.modLink_remote (s : State) (n : Nat) (f : Link → Link) : (s.modLink n f).remote = s.remote := rfl
@[simp] theorem State.modLink_remoteTags (s : State) (n : Nat) (f : Link → Link) : (s.modLink n f).remoteTags = s.remoteTags := rfl
@[simp] theorem State.modLink_poison (s : State) (n : Nat) (f : Link → Link) : (s.modLink n f).poison = s.poison := rfl
@[simp] theorem State.modLink_reqs (s : State) (n : Nat) (f : Link → Link) : (s.modLink n f).reqs = s.reqs := rfl
@[simp] theorem State.modLink_held (s : State) (n : Nat) (f : Link → Link) : (s.modLink n f).held = s.held := rfl
@[simp] theorem State.modLink_dies (s : State) (n : Nat) (f : Link → Link) : (s.modLink n f).dies = s.dies := rfl
@[simp] theorem State.modLink_cores (s : State) (n : Nat) (f : Link → Link) : (s.modLink n f).cores = s.cores := rfl
@[simp] theorem State.modLink_ctxs (s : State) (n : Nat) (f : Link → Link) : (s.modLink n f).ctxs = s.ctxs := rfl
@[simp] theorem State.modLink_insts (s : State) (n : Nat) (f : Link → Link) : (s.modLink n f).insts = s.insts := rfl
@[simp] theorem State.modLink_blocks (s : State) (n : Nat) (f : Link → Link) : (s.modLink n f).blocks = s.blocks := rfl
@[simp] theorem State.modLink_objects (s : State) (n : Nat) (f : Link → Link) : (s.modLink n f).objects = s.objects := rfl
@[simp] theorem State.modLink_trayObjs (s : State) (n : Nat) (f : Link → Link) : (s.modLink n f).trayObjs = s.trayObjs := rfl
@[simp] theorem State.modLink_replicasObj (s : State) (n : Nat) (f : Link → Link) : (s.modLink n f).replicasObj = s.replicasObj := rfl
@[simp] theorem State.modLink_resolutions (s : State) (n : Nat) (f : Link → Link) : (s.modLink n f).resolutions = s.resolutions := rfl
@[simp] theorem State.modLink_departs (s : State) (n : Nat) (f : Link → Link) : (s.modLink n f).departs = s.departs := rfl
@[simp] theorem State.modLink_invals (s : State) (n : Nat) (f : Link → Link) : (s.modLink n f).invals = s.invals := rfl
@[simp] theorem State.modLink_pageFills (s : State) (n : Nat) (f : Link → Link) : (s.modLink n f).pageFills = s.pageFills := rfl
@[simp] theorem State.modLink_stations (s : State) (n : Nat) (f : Link → Link) : (s.modLink n f).stations = s.stations := rfl
@[simp] theorem State.modLink_flows (s : State) (n : Nat) (f : Link → Link) : (s.modLink n f).flows = s.flows := rfl
@[simp] theorem State.modLink_packets (s : State) (n : Nat) (f : Link → Link) : (s.modLink n f).packets = s.packets := rfl
@[simp] theorem State.modLink_inFlows (s : State) (n : Nat) (f : Link → Link) : (s.modLink n f).inFlows = s.inFlows := rfl
@[simp] theorem State.modLink_mgmt (s : State) (n : Nat) (f : Link → Link) : (s.modLink n f).mgmt = s.mgmt := rfl
@[simp] theorem State.modLink_levainNext (s : State) (n : Nat) (f : Link → Link) : (s.modLink n f).levainNext = s.levainNext := rfl
@[simp] theorem State.modLink_levainFrame (s : State) (n : Nat) (f : Link → Link) : (s.modLink n f).levainFrame = s.levainFrame := rfl
@[simp] theorem State.modLink_frames (s : State) (n : Nat) (f : Link → Link) : (s.modLink n f).frames = s.frames := rfl
@[simp] theorem State.modLink_windowSince (s : State) (n : Nat) (f : Link → Link) : (s.modLink n f).windowSince = s.windowSince := rfl
@[simp] theorem State.modLink_nextId (s : State) (n : Nat) (f : Link → Link) : (s.modLink n f).nextId = s.nextId := rfl
@[simp] theorem State.modLink_freeCount (s : State) (n : Nat) (f : Link → Link) : (s.modLink n f).freeCount = s.freeCount := rfl
@[simp] theorem State.modLink_agenda (s : State) (n : Nat) (f : Link → Link) : (s.modLink n f).agenda = s.agenda := rfl
@[simp] theorem State.modLink_inbox (s : State) (n : Nat) (f : Link → Link) : (s.modLink n f).inbox = s.inbox := rfl
@[simp] theorem State.modLink_focus (s : State) (n : Nat) (f : Link → Link) : (s.modLink n f).focus = s.focus := rfl

@[simp] theorem State.modCtx_clock (s : State) (c : Nat) (f : Context → Context) : (s.modCtx c f).clock = s.clock := rfl
@[simp] theorem State.modCtx_ns (s : State) (c : Nat) (f : Context → Context) : (s.modCtx c f).ns = s.ns := rfl
@[simp] theorem State.modCtx_nsRem (s : State) (c : Nat) (f : Context → Context) : (s.modCtx c f).nsRem = s.nsRem := rfl
@[simp] theorem State.modCtx_mhz (s : State) (c : Nat) (f : Context → Context) : (s.modCtx c f).mhz = s.mhz := rfl
@[simp] theorem State.modCtx_underRun (s : State) (c : Nat) (f : Context → Context) : (s.modCtx c f).underRun = s.underRun := rfl
@[simp] theorem State.modCtx_throttleLog (s : State) (c : Nat) (f : Context → Context) : (s.modCtx c f).throttleLog = s.throttleLog := rfl
@[simp] theorem State.modCtx_tripped (s : State) (c : Nat) (f : Context → Context) : (s.modCtx c f).tripped = s.tripped := rfl
@[simp] theorem State.modCtx_devNum (s : State) (c : Nat) (f : Context → Context) : (s.modCtx c f).devNum = s.devNum := rfl
@[simp] theorem State.modCtx_mem (s : State) (c : Nat) (f : Context → Context) : (s.modCtx c f).mem = s.mem := rfl
@[simp] theorem State.modCtx_gtags (s : State) (c : Nat) (f : Context → Context) : (s.modCtx c f).gtags = s.gtags := rfl
@[simp] theorem State.modCtx_writes (s : State) (c : Nat) (f : Context → Context) : (s.modCtx c f).writes = s.writes := rfl
@[simp] theorem State.modCtx_remote (s : State) (c : Nat) (f : Context → Context) : (s.modCtx c f).remote = s.remote := rfl
@[simp] theorem State.modCtx_remoteTags (s : State) (c : Nat) (f : Context → Context) : (s.modCtx c f).remoteTags = s.remoteTags := rfl
@[simp] theorem State.modCtx_poison (s : State) (c : Nat) (f : Context → Context) : (s.modCtx c f).poison = s.poison := rfl
@[simp] theorem State.modCtx_reqs (s : State) (c : Nat) (f : Context → Context) : (s.modCtx c f).reqs = s.reqs := rfl
@[simp] theorem State.modCtx_held (s : State) (c : Nat) (f : Context → Context) : (s.modCtx c f).held = s.held := rfl
@[simp] theorem State.modCtx_dies (s : State) (c : Nat) (f : Context → Context) : (s.modCtx c f).dies = s.dies := rfl
@[simp] theorem State.modCtx_cores (s : State) (c : Nat) (f : Context → Context) : (s.modCtx c f).cores = s.cores := rfl
@[simp] theorem State.modCtx_insts (s : State) (c : Nat) (f : Context → Context) : (s.modCtx c f).insts = s.insts := rfl
@[simp] theorem State.modCtx_blocks (s : State) (c : Nat) (f : Context → Context) : (s.modCtx c f).blocks = s.blocks := rfl
@[simp] theorem State.modCtx_objects (s : State) (c : Nat) (f : Context → Context) : (s.modCtx c f).objects = s.objects := rfl
@[simp] theorem State.modCtx_trayObjs (s : State) (c : Nat) (f : Context → Context) : (s.modCtx c f).trayObjs = s.trayObjs := rfl
@[simp] theorem State.modCtx_replicasObj (s : State) (c : Nat) (f : Context → Context) : (s.modCtx c f).replicasObj = s.replicasObj := rfl
@[simp] theorem State.modCtx_resolutions (s : State) (c : Nat) (f : Context → Context) : (s.modCtx c f).resolutions = s.resolutions := rfl
@[simp] theorem State.modCtx_departs (s : State) (c : Nat) (f : Context → Context) : (s.modCtx c f).departs = s.departs := rfl
@[simp] theorem State.modCtx_invals (s : State) (c : Nat) (f : Context → Context) : (s.modCtx c f).invals = s.invals := rfl
@[simp] theorem State.modCtx_pageFills (s : State) (c : Nat) (f : Context → Context) : (s.modCtx c f).pageFills = s.pageFills := rfl
@[simp] theorem State.modCtx_stations (s : State) (c : Nat) (f : Context → Context) : (s.modCtx c f).stations = s.stations := rfl
@[simp] theorem State.modCtx_links (s : State) (c : Nat) (f : Context → Context) : (s.modCtx c f).links = s.links := rfl
@[simp] theorem State.modCtx_flows (s : State) (c : Nat) (f : Context → Context) : (s.modCtx c f).flows = s.flows := rfl
@[simp] theorem State.modCtx_packets (s : State) (c : Nat) (f : Context → Context) : (s.modCtx c f).packets = s.packets := rfl
@[simp] theorem State.modCtx_inFlows (s : State) (c : Nat) (f : Context → Context) : (s.modCtx c f).inFlows = s.inFlows := rfl
@[simp] theorem State.modCtx_mgmt (s : State) (c : Nat) (f : Context → Context) : (s.modCtx c f).mgmt = s.mgmt := rfl
@[simp] theorem State.modCtx_levainNext (s : State) (c : Nat) (f : Context → Context) : (s.modCtx c f).levainNext = s.levainNext := rfl
@[simp] theorem State.modCtx_levainFrame (s : State) (c : Nat) (f : Context → Context) : (s.modCtx c f).levainFrame = s.levainFrame := rfl
@[simp] theorem State.modCtx_frames (s : State) (c : Nat) (f : Context → Context) : (s.modCtx c f).frames = s.frames := rfl
@[simp] theorem State.modCtx_windowSince (s : State) (c : Nat) (f : Context → Context) : (s.modCtx c f).windowSince = s.windowSince := rfl
@[simp] theorem State.modCtx_nextId (s : State) (c : Nat) (f : Context → Context) : (s.modCtx c f).nextId = s.nextId := rfl
@[simp] theorem State.modCtx_freeCount (s : State) (c : Nat) (f : Context → Context) : (s.modCtx c f).freeCount = s.freeCount := rfl
@[simp] theorem State.modCtx_agenda (s : State) (c : Nat) (f : Context → Context) : (s.modCtx c f).agenda = s.agenda := rfl
@[simp] theorem State.modCtx_inbox (s : State) (c : Nat) (f : Context → Context) : (s.modCtx c f).inbox = s.inbox := rfl
@[simp] theorem State.modCtx_focus (s : State) (c : Nat) (f : Context → Context) : (s.modCtx c f).focus = s.focus := rfl

@[simp] theorem State.modInst_clock (s : State) (i : Nat) (f : Instance → Instance) : (s.modInst i f).clock = s.clock := rfl
@[simp] theorem State.modInst_ns (s : State) (i : Nat) (f : Instance → Instance) : (s.modInst i f).ns = s.ns := rfl
@[simp] theorem State.modInst_nsRem (s : State) (i : Nat) (f : Instance → Instance) : (s.modInst i f).nsRem = s.nsRem := rfl
@[simp] theorem State.modInst_mhz (s : State) (i : Nat) (f : Instance → Instance) : (s.modInst i f).mhz = s.mhz := rfl
@[simp] theorem State.modInst_underRun (s : State) (i : Nat) (f : Instance → Instance) : (s.modInst i f).underRun = s.underRun := rfl
@[simp] theorem State.modInst_throttleLog (s : State) (i : Nat) (f : Instance → Instance) : (s.modInst i f).throttleLog = s.throttleLog := rfl
@[simp] theorem State.modInst_tripped (s : State) (i : Nat) (f : Instance → Instance) : (s.modInst i f).tripped = s.tripped := rfl
@[simp] theorem State.modInst_devNum (s : State) (i : Nat) (f : Instance → Instance) : (s.modInst i f).devNum = s.devNum := rfl
@[simp] theorem State.modInst_mem (s : State) (i : Nat) (f : Instance → Instance) : (s.modInst i f).mem = s.mem := rfl
@[simp] theorem State.modInst_gtags (s : State) (i : Nat) (f : Instance → Instance) : (s.modInst i f).gtags = s.gtags := rfl
@[simp] theorem State.modInst_writes (s : State) (i : Nat) (f : Instance → Instance) : (s.modInst i f).writes = s.writes := rfl
@[simp] theorem State.modInst_remote (s : State) (i : Nat) (f : Instance → Instance) : (s.modInst i f).remote = s.remote := rfl
@[simp] theorem State.modInst_remoteTags (s : State) (i : Nat) (f : Instance → Instance) : (s.modInst i f).remoteTags = s.remoteTags := rfl
@[simp] theorem State.modInst_poison (s : State) (i : Nat) (f : Instance → Instance) : (s.modInst i f).poison = s.poison := rfl
@[simp] theorem State.modInst_reqs (s : State) (i : Nat) (f : Instance → Instance) : (s.modInst i f).reqs = s.reqs := rfl
@[simp] theorem State.modInst_held (s : State) (i : Nat) (f : Instance → Instance) : (s.modInst i f).held = s.held := rfl
@[simp] theorem State.modInst_dies (s : State) (i : Nat) (f : Instance → Instance) : (s.modInst i f).dies = s.dies := rfl
@[simp] theorem State.modInst_cores (s : State) (i : Nat) (f : Instance → Instance) : (s.modInst i f).cores = s.cores := rfl
@[simp] theorem State.modInst_ctxs (s : State) (i : Nat) (f : Instance → Instance) : (s.modInst i f).ctxs = s.ctxs := rfl
@[simp] theorem State.modInst_blocks (s : State) (i : Nat) (f : Instance → Instance) : (s.modInst i f).blocks = s.blocks := rfl
@[simp] theorem State.modInst_objects (s : State) (i : Nat) (f : Instance → Instance) : (s.modInst i f).objects = s.objects := rfl
@[simp] theorem State.modInst_trayObjs (s : State) (i : Nat) (f : Instance → Instance) : (s.modInst i f).trayObjs = s.trayObjs := rfl
@[simp] theorem State.modInst_replicasObj (s : State) (i : Nat) (f : Instance → Instance) : (s.modInst i f).replicasObj = s.replicasObj := rfl
@[simp] theorem State.modInst_resolutions (s : State) (i : Nat) (f : Instance → Instance) : (s.modInst i f).resolutions = s.resolutions := rfl
@[simp] theorem State.modInst_departs (s : State) (i : Nat) (f : Instance → Instance) : (s.modInst i f).departs = s.departs := rfl
@[simp] theorem State.modInst_invals (s : State) (i : Nat) (f : Instance → Instance) : (s.modInst i f).invals = s.invals := rfl
@[simp] theorem State.modInst_pageFills (s : State) (i : Nat) (f : Instance → Instance) : (s.modInst i f).pageFills = s.pageFills := rfl
@[simp] theorem State.modInst_stations (s : State) (i : Nat) (f : Instance → Instance) : (s.modInst i f).stations = s.stations := rfl
@[simp] theorem State.modInst_links (s : State) (i : Nat) (f : Instance → Instance) : (s.modInst i f).links = s.links := rfl
@[simp] theorem State.modInst_flows (s : State) (i : Nat) (f : Instance → Instance) : (s.modInst i f).flows = s.flows := rfl
@[simp] theorem State.modInst_packets (s : State) (i : Nat) (f : Instance → Instance) : (s.modInst i f).packets = s.packets := rfl
@[simp] theorem State.modInst_inFlows (s : State) (i : Nat) (f : Instance → Instance) : (s.modInst i f).inFlows = s.inFlows := rfl
@[simp] theorem State.modInst_mgmt (s : State) (i : Nat) (f : Instance → Instance) : (s.modInst i f).mgmt = s.mgmt := rfl
@[simp] theorem State.modInst_levainNext (s : State) (i : Nat) (f : Instance → Instance) : (s.modInst i f).levainNext = s.levainNext := rfl
@[simp] theorem State.modInst_levainFrame (s : State) (i : Nat) (f : Instance → Instance) : (s.modInst i f).levainFrame = s.levainFrame := rfl
@[simp] theorem State.modInst_frames (s : State) (i : Nat) (f : Instance → Instance) : (s.modInst i f).frames = s.frames := rfl
@[simp] theorem State.modInst_windowSince (s : State) (i : Nat) (f : Instance → Instance) : (s.modInst i f).windowSince = s.windowSince := rfl
@[simp] theorem State.modInst_nextId (s : State) (i : Nat) (f : Instance → Instance) : (s.modInst i f).nextId = s.nextId := rfl
@[simp] theorem State.modInst_freeCount (s : State) (i : Nat) (f : Instance → Instance) : (s.modInst i f).freeCount = s.freeCount := rfl
@[simp] theorem State.modInst_agenda (s : State) (i : Nat) (f : Instance → Instance) : (s.modInst i f).agenda = s.agenda := rfl
@[simp] theorem State.modInst_inbox (s : State) (i : Nat) (f : Instance → Instance) : (s.modInst i f).inbox = s.inbox := rfl
@[simp] theorem State.modInst_focus (s : State) (i : Nat) (f : Instance → Instance) : (s.modInst i f).focus = s.focus := rfl

@[simp] theorem State.modBlock_clock (s : State) (b : Nat) (f : Block → Block) : (s.modBlock b f).clock = s.clock := rfl
@[simp] theorem State.modBlock_ns (s : State) (b : Nat) (f : Block → Block) : (s.modBlock b f).ns = s.ns := rfl
@[simp] theorem State.modBlock_nsRem (s : State) (b : Nat) (f : Block → Block) : (s.modBlock b f).nsRem = s.nsRem := rfl
@[simp] theorem State.modBlock_mhz (s : State) (b : Nat) (f : Block → Block) : (s.modBlock b f).mhz = s.mhz := rfl
@[simp] theorem State.modBlock_underRun (s : State) (b : Nat) (f : Block → Block) : (s.modBlock b f).underRun = s.underRun := rfl
@[simp] theorem State.modBlock_throttleLog (s : State) (b : Nat) (f : Block → Block) : (s.modBlock b f).throttleLog = s.throttleLog := rfl
@[simp] theorem State.modBlock_tripped (s : State) (b : Nat) (f : Block → Block) : (s.modBlock b f).tripped = s.tripped := rfl
@[simp] theorem State.modBlock_devNum (s : State) (b : Nat) (f : Block → Block) : (s.modBlock b f).devNum = s.devNum := rfl
@[simp] theorem State.modBlock_mem (s : State) (b : Nat) (f : Block → Block) : (s.modBlock b f).mem = s.mem := rfl
@[simp] theorem State.modBlock_gtags (s : State) (b : Nat) (f : Block → Block) : (s.modBlock b f).gtags = s.gtags := rfl
@[simp] theorem State.modBlock_writes (s : State) (b : Nat) (f : Block → Block) : (s.modBlock b f).writes = s.writes := rfl
@[simp] theorem State.modBlock_remote (s : State) (b : Nat) (f : Block → Block) : (s.modBlock b f).remote = s.remote := rfl
@[simp] theorem State.modBlock_remoteTags (s : State) (b : Nat) (f : Block → Block) : (s.modBlock b f).remoteTags = s.remoteTags := rfl
@[simp] theorem State.modBlock_poison (s : State) (b : Nat) (f : Block → Block) : (s.modBlock b f).poison = s.poison := rfl
@[simp] theorem State.modBlock_reqs (s : State) (b : Nat) (f : Block → Block) : (s.modBlock b f).reqs = s.reqs := rfl
@[simp] theorem State.modBlock_held (s : State) (b : Nat) (f : Block → Block) : (s.modBlock b f).held = s.held := rfl
@[simp] theorem State.modBlock_dies (s : State) (b : Nat) (f : Block → Block) : (s.modBlock b f).dies = s.dies := rfl
@[simp] theorem State.modBlock_cores (s : State) (b : Nat) (f : Block → Block) : (s.modBlock b f).cores = s.cores := rfl
@[simp] theorem State.modBlock_ctxs (s : State) (b : Nat) (f : Block → Block) : (s.modBlock b f).ctxs = s.ctxs := rfl
@[simp] theorem State.modBlock_insts (s : State) (b : Nat) (f : Block → Block) : (s.modBlock b f).insts = s.insts := rfl
@[simp] theorem State.modBlock_objects (s : State) (b : Nat) (f : Block → Block) : (s.modBlock b f).objects = s.objects := rfl
@[simp] theorem State.modBlock_trayObjs (s : State) (b : Nat) (f : Block → Block) : (s.modBlock b f).trayObjs = s.trayObjs := rfl
@[simp] theorem State.modBlock_replicasObj (s : State) (b : Nat) (f : Block → Block) : (s.modBlock b f).replicasObj = s.replicasObj := rfl
@[simp] theorem State.modBlock_resolutions (s : State) (b : Nat) (f : Block → Block) : (s.modBlock b f).resolutions = s.resolutions := rfl
@[simp] theorem State.modBlock_departs (s : State) (b : Nat) (f : Block → Block) : (s.modBlock b f).departs = s.departs := rfl
@[simp] theorem State.modBlock_invals (s : State) (b : Nat) (f : Block → Block) : (s.modBlock b f).invals = s.invals := rfl
@[simp] theorem State.modBlock_pageFills (s : State) (b : Nat) (f : Block → Block) : (s.modBlock b f).pageFills = s.pageFills := rfl
@[simp] theorem State.modBlock_stations (s : State) (b : Nat) (f : Block → Block) : (s.modBlock b f).stations = s.stations := rfl
@[simp] theorem State.modBlock_links (s : State) (b : Nat) (f : Block → Block) : (s.modBlock b f).links = s.links := rfl
@[simp] theorem State.modBlock_flows (s : State) (b : Nat) (f : Block → Block) : (s.modBlock b f).flows = s.flows := rfl
@[simp] theorem State.modBlock_packets (s : State) (b : Nat) (f : Block → Block) : (s.modBlock b f).packets = s.packets := rfl
@[simp] theorem State.modBlock_inFlows (s : State) (b : Nat) (f : Block → Block) : (s.modBlock b f).inFlows = s.inFlows := rfl
@[simp] theorem State.modBlock_mgmt (s : State) (b : Nat) (f : Block → Block) : (s.modBlock b f).mgmt = s.mgmt := rfl
@[simp] theorem State.modBlock_levainNext (s : State) (b : Nat) (f : Block → Block) : (s.modBlock b f).levainNext = s.levainNext := rfl
@[simp] theorem State.modBlock_levainFrame (s : State) (b : Nat) (f : Block → Block) : (s.modBlock b f).levainFrame = s.levainFrame := rfl
@[simp] theorem State.modBlock_frames (s : State) (b : Nat) (f : Block → Block) : (s.modBlock b f).frames = s.frames := rfl
@[simp] theorem State.modBlock_windowSince (s : State) (b : Nat) (f : Block → Block) : (s.modBlock b f).windowSince = s.windowSince := rfl
@[simp] theorem State.modBlock_nextId (s : State) (b : Nat) (f : Block → Block) : (s.modBlock b f).nextId = s.nextId := rfl
@[simp] theorem State.modBlock_freeCount (s : State) (b : Nat) (f : Block → Block) : (s.modBlock b f).freeCount = s.freeCount := rfl
@[simp] theorem State.modBlock_agenda (s : State) (b : Nat) (f : Block → Block) : (s.modBlock b f).agenda = s.agenda := rfl
@[simp] theorem State.modBlock_inbox (s : State) (b : Nat) (f : Block → Block) : (s.modBlock b f).inbox = s.inbox := rfl
@[simp] theorem State.modBlock_focus (s : State) (b : Nat) (f : Block → Block) : (s.modBlock b f).focus = s.focus := rfl

@[simp] theorem State.modGroup_clock (s : State) (b g : Nat) (f : Group → Group) : (s.modGroup b g f).clock = s.clock := rfl
@[simp] theorem State.modGroup_ns (s : State) (b g : Nat) (f : Group → Group) : (s.modGroup b g f).ns = s.ns := rfl
@[simp] theorem State.modGroup_nsRem (s : State) (b g : Nat) (f : Group → Group) : (s.modGroup b g f).nsRem = s.nsRem := rfl
@[simp] theorem State.modGroup_mhz (s : State) (b g : Nat) (f : Group → Group) : (s.modGroup b g f).mhz = s.mhz := rfl
@[simp] theorem State.modGroup_underRun (s : State) (b g : Nat) (f : Group → Group) : (s.modGroup b g f).underRun = s.underRun := rfl
@[simp] theorem State.modGroup_throttleLog (s : State) (b g : Nat) (f : Group → Group) : (s.modGroup b g f).throttleLog = s.throttleLog := rfl
@[simp] theorem State.modGroup_tripped (s : State) (b g : Nat) (f : Group → Group) : (s.modGroup b g f).tripped = s.tripped := rfl
@[simp] theorem State.modGroup_devNum (s : State) (b g : Nat) (f : Group → Group) : (s.modGroup b g f).devNum = s.devNum := rfl
@[simp] theorem State.modGroup_mem (s : State) (b g : Nat) (f : Group → Group) : (s.modGroup b g f).mem = s.mem := rfl
@[simp] theorem State.modGroup_gtags (s : State) (b g : Nat) (f : Group → Group) : (s.modGroup b g f).gtags = s.gtags := rfl
@[simp] theorem State.modGroup_writes (s : State) (b g : Nat) (f : Group → Group) : (s.modGroup b g f).writes = s.writes := rfl
@[simp] theorem State.modGroup_remote (s : State) (b g : Nat) (f : Group → Group) : (s.modGroup b g f).remote = s.remote := rfl
@[simp] theorem State.modGroup_remoteTags (s : State) (b g : Nat) (f : Group → Group) : (s.modGroup b g f).remoteTags = s.remoteTags := rfl
@[simp] theorem State.modGroup_poison (s : State) (b g : Nat) (f : Group → Group) : (s.modGroup b g f).poison = s.poison := rfl
@[simp] theorem State.modGroup_reqs (s : State) (b g : Nat) (f : Group → Group) : (s.modGroup b g f).reqs = s.reqs := rfl
@[simp] theorem State.modGroup_held (s : State) (b g : Nat) (f : Group → Group) : (s.modGroup b g f).held = s.held := rfl
@[simp] theorem State.modGroup_dies (s : State) (b g : Nat) (f : Group → Group) : (s.modGroup b g f).dies = s.dies := rfl
@[simp] theorem State.modGroup_cores (s : State) (b g : Nat) (f : Group → Group) : (s.modGroup b g f).cores = s.cores := rfl
@[simp] theorem State.modGroup_ctxs (s : State) (b g : Nat) (f : Group → Group) : (s.modGroup b g f).ctxs = s.ctxs := rfl
@[simp] theorem State.modGroup_insts (s : State) (b g : Nat) (f : Group → Group) : (s.modGroup b g f).insts = s.insts := rfl
@[simp] theorem State.modGroup_objects (s : State) (b g : Nat) (f : Group → Group) : (s.modGroup b g f).objects = s.objects := rfl
@[simp] theorem State.modGroup_trayObjs (s : State) (b g : Nat) (f : Group → Group) : (s.modGroup b g f).trayObjs = s.trayObjs := rfl
@[simp] theorem State.modGroup_replicasObj (s : State) (b g : Nat) (f : Group → Group) : (s.modGroup b g f).replicasObj = s.replicasObj := rfl
@[simp] theorem State.modGroup_resolutions (s : State) (b g : Nat) (f : Group → Group) : (s.modGroup b g f).resolutions = s.resolutions := rfl
@[simp] theorem State.modGroup_departs (s : State) (b g : Nat) (f : Group → Group) : (s.modGroup b g f).departs = s.departs := rfl
@[simp] theorem State.modGroup_invals (s : State) (b g : Nat) (f : Group → Group) : (s.modGroup b g f).invals = s.invals := rfl
@[simp] theorem State.modGroup_pageFills (s : State) (b g : Nat) (f : Group → Group) : (s.modGroup b g f).pageFills = s.pageFills := rfl
@[simp] theorem State.modGroup_stations (s : State) (b g : Nat) (f : Group → Group) : (s.modGroup b g f).stations = s.stations := rfl
@[simp] theorem State.modGroup_links (s : State) (b g : Nat) (f : Group → Group) : (s.modGroup b g f).links = s.links := rfl
@[simp] theorem State.modGroup_flows (s : State) (b g : Nat) (f : Group → Group) : (s.modGroup b g f).flows = s.flows := rfl
@[simp] theorem State.modGroup_packets (s : State) (b g : Nat) (f : Group → Group) : (s.modGroup b g f).packets = s.packets := rfl
@[simp] theorem State.modGroup_inFlows (s : State) (b g : Nat) (f : Group → Group) : (s.modGroup b g f).inFlows = s.inFlows := rfl
@[simp] theorem State.modGroup_mgmt (s : State) (b g : Nat) (f : Group → Group) : (s.modGroup b g f).mgmt = s.mgmt := rfl
@[simp] theorem State.modGroup_levainNext (s : State) (b g : Nat) (f : Group → Group) : (s.modGroup b g f).levainNext = s.levainNext := rfl
@[simp] theorem State.modGroup_levainFrame (s : State) (b g : Nat) (f : Group → Group) : (s.modGroup b g f).levainFrame = s.levainFrame := rfl
@[simp] theorem State.modGroup_frames (s : State) (b g : Nat) (f : Group → Group) : (s.modGroup b g f).frames = s.frames := rfl
@[simp] theorem State.modGroup_windowSince (s : State) (b g : Nat) (f : Group → Group) : (s.modGroup b g f).windowSince = s.windowSince := rfl
@[simp] theorem State.modGroup_nextId (s : State) (b g : Nat) (f : Group → Group) : (s.modGroup b g f).nextId = s.nextId := rfl
@[simp] theorem State.modGroup_freeCount (s : State) (b g : Nat) (f : Group → Group) : (s.modGroup b g f).freeCount = s.freeCount := rfl
@[simp] theorem State.modGroup_agenda (s : State) (b g : Nat) (f : Group → Group) : (s.modGroup b g f).agenda = s.agenda := rfl
@[simp] theorem State.modGroup_inbox (s : State) (b g : Nat) (f : Group → Group) : (s.modGroup b g f).inbox = s.inbox := rfl
@[simp] theorem State.modGroup_focus (s : State) (b g : Nat) (f : Group → Group) : (s.modGroup b g f).focus = s.focus := rfl

@[simp] theorem State.modLane_clock (s : State) (b g l : Nat) (f : Lane → Lane) : (s.modLane b g l f).clock = s.clock := rfl
@[simp] theorem State.modLane_ns (s : State) (b g l : Nat) (f : Lane → Lane) : (s.modLane b g l f).ns = s.ns := rfl
@[simp] theorem State.modLane_nsRem (s : State) (b g l : Nat) (f : Lane → Lane) : (s.modLane b g l f).nsRem = s.nsRem := rfl
@[simp] theorem State.modLane_mhz (s : State) (b g l : Nat) (f : Lane → Lane) : (s.modLane b g l f).mhz = s.mhz := rfl
@[simp] theorem State.modLane_underRun (s : State) (b g l : Nat) (f : Lane → Lane) : (s.modLane b g l f).underRun = s.underRun := rfl
@[simp] theorem State.modLane_throttleLog (s : State) (b g l : Nat) (f : Lane → Lane) : (s.modLane b g l f).throttleLog = s.throttleLog := rfl
@[simp] theorem State.modLane_tripped (s : State) (b g l : Nat) (f : Lane → Lane) : (s.modLane b g l f).tripped = s.tripped := rfl
@[simp] theorem State.modLane_devNum (s : State) (b g l : Nat) (f : Lane → Lane) : (s.modLane b g l f).devNum = s.devNum := rfl
@[simp] theorem State.modLane_mem (s : State) (b g l : Nat) (f : Lane → Lane) : (s.modLane b g l f).mem = s.mem := rfl
@[simp] theorem State.modLane_gtags (s : State) (b g l : Nat) (f : Lane → Lane) : (s.modLane b g l f).gtags = s.gtags := rfl
@[simp] theorem State.modLane_writes (s : State) (b g l : Nat) (f : Lane → Lane) : (s.modLane b g l f).writes = s.writes := rfl
@[simp] theorem State.modLane_remote (s : State) (b g l : Nat) (f : Lane → Lane) : (s.modLane b g l f).remote = s.remote := rfl
@[simp] theorem State.modLane_remoteTags (s : State) (b g l : Nat) (f : Lane → Lane) : (s.modLane b g l f).remoteTags = s.remoteTags := rfl
@[simp] theorem State.modLane_poison (s : State) (b g l : Nat) (f : Lane → Lane) : (s.modLane b g l f).poison = s.poison := rfl
@[simp] theorem State.modLane_reqs (s : State) (b g l : Nat) (f : Lane → Lane) : (s.modLane b g l f).reqs = s.reqs := rfl
@[simp] theorem State.modLane_held (s : State) (b g l : Nat) (f : Lane → Lane) : (s.modLane b g l f).held = s.held := rfl
@[simp] theorem State.modLane_dies (s : State) (b g l : Nat) (f : Lane → Lane) : (s.modLane b g l f).dies = s.dies := rfl
@[simp] theorem State.modLane_cores (s : State) (b g l : Nat) (f : Lane → Lane) : (s.modLane b g l f).cores = s.cores := rfl
@[simp] theorem State.modLane_ctxs (s : State) (b g l : Nat) (f : Lane → Lane) : (s.modLane b g l f).ctxs = s.ctxs := rfl
@[simp] theorem State.modLane_insts (s : State) (b g l : Nat) (f : Lane → Lane) : (s.modLane b g l f).insts = s.insts := rfl
@[simp] theorem State.modLane_objects (s : State) (b g l : Nat) (f : Lane → Lane) : (s.modLane b g l f).objects = s.objects := rfl
@[simp] theorem State.modLane_trayObjs (s : State) (b g l : Nat) (f : Lane → Lane) : (s.modLane b g l f).trayObjs = s.trayObjs := rfl
@[simp] theorem State.modLane_replicasObj (s : State) (b g l : Nat) (f : Lane → Lane) : (s.modLane b g l f).replicasObj = s.replicasObj := rfl
@[simp] theorem State.modLane_resolutions (s : State) (b g l : Nat) (f : Lane → Lane) : (s.modLane b g l f).resolutions = s.resolutions := rfl
@[simp] theorem State.modLane_departs (s : State) (b g l : Nat) (f : Lane → Lane) : (s.modLane b g l f).departs = s.departs := rfl
@[simp] theorem State.modLane_invals (s : State) (b g l : Nat) (f : Lane → Lane) : (s.modLane b g l f).invals = s.invals := rfl
@[simp] theorem State.modLane_pageFills (s : State) (b g l : Nat) (f : Lane → Lane) : (s.modLane b g l f).pageFills = s.pageFills := rfl
@[simp] theorem State.modLane_stations (s : State) (b g l : Nat) (f : Lane → Lane) : (s.modLane b g l f).stations = s.stations := rfl
@[simp] theorem State.modLane_links (s : State) (b g l : Nat) (f : Lane → Lane) : (s.modLane b g l f).links = s.links := rfl
@[simp] theorem State.modLane_flows (s : State) (b g l : Nat) (f : Lane → Lane) : (s.modLane b g l f).flows = s.flows := rfl
@[simp] theorem State.modLane_packets (s : State) (b g l : Nat) (f : Lane → Lane) : (s.modLane b g l f).packets = s.packets := rfl
@[simp] theorem State.modLane_inFlows (s : State) (b g l : Nat) (f : Lane → Lane) : (s.modLane b g l f).inFlows = s.inFlows := rfl
@[simp] theorem State.modLane_mgmt (s : State) (b g l : Nat) (f : Lane → Lane) : (s.modLane b g l f).mgmt = s.mgmt := rfl
@[simp] theorem State.modLane_levainNext (s : State) (b g l : Nat) (f : Lane → Lane) : (s.modLane b g l f).levainNext = s.levainNext := rfl
@[simp] theorem State.modLane_levainFrame (s : State) (b g l : Nat) (f : Lane → Lane) : (s.modLane b g l f).levainFrame = s.levainFrame := rfl
@[simp] theorem State.modLane_frames (s : State) (b g l : Nat) (f : Lane → Lane) : (s.modLane b g l f).frames = s.frames := rfl
@[simp] theorem State.modLane_windowSince (s : State) (b g l : Nat) (f : Lane → Lane) : (s.modLane b g l f).windowSince = s.windowSince := rfl
@[simp] theorem State.modLane_nextId (s : State) (b g l : Nat) (f : Lane → Lane) : (s.modLane b g l f).nextId = s.nextId := rfl
@[simp] theorem State.modLane_freeCount (s : State) (b g l : Nat) (f : Lane → Lane) : (s.modLane b g l f).freeCount = s.freeCount := rfl
@[simp] theorem State.modLane_agenda (s : State) (b g l : Nat) (f : Lane → Lane) : (s.modLane b g l f).agenda = s.agenda := rfl
@[simp] theorem State.modLane_inbox (s : State) (b g l : Nat) (f : Lane → Lane) : (s.modLane b g l f).inbox = s.inbox := rfl
@[simp] theorem State.modLane_focus (s : State) (b g l : Nat) (f : Lane → Lane) : (s.modLane b g l f).focus = s.focus := rfl

@[simp] theorem State.modLanes_clock (s : State) (b g : Nat) (ls : List Nat) (f : Nat → Lane → Lane) : (s.modLanes b g ls f).clock = s.clock := rfl
@[simp] theorem State.modLanes_ns (s : State) (b g : Nat) (ls : List Nat) (f : Nat → Lane → Lane) : (s.modLanes b g ls f).ns = s.ns := rfl
@[simp] theorem State.modLanes_nsRem (s : State) (b g : Nat) (ls : List Nat) (f : Nat → Lane → Lane) : (s.modLanes b g ls f).nsRem = s.nsRem := rfl
@[simp] theorem State.modLanes_mhz (s : State) (b g : Nat) (ls : List Nat) (f : Nat → Lane → Lane) : (s.modLanes b g ls f).mhz = s.mhz := rfl
@[simp] theorem State.modLanes_underRun (s : State) (b g : Nat) (ls : List Nat) (f : Nat → Lane → Lane) : (s.modLanes b g ls f).underRun = s.underRun := rfl
@[simp] theorem State.modLanes_throttleLog (s : State) (b g : Nat) (ls : List Nat) (f : Nat → Lane → Lane) : (s.modLanes b g ls f).throttleLog = s.throttleLog := rfl
@[simp] theorem State.modLanes_tripped (s : State) (b g : Nat) (ls : List Nat) (f : Nat → Lane → Lane) : (s.modLanes b g ls f).tripped = s.tripped := rfl
@[simp] theorem State.modLanes_devNum (s : State) (b g : Nat) (ls : List Nat) (f : Nat → Lane → Lane) : (s.modLanes b g ls f).devNum = s.devNum := rfl
@[simp] theorem State.modLanes_mem (s : State) (b g : Nat) (ls : List Nat) (f : Nat → Lane → Lane) : (s.modLanes b g ls f).mem = s.mem := rfl
@[simp] theorem State.modLanes_gtags (s : State) (b g : Nat) (ls : List Nat) (f : Nat → Lane → Lane) : (s.modLanes b g ls f).gtags = s.gtags := rfl
@[simp] theorem State.modLanes_writes (s : State) (b g : Nat) (ls : List Nat) (f : Nat → Lane → Lane) : (s.modLanes b g ls f).writes = s.writes := rfl
@[simp] theorem State.modLanes_remote (s : State) (b g : Nat) (ls : List Nat) (f : Nat → Lane → Lane) : (s.modLanes b g ls f).remote = s.remote := rfl
@[simp] theorem State.modLanes_remoteTags (s : State) (b g : Nat) (ls : List Nat) (f : Nat → Lane → Lane) : (s.modLanes b g ls f).remoteTags = s.remoteTags := rfl
@[simp] theorem State.modLanes_poison (s : State) (b g : Nat) (ls : List Nat) (f : Nat → Lane → Lane) : (s.modLanes b g ls f).poison = s.poison := rfl
@[simp] theorem State.modLanes_reqs (s : State) (b g : Nat) (ls : List Nat) (f : Nat → Lane → Lane) : (s.modLanes b g ls f).reqs = s.reqs := rfl
@[simp] theorem State.modLanes_held (s : State) (b g : Nat) (ls : List Nat) (f : Nat → Lane → Lane) : (s.modLanes b g ls f).held = s.held := rfl
@[simp] theorem State.modLanes_dies (s : State) (b g : Nat) (ls : List Nat) (f : Nat → Lane → Lane) : (s.modLanes b g ls f).dies = s.dies := rfl
@[simp] theorem State.modLanes_cores (s : State) (b g : Nat) (ls : List Nat) (f : Nat → Lane → Lane) : (s.modLanes b g ls f).cores = s.cores := rfl
@[simp] theorem State.modLanes_ctxs (s : State) (b g : Nat) (ls : List Nat) (f : Nat → Lane → Lane) : (s.modLanes b g ls f).ctxs = s.ctxs := rfl
@[simp] theorem State.modLanes_insts (s : State) (b g : Nat) (ls : List Nat) (f : Nat → Lane → Lane) : (s.modLanes b g ls f).insts = s.insts := rfl
@[simp] theorem State.modLanes_objects (s : State) (b g : Nat) (ls : List Nat) (f : Nat → Lane → Lane) : (s.modLanes b g ls f).objects = s.objects := rfl
@[simp] theorem State.modLanes_trayObjs (s : State) (b g : Nat) (ls : List Nat) (f : Nat → Lane → Lane) : (s.modLanes b g ls f).trayObjs = s.trayObjs := rfl
@[simp] theorem State.modLanes_replicasObj (s : State) (b g : Nat) (ls : List Nat) (f : Nat → Lane → Lane) : (s.modLanes b g ls f).replicasObj = s.replicasObj := rfl
@[simp] theorem State.modLanes_resolutions (s : State) (b g : Nat) (ls : List Nat) (f : Nat → Lane → Lane) : (s.modLanes b g ls f).resolutions = s.resolutions := rfl
@[simp] theorem State.modLanes_departs (s : State) (b g : Nat) (ls : List Nat) (f : Nat → Lane → Lane) : (s.modLanes b g ls f).departs = s.departs := rfl
@[simp] theorem State.modLanes_invals (s : State) (b g : Nat) (ls : List Nat) (f : Nat → Lane → Lane) : (s.modLanes b g ls f).invals = s.invals := rfl
@[simp] theorem State.modLanes_pageFills (s : State) (b g : Nat) (ls : List Nat) (f : Nat → Lane → Lane) : (s.modLanes b g ls f).pageFills = s.pageFills := rfl
@[simp] theorem State.modLanes_stations (s : State) (b g : Nat) (ls : List Nat) (f : Nat → Lane → Lane) : (s.modLanes b g ls f).stations = s.stations := rfl
@[simp] theorem State.modLanes_links (s : State) (b g : Nat) (ls : List Nat) (f : Nat → Lane → Lane) : (s.modLanes b g ls f).links = s.links := rfl
@[simp] theorem State.modLanes_flows (s : State) (b g : Nat) (ls : List Nat) (f : Nat → Lane → Lane) : (s.modLanes b g ls f).flows = s.flows := rfl
@[simp] theorem State.modLanes_packets (s : State) (b g : Nat) (ls : List Nat) (f : Nat → Lane → Lane) : (s.modLanes b g ls f).packets = s.packets := rfl
@[simp] theorem State.modLanes_inFlows (s : State) (b g : Nat) (ls : List Nat) (f : Nat → Lane → Lane) : (s.modLanes b g ls f).inFlows = s.inFlows := rfl
@[simp] theorem State.modLanes_mgmt (s : State) (b g : Nat) (ls : List Nat) (f : Nat → Lane → Lane) : (s.modLanes b g ls f).mgmt = s.mgmt := rfl
@[simp] theorem State.modLanes_levainNext (s : State) (b g : Nat) (ls : List Nat) (f : Nat → Lane → Lane) : (s.modLanes b g ls f).levainNext = s.levainNext := rfl
@[simp] theorem State.modLanes_levainFrame (s : State) (b g : Nat) (ls : List Nat) (f : Nat → Lane → Lane) : (s.modLanes b g ls f).levainFrame = s.levainFrame := rfl
@[simp] theorem State.modLanes_frames (s : State) (b g : Nat) (ls : List Nat) (f : Nat → Lane → Lane) : (s.modLanes b g ls f).frames = s.frames := rfl
@[simp] theorem State.modLanes_windowSince (s : State) (b g : Nat) (ls : List Nat) (f : Nat → Lane → Lane) : (s.modLanes b g ls f).windowSince = s.windowSince := rfl
@[simp] theorem State.modLanes_nextId (s : State) (b g : Nat) (ls : List Nat) (f : Nat → Lane → Lane) : (s.modLanes b g ls f).nextId = s.nextId := rfl
@[simp] theorem State.modLanes_freeCount (s : State) (b g : Nat) (ls : List Nat) (f : Nat → Lane → Lane) : (s.modLanes b g ls f).freeCount = s.freeCount := rfl
@[simp] theorem State.modLanes_agenda (s : State) (b g : Nat) (ls : List Nat) (f : Nat → Lane → Lane) : (s.modLanes b g ls f).agenda = s.agenda := rfl
@[simp] theorem State.modLanes_inbox (s : State) (b g : Nat) (ls : List Nat) (f : Nat → Lane → Lane) : (s.modLanes b g ls f).inbox = s.inbox := rfl
@[simp] theorem State.modLanes_focus (s : State) (b g : Nat) (ls : List Nat) (f : Nat → Lane → Lane) : (s.modLanes b g ls f).focus = s.focus := rfl

@[simp] theorem State.setStation_clock (s : State) (k : Nat) (x : Station) : (s.setStation k x).clock = s.clock := rfl
@[simp] theorem State.setStation_ns (s : State) (k : Nat) (x : Station) : (s.setStation k x).ns = s.ns := rfl
@[simp] theorem State.setStation_nsRem (s : State) (k : Nat) (x : Station) : (s.setStation k x).nsRem = s.nsRem := rfl
@[simp] theorem State.setStation_mhz (s : State) (k : Nat) (x : Station) : (s.setStation k x).mhz = s.mhz := rfl
@[simp] theorem State.setStation_underRun (s : State) (k : Nat) (x : Station) : (s.setStation k x).underRun = s.underRun := rfl
@[simp] theorem State.setStation_throttleLog (s : State) (k : Nat) (x : Station) : (s.setStation k x).throttleLog = s.throttleLog := rfl
@[simp] theorem State.setStation_tripped (s : State) (k : Nat) (x : Station) : (s.setStation k x).tripped = s.tripped := rfl
@[simp] theorem State.setStation_devNum (s : State) (k : Nat) (x : Station) : (s.setStation k x).devNum = s.devNum := rfl
@[simp] theorem State.setStation_mem (s : State) (k : Nat) (x : Station) : (s.setStation k x).mem = s.mem := rfl
@[simp] theorem State.setStation_gtags (s : State) (k : Nat) (x : Station) : (s.setStation k x).gtags = s.gtags := rfl
@[simp] theorem State.setStation_writes (s : State) (k : Nat) (x : Station) : (s.setStation k x).writes = s.writes := rfl
@[simp] theorem State.setStation_remote (s : State) (k : Nat) (x : Station) : (s.setStation k x).remote = s.remote := rfl
@[simp] theorem State.setStation_remoteTags (s : State) (k : Nat) (x : Station) : (s.setStation k x).remoteTags = s.remoteTags := rfl
@[simp] theorem State.setStation_poison (s : State) (k : Nat) (x : Station) : (s.setStation k x).poison = s.poison := rfl
@[simp] theorem State.setStation_reqs (s : State) (k : Nat) (x : Station) : (s.setStation k x).reqs = s.reqs := rfl
@[simp] theorem State.setStation_held (s : State) (k : Nat) (x : Station) : (s.setStation k x).held = s.held := rfl
@[simp] theorem State.setStation_dies (s : State) (k : Nat) (x : Station) : (s.setStation k x).dies = s.dies := rfl
@[simp] theorem State.setStation_cores (s : State) (k : Nat) (x : Station) : (s.setStation k x).cores = s.cores := rfl
@[simp] theorem State.setStation_ctxs (s : State) (k : Nat) (x : Station) : (s.setStation k x).ctxs = s.ctxs := rfl
@[simp] theorem State.setStation_insts (s : State) (k : Nat) (x : Station) : (s.setStation k x).insts = s.insts := rfl
@[simp] theorem State.setStation_blocks (s : State) (k : Nat) (x : Station) : (s.setStation k x).blocks = s.blocks := rfl
@[simp] theorem State.setStation_objects (s : State) (k : Nat) (x : Station) : (s.setStation k x).objects = s.objects := rfl
@[simp] theorem State.setStation_trayObjs (s : State) (k : Nat) (x : Station) : (s.setStation k x).trayObjs = s.trayObjs := rfl
@[simp] theorem State.setStation_replicasObj (s : State) (k : Nat) (x : Station) : (s.setStation k x).replicasObj = s.replicasObj := rfl
@[simp] theorem State.setStation_resolutions (s : State) (k : Nat) (x : Station) : (s.setStation k x).resolutions = s.resolutions := rfl
@[simp] theorem State.setStation_departs (s : State) (k : Nat) (x : Station) : (s.setStation k x).departs = s.departs := rfl
@[simp] theorem State.setStation_invals (s : State) (k : Nat) (x : Station) : (s.setStation k x).invals = s.invals := rfl
@[simp] theorem State.setStation_pageFills (s : State) (k : Nat) (x : Station) : (s.setStation k x).pageFills = s.pageFills := rfl
@[simp] theorem State.setStation_links (s : State) (k : Nat) (x : Station) : (s.setStation k x).links = s.links := rfl
@[simp] theorem State.setStation_flows (s : State) (k : Nat) (x : Station) : (s.setStation k x).flows = s.flows := rfl
@[simp] theorem State.setStation_packets (s : State) (k : Nat) (x : Station) : (s.setStation k x).packets = s.packets := rfl
@[simp] theorem State.setStation_inFlows (s : State) (k : Nat) (x : Station) : (s.setStation k x).inFlows = s.inFlows := rfl
@[simp] theorem State.setStation_mgmt (s : State) (k : Nat) (x : Station) : (s.setStation k x).mgmt = s.mgmt := rfl
@[simp] theorem State.setStation_levainNext (s : State) (k : Nat) (x : Station) : (s.setStation k x).levainNext = s.levainNext := rfl
@[simp] theorem State.setStation_levainFrame (s : State) (k : Nat) (x : Station) : (s.setStation k x).levainFrame = s.levainFrame := rfl
@[simp] theorem State.setStation_frames (s : State) (k : Nat) (x : Station) : (s.setStation k x).frames = s.frames := rfl
@[simp] theorem State.setStation_windowSince (s : State) (k : Nat) (x : Station) : (s.setStation k x).windowSince = s.windowSince := rfl
@[simp] theorem State.setStation_nextId (s : State) (k : Nat) (x : Station) : (s.setStation k x).nextId = s.nextId := rfl
@[simp] theorem State.setStation_freeCount (s : State) (k : Nat) (x : Station) : (s.setStation k x).freeCount = s.freeCount := rfl
@[simp] theorem State.setStation_agenda (s : State) (k : Nat) (x : Station) : (s.setStation k x).agenda = s.agenda := rfl
@[simp] theorem State.setStation_inbox (s : State) (k : Nat) (x : Station) : (s.setStation k x).inbox = s.inbox := rfl
@[simp] theorem State.setStation_focus (s : State) (k : Nat) (x : Station) : (s.setStation k x).focus = s.focus := rfl

end Sys2Proof.Machine
end

