-- ==== Sys2Proof/Laws/Table.lean ====
section
/-!
SUPPORT. Tables, cells and memory: reading after writing, and the canonical form that every write keeps.
-/

namespace Sys2Proof

/-! ## Tables -/

theorem Tbl.at_put_same {α : Type} (t : Tbl α) (n : Nat) (y : α) : Tbl.at (Tbl.put t n y) n = some y := by
  induction t with
  | nil => simp [Tbl.put, Tbl.at]
  | cons e t ih =>
    obtain ⟨k, x⟩ := e
    simp only [Tbl.put]
    split
    · simp [Tbl.at]
    · split
      · simp [Tbl.at]
      · simp_all [Tbl.at]

theorem Tbl.at_put_ne {α : Type} (t : Tbl α) {n m : Nat} (y : α) (h : m ≠ n) : Tbl.at (Tbl.put t n y) m = Tbl.at t m := by
  induction t with
  | nil => simp [Tbl.put, Tbl.at, h]
  | cons e t ih =>
    obtain ⟨k, x⟩ := e
    simp only [Tbl.put]
    split
    · simp only [Tbl.at]
      split
      · rw [if_pos (by omega)]
      · simp [h]
    · split
      · subst_vars
        simp [Tbl.at, h]
      · simp only [Tbl.at, ih]

theorem Tbl.at_upd_same {α : Type} (t : Tbl α) (n : Nat) (f : α → α) : Tbl.at (Tbl.upd t n f) n = (Tbl.at t n).map f := by
  unfold Tbl.upd
  split
  · next x h => rw [Tbl.at_put_same, h]; rfl
  · next h => rw [h]; rfl

theorem Tbl.at_upd_ne {α : Type} (t : Tbl α) {n m : Nat} (f : α → α) (h : m ≠ n) : Tbl.at (Tbl.upd t n f) m = Tbl.at t m := by
  unfold Tbl.upd
  split
  · exact Tbl.at_put_ne t _ h
  · rfl

theorem Tbl.at_none_of_rising {α : Type} (t : Tbl α) (lo n : Nat) (h : Tbl.rising lo t = true) (hn : n < lo) :
    Tbl.at t n = none := by
  cases t with
  | nil => rfl
  | cons e t =>
    obtain ⟨k, x⟩ := e
    simp only [Tbl.rising, Bool.and_eq_true, decide_eq_true_eq] at h
    simp [Tbl.at, show n < k by omega]

theorem Tbl.rising_mono {α : Type} (t : Tbl α) {lo lo' : Nat} (h : Tbl.rising lo t = true) (hl : lo' ≤ lo) :
    Tbl.rising lo' t = true := by
  cases t with
  | nil => rfl
  | cons e t =>
    obtain ⟨k, x⟩ := e
    simp only [Tbl.rising, Bool.and_eq_true, decide_eq_true_eq] at h ⊢
    exact ⟨by omega, h.2⟩

theorem Tbl.rising_put {α : Type} (t : Tbl α) (lo n : Nat) (y : α) (h : Tbl.rising lo t = true) (hn : lo ≤ n) :
    Tbl.rising lo (Tbl.put t n y) = true := by
  induction t generalizing lo with
  | nil => simp [Tbl.put, Tbl.rising, hn]
  | cons e t ih =>
    obtain ⟨k, x⟩ := e
    simp only [Tbl.rising, Bool.and_eq_true, decide_eq_true_eq] at h
    simp only [Tbl.put]
    split
    · next hk => simp only [Tbl.rising, Bool.and_eq_true, decide_eq_true_eq]; exact ⟨hn, by omega, h.2⟩
    · split
      · next hk => subst hk; simp only [Tbl.rising, Bool.and_eq_true, decide_eq_true_eq]; exact h
      · next hk _ =>
        simp only [Tbl.rising, Bool.and_eq_true, decide_eq_true_eq]
        exact ⟨h.1, ih (k + 1) h.2 (by omega)⟩

theorem Tbl.rising_del {α : Type} (t : Tbl α) (lo n : Nat) (h : Tbl.rising lo t = true) : Tbl.rising lo (Tbl.del t n) = true := by
  induction t generalizing lo with
  | nil => rfl
  | cons e t ih =>
    obtain ⟨k, x⟩ := e
    have h' := h
    simp only [Tbl.rising, Bool.and_eq_true, decide_eq_true_eq] at h
    simp only [Tbl.del]
    split
    · exact h'
    · split
      · exact Tbl.rising_mono t h.2 (by omega)
      · simp only [Tbl.rising, Bool.and_eq_true, decide_eq_true_eq]
        exact ⟨h.1, ih (k + 1) h.2⟩

theorem Tbl.at_del_same {α : Type} (t : Tbl α) (lo n : Nat) (h : Tbl.rising lo t = true) : Tbl.at (Tbl.del t n) n = none := by
  induction t generalizing lo with
  | nil => rfl
  | cons e t ih =>
    obtain ⟨k, x⟩ := e
    simp only [Tbl.rising, Bool.and_eq_true, decide_eq_true_eq] at h
    simp only [Tbl.del]
    split
    · next hk => simp [Tbl.at, hk]
    · split
      · next _ hk => subst hk; exact Tbl.at_none_of_rising t (n + 1) n h.2 (by omega)
      · next h1 h2 => simp only [Tbl.at, if_neg h1, if_neg h2]; exact ih (k + 1) h.2

theorem Tbl.at_del_ne {α : Type} (t : Tbl α) (lo : Nat) {n m : Nat} (h : Tbl.rising lo t = true) (hm : m ≠ n) :
    Tbl.at (Tbl.del t n) m = Tbl.at t m := by
  induction t generalizing lo with
  | nil => rfl
  | cons e t ih =>
    obtain ⟨k, x⟩ := e
    simp only [Tbl.rising, Bool.and_eq_true, decide_eq_true_eq] at h
    simp only [Tbl.del]
    split
    · rfl
    · split
      · next _ hk =>
        subst hk
        simp only [Tbl.at]
        split
        · exact Tbl.at_none_of_rising t (n + 1) m h.2 (by omega)
        · simp [hm]
      · simp only [Tbl.at, ih (k + 1) h.2]

theorem Tbl.mem_put {α : Type} {t : Tbl α} {n : Nat} {y : α} {e : Nat × α} (h : e ∈ Tbl.put t n y) : e = (n, y) ∨ e ∈ t := by
  induction t with
  | nil => simpa [Tbl.put] using h
  | cons d t ih =>
    obtain ⟨k, x⟩ := d
    simp only [Tbl.put] at h
    split at h
    · simpa using h
    · split at h
      · rcases List.mem_cons.mp h with h | h
        · exact .inl h
        · exact .inr (List.mem_cons_of_mem _ h)
      · rcases List.mem_cons.mp h with h | h
        · exact .inr (h ▸ List.mem_cons_self)
        · exact (ih h).imp id (List.mem_cons_of_mem _)

theorem Tbl.mem_del {α : Type} {t : Tbl α} {n : Nat} {e : Nat × α} (h : e ∈ Tbl.del t n) : e ∈ t := by
  induction t with
  | nil => exact h
  | cons d t ih =>
    obtain ⟨k, x⟩ := d
    simp only [Tbl.del] at h
    split at h
    · exact h
    · split at h
      · exact List.mem_cons_of_mem _ h
      · rcases List.mem_cons.mp h with h | h
        · exact h ▸ List.mem_cons_self
        · exact List.mem_cons_of_mem _ (ih h)

/-! ## Cells -/

theorem Cells.wf_iff {n : Nat} (t : Cells n) : Cells.wf t = true ↔ Tbl.rising 0 t = true ∧ ∀ e ∈ t, e.2 ≠ 0 := by
  simp [Cells.wf]

theorem Cells.wf_set {n : Nat} (t : Cells n) (k : Nat) (x : BitVec n) (h : Cells.wf t = true) : Cells.wf (Cells.set t k x) = true := by
  rw [Cells.wf_iff] at h ⊢
  unfold Cells.set
  split
  · exact ⟨Tbl.rising_del t 0 k h.1, fun e he => h.2 e (Tbl.mem_del he)⟩
  · next hx =>
    refine ⟨Tbl.rising_put t 0 k x h.1 (Nat.zero_le _), fun e he => ?_⟩
    rcases Tbl.mem_put he with rfl | he
    · exact hx
    · exact h.2 e he

theorem Cells.get_set_same {n : Nat} (t : Cells n) (k : Nat) (x : BitVec n) (h : Cells.wf t = true) :
    Cells.get (Cells.set t k x) k = x := by
  rw [Cells.wf_iff] at h
  unfold Cells.get Cells.set
  split
  · next hx => rw [Tbl.at_del_same t 0 k h.1, hx]; rfl
  · rw [Tbl.at_put_same]; rfl

theorem Cells.get_set_ne {n : Nat} (t : Cells n) {k m : Nat} (x : BitVec n) (h : Cells.wf t = true) (hm : m ≠ k) :
    Cells.get (Cells.set t k x) m = Cells.get t m := by
  rw [Cells.wf_iff] at h
  unfold Cells.get Cells.set
  split
  · rw [Tbl.at_del_ne t 0 h.1 hm]
  · rw [Tbl.at_put_ne t x hm]

theorem Cells.wf_nil {n : Nat} : Cells.wf ([] : Cells n) = true := rfl

/-! ## Memory -/

theorem Memory.wf_setByte (m : Memory) (a : Nat) (b : Byte) (h : Memory.wf m = true) : Memory.wf (Memory.setByte m a b) = true :=
  Cells.wf_set (n := 8) m a b h

theorem Memory.wf_write (m : Memory) (a : Nat) (bs : List Byte) (h : Memory.wf m = true) : Memory.wf (Memory.write m a bs) = true := by
  induction bs generalizing m a with
  | nil => exact h
  | cons b bs ih => exact ih _ _ (Memory.wf_setByte m a b h)

theorem Memory.byte_setByte_same (m : Memory) (a : Nat) (b : Byte) (h : Memory.wf m = true) : Memory.byte (Memory.setByte m a b) a = b :=
  Cells.get_set_same (n := 8) m a b h

theorem Memory.byte_setByte_ne (m : Memory) {a c : Nat} (b : Byte) (h : Memory.wf m = true) (hc : c ≠ a) :
    Memory.byte (Memory.setByte m a b) c = Memory.byte m c :=
  Cells.get_set_ne (n := 8) m b h hc

/-- A write leaves every byte outside it alone. -/
theorem Memory.byte_write_outside (m : Memory) (a : Nat) (bs : List Byte) (h : Memory.wf m = true) (c : Nat)
    (hc : c < a ∨ a + bs.length ≤ c) : Memory.byte (Memory.write m a bs) c = Memory.byte m c := by
  induction bs generalizing m a with
  | nil => rfl
  | cons b bs ih =>
    simp only [List.length_cons] at hc
    rw [Memory.write, ih _ _ (Memory.wf_setByte m a b h) (by omega), Memory.byte_setByte_ne m b h (by omega)]

/-- A write puts its bytes where it says. -/
theorem Memory.read_write (m : Memory) (a : Nat) (bs : List Byte) (h : Memory.wf m = true) :
    Memory.read (Memory.write m a bs) a bs.length = bs := by
  induction bs generalizing m a with
  | nil => rfl
  | cons b bs ih =>
    simp only [List.length_cons, Memory.read, Memory.write, List.cons.injEq]
    refine ⟨?_, ih _ _ (Memory.wf_setByte m a b h)⟩
    rw [Memory.byte_write_outside _ _ _ (Memory.wf_setByte m a b h) a (by omega), Memory.byte_setByte_same m a b h]

end Sys2Proof
end

