-- ==== Sys2Proof/Laws/Read.lean ====
section
/-!
SUPPORT. Reading an entry of the state after an update of one: the entry changed, and every other as before.
-/

namespace Sys2Proof

theorem Tbl.put_at_self {α : Type} (t : Tbl α) (n : Nat) (x : α) (h : Tbl.at t n = some x) : Tbl.put t n x = t := by
  induction t with
  | nil => simp [Tbl.at] at h
  | cons e t ih =>
    obtain ⟨k, y⟩ := e
    simp only [Tbl.at] at h
    simp only [Tbl.put]
    split at h
    · cases h
    · next hk =>
      rw [if_neg hk]
      split at h
      · next he => cases h; rw [if_pos he, he]
      · next he => rw [if_neg he, ih h]

theorem Tbl.upd_id {α : Type} (t : Tbl α) (n : Nat) (f : α → α) (h : ∀ x, Tbl.at t n = some x → f x = x) : Tbl.upd t n f = t := by
  unfold Tbl.upd
  split
  · next x hx => rw [h x hx, Tbl.put_at_self t n x hx]
  · rfl

namespace Machine

/-! ## Dies, cores and links -/

@[simp] theorem State.die_setDie_same (s : State) (d : Nat) (x : Die) : (s.setDie d x).die d = x := by
  simp [State.die, State.setDie, Tbl.at_put_same]

theorem State.die_setDie_ne (s : State) {d e : Nat} (x : Die) (h : e ≠ d) : (s.setDie d x).die e = s.die e := by
  simp [State.die, State.setDie, Tbl.at_put_ne _ _ h]

@[simp] theorem State.die_modDie_same (s : State) (d : Nat) (f : Die → Die) : (s.modDie d f).die d = f (s.die d) :=
  State.die_setDie_same s d _

theorem State.die_modDie_ne (s : State) {d e : Nat} (f : Die → Die) (h : e ≠ d) : (s.modDie d f).die e = s.die e :=
  State.die_setDie_ne s _ h

@[simp] theorem State.core_setCore_same (s : State) (c : Nat) (x : Core) : (s.setCore c x).core c = x := by
  simp [State.core, State.setCore, Tbl.at_put_same]

theorem State.core_setCore_ne (s : State) {c d : Nat} (x : Core) (h : d ≠ c) : (s.setCore c x).core d = s.core d := by
  simp [State.core, State.setCore, Tbl.at_put_ne _ _ h]

@[simp] theorem State.core_modCore_same (s : State) (c : Nat) (f : Core → Core) : (s.modCore c f).core c = f (s.core c) :=
  State.core_setCore_same s c _

theorem State.core_modCore_ne (s : State) {c d : Nat} (f : Core → Core) (h : d ≠ c) : (s.modCore c f).core d = s.core d :=
  State.core_setCore_ne s _ h

@[simp] theorem State.link_setLink_same (s : State) (n : Nat) (x : Link) : (s.setLink n x).link n = x := by
  simp [State.link, State.setLink, Tbl.at_put_same]

@[simp] theorem State.link_modLink_same (s : State) (n : Nat) (f : Link → Link) : (s.modLink n f).link n = f (s.link n) :=
  State.link_setLink_same s n _

theorem State.link_modLink_ne (s : State) {n m : Nat} (f : Link → Link) (h : m ≠ n) : (s.modLink n f).link m = s.link m := by
  simp [State.link, State.modLink, State.setLink, Tbl.at_put_ne _ _ h]

/-! ## Contexts, instances and blocks -/

theorem State.ctx?_modCtx_same (s : State) (c : Nat) (f : Context → Context) : (s.modCtx c f).ctx? c = (s.ctx? c).map f :=
  Tbl.at_upd_same _ _ _

theorem State.ctx_modCtx_same (s : State) (c : Nat) (f : Context → Context) (h : (s.ctx? c).isSome = true) :
    (s.modCtx c f).ctx c = f (s.ctx c) := by
  obtain ⟨x, hx⟩ := Option.isSome_iff_exists.mp h
  simp [State.ctx, State.ctx?_modCtx_same, hx]

theorem State.ctx_modCtx_ne (s : State) {c d : Nat} (f : Context → Context) (h : d ≠ c) : (s.modCtx c f).ctx d = s.ctx d := by
  simp [State.ctx, State.ctx?, State.modCtx, Tbl.at_upd_ne _ _ h]

theorem State.inst_modInst_same (s : State) (i : Nat) (f : Instance → Instance) (h : (s.inst? i).isSome = true) :
    (s.modInst i f).inst i = f (s.inst i) := by
  obtain ⟨x, hx⟩ := Option.isSome_iff_exists.mp h
  simp only [State.inst?] at hx
  simp [State.inst, State.inst?, State.modInst, Tbl.at_upd_same, hx]

theorem State.block?_modBlock_same (s : State) (b : Nat) (f : Block → Block) : (s.modBlock b f).block? b = (s.block? b).map f :=
  Tbl.at_upd_same _ _ _

theorem State.block?_modBlock_ne (s : State) {b c : Nat} (f : Block → Block) (h : c ≠ b) : (s.modBlock b f).block? c = s.block? c :=
  Tbl.at_upd_ne _ _ h

theorem State.block_modBlock_same (s : State) (b : Nat) (f : Block → Block) (h : (s.block? b).isSome = true) :
    (s.modBlock b f).block b = f (s.block b) := by
  obtain ⟨x, hx⟩ := Option.isSome_iff_exists.mp h
  simp [State.block, State.block?_modBlock_same, hx]

theorem State.block_modBlock_ne (s : State) {b c : Nat} (f : Block → Block) (h : c ≠ b) : (s.modBlock b f).block c = s.block c := by
  simp [State.block, State.block?_modBlock_ne _ _ h]

theorem State.modBlock_id (s : State) (b : Nat) (f : Block → Block) (h : ∀ x, s.block? b = some x → f x = x) : s.modBlock b f = s := by
  simp only [State.modBlock, Tbl.upd_id s.blocks b f h]

/-! ## Groups and lanes -/

theorem Block.group_modGroup_same (b : Block) (g : Nat) (f : Group → Group) (h : g < b.groups.length) :
    (b.modGroup g f).group g = f (b.group g) := by
  simp [Block.group, Block.modGroup, List.getD_eq_getElem?_getD, List.getElem?_modify, h]

theorem Block.group_modGroup_ne (b : Block) {g k : Nat} (f : Group → Group) (h : k ≠ g) : (b.modGroup g f).group k = b.group k := by
  simp [Block.group, Block.modGroup, List.getD_eq_getElem?_getD, List.getElem?_modify, Ne.symm h]

theorem State.group_modGroup_same (s : State) (b g : Nat) (f : Group → Group) (hb : (s.block? b).isSome = true)
    (hg : g < (s.block b).groups.length) : (s.modGroup b g f).group b g = f (s.group b g) := by
  simp only [State.group, State.modGroup, State.block_modBlock_same s b _ hb, Block.group_modGroup_same _ _ _ hg]

theorem State.group_modGroup_ne (s : State) {b g c h : Nat} (f : Group → Group) (hn : c ≠ b ∨ h ≠ g) :
    (s.modGroup b g f).group c h = s.group c h := by
  by_cases hc : c = b
  · subst hc
    have hh : h ≠ g := by rcases hn with h | h <;> [exact absurd rfl h; exact h]
    cases hb : s.block? c with
    | none => simp [State.group, State.block, State.modGroup, State.block?_modBlock_same, hb]
    | some x => simp [State.group, State.block, State.modGroup, State.block?_modBlock_same, hb, Block.group_modGroup_ne _ _ hh]
  · simp only [State.group, State.modGroup, State.block_modBlock_ne s _ hc]

theorem Group.lane_modLane_same (g : Group) (l : Nat) (f : Lane → Lane) (h : l < g.lanes.length) :
    (g.modLane l f).lane l = f (g.lane l) := by
  simp [Group.lane, Group.modLane, List.getD_eq_getElem?_getD, List.getElem?_modify, h]

theorem Group.lane_modLane_ne (g : Group) {l k : Nat} (f : Lane → Lane) (h : k ≠ l) : (g.modLane l f).lane k = g.lane k := by
  simp [Group.lane, Group.modLane, List.getD_eq_getElem?_getD, List.getElem?_modify, Ne.symm h]

@[simp] theorem Group.modLane_length (g : Group) (l : Nat) (f : Lane → Lane) : (g.modLane l f).lanes.length = g.lanes.length := by
  simp [Group.modLane]

@[simp] theorem Group.modLanes_nil (g : Group) (f : Nat → Lane → Lane) : g.modLanes [] f = g := rfl

theorem Group.modLanes_cons (g : Group) (l : Nat) (ls : List Nat) (f : Nat → Lane → Lane) :
    g.modLanes (l :: ls) f = (g.modLane l (f l)).modLanes ls f := rfl

@[simp] theorem Group.modLanes_length (g : Group) (ls : List Nat) (f : Nat → Lane → Lane) :
    (g.modLanes ls f).lanes.length = g.lanes.length := by
  induction ls generalizing g with
  | nil => rfl
  | cons l ls ih => rw [Group.modLanes_cons, ih, Group.modLane_length]

/-- Only the lanes of a group differ. -/
theorem Group.modLanes_rest (g : Group) (ls : List Nat) (f : Nat → Lane → Lane) :
    g.modLanes ls f = { g with lanes := (g.modLanes ls f).lanes } := by
  induction ls generalizing g with
  | nil => rfl
  | cons l ls ih =>
    rw [Group.modLanes_cons]
    exact (ih (g.modLane l (f l))).trans rfl

theorem Group.lane_modLanes_ne (g : Group) (ls : List Nat) (f : Nat → Lane → Lane) (i : Nat) (h : i ∉ ls) :
    (g.modLanes ls f).lane i = g.lane i := by
  induction ls generalizing g with
  | nil => rfl
  | cons l ls ih =>
    simp only [List.mem_cons, not_or] at h
    rw [Group.modLanes_cons, ih _ h.2, Group.lane_modLane_ne g _ h.1]

theorem Group.lane_modLanes_same (g : Group) (ls : List Nat) (f : Nat → Lane → Lane) (i : Nat) (h : i ∈ ls) (hn : ls.Nodup)
    (hl : i < g.lanes.length) : (g.modLanes ls f).lane i = f i (g.lane i) := by
  induction ls generalizing g with
  | nil => cases h
  | cons l ls ih =>
    rw [List.nodup_cons] at hn
    rw [Group.modLanes_cons]
    by_cases hi : i = l
    · subst hi
      rw [Group.lane_modLanes_ne _ _ _ _ hn.1, Group.lane_modLane_same g i _ hl]
    · have hm : i ∈ ls := by simpa [hi] using h
      rw [ih _ hm hn.2 (by simpa using hl), Group.lane_modLane_ne g _ hi]

theorem State.modLanes_nil (s : State) (b g : Nat) (f : Nat → Lane → Lane) : s.modLanes b g [] f = s := by
  apply State.modBlock_id
  intro x _
  have h : x.groups.modify g (fun y => y.modLanes [] f) = x.groups := by
    simp [List.modify_id, show (fun y : Group => y) = id from rfl]
  simp only [Block.modGroup, h]

theorem State.modBlock_fix (s : State) (b : Nat) (f : Block → Block) (h : s.block? b = none) : s.modBlock b f = s :=
  State.modBlock_id s b f (fun x hx => by rw [h] at hx; cases hx)

end Machine
end Sys2Proof
end

