-- ==== Sys2Proof/Laws/Shared.lean ====
section
/-!
SUPPORT. What the operations that many events share can do: an event takes place or changes nothing; ending a context, taking a trap,
halting and parking a block, and meeting a combining station touch no byte of memory.
-/

set_option linter.unusedVariables false

namespace Sys2Proof.Machine

/-- A property that every step of a fold keeps holds at its end. -/
theorem foldl_keeps {α β : Type} (P : β → Prop) (f : β → α → β) (h : ∀ b a, P b → P (f b a)) (xs : List α) (b : β) (hb : P b) :
    P (xs.foldl f b) := by
  induction xs generalizing b with
  | nil => exact hb
  | cons x xs ih => exact ih (f b x) (h b x hb)

/-! ## Events -/

theorem event_cases {s t u : State} {ok : Bool} (h : event s ok t = .next u) : (ok = true ∧ u = t) ∨ (ok = false ∧ u = s) := by
  cases ok <;> simp [event] at h <;> simp [h]

theorem eventOpt_cases {s u : State} {o : Option State} (h : eventOpt s o = .next u) : o = some u ∨ (o = none ∧ u = s) := by
  cases o <;> simp [eventOpt] at h <;> simp [h]

/-! ## Contexts that end, and traps -/

@[simp] theorem State.freeEndedQueues_mem (s : State) (c : Nat) : (s.freeEndedQueues c).mem = s.mem := by
  unfold State.freeEndedQueues; split <;> rfl

@[simp] theorem State.freezeCtx_mem (s : State) (c kind : Nat) : (s.freezeCtx c kind).mem = s.mem := by
  unfold State.freezeCtx
  cases s.ctx? c with
  | none => rfl
  | some x => dsimp only; split <;> simp

@[simp] theorem State.countViolation_mem (s : State) (d : Nat) : (s.countViolation d).mem = s.mem := by simp [State.countViolation]

@[simp] theorem State.violate_mem (s : State) (core c kind : Nat) : (s.violate core c kind).mem = s.mem := by
  simp [State.violate]

@[simp] theorem State.dropContext_mem (s : State) (c : Nat) : (s.dropContext c).mem = s.mem := by
  simp [State.dropContext]

@[simp] theorem State.endTrapped_mem (s : State) (c : Nat) (t : Trap) (code : Word) (nested invalid : Bool) :
    (s.endTrapped c t code nested invalid).mem = s.mem := by
  simp [State.endTrapped]

/-- Taking a trap writes no byte, whether a handler runs or the context ends (21_context.md R399, R400). -/
@[simp] theorem takeTrap_mem (s : State) (f : Focus) (t : Trap) : (takeTrap s f t).mem = s.mem := by
  simp only [takeTrap, State.onGroup]
  by_cases h : (t.cause == 4) = true <;> simp only [h, if_true, Bool.false_eq_true, if_false]
  all_goals
    split
    · simp
    · split <;> simp

/-! ## Blocks that halt -/

@[simp] theorem State.haltBlock_mem (s : State) (blk : Nat) (st : BlockSt) : (s.haltBlock blk st).mem = s.mem := by
  simp [State.haltBlock]

@[simp] theorem State.parkUnit_mem (s : State) (blk : Nat) (signalled : Bool) : (s.parkUnit blk signalled).mem = s.mem := by
  unfold State.parkUnit
  simp only [State.modCtx_mem]
  refine foldl_keeps (fun t : State => t.mem = s.mem) _ (fun t u h => ?_) _ _ rfl
  split <;> simp [h]

@[simp] theorem State.regDeadlock_mem (s : State) (core : Nat) : (s.regDeadlock core).mem = s.mem := by
  simp only [State.regDeadlock]
  repeat' split
  all_goals first | rfl | exact State.parkUnit_mem _ _ _

/-! ## Combining stations -/

/-- A request meets a station: it joins a waiting one, or takes a free entry, or a full table lets it pass. -/
theorem State.meetStation_cases (s : State) (k : Nat) (x : StEntry) :
    ((s.meetStation k x).2 = true ∧ (s.station k).table.any (fun e => e.takes x) = true) ∨
    ((s.meetStation k x).2 = true ∧ (s.station k).table.length < 64) ∨
    ((s.meetStation k x).2 = false ∧ 64 ≤ (s.station k).table.length ∧ (s.meetStation k x).1.stations = s.stations) := by
  simp only [State.meetStation]
  split
  · exact .inl ⟨rfl, by assumption⟩
  · split
    · exact .inr (.inr ⟨rfl, by assumption, rfl⟩)
    · exact .inr (.inl ⟨rfl, by omega⟩)

@[simp] theorem State.meetStation_mem (s : State) (k : Nat) (x : StEntry) : (s.meetStation k x).1.mem = s.mem := by
  simp only [State.meetStation]
  repeat' split
  all_goals rfl

@[simp] theorem State.meetStation_reqs (s : State) (k : Nat) (x : StEntry) : (s.meetStation k x).1.reqs = s.reqs := by
  simp only [State.meetStation]
  repeat' split
  all_goals rfl

end Sys2Proof.Machine
end

