-- ==== Sys2Proof/Laws/Word.lean ====
section
/-!
SUPPORT. What the frame of an instruction word does: once for a word of any kind, once for a word that works lane by lane.
-/

namespace Sys2Proof.Machine

/-! ## The lanes of the path in focus -/

theorem HasPath.group_eq {s : State} {f : Focus} (h : HasPath s f) (k : Group → Group) :
    (s.onGroup f k).fgroup f = k (s.fgroup f) :=
  State.group_modGroup_same s f.blk f.grp k h.block h.group

/-- Lanes of the path after a change of some of them. -/
theorem HasPath.onLanes_lane {s : State} {f : Focus} (h : HasPath s f) (ls : List Nat) (k : Nat → Lane → Lane) (i : Nat)
    (hi : i ∈ f.lanes) (hn : ls.Nodup) :
    (s.onLanes f ls k).flane f i = if i ∈ ls then k i (s.flane f i) else s.flane f i := by
  have hg : (s.onLanes f ls k).fgroup f = (s.fgroup f).modLanes ls k := h.group_eq _
  simp only [State.flane, State.lane]
  simp only [State.fgroup] at hg
  rw [hg]
  split
  · next hm => exact Group.lane_modLanes_same _ ls k i hm hn (h.lanes i hi)
  · next hm => exact Group.lane_modLanes_ne _ ls k i hm

/-- Lanes outside the changed ones are as before. -/
theorem State.onLanes_others (s : State) (f : Focus) (ls : List Nat) (k : Nat → Lane → Lane) (b h i : Nat)
    (hn : b ≠ f.blk ∨ h ≠ f.grp ∨ i ∉ ls) : (s.onLanes f ls k).lane b h i = s.lane b h i := by
  simp only [State.lane, State.onLanes, State.modLanes]
  by_cases hb : b ≠ f.blk ∨ h ≠ f.grp
  · rw [State.group_modGroup_ne s _ hb]
  · simp only [not_or, not_not] at hb
    obtain ⟨rfl, rfl⟩ := hb
    have hi : i ∉ ls := by simpa using hn
    by_cases he : (s.block? f.blk).isSome = true ∧ f.grp < (s.block f.blk).groups.length
    · rw [State.group_modGroup_same s _ _ _ he.1 he.2, Group.lane_modLanes_ne _ _ _ _ hi]
    · cases hx : s.block? f.blk with
      | none => rw [State.modGroup, State.modBlock_fix s _ _ hx]
      | some x =>
        have hl : x.groups.length ≤ f.grp := by simpa [hx, State.block] using he
        have hm : ∀ k', x.groups.modify f.grp k' = x.groups := fun k' => List.modify_eq_self hl
        rw [State.modGroup, State.modBlock_id s f.blk _ (fun y hy => by
          rw [hx] at hy; cases hy
          simp only [Block.modGroup, hm])]

theorem HasPath.onLanes_group {s : State} {f : Focus} (h : HasPath s f) (ls : List Nat) (k : Nat → Lane → Lane) :
    (s.onLanes f ls k).fgroup f = { s.fgroup f with lanes := ((s.onLanes f ls k).fgroup f).lanes } := by
  have hg : (s.onLanes f ls k).fgroup f = (s.fgroup f).modLanes ls k := h.group_eq _
  rw [hg]
  exact Group.modLanes_rest _ _ _

/-- A change of the path's group leaves every other group and block. -/
theorem HasPath.onlyGroup {s : State} {f : Focus} (h : HasPath s f) (k : Group → Group) : OnlyGroup s (s.onGroup f k) f := by
  have hb : (s.onGroup f k).fblock f = (s.fblock f).modGroup f.grp k := State.block_modBlock_same s f.blk _ h.block
  refine ⟨?_, ?_, ?_, ?_⟩
  · rw [hb]; rfl
  · rw [hb]; simp [Block.modGroup]
  · intro c hc
    rw [hb]
    simp [Block.modGroup, Block.group, List.getD_eq_getElem?_getD, List.getElem?_modify, Ne.symm hc]
  · intro b hb
    exact State.block?_modBlock_ne s _ hb

theorem OnlyGroup.trans {s t u : State} {f : Focus} (h : OnlyGroup s t f) (k : OnlyGroup t u f) : OnlyGroup s u f := by
  refine ⟨?_, k.groups.trans h.groups, fun c hc => (k.siblings c hc).trans (h.siblings c hc), fun b hb => (k.blocks b hb).trans (h.blocks b hb)⟩
  rw [k.block, h.block]

theorem OnlyGroup.of_blocks {s t : State} {f : Focus} (hb : t.blocks = s.blocks) : OnlyGroup s t f := by
  have h : ∀ b, t.block? b = s.block? b := fun b => by simp only [State.block?, hb]
  have hf : t.fblock f = s.fblock f := by simp only [State.fblock, State.block, h]
  refine ⟨by rw [hf], by rw [hf], fun c _ => by rw [hf], fun b _ => h b⟩

/-- The path is still one of the state's after its lanes or its group have been changed. -/
theorem HasPath.block_onGroup {s : State} {f : Focus} (h : HasPath s f) (k : Group → Group) :
    (s.onGroup f k).fblock f = (s.fblock f).modGroup f.grp k :=
  State.block_modBlock_same s f.blk _ h.block

theorem Block.modGroup_length (b : Block) (g : Nat) (k : Group → Group) : (b.modGroup g k).groups.length = b.groups.length := by
  simp [Block.modGroup]

theorem HasPath.of_onGroup {s : State} {f : Focus} (h : HasPath s f) (k : Group → Group)
    (hk : ∀ g, (k g).lanes.length = g.lanes.length) : HasPath (s.onGroup f k) f := by
  refine ⟨?_, ?_, ?_⟩
  · rw [show (s.onGroup f k).block? f.blk = _ from State.block?_modBlock_same s f.blk _]
    simpa using h.block
  · rw [h.block_onGroup, Block.modGroup_length]
    exact h.group
  · intro i hi
    rw [h.group_eq, hk]
    exact h.lanes i hi

theorem HasPath.of_onLanes {s : State} {f : Focus} (h : HasPath s f) (ls : List Nat) (k : Nat → Lane → Lane) :
    HasPath (s.onLanes f ls k) f :=
  h.of_onGroup _ (fun g => Group.modLanes_length g ls k)

/-- A state with the same blocks has the same paths. -/
theorem HasPath.of_blocks {s t : State} {f : Focus} (h : HasPath s f) (hb : t.blocks = s.blocks) : HasPath t f := by
  obtain ⟨h1, h2, h3⟩ := h
  refine ⟨?_, ?_, ?_⟩ <;>
    simpa only [State.fgroup, State.fblock, State.group, State.block, State.block?, hb] using by assumption

/-! ## A word -/

/-- No lane waits for a register, and every lane issues. -/
theorem Issues.split {s : State} {f : Focus} {use : List Nat} (h : Issues s f use) : splitPend s f use = ([], f.lanes) := by
  simp only [splitPend, List.partition_eq_filter_filter, Prod.mk.injEq]
  constructor
  · rw [List.filter_eq_nil_iff]
    intro i hi
    simp [h.delivered i hi]
  · rw [List.filter_eq_self]
    intro i hi
    simp [h.delivered i hi]

/-- What a word answers when every lane of its path issues. -/
theorem runWord_issues {s : State} {f : Focus} {use : List Nat} (h : Issues s f use) (act : State → Focus → Eff) :
    runWord s use act =
      match act s f with
      | .stop t => .next t
      | .trapNow t => .next (takeTrap s f t)
      | .trap t =>
        if (if t.cause = 7 then [] else outside s f (s.fkern f).size []).isEmpty then .next (takeTrap s f t)
        else .next (takeTrap s f { cause := 5, lanes := if t.cause = 7 then [] else outside s f (s.fkern f).size [] })
      | .ok t nx =>
        if (outside t f (s.fkern f).size nx).isEmpty then .next (t.onLanes f f.lanes (placeLane f nx))
        else .next (takeTrap s f { cause := 5, lanes := outside t f (s.fkern f).size nx }) := by
  have hl : s.onLanes f [] (fun i l => { l with st := .waiting (.reqs (pendIds s f (s.fgroup f).nregs use i)) }) = s :=
    State.modLanes_nil s f.blk f.grp _
  have he : f.lanes.isEmpty = false := by simpa using h.some
  unfold runWord
  simp only [h.focus, h.split, hl, he, Bool.false_eq_true, if_false] <;> rfl

/-- A word that ends well in every lane. -/
theorem runWord_ok {s t : State} {f : Focus} {use : List Nat} (h : Issues s f use) {act : State → Focus → Eff} {nx : List (Nat × Next)}
    (ha : act s f = .ok t nx) (hi : outside t f (s.fkern f).size nx = []) :
    runWord s use act = .next (t.onLanes f f.lanes (placeLane f nx)) := by
  rw [runWord_issues h, ha]
  simp [hi]

/-- Lanes that simply go on stay inside the code. -/
theorem outside_nil {s t : State} {f : Focus} (hs : ∀ i ∈ f.lanes, (t.flane f i).landing (f.pc + 1) < (s.fkern f).size) :
    outside t f (s.fkern f).size [] = [] := by
  simp only [outside, List.filter_eq_nil_iff]
  intro i hi
  simpa [nextOf] using hs i hi

/-- A trap in place of the word's effect. -/
theorem runWord_trap {s : State} {f : Focus} {use : List Nat} (h : Ready s f use) {act : State → Focus → Eff} {t : Trap}
    (ha : act s f = .trap t) : runWord s use act = .next (takeTrap s f t) := by
  rw [runWord_issues h.toIssues, ha]
  simp [outside_nil (s := s) (t := s) h.inside]

/-! ## Counting events -/

theorem bumpEvent_blocks (s : State) (c i e : Nat) : (bumpEvent s c i e).blocks = s.blocks := by
  unfold bumpEvent
  split
  · rfl
  · unfold bumpFex
    dsimp only
    split <;> rfl

theorem countEvents_blocks (s : State) (c i : Nat) (es : Events) : (countEvents s c i es).blocks = s.blocks := by
  unfold countEvents
  induction es generalizing s with
  | nil => rfl
  | cons e es ih => rw [List.foldl_cons, ih, bumpEvent_blocks]

theorem bumpEvent_with_blocks (s : State) (c i e : Nat) (bs : Tbl Block) :
    bumpEvent { s with blocks := bs } c i e = { bumpEvent s c i e with blocks := bs } := by
  unfold bumpEvent
  split
  · rfl
  · unfold bumpFex
    dsimp only [State.inst, State.inst?, State.ctx, State.ctx?]
    split <;> rfl

theorem countEvents_with_blocks (s : State) (c i : Nat) (es : Events) (bs : Tbl Block) :
    countEvents { s with blocks := bs } c i es = { countEvents s c i es with blocks := bs } := by
  unfold countEvents
  induction es generalizing s with
  | nil => rfl
  | cons e es ih => rw [List.foldl_cons, bumpEvent_with_blocks, ih, List.foldl_cons]

theorem State.lane_of_blocks {s t : State} (h : t.blocks = s.blocks) (b g i : Nat) : t.lane b g i = s.lane b g i := by
  simp only [State.lane, State.group, State.block, State.block?, h]

/-! ## What the writes of a lane leave: the loops -/

theorem Lane.setReg_landing (l : Lane) (n i : Nat) (x : Word) (a : Nat) : (l.setReg n i x).landing a = l.landing a := rfl

theorem Lane.setPair_landing (l : Lane) (n i : Nat) (x : DWord) (a : Nat) : (l.setPair n i x).landing a = l.landing a := rfl

theorem Lane.setTagged_landing (l : Lane) (n i : Nat) (x : DWord) (t : Bool) (a : Nat) :
    (l.setTagged n i x t).landing a = l.landing a := by
  unfold Lane.setTagged Lane.setTag
  dsimp only
  split <;> rfl

theorem Lane.setPred_landing (l : Lane) (n : Nat) (b : Bool) (a : Nat) : (l.setPred n b).landing a = l.landing a := by
  unfold Lane.setPred
  split <;> rfl

theorem View.put_landing (v : View) (w : Bool) (d : BitVec 9) (x a : Nat) : (v.put w d x).landing a = v.l.landing a := by
  unfold View.put
  split <;> rfl

theorem View.copy_landing (v : View) (w : Bool) (d : BitVec 9) (x : Src) (a : Nat) : (v.copy w d x).landing a = v.l.landing a := by
  unfold View.copy
  split
  · exact Lane.setTagged_landing _ _ _ _ _ _
  · rfl

/-! ## Words that work lane by lane -/

theorem acting_sub (s : State) (f : Focus) (g : Guard) : ∀ i ∈ s.acting f g, i ∈ f.lanes ∧ (s.flane f i).acts g = true := by
  intro i hi
  simpa [State.acting] using hi

theorem mem_acting (s : State) (f : Focus) (g : Guard) {i : Nat} (hi : i ∈ f.lanes) : i ∈ s.acting f g ↔ (s.flane f i).acts g = true := by
  simp [State.acting, hi]

theorem lookup_map_self {α : Type} (ls : List Nat) (k : Nat → α) (i : Nat) (h : i ∈ ls) :
    (ls.map (fun j => (j, k j))).lookup i = some (k i) := by
  induction ls with
  | nil => cases h
  | cons l ls ih =>
    simp only [List.map_cons, List.lookup_cons]
    by_cases hi : i = l
    · subst hi; simp
    · have hm : i ∈ ls := by simpa [hi] using h
      simp only [show (i == l) = false from by simpa using hi, ih hm]

/-- The lanes of the path after a word that ends well in each of them. -/
theorem HasPath.placed {t : State} {f : Focus} (h : HasPath t f) (hn : f.lanes.Nodup) (nx : List (Nat × Next)) (i : Nat) (hi : i ∈ f.lanes) :
    (t.onLanes f f.lanes (placeLane f nx)).flane f i = placeLane f nx i (t.flane f i) := by
  rw [h.onLanes_lane f.lanes _ i hi hn, if_pos hi]

/-- What a word does lane by lane before its lanes go on. -/
def laneWrites (s : State) (f : Focus) (g : Guard) (k : View → Nat → Lane × Events) : State :=
  s.onLanes f (s.acting f g) (fun i l => match ((s.acting f g).map (fun i => (i, k (s.view f i) i))).lookup i with
    | some x => x.1
    | none => l)

theorem laneWrites_lane {s : State} {f : Focus} (h : OnPath s f) (g : Guard) (k : View → Nat → Lane × Events) (i : Nat) (hi : i ∈ f.lanes) :
    (laneWrites s f g k).flane f i = if (s.flane f i).acts g = true then (k (s.view f i) i).1 else s.flane f i := by
  unfold laneWrites
  rw [h.onLanes_lane (s.acting f g) _ i hi (h.once.filter _)]
  by_cases ha : (s.flane f i).acts g = true
  · have hm := (mem_acting s f g hi).mpr ha
    rw [if_pos hm, if_pos ha, lookup_map_self _ (fun j => k (s.view f j) j) i hm]
  · rw [if_neg (fun hm => ha ((mem_acting s f g hi).mp hm)), if_neg ha]

theorem eachLane_eq (g : Guard) (k : View → Nat → Lane × Events) (s : State) (f : Focus) :
    eachLane g k s f = .ok ((laneWrites s f g k).tally f ((s.acting f g).flatMap (fun i => (k (s.view f i) i).2))) [] := by
  simp only [eachLane, laneWrites, List.flatMap_map] <;> rfl

/-- The whole effect of a word that works lane by lane and keeps each lane's loops. -/
theorem runWord_lanes {s : State} {f : Focus} {g : Guard} {use : List Nat} {k : View → Nat → Lane × Events} {act : State → Focus → Eff}
    (h : Ready s f use) (ha : act s f = eachLane g k s f)
    (hk : ∀ i ∈ f.lanes, ∀ a, ((k (s.view f i) i).1).landing a = (s.flane f i).landing a) :
    ∃ t, runWord s use act = .next t ∧ LaneResult s t f g k := by
  have hp := h.toOnPath
  let es := (s.acting f g).flatMap (fun i => (k (s.view f i) i).2)
  let s1 := laneWrites s f g k
  let t := s1.tally f es
  have hblk : t.blocks = s1.blocks := countEvents_blocks _ _ _ _
  have hlane : ∀ i ∈ f.lanes, t.flane f i = if (s.flane f i).acts g = true then (k (s.view f i) i).1 else s.flane f i := by
    intro i hi
    rw [← laneWrites_lane hp g k i hi]
    exact State.lane_of_blocks hblk _ _ _
  have hout : outside t f (s.fkern f).size [] = [] := by
    apply outside_nil
    intro i hi
    rw [hlane i hi]
    split
    · rw [hk i hi]; exact h.inside i hi
    · exact h.inside i hi
  have hp1 : HasPath s1 f := hp.toHasPath.of_onLanes _ _
  have hpt : HasPath t f := hp1.of_blocks hblk
  have hfg : t.fgroup f = s1.fgroup f := by simp only [State.fgroup, State.group, State.block, State.block?, hblk]
  refine ⟨t.onLanes f f.lanes (placeLane f []), runWord_ok h.toIssues (ha.trans (eachLane_eq g k s f)) hout,
    ((hp.toHasPath.onlyGroup _).trans (OnlyGroup.of_blocks hblk)).trans (hpt.onlyGroup _), ?_, ?_, ?_, ?_, ?_⟩
  · intro i hi ha
    rw [hpt.placed hp.once [] i hi, hlane i hi, if_pos ha]
    rfl
  · intro i hi ha
    rw [hpt.placed hp.once [] i hi, hlane i hi, if_neg (by rw [ha]; exact Bool.false_ne_true)]
    rfl
  · intro i hn
    simp only [State.flane]
    rw [State.onLanes_others t f f.lanes _ _ _ i (.inr (.inr hn)), State.lane_of_blocks hblk,
      show s1.lane _ _ i = _ from State.onLanes_others s f (s.acting f g) _ _ _ i
        (.inr (.inr (fun hm => hn (acting_sub s f g i hm).1)))]
  · have hg1 : s1.fgroup f = { s.fgroup f with lanes := (s1.fgroup f).lanes } := hp.toHasPath.onLanes_group (s.acting f g) _
    rw [hpt.onLanes_group f.lanes _, hfg, hg1]
  · have hb : s1.fblock f = (s.fblock f).modGroup f.grp _ := hp.toHasPath.block_onGroup _
    have hc : (s1.fblock f).ctx = s.fctx f ∧ (s1.fblock f).inst = (s.fblock f).inst := by rw [hb]; exact ⟨rfl, rfl⟩
    have hs1 : s1 = { s with blocks := s1.blocks } := rfl
    have ht : t = { countEvents s (s.fctx f) (s.fblock f).inst es with blocks := s1.blocks } := by
      show countEvents s1 _ _ es = _
      rw [hc.1, hc.2, hs1, countEvents_with_blocks]
    have hfin : t.onLanes f f.lanes (placeLane f []) = { t with blocks := (t.onLanes f f.lanes (placeLane f [])).blocks } := rfl
    rw [hfin, ht]

theorem runLanes_result {s : State} {f : Focus} {g : Guard} {use : List Nat} {k : View → Nat → Lane × Events}
    (h : Ready s f use) (hk : ∀ i ∈ f.lanes, ∀ a, ((k (s.view f i) i).1).landing a = (s.flane f i).landing a) :
    ∃ t, runLanes g use s k = .next t ∧ LaneResult s t f g k :=
  runWord_lanes h rfl hk

/-! ## Words that change their own group alone -/

/-- The whole effect of a word that changes its group by `gr` and sends its lanes on by `nx`. -/
theorem runWord_path {s : State} {f : Focus} {use : List Nat} (h : Issues s f use) {act : State → Focus → Eff} (gr : Group → Group)
    {nx : List (Nat × Next)} (ha : act s f = .ok (s.onGroup f gr) nx) (hlen : ∀ g, (gr g).lanes.length = g.lanes.length)
    (hother : ∀ i, i ∉ f.lanes → (gr (s.fgroup f)).lane i = (s.fgroup f).lane i)
    (hi : outside (s.onGroup f gr) f (s.fkern f).size nx = []) :
    ∃ t, runWord s use act = .next t ∧
      PathResult s t f gr (fun i _ => placeLane f nx i ((gr (s.fgroup f)).lane i)) := by
  have hp := h.toOnPath.toHasPath
  have hp1 : HasPath (s.onGroup f gr) f := hp.of_onGroup gr hlen
  have hg : (s.onGroup f gr).fgroup f = gr (s.fgroup f) := hp.group_eq gr
  refine ⟨_, runWord_ok h ha hi, (hp.onlyGroup gr).trans (hp1.onlyGroup _), ?_, ?_, ?_, rfl⟩
  · intro i hl
    rw [hp1.placed h.once nx i hl]
    show placeLane f nx i (((s.onGroup f gr).fgroup f).lane i) = _
    rw [hg]
  · intro i hn
    simp only [State.flane]
    rw [State.onLanes_others _ f f.lanes _ _ _ i (.inr (.inr hn))]
    show ((s.onGroup f gr).fgroup f).lane i = (s.fgroup f).lane i
    rw [hg, hother i hn]
  · rw [hp1.onLanes_group f.lanes _, hg]

/-- A word that changes its group but for its lanes, all of which go on. -/
theorem runWord_group {s : State} {f : Focus} {use : List Nat} (h : Ready s f use) {act : State → Focus → Eff} (gr : Group → Group)
    (ha : act s f = .ok (s.onGroup f gr) []) (hl : ∀ g, (gr g).lanes = g.lanes) :
    ∃ t, runWord s use act = .next t ∧ PathResult s t f gr (fun _ l => l.advance (f.pc + 1)) := by
  obtain ⟨t, h1, h2⟩ := runWord_path h.toIssues gr ha (fun g => by rw [hl]) (fun i _ => by simp [Group.lane, hl]) (by
    apply outside_nil
    intro i hi
    have he : (s.onGroup f gr).flane f i = s.flane f i := by
      show ((s.onGroup f gr).fgroup f).lane i = (s.fgroup f).lane i
      rw [h.toOnPath.toHasPath.group_eq]
      simp [Group.lane, hl]
    rw [he]
    exact h.inside i hi)
  refine ⟨t, h1, h2.toOnlyGroup, ?_, h2.others, h2.group, h2.rest⟩
  intro i hi
  rw [h2.lanes i hi]
  show ((gr (s.fgroup f)).lane i).advance _ = _
  simp only [Group.lane, hl]
  rfl

theorem State.onGroup_id (s : State) (f : Focus) : s.onGroup f id = s := by
  apply State.modBlock_id
  intro y _
  have h : y.groups.modify f.grp id = y.groups := List.modify_id ..
  simp only [Block.modGroup, h]

/-- A word that changes nothing but the address of its lanes. -/
theorem runWord_idle {s : State} {f : Focus} {use : List Nat} (h : Ready s f use) {act : State → Focus → Eff} (ha : act s f = .ok s []) :
    ∃ t, runWord s use act = .next t ∧ PathResult s t f id (fun _ l => l.advance (f.pc + 1)) :=
  runWord_group h id (by rw [ha, State.onGroup_id]) (fun _ => rfl)

end Sys2Proof.Machine
end

