-- ==== Sys2Proof/Tests/Slice0.lean ====
section
/-!
SUPPORT. Tests: ill-formed terms that the checks refuse, words written out from the encodings, steps on small states with results
calculated by hand from the spec, and for each statement with hypotheses states and operands that meet them.
-/

set_option linter.unusedVariables false
set_option maxRecDepth 8192

open Sys2Proof Sys2Proof.Machine Sys2Proof.Claims

namespace Sys2Proof.Tests

/-! ## A small machine -/

def path (ls : List Nat) : Focus := { blk := 0, grp := 0, kern := 0, pc := 0, lanes := ls, word := 0 }

/-- One context of world 1 with a kernel of eight words and the page at 0x10000, one block of one group, and the lanes given. -/
def bedG (c : Context) (b : Block) (g : Group) (ls : List Nat) : State :=
  { State.reset with
    clock := 100, ns := 5000000, nextId := 7, ctxs := [(0, c)], insts := [(0, placedInst)],
    blocks := [(0, { b with groups := [g] })], dies := [(0, { latch := .assigned 1 })], mem := placedMap [],
    mgmt := { firewall := [(0, 1)] }, focus := some (path ls) }

def bed (lanes : List Lane) (ls : List Nat) : State := bedG placedCtx {} { lanes := lanes } ls

/-- A lane whose pair v4:v5 is an address. -/
def at' (va : Nat) : Lane := { v := [(4, BitVec.ofNat 32 va), (5, BitVec.ofNat 32 (va / 2 ^ 32))] }

def two : State := bed [{}, {}] [0, 1]
def one : State := bed [at' 0x10000] [0]

def readyB (s : State) (f : Focus) (use : List Nat) : Bool :=
  s.focus == some f && (s.block? f.blk).isSome && decide (f.grp < (s.fblock f).groups.length) &&
  f.lanes.all (fun i => decide (i < (s.fgroup f).lanes.length) && (s.flane f i).st == .ready &&
    !pendHit (s.fgroup f).nregs use (s.flane f i) && decide ((s.flane f i).landing (f.pc + 1) < (s.fkern f).size)) &&
  decide f.lanes.Nodup && !f.lanes.isEmpty

theorem ready_of {s : State} {f : Focus} {use : List Nat} (h : readyB s f use = true) : Ready s f use := by
  simp only [readyB, Bool.and_eq_true, beq_iff_eq, decide_eq_true_eq, List.all_eq_true, Bool.not_eq_true'] at h
  obtain ⟨⟨⟨⟨⟨h1, h2⟩, h3⟩, h4⟩, h5⟩, h6⟩ := h
  exact { block := h2, group := h3, lanes := fun i hi => (h4 i hi).1.1.1, focus := h1, ready := fun i hi => (h4 i hi).1.1.2,
          once := h5, some := by simpa using h6, delivered := fun i hi => (h4 i hi).1.2, inside := fun i hi => (h4 i hi).2 }

def soloB (s : State) (f : Focus) (i : Nat) (g : Guard) (use : List Nat) : Bool :=
  readyB s f use && f.lanes == [i] && (s.flane f i).acts g

theorem solo_of {s : State} {f : Focus} {i : Nat} {g : Guard} {use : List Nat} (h : soloB s f i g use = true) : Solo s f i g use := by
  simp only [soloB, Bool.and_eq_true, beq_iff_eq] at h
  exact { ready_of h.1.1 with one := h.1.2, acts := h.2 }

/-! ## Operands -/

def fF (d : BitVec 9) (a b : Src) (c : BitVec 9) : FForm := { g := always, d := d, a := a, b := b, c := c, keep := .none }
def never : Guard := { n := 0, neg := false }
def n32 : AMods := { ty := .n32, pk := .none, sat := false }
def f32 : BMods := { ty := .f32, rnd := .rn, sat := false, x2 := false }
def mM (space : Space) (scope : Scope) : MForm :=
  { g := always, data := 8, base := .v 4, scope := scope, ord := .rlx, ty := .n32, space := space, hint := .none }

/-! ## The hypotheses of the statements can be met -/

theorem test_w_IntegerWordsComplete : (integerWord (.add (fF 2 (.v 0) (.lit 3) 0) n32)).isSome = true ∧
    ∀ w, integerWord (.add (fF 2 (.v 0) (.lit 3) 0) n32) = some w → Ready two (path [0, 1]) w.use :=
  ⟨rfl, fun w h => by cases h; exact ready_of (by decide)⟩

theorem test_w_FloatAndConversionWordsComplete :
    (∃ w, floatWord (.fadd (fF 2 (.v 0) (.v 1) 0) f32) = some w ∧ Ready two (path [0, 1]) w.use) ∧
    ∃ w, convertWord (.cvt (fF 2 (.v 0) (.v 0) 0) { ty := .f32, rnd := .rn, sat := false } .i32) = some w ∧ Ready two (path [0, 1]) w.use :=
  ⟨⟨_, rfl, ready_of (by decide)⟩, ⟨_, rfl, ready_of (by decide)⟩⟩

theorem test_w_MoveAndPairWordsComplete :
    (∃ w, moveWord (.sel (fF 2 (.v 0) (.v 1) 0) .n32 1) = some w ∧ Ready two (path [0, 1]) w.use) ∧
    ∃ w, pairWord (.addHalf { p := 7, d := 2, s := 3, keep := false } ⟨.mov, { p := 7, d := 4, s := 5, keep := false }⟩) = some w ∧
      Ready two (path [0, 1]) w.use :=
  ⟨⟨_, rfl, ready_of (by decide)⟩, ⟨_, rfl, ready_of (by decide)⟩⟩

theorem test_w_ResultsAreRoundedOnce : let a : FVal := .fin false ⟨3, 0, false⟩
    let b : FVal := .fin true ⟨3, 0, false⟩
    valQ a = some 3 ∧ valQ b = some (-3) ∧ (3 : ℚ) + 3 ≠ 0 ∧ (3 : ℚ) * 3 ≠ 0 ∧ (3 : ℚ) * 3 + 3 ≠ 0 ∧ (3 : ℚ) ≠ 0 ∧ (3 : ℚ) + -3 = 0 ∧
    (⟨0, 5, false⟩ : Mag).mag = 0 := by
  norm_num [valQ]

theorem test_w_SpecialRegistersAndScalarDestinations :
    Ready two (path [0, 1]) (regUse false 2) ∧ (8 : BitVec 9).toNat ≤ 8 ∧
    Ready two (path [0, 1]) (srcUse false (.v 8)) ∧ Ready two (path [0, 1]) [] ∧ (two.acting (path [0, 1]) always).head? = some 0 ∧
    two.acting (path [0, 1]) never = [] :=
  ⟨ready_of (by decide), by decide, ready_of (by decide), ready_of (by decide), by decide, by decide⟩

/-- A lane of a translated image whose v4:v5 is 0x10000, or 64, with a stride of 16 in v6; tile 0 has two rows of four bytes, or one. -/
def virtual (a rows : Nat) : State :=
  bedG { placedCtx with kernels := [(0, { placedKern with virt := [0] })] }
    { scratch := 1, vtiles := [(0, { rows := rows, cols := 4, els := List.replicate (4 * rows) 1 })] }
    { lanes := [{ v := [(4, BitVec.ofNat 32 a), (6, 16)] }] } [0]
/-- The fields of a virtual word on tile 0 with sources v4 and v6; bit 0 names the scratchpad. -/
def vWord (sp : Bool) : BitVec 53 := (encF 0 (fF 0 (.v 4) (.v 6) 0) 0).setWidth 53 ||| (if sp then 1 else 0)

theorem test_w_VirtualAndUnassignedWords :
    (two.focus = some (path [0, 1]) ∧ two.emulates (path [0, 1]) = false) ∧
    (Ready (virtual 0x10000 2) (path [0]) [] ∧ (virtual 0x10000 2).emulates (path [0]) = true ∧
      ((virtual 0x10000 2).acting (path [0]) (vtForm (vWord false)).g).head? = some 0 ∧
      ∀ x ∈ [Instr.vtDecl (vWord false), .vtMma (vWord false), .vtMap (vWord false), .vtRed (vWord false)],
        ∃ use y, virtualWord (virtual 0x10000 2) (path [0]) 0 (vWord false) x = some (use, y)) := by
  refine ⟨⟨rfl, by decide⟩, ready_of (by decide), by decide, by decide, ?_⟩
  intro x hx
  fin_cases hx <;> exact ⟨_, _, rfl⟩

def openB (s : State) (f : Focus) (w : BitVec 53) (need : Need) : Bool :=
  let who := s.agent (s.fblock f).core (s.fdie f) (s.fctx f)
  (vtRanges (s.view f 0) (vtForm w) (s.vtile f (vtForm w).d.toNat) (w.getLsbD 0) need).all (fun r =>
    (match vtCheck s f r with | .ok _ _ => true | _ => false) &&
    (List.range r.len).all (fun o => (s.locPlace who (vtLoc s f r) o need).all (fun p => s.port who.world p == .pass)))

theorem open_of {s : State} {f : Focus} {w : BitVec 53} {need : Need} (h : openB s f w need = true) :
    ∀ r ∈ vtRanges (s.view f 0) (vtForm w) (s.vtile f (vtForm w).d.toNat) (w.getLsbD 0) need, (∃ p e, vtCheck s f r = .ok p e) ∧
      ∀ o < r.len, ∀ p, s.locPlace (s.agent (s.fblock f).core (s.fdie f) (s.fctx f)) (vtLoc s f r) o need = some p →
        s.port (s.agent (s.fblock f).core (s.fdie f) (s.fctx f)).world p = .pass := by
  intro r hr
  have h := List.all_eq_true.mp h r hr
  rw [Bool.and_eq_true] at h
  refine ⟨?_, fun o ho p hp => ?_⟩
  · generalize hc : vtCheck s f r = c at h
    cases c <;> first | exact ⟨_, _, rfl⟩ | simp at h
  · have := List.all_eq_true.mp h.2 o (List.mem_range.mpr ho)
    rw [hp] at this
    simpa using this

theorem test_w_VirtualAndUnassignedWords_memory : ∀ x ∈ [(virtual 0x10000 2, false), (virtual 64 1, true)],
    let w := vWord x.2
    Ready x.1 (path [0]) (vtUse w) ∧ x.1.emulates (path [0]) = true ∧ (x.1.acting (path [0]) (vtForm w).g).head? = some 0 ∧
    (x.1.fgroup (path [0])).region = none ∧ x.1.laneReqs 0 0 0 = [] ∧
    x.1.gate (path [0]) 0 true true false (if w.getLsbD 0 then .sp else .gl) = none ∧ x.1.held = [] ∧ x.1.poison = [] ∧
    ∀ need ∈ [Need.read, .write], openB x.1 (path [0]) w need = true ∧
      (vtRanges (x.1.view (path [0]) 0) (vtForm w) (x.1.vtile (path [0]) (vtForm w).d.toNat) (w.getLsbD 0) need).length = if x.2 then 1 else 2 := by
  intro x hx
  fin_cases hx <;> exact ⟨ready_of (by decide), by decide, by decide, rfl, rfl, by decide, rfl, rfl, by decide⟩

/-- Lane 1 of two has a target outside the code in v3. -/
def astray : State := bed [{}, { v := [(3, 9)] }] [0, 1]

theorem test_w_BranchesSendEachLane_trap : Issues astray (path [0, 1]) (srcUse false (.v 3)) ∧
    (astray.acting (path [0, 1]) always).filter
      (fun i => decide ((astray.fkern (path [0, 1])).size ≤ ((astray.view (path [0, 1]) i).src (.v 3)).toNat)) ≠ [] :=
  ⟨(ready_of (by decide)).toIssues, by decide⟩

theorem test_w_BranchesSendEachLane :
    Issues two (path [0, 1]) [] ∧ (BitVec.ofNat 32 1 + (6 : BitVec 32)).toNat < (two.fkern (path [0, 1])).size ∧
    LandsIn two (path [0, 1]) (sendTo two (path [0, 1]) always (fun _ => 7)) ∧
    (∀ i ∈ (path [0, 1]).lanes, ((two.view (path [0, 1]) i).src (.v 3)).toNat < (two.fkern (path [0, 1])).size) ∧
    two.acting (path [0, 1]) always ≠ [] ∧ (two.fkern (path [0, 1])).size ≤ (BitVec.ofNat 32 1 + (7 : BitVec 32)).toNat := by
  refine ⟨(ready_of (use := []) (by decide)).toIssues, by decide, ?_, by decide, by decide, by decide⟩
  unfold LandsIn; decide

/-- Lane 0 of three is at a `jwait` whose mask names it, lane 1 too, and lane 2 is ready elsewhere. -/
def joining : State := bedG placedCtx {} { lanes := [{}, {}, { pc := 3 }], j := [(2, 3)] } [0, 1]

theorem test_w_RejoinWordsComplete :
    Ready joining (path [0, 1]) (srcUse true (.v 4)) ∧ Ready joining (path [0, 1]) (srcUse false (.lit 200)) ∧
    Ready joining (path [0, 1]) [] ∧ (joining.acting (path [0, 1]) always).head? = some 0 ∧ joining.acting (path [0, 1]) never = [] ∧
    (∃ k ∈ (path [0, 1]).lanes, Holds joining (path [0, 1]) always 2 k = true) ∧
    (∃ k, k < (joining.fgroup (path [0, 1])).lanes.length ∧ (joining.flane (path [0, 1]) k).st = .ready ∧
      (k ∈ (path [0, 1]).lanes → Holds joining (path [0, 1]) always 2 k = false)) ∧
    ∀ k ∈ (path [0, 1]).lanes, Holds joining (path [0, 1]) always 7 k = false :=
  ⟨ready_of (by decide), ready_of (by decide), ready_of (by decide), by decide, by decide, ⟨0, by decide, by decide⟩,
    ⟨2, by decide, by decide, by decide⟩, by decide⟩

/-- Three lanes, of which two are at the last word of the code. -/
def lastWord : State := { bed [{ pc := 7 }, { pc := 7 }, {}] [] with focus := some { path [0, 1] with pc := 7 } }

def issuesB (s : State) (f : Focus) : Bool :=
  s.focus == some f && (s.block? f.blk).isSome && decide (f.grp < (s.fblock f).groups.length) && decide f.lanes.Nodup && !f.lanes.isEmpty &&
  f.lanes.all (fun i => decide (i < (s.fgroup f).lanes.length) && (s.flane f i).st == .ready && !pendHit (s.fgroup f).nregs [] (s.flane f i))

theorem issues_of {s : State} {f : Focus} (h : issuesB s f = true) : Issues s f [] := by
  simp only [issuesB, Bool.and_eq_true, beq_iff_eq, decide_eq_true_eq, List.all_eq_true, Bool.not_eq_true'] at h
  obtain ⟨⟨⟨⟨⟨h1, h2⟩, h3⟩, h4⟩, h5⟩, h6⟩ := h
  exact { block := h2, group := h3, lanes := fun i hi => (h6 i hi).1.1, focus := h1, ready := fun i hi => (h6 i hi).1.2,
          once := h4, some := by simpa using h5, delivered := fun i hi => (h6 i hi).2 }

theorem test_w_CallsReturnsAndExitsComplete_exit : let f : Focus := { path [0, 1] with pc := 7 }
    Issues lastWord f [] ∧ (∀ i ∈ f.lanes, Acts lastWord f always i = true) ∧
    (2 < (lastWord.fgroup f).lanes.length ∧ 2 ∉ lastWord.acting f always ∧ (lastWord.flane f 2).st ≠ .exited ∧
      ∀ j, (lastWord.flane f 2).st ≠ .held j) ∧
    (∀ i ∈ lastWord.acting f always, (lastWord.flane f i).stack = [] ∧ (lastWord.flane f i).depth = 0) ∧
    ∀ k, ¬(k < (two.fgroup (path [0, 1])).lanes.length ∧ k ∉ two.acting (path [0, 1]) always) :=
  ⟨issues_of (by decide), by decide, ⟨by decide, by decide, by decide, fun j h => by cases h⟩, by decide,
   fun k h => h.2 (by have : k < 2 := h.1
                      interval_cases k <;> decide)⟩

/-- Two lanes that have called from words 4 and 5, and two with room for one more entry. -/
def called : State := bed [{ stack := [1, 2, 4] }, { stack := [1, 2, 5] }] [0, 1]

theorem test_w_CallsReturnsAndExitsComplete :
    Issues called (path [0, 1]) [] ∧ (called.fgroup (path [0, 1])).region = none ∧
    (∀ i ∈ called.acting (path [0, 1]) always, (called.flane (path [0, 1]) i).stack.length < 4 ∧
      (BitVec.ofNat 32 1 + (6 : BitVec 32)).toNat < (called.fkern (path [0, 1])).size) ∧
    LandsIn called (path [0, 1]) (sendTo called (path [0, 1]) always (fun _ => 7)) ∧
    LandsIn called (path [0, 1]) (sendTo called (path [0, 1]) always (fun i => ((called.flane (path [0, 1]) i).stack.getLast?).getD 0)) ∧
    ∀ i ∈ called.acting (path [0, 1]) always, ∃ a, (called.flane (path [0, 1]) i).stack.getLast? = some a ∧
      a < (called.fkern (path [0, 1])).size := by
  refine ⟨(ready_of (use := []) (by decide)).toIssues, rfl, by decide, ?_, ?_, ?_⟩
  · unfold LandsIn; decide
  · unfold LandsIn; decide
  · intro i hi
    have : i = 0 ∨ i = 1 := by revert i; decide
    rcases this with rfl | rfl
    · exact ⟨4, by decide⟩
    · exact ⟨5, by decide⟩

theorem test_w_NopAndYieldComplete : Ready two (path [0, 1]) [] ∧ Ready two (path [0, 1]) (srcUse false (.lit 255)) ∧
    (two.acting (path [0, 1]) always).head? = some 0 ∧ ((two.view (path [0, 1]) 0).src (.lit 0)).toNat = 0 ∧
    ((two.view (path [0, 1]) 0).src (.lit 255)).toNat ≠ 0 ∧ two.acting (path [0, 1]) never = [] ∧
    Tbl.rising 0 (two.fgroup (path [0, 1])).passed = true :=
  ⟨ready_of (by decide), ready_of (by decide), by decide, by decide, by decide, by decide, by decide⟩

/-- Two lanes in a loop of slot 1. -/
def looping : State := bed (List.replicate 2 { slots := [⟨1, 2, 6⟩], lc := [(1, 3)] }) [0, 1]

theorem test_w_LoopWordsComplete : Issues looping (path [0, 1]) (srcUse false (.lit 4)) ∧
    LandsIn looping (path [0, 1]) (fun i l => if Acts looping (path [0, 1]) always i
      then startLoop (path [0, 1]) 0 4 (1 + 3) l else l.advance 1) ∧
    LandsIn looping (path [0, 1]) (fun i l => if Acts looping (path [0, 1]) always i
      then startLoop (path [0, 1]) 0 0 (1 + 3) l else l.advance 1) ∧
    LandsIn looping (path [0, 1]) (fun i l => if Acts looping (path [0, 1]) always i then leaveLoop (path [0, 1]) 1 l else l.advance 1) := by
  refine ⟨(ready_of (use := srcUse false (.lit 4)) (by decide)).toIssues, ?_, ?_, ?_⟩ <;> (unfold LandsIn; decide)

theorem test_w_RegisterShareWordsComplete : ∀ n ∈ [0, 64], Ready two (path [0, 1]) (srcUse false (.lit (BitVec.ofNat 9 n))) ∧
    (two.acting (path [0, 1]) always).head? = some 0 ∧ ((two.view (path [0, 1]) 0).src (.lit (BitVec.ofNat 9 n))).toNat = n ∧
    (two.fblock (path [0, 1])).st = .resident ∧ (two.fblock (path [0, 1])).units + n ≤ 192 ∧
    n ≤ two.freeUnits (two.fblock (path [0, 1])).core ∧ (two.core (two.fblock (path [0, 1])).core).grows = [] := by
  intro n hn
  fin_cases hn <;> exact ⟨ready_of (by decide), by decide, by decide, by decide, by decide, by decide, by decide⟩
/-- A block with 16 KiB of scratchpad. -/
def pad : State := bedG placedCtx { scratch := 1 } { lanes := [at' 0x100] } [0]
def P0 : Focus := path [0]

/-- Die 0 of a machine whose other dies are as after reset has kept no answer, and they none. -/
theorem fresh_of (d : Nat) : one.dupOf d (one.fblock P0).core one.nextId = none := by
  rcases d with _ | d
  · decide
  · have h : one.die (d + 1) = {} := by simp [one, bed, bedG, State.die, Tbl.at]
    simp [State.dupOf, h]

theorem test_w_MemberWordsOpenTheirExecution :
    Ready two (path [0, 1]) (srcUse false (.v 2) ++ srcUse true (.v 4) ++ regUse true 6) ∧
    Ready two (path [0, 1]) (srcUse false (.v 2) ++ srcUse false (.v 4) ++ regUse false 6) :=
  ⟨ready_of (by decide), ready_of (by decide)⟩

def mate : Member := { lane := 1, acts := true, a := 5, b := 0, tag := false }
def voting : Execution := { kern := 0, pc := 0, instr := .vote (fF 2 (.v 2) (.v 4) 0) .n32 .any, word := 0, members := [0, 1],
                            issued := [{ mate with lane := 0 }, mate], cycles := 0 }
def voters : Group := { lanes := List.replicate 2 { st := .waiting .member } }

theorem test_w_CrossLaneResults : (∀ l, l ∉ voting.issued.map Member.lane → (if l < 2 then (5 : DWord) else 0) = 0) ∧
    ∀ b, b ∈ [(0 : DWord), 7] →
      let m : Member := { mate with b := b }
      let issued := [{ mate with lane := 0 }, m]
      m ∈ issued ∧ (issued.map Member.lane).Nodup ∧ m.lane < voters.lanes.length ∧ (voters.lane m.lane).st = .waiting .member ∧
      m.acts = true ∧ (∀ k ∈ issued, (if k.lane < 2 then (5 : DWord) else 0) = if k.acts then k.a else 0) ∧
      ((∃ k ∈ issued, k.lane = m.b.toNat) ∨ m.b.toNat ∉ issued.map Member.lane) := by
  refine ⟨fun l h => if_neg (fun k => h ?_), fun b hb => ?_⟩
  · interval_cases l <;> decide
  · fin_cases hb <;> exact ⟨by simp, by decide, by decide, rfl, rfl, by decide, by decide⟩

theorem test_w_CrossLaneResults_source : 0 < 16 ∧ 15 < 16 := by decide

theorem test_w_CrossLaneResults_idle : let m : Member := { mate with acts := false }
    (∀ l, l ∉ [0, 1] → (if l = 0 then (5 : DWord) else 0) = 0) ∧ m.acts = false ∧
    ∀ k ∈ [{ mate with lane := 0 }, m], (if k.lane = 0 then (5 : DWord) else 0) = if k.acts then k.a else 0 :=
  ⟨fun l h => if_neg (by simp at h; omega), rfl, by decide⟩

theorem test_w_ReductionsComplete : Ready two (path [0, 1]) (srcUse false (.v 2) ++ regUse false 6) ∧
    Machine.Num.of .n32 = .int false 32 ∧ (List.replicate 16 (2 ^ 32 - 1)).length = 16 ∧
    ∀ a ∈ List.replicate 16 (2 ^ 32 - 1), a < 2 ^ 32 :=
  ⟨ready_of (by decide), rfl, by decide, by decide⟩

def mS (space : Space) : MForm := mM space (if space = .sp then .blk else if space = .gl then .dev else .cls)

theorem test_w_LoadsReadTheirBytes_memory :
    (loadOf (.ld (mS .gl) 3) = some (mS .gl, 3, false) ∧ loadOf (.ldq (mS .gl) 3) = some (mS .gl, 3, true)) ∧
    (Solo one P0 0 always (baseUse (.v 4) ++ regUse false 8) ∧ Solo one P0 0 always (baseUse (.v 4) ++ quadUse 8)) ∧
    one.gate P0 0 true false false .gl = none ∧
    (∃ seen, checkM (mS .gl) (scaled 3 4) 4 [.read] .load false one P0 0 = .ok (.mem 0x1000C) seen) ∧
    (∃ seen, checkM (mS .gl) (scaled 3 16) 16 [.read] .load false one P0 0 = .ok (.mem 0x10030) seen) ∧
    one.windowRoom (.mem 0x1000C) = true ∧ HomeAnswers one P0 0x1000C ∧ dieOfAddr 0x1000C = dieOfCore (one.fblock P0).core :=
  ⟨⟨rfl, rfl⟩, ⟨solo_of (by decide), solo_of (by decide)⟩, by decide, ⟨_, rfl⟩, ⟨_, rfl⟩, rfl,
   ⟨rfl, rfl, by decide, by decide, fun d => fresh_of d⟩, by decide⟩

set_option maxRecDepth 200000 in
theorem test_w_LoadsReadTheirBytes_constants :
    (loadOf (.ldSp (mS .const) 3) = some (mS .const, 3, false) ∧ loadOf (.ldqSp (mS .const) 3) = some (mS .const, 3, true)) ∧
    (Solo pad P0 0 always (baseUse (.v 4) ++ regUse false 8) ∧ Solo pad P0 0 always (baseUse (.v 4) ++ quadUse 8)) ∧
    pad.gate P0 0 true false false .const = none ∧
    checkM (mS .const) (scaled 3 4) 4 [.read] .load false pad P0 0 = .const 0x10C ∧
    checkM (mS .const) (scaled 3 16) 16 [.read] .load false pad P0 0 = .const 0x130 :=
  ⟨⟨rfl, rfl⟩, ⟨solo_of (by decide), solo_of (by decide)⟩, by decide, rfl, rfl⟩

set_option maxRecDepth 200000 in
theorem test_w_LoadsReadTheirBytes_scratch : ∀ space ∈ [Space.sp, .rsp],
    (loadOf (.ldSp (mS space) 3) = some (mS space, 3, false) ∧ loadOf (.ldqSp (mS space) 3) = some (mS space, 3, true)) ∧
    pad.gate P0 0 true false false space = none ∧
    (∃ seen, checkM (mS space) (scaled 3 4) 4 [.read] .load false pad P0 0 = .ok (.rsp 0 0x10C) seen) ∧
    (∃ seen, checkM (mS space) (scaled 3 16) 16 [.read] .load false pad P0 0 = .ok (.rsp 0 0x130) seen) ∧
    pad.windowRoom (.rsp 0 0x10C) = true := by
  intro space h
  fin_cases h <;> exact ⟨⟨rfl, rfl⟩, by decide, ⟨_, rfl⟩, ⟨_, rfl⟩, rfl⟩

theorem test_w_BadAddressesTrap :
    (Solo one P0 0 always (baseUse (.v 4) ++ regUse false 8) ∧ one.gate P0 0 true false false .gl = none ∧
      (BitVec.ofInt 64 ((((one.view P0 0).base (.v 4)).val.toNat : Int) + scaled 1 8)).toNat % 16 ≠ 0) ∧
    (Solo pad P0 0 always (baseUse (.v 4) ++ regUse false 8) ∧ pad.gate P0 0 true false false .sp = none ∧
      (let x : Int := (((pad.view P0 0).base (.v 4)).val.toNat : Int) + scaled 4032 4
       (BitVec.ofInt 64 x).toNat % 4 = 0 ∧ (pad.fblock P0).scratch * 16384 ≤ x) ∧
      (let x : Int := (((pad.view P0 0).base (.v 4)).val.toNat : Int) + scaled (-65) 4
       (BitVec.ofInt 64 x).toNat % 4 = 0 ∧ x < 0)) := by
  refine ⟨⟨solo_of (by decide), by decide, by decide⟩, solo_of (by decide), by decide, ⟨by decide, by decide⟩, by decide, by decide⟩

/-- A pointer to slot 3 of colour 9 in v4:v5, offset 16. -/
def slot3 : Slot := { home := 1, serial := 77, size := 64, colour := 9, r := true, w := true, state := 3, storage := 0x10000 }
def pointer : DWord := pointerBits 3 9 16
def named : State := bedG { placedCtx with slots := [(3, slot3)] } {}
  { lanes := [{ v := [(4, pointer.extractLsb' 0 32), (5, pointer.extractLsb' 32 32), (6, 0x10000)], tags := [4] }] } [0]

/-- A lane whose pointer has the colour and offset given, tagged or not, and a range registered on its core. -/
def pointing (colour off : Nat) (tagged w lock : Bool) : State :=
  let p := pointerBits 3 colour off
  let s := bedG { placedCtx with slots := [(3, { slot3 with w := w })] } {}
    { lanes := [{ v := [(4, p.extractLsb' 0 32), (5, p.extractLsb' 32 32)], tags := if tagged then [4] else [] }] } [0]
  { s with cores := if lock then [(0, { locks := [⟨5, 0, none, p.toNat, 64, true⟩] })] else [] }
/-- A lane whose base is the address given, with an entry cached, memory's tables as given, or a range registered. -/
def paging (va : Nat) (tlb : List TlbEntry) (leaf : DWord) (lock : Bool) : State :=
  let s := bed [at' va] [0]
  { s with mem := Memory.write s.mem (placedTables + 8200) (bytesOfWord leaf),
           cores := [(0, { tlb := tlb, locks := if lock then [⟨5, 0, none, 0x10000, 64, true⟩] else [] })] }
def leafBits (w : Bool) : DWord := mkPte true w true false 0 placedFrame 0
def tlbOf (w : Bool) : List TlbEntry := [⟨0, 0x10000, 65536, leafBits w⟩]

def storing (off : BitVec 14) (s : State) : Bool :=
  (accessOf (.st (mM .gl .dev) off)).isSome && soloB s P0 0 always (baseUse (.v 4) ++ regUse false 8) && s.gate P0 0 false true false .gl == none &&
  (s.fgroup P0).region == none && decide ((BitVec.ofInt 64 ((((s.view P0 0).base (.v 4)).val.toNat : Int) + scaled off 4)).toNat % 4 = 0)

def hitB (s : State) (lo : Nat) : Bool :=
  (s.core (s.fblock P0).core).locks.any (fun k => k.spBlk == none && k.ctx == s.fctx P0 && (k.dest || true) &&
    decide (lo < k.lo + k.len) && decide (k.lo < lo + 4))

theorem hit_of {s : State} {lo : Nat} (h : hitB s lo = true) : RangeHit s P0 lo 4 true := by
  simp only [hitB, List.any_eq_true, Bool.and_eq_true, beq_iff_eq, decide_eq_true_eq] at h
  obtain ⟨k, hk, ⟨⟨⟨⟨a, b⟩, c⟩, d⟩, e⟩⟩ := h
  exact ⟨k, hk, a, b, Or.inr rfl, d, e⟩

theorem test_w_BadAddressesTrap_idempotent : let s := bedG placedCtx {} { lanes := [at' 0x10000], region := some default } [0]
    Solo s P0 0 always (baseUse (.v 4) ++ regUse false 8) ∧ (s.fgroup P0).region.isSome = true :=
  ⟨solo_of (by decide), rfl⟩

theorem test_w_BadAddressesTrap_window :
    (let s := pointing 9 16 false true false
     storing 0 s = true ∧ inWindow ((s.view P0 0).base (.v 4)).val.toNat = true ∧ ((s.view P0 0).base (.v 4)).tag = false) ∧
    (∀ x ∈ [(8, 16, (0 : BitVec 14)), (9, 16, 12), (9, 16, -5), (9, 16, 11)], storing x.2.2 (pointing x.1 x.2.1 true true false) = true ∧
      ((pointing x.1 x.2.1 true true false).view P0 0 |>.base (.v 4)).tag = true) ∧
    (slot3.colour = 9 ∧ slot3.size = 64 ∧ slot3.state ≠ 6 ∧ 64 < 16 + 4 * 12 + 4 ∧ 16 + 4 * 11 + 4 ≤ 64) ∧
    (storing 0 (pointing 9 16 true false false) = true ∧ ((pointing 9 16 true false false).ctx 0).slot 3 = { slot3 with w := false }) ∧
    (storing 0 (pointing 9 16 true true true) = true ∧
      RangeHit (pointing 9 16 true true true) P0 (((pointing 9 16 true true true).view P0 0).base (.v 4)).val.toNat 4 true) := by
  refine ⟨by decide, by decide, by decide, by decide, by decide, hit_of (by decide)⟩

theorem test_w_BadAddressesTrap_page :
    (storing (-1) (paging 0 [] 0 false) = true ∧ (0 : Int) + scaled (-1) 4 < 0) ∧
    (storing 0 (paging (2 ^ 57) [] 0 false) = true ∧ inWindow (2 ^ 57) = false) ∧
    (∀ w ∈ [true, false], storing 0 (paging 0x10000 (tlbOf w) 0 true) = true ∧
      cached ((paging 0x10000 (tlbOf w) 0 true).core 0).tlb 0 0x10000 = some ⟨0, 0x10000, 65536, leafBits w⟩ ∧ (pteOf (leafBits w)).w = w) ∧
    (storing 0 (paging 0x20000 [] 0 false) = true ∧ ((paging 0x20000 [] 0 false).ctx 0).region 0x20000 = none) ∧
    (∀ w ∈ [true, false], storing 0 (paging 0x10000 [] (leafBits w) true) = true ∧
      cached ((paging 0x10000 [] (leafBits w) true).core 0).tlb 0 0x10000 = none ∧
      RangeHit (paging 0x10000 [] (leafBits w) true) P0 0x10000 4 true ∧
      ∃ g l e bits, ((paging 0x10000 [] (leafBits w) true).ctx 0).region 0x10000 = some g ∧ g.kind ≠ .sram ∧ e.w = w ∧
        walk (paging 0x10000 [] (leafBits w) true).mem placedRoot 0x10000 = .leaf l e bits) ∧
    (storing 0 (paging 0x10000 [] 0xC03 false) = true ∧ walk (paging 0x10000 [] 0xC03 false).mem placedRoot 0x10000 = .malformed) := by
  refine ⟨by decide, by decide, by decide, by decide, ?_, by decide⟩
  intro w hw
  fin_cases hw <;> exact ⟨by decide, by decide, hit_of (by decide), _, _, _, _, rfl, by decide, rfl, rfl⟩

theorem test_w_AtomicsAskTheirPlace : (one.fgroup P0).region = none ∧
    Leaves one 0 (one.gate P0 0 true true false .gl) (checkM (mM .gl .dev) 0 4 [.read, .write] .atomic true one P0 0) (.mem 0x10000) ∧
    Solo one P0 0 always (baseUse (.v 4) ++ regUse false 7 ++ []) ∧ Solo one P0 0 always (baseUse (.v 4) ++ regUse false 7 ++ regUse false 8) :=
  ⟨rfl, ⟨by decide, ⟨_, rfl⟩, rfl⟩, solo_of (by decide), solo_of (by decide)⟩

theorem test_w_StoresWriteTheirBytes :
    ((one.fgroup P0).region = none ∧ Solo one P0 0 always (baseUse (.v 4) ++ regUse false 8) ∧
      Leaves one 0 (one.gate P0 0 false true false .gl) (checkM (mM .gl .dev) (scaled 3 4) 4 [.write] .store true one P0 0) (.mem 0x1000C) ∧
      Solo one P0 0 always (baseUse (.v 4) ++ quadUse 8) ∧
      Leaves one 0 (one.gate P0 0 false true false .gl) (checkM (mM .gl .dev) (scaled 3 16) 16 [.write] .store true one P0 0) (.mem 0x10030)) ∧
    (Cells.wf (pad.fblock P0).spad = true ∧ Solo pad P0 0 always (baseUse (.v 4) ++ regUse false 8) ∧
      Leaves pad 0 (pad.gate P0 0 false true false .sp) (checkM (mM .sp .blk) (scaled 3 4) 4 [.write] .store true pad P0 0) (.rsp 0 0x10C) ∧
      Solo pad P0 0 always (baseUse (.v 4) ++ quadUse 8) ∧
      Leaves pad 0 (pad.gate P0 0 false true false .sp) (checkM (mM .sp .blk) (scaled 3 16) 16 [.write] .store true pad P0 0) (.rsp 0 0x130) ∧
      Leaves pad 0 (pad.gate P0 0 true true false .sp) (checkM (mM .sp .blk) 0 4 [.read, .write] .atomic true pad P0 0) (.rsp 0 0x100) ∧
      Solo pad P0 0 always (baseUse (.v 4) ++ regUse false 7 ++ regUse false 8)) :=
  ⟨⟨rfl, solo_of (by decide), ⟨by decide, ⟨_, rfl⟩, rfl⟩, solo_of (by decide), ⟨by decide, ⟨_, rfl⟩, rfl⟩⟩,
   ⟨rfl, solo_of (by decide), ⟨by decide, ⟨_, rfl⟩, rfl⟩, solo_of (by decide), ⟨by decide, ⟨_, rfl⟩, rfl⟩, ⟨by decide, ⟨_, rfl⟩, rfl⟩,
    solo_of (by decide)⟩⟩

/-- A Kneader's node of 64 bytes, named by v6:v7. -/
def kneading : State := bed [{ v := [(4, 0x10000), (6, 0x10040)] }] [0]
def mK : MForm := { mM .gl .dev with ty := .n64 }

theorem test_w_KneaderCommandsLeaveAndWait : (kneading.fgroup P0).region = none ∧
    Solo kneading P0 0 always (baseUse (.v 4) ++ manyUse 16 8 ++ manyUse 8 8) ∧
    Leaves kneading 0 (kGate mK kneading P0 0) (checkK mK 8 32 (fun a _ => oneLine 4 a) kneading P0 0) (.mem 0x10000) ∧
    Solo kneading P0 0 always (baseUse (.v 4) ++ regUse true 6 ++ regUse true 8) ∧
    Leaves kneading 0 (kGate mK kneading P0 0) (checkK mK 16 16 (fun _ w => nodeOk (w.wideRegs 6 2)) kneading P0 0) (.mem 0x10000) ∧
    Leaves kneading 0 (kGate mK kneading P0 0) (checkK mK 16 16 (fun _ _ => true) kneading P0 0) (.mem 0x10000) ∧
    Solo kneading P0 0 always (baseUse (.v 4) ++ regUse true 6 ++ quadUse 8) ∧
    Leaves kneading 0 (kGate mK kneading P0 0) (checkK mK 16 24 (fun _ _ => true) kneading P0 0) (.mem 0x10000) :=
  ⟨rfl, solo_of (by decide), ⟨by decide, ⟨_, rfl⟩, rfl⟩, solo_of (by decide), ⟨by decide, ⟨_, rfl⟩, rfl⟩, ⟨by decide, ⟨_, rfl⟩, rfl⟩,
   solo_of (by decide), ⟨by decide, ⟨_, rfl⟩, rfl⟩⟩

theorem test_w_LineAndHintWordsComplete :
    Solo one P0 0 always (baseUse (.v 4)) ∧
    (0 ≤ ((((one.view P0 0).base (.v 4)).val.toNat : Int) + scaled 0 1) ∧ canonical 0x10000 = true ∧
      one.physOf (one.fblock P0).core (one.fctx P0) 0x10000 = some 0x10000) ∧
    ((∀ t, prefetchCheck (mM .gl .dev) 0 one P0 0 ≠ .bad rankLock t) ∧ cinvGate one P0 0 = none) ∧
    (Solo named P0 0 always (baseUse (.v 4)) ∧ ((named.view P0 0).base (.v 4)).tag = true ∧
      ptrColour ((named.view P0 0).base (.v 4)).val = ((named.ctx (named.fctx P0)).slot 3).colour ∧ (named.ctx? (named.fctx P0)).isSome ∧
      (Tbl.at (named.ctx (named.fctx P0)).slots (ptrSlot ((named.view P0 0).base (.v 4)).val)).isSome) ∧
    Leaves one 0 (one.gate P0 0 false true false .gl) (checkLine (mM .gl .dev) 0 .write .store one P0 0) (.mem 0x10000) :=
  ⟨solo_of (by decide), ⟨by decide, by decide, rfl⟩, ⟨(fun t h => by cases h), by decide⟩, ⟨solo_of (by decide), by decide, by decide, by decide, by decide⟩,
   ⟨by decide, ⟨_, rfl⟩, rfl⟩⟩

def aReq : Req :=
  { id := 5, kind := .load, ctx := 0, world := 1, core := 0, blk := 0, grp := 0, lane := 0, inst := 0, wordId := 5, place := .mem 0x10000,
    size := 4, ty := .n32, data := 0, cmp := 0, scope := .dev, ord := .rlx, atHome := true, dest := .reg 8 .n32, isLd := true, after := [],
    vec := {}, stage := 2, performed := false, reply := 0, tag := false, raises := {}, lost := false }

/-- A load is in flight, whose register no word here names. -/
def loading : State := { bed [{ pend := [8] }] [0] with reqs := [aReq] }

theorem test_w_FencesAndCountsOrder : Solo loading P0 0 always [] ∧ loading.laneReqs 0 0 0 = [aReq] ∧
    loading.acting P0 always ≠ [] ∧ loading.countsOk 0 0 1 7 7 7 = true ∧ loading.countsOk 0 0 0 7 7 7 = false :=
  ⟨solo_of (by decide), rfl, by decide, by decide, by decide⟩

def longName : BitVec 128 := slot3.name 16
def holding (g : Option Granule) (r : Option ResOut) : State := bed [{ at' 0x10000 with gran := g, res := r }] [0]

theorem test_w_NameAccessesComplete_ldn :
    Solo one P0 0 always (baseUse (.v 4) ++ regUse true 8) ∧ (one.flane P0 0).gran = none ∧
    Leaves one 0 (one.gate P0 0 true false false .gl) (checkM (mM .gl .dev) (scaled 0 16) 16 [.read] .load false one P0 0) (.mem 0x10000) :=
  ⟨solo_of (by decide), rfl, ⟨by decide, ⟨_, rfl⟩, rfl⟩⟩

theorem test_w_NameAccessesComplete_null : let s := holding (some ⟨0, false⟩) none
    Solo s P0 0 always (baseUse (.v 4) ++ regUse true 8) ∧ (s.flane P0 0).gran = some ⟨0, false⟩ ∧ (s.flane P0 0).res = none :=
  ⟨solo_of (by decide), rfl, rfl⟩

set_option maxRecDepth 200000 in
theorem test_w_NameAccessesComplete_named : let s := holding (some ⟨longName, true⟩) (some (.slot 3 9))
    Solo s P0 0 always (baseUse (.v 4) ++ regUse true 8) ∧ (∃ n, parseName longName = some n ∧ n.offset = 16) ∧
    (s.flane P0 0).res = some (.slot 3 9) :=
  ⟨solo_of (by decide), ⟨⟨1, 77, 16, 3⟩, by decide, rfl⟩, rfl⟩

theorem test_w_NameAccessesComplete_stn : let m : MForm := { mM .gl .dev with ty := .n64, data := 4, base := .v 6 }
    Solo named P0 0 always (baseUse (.v 6) ++ regUse true 4) ∧ (named.fgroup P0).region = none ∧
    Leaves named 0 (named.gate P0 0 false true false .gl) (stnCheck m 0 named P0 0) (.mem 0x10000) :=
  ⟨solo_of (by decide), rfl, ⟨by decide, ⟨_, rfl⟩, rfl⟩⟩

theorem test_w_PointerWordsComplete :
    named.acting P0 always = [0] ∧ (named.view P0 0).designates (named.ctx (named.fctx P0)) (.v 4) = .slot slot3 pointer ∧
    (named.view P0 0).designates (named.ctx (named.fctx P0)) (.v 8) = .null ∧
    Ready named P0 (srcUse true (.v 4) ++ srcUse true (.v 8)) ∧ Ready named P0 (srcUse true (.v 4) ++ regUse true 8) ∧
    Ready named P0 (srcUse true (.v 4) ++ quadUse 8) ∧ Solo named P0 0 always (srcUse true (.v 4) ++ regUse true 8) ∧
    ptrColour pointer = ((named.ctx (named.fctx P0)).slot 3).colour ∧ (named.view P0 0).tagOf (.v 8) = false :=
  ⟨by decide, by decide, by decide, ready_of (by decide), ready_of (by decide), ready_of (by decide), solo_of (by decide), by decide,
   by decide⟩


def hyperB (s : State) (f : Focus) (g : Guard) (i : Nat) (named use : List Nat) : Bool :=
  readyB s f [] && (s.acting f g).head? == some i && (hyperPending s f named).isEmpty && !pendHit (s.fgroup f).nregs use (s.flane f i)

theorem hyper_of {s : State} {f : Focus} {g : Guard} {i : Nat} {named use : List Nat} (h : hyperB s f g i named use = true) :
    HyperReady s f g i named use := by
  simp only [hyperB, Bool.and_eq_true, beq_iff_eq, Bool.not_eq_true', List.isEmpty_iff] at h
  exact { ready_of h.1.1.1 with lowest := h.1.1.2, loaded := h.1.2, delivered' := h.2 }

/-- A block with two tile registers, 64 KiB of scratchpad and a group of 64 lanes, of which two are in the path. -/
def tiled : State := bedG placedCtx { acc := 2, scratch := 4 } { lanes := List.replicate 64 {}, s := [(4, 0x400)] } [0, 1]
def tForm : TForm := { g := always, td := 1, ts := 0, p := 4, cnt := 0, x := 8, y := 9, ctr := 0, en := false, flags := 0 }

theorem test_w_TileCommandsQueue : tileOf (.tzero tForm) = some (.tzero, tForm) ∧ Ready tiled (path [0, 1]) [] ∧
    (tiled.acting (path [0, 1]) tForm.g).head? = some 0 ∧
    (let c := tileCmdOf tiled (path [0, 1]) 0 .tzero tForm
     c.range = none ∧ scalePending tiled (path [0, 1]) c = [] ∧ worst (tileChecks tiled (path [0, 1]) c) = .const 0 ∧
     c.inCapacity = true ∧ linesOk (tiled.core 0) 0 c = true ∧ tileRoom (tiled.core 0) c = true) :=
  ⟨rfl, ready_of (by decide), by decide, rfl, by decide, rfl, by decide, by decide, by decide⟩

def tileCmd (kind : TileKind) : TileCmd := { tileCmdOf tiled (path [0, 1]) 0 kind tForm with id := 5 }
/-- A command is at the head of core 0's queue. -/
def tiling (kind : TileKind) : State :=
  { tiled with cores := [(0, { tileQ := [tileCmd kind], owner := if kind = .bsinv then [(0, 0)] else [] })] }

theorem test_w_TileEngineWorks_head : ∀ kind ∈ [TileKind.tzero, .tmma, .bsinv],
    ((tiling kind).core 0).tileQ = [tileCmd kind] ∧ ((tiling kind).block? (tileCmd kind).blk).isSome = true ∧
    (tileCmd kind).done = 0 ∧ (tileCmd kind).after = [] ∧ (tileCmd kind).range = none ∧ 0 < (tileCmd kind).steps ∧
    Cells.wf ((tiling kind).block 0).tiles = true := by decide

theorem test_w_TileEngineWorks_done : ({ tileCmd .tzero with done := 1 } : TileCmd).steps ≤ 1 := by decide

def hyp : State := bedG placedCtx { scratch := 1 } { lanes := [at' 0x400, {}], h := [(2, 5)], acc := [(1, 127)] } [0, 1]
def hF : FForm := fF 1 (.v 2) (.lit 3) 0

theorem test_w_HypervectorWordsComplete : ∀ i ∈ ([.hmov hF, .hxor { hF with b := .v 3 }, .hrot hF 3, .hthr hF, .hclr hF false, .hclr hF true,
    .hpop hF, .hdist { hF with b := .v 3 }, .hgen hF, .htie hF] : List Instr),
    ∃ w, hyperOf i = some w ∧ hyperB hyp (path [0, 1]) w.g 0 w.named w.use = true := by
  intro i hi
  fin_cases hi <;> exact ⟨_, rfl, by decide⟩

theorem test_w_BundlesCountEachBit : HyperReady hyp (path [0, 1]) always 0 [srcIx (.v 2)] [] ∧
    (hyp.ctx? (hyp.fctx (path [0, 1]))).isSome = true := ⟨hyper_of (by decide), by decide⟩

def aSearch : LunaJob :=
  { id := 5, blk := 0, grp := 0, lane := 0, ctx := 0, src := .at (.rsp 0 0x400), count := 1, query := 0, dst := 4, limit := 0, next := 0, best := 0,
    dmin := 8193 }

theorem test_w_SearchFindsTheNearestEntry : 0 < aSearch.count ∧ aSearch.next = 0 ∧ aSearch.gran = 0 ∧ aSearch.diff = 0 ∧ aSearch.best = 0 ∧
    aSearch.dmin = 8193 := by decide

/-- A search that has read its one entry, 100 bits away. -/
def searched : State := { hyp with cores := [(0, { luna := [{ aSearch with next := 1, dmin := 100 }] })] }

theorem test_w_ImagesAndSearchesComplete_end : (searched.core 0).luna = [{ aSearch with next := 1, dmin := 100 }] ∧ (searched.core 0).frozen = false ∧
    searched.laneReqs 0 0 0 = [] ∧ aSearch.count ≤ 1 ∧ (searched.block? 0).isSome = true ∧ 0 < (searched.block 0).groups.length :=
  ⟨rfl, by decide, rfl, by decide, by decide, by decide⟩

/-- Lane 0 has the address 0x10000, and its v9 holds 1. -/
def hyperMem : State := bed [{ at' 0x10000 with v := [(4, 0x10000), (9, 1)] }, {}] [0, 1]

theorem test_w_ImagesAndSearchesComplete_memory : let m : MForm := { mM .gl .dev with data := 2 }
    (hyperMem.fgroup (path [0, 1])).region = none ∧ Cells.wf (hyperMem.fblock (path [0, 1])).spad = true ∧
    HyperReady hyperMem (path [0, 1]) always 0 [2] (baseUse (.v 4)) ∧ HyperReady hyperMem (path [0, 1]) always 0 [2] (baseUse (.v 4) ++ [9]) ∧
    hyperMem.gate (path [0, 1]) 0 true false false .gl = none ∧ hyperMem.gate (path [0, 1]) 0 false true (isRel m.ord) .gl = none ∧
    (∃ seen, checkM m (scaled 1 1024) 1024 [.read] .load false hyperMem (path [0, 1]) 0 = .ok (.mem 0x10400) seen) ∧
    (∃ seen, checkM m (scaled 1 1024) 1024 [.write] .store true hyperMem (path [0, 1]) 0 = .ok (.mem 0x10400) seen) ∧
    (∃ seen, checkM m (1024 * (((hyperMem.flane (path [0, 1]) 0).reg (hyperMem.fgroup (path [0, 1])).nregs 9).toNat : Int)) 1024 [.write] .store true
      hyperMem (path [0, 1]) 0 = .ok (.mem 0x10400) seen) ∧ hyperMem.unitRoom (.mem 0x10400) 64 = true :=
  ⟨rfl, rfl, hyper_of (by decide), hyper_of (by decide), by decide, by decide, ⟨_, rfl⟩, ⟨_, rfl⟩, ⟨_, rfl⟩, rfl⟩

set_option maxRecDepth 200000 in
theorem test_w_ImagesAndSearchesComplete_image : let m : MForm := { mM .sp .blk with data := 2 }
    (hyp.fgroup (path [0, 1])).region = none ∧ Cells.wf (hyp.fblock (path [0, 1])).spad = true ∧
    HyperReady hyp (path [0, 1]) always 0 [2] (baseUse (.v 4)) ∧ hyp.gate (path [0, 1]) 0 true false false .sp = none ∧
    ∃ seen, checkM m (scaled 1 1024) 1024 [.read] .load false hyp (path [0, 1]) 0 = .ok (.rsp 0 0x800) seen :=
  ⟨rfl, rfl, hyper_of (by decide), by decide, _, rfl⟩

set_option maxRecDepth 200000 in
theorem test_w_ImagesAndSearchesComplete_stores : let m : MForm := { mM .sp .blk with data := 2 }
    HyperReady hyp (path [0, 1]) always 0 [2] (baseUse (.v 4) ++ [9]) ∧ hyp.gate (path [0, 1]) 0 false true (isRel m.ord) .sp = none ∧
    (∃ seen, checkM m (scaled 1 1024) 1024 [.write] .store true hyp (path [0, 1]) 0 = .ok (.rsp 0 0x800) seen) ∧
    ∃ seen, checkM m (1024 * (((hyp.flane (path [0, 1]) 0).reg (hyp.fgroup (path [0, 1])).nregs 9).toNat : Int)) 1024 [.write] .store true hyp
      (path [0, 1]) 0 = .ok (.rsp 0 0x400) seen :=
  ⟨hyper_of (by decide), by decide, ⟨_, rfl⟩, _, rfl⟩

theorem test_w_ImagesAndSearchesComplete_search :
    (let x : FForm := { hF with a := .v 4, b := .v 6 }
     HyperReady hyp (path [0, 1]) always 0 [2] (srcUse true x.a ++ srcUse false x.b) ∧ ((hyp.view (path [0, 1]) 0).src x.b).toNat = 0) ∧
    (let x : FForm := { hF with a := .v 4, b := .lit 1 }
     HyperReady hyp (path [0, 1]) always 0 [2] (srcUse true x.a ++ srcUse false x.b) ∧ ((hyp.view (path [0, 1]) 0).src x.b).toNat = 1 ∧
     hyp.gate (path [0, 1]) 0 true false false .sp = none ∧
     ∃ p seen, checkSearch hyp (path [0, 1]) (srcBase (hyp.view (path [0, 1]) 0) x.a) true (1024 * 1) = .ok p seen) :=
  ⟨⟨hyper_of (by decide), by decide⟩, hyper_of (by decide), by decide, by decide, _, _, rfl⟩

/-- v4:v5 is 0x10000, v6:v7 the value given, v8:v9 0x10040, where the memory holds a trigger record of kind 8. -/
def cnt (n : Nat) : State :=
  let s := bed [{ v := [(4, 0x10000), (6, BitVec.ofNat 32 n), (8, 0x10040)] }] [0]
  { s with mem := Memory.write s.mem 0x10040 [8] }
def xF : FForm := fF 10 (.v 4) (.v 6) 8

theorem test_w_CounterWordsComplete_write : ((cnt 0).fgroup P0).region = none ∧ Solo (cnt 0) P0 0 always (srcUse true xF.a ++ srcUse true xF.b) ∧
    Leaves (cnt 0) 0 ((cnt 0).gate P0 0 false true true .gl) (counterChk xF.a .write .atomic (cnt 0) P0 0) (.mem 0x10000) ∧
    Leaves (cnt 0) 0 ((cnt 0).gate P0 0 false true true .gl) (counterChk xF.a .write .store (cnt 0) P0 0) (.mem 0x10000) :=
  ⟨rfl, solo_of (by decide), ⟨by decide, ⟨_, rfl⟩, rfl⟩, ⟨by decide, ⟨_, rfl⟩, rfl⟩⟩

theorem test_w_CounterWordsComplete_read :
    Leaves (cnt 0) 0 ((cnt 0).gate P0 0 true false false .gl) (counterChk xF.a .read .load (cnt 0) P0 0) (.mem 0x10000) ∧
    Solo (cnt 0) P0 0 always (srcUse true xF.a ++ regUse true xF.d) ∧ Solo (cnt 0) P0 0 always (srcUse true xF.a) ∧
    HomeAnswers (cnt 0) P0 0x10000 :=
  ⟨⟨by decide, ⟨_, rfl⟩, rfl⟩, solo_of (by decide), solo_of (by decide), rfl, rfl, by decide, by decide, fun d => fresh_of d⟩

theorem test_w_CounterWordsComplete_wait : ∀ n ∈ [0, 1], Solo (cnt n) P0 0 always (srcUse true xF.a ++ srcUse true xF.b) ∧ (cnt n).held = [] ∧
    (cnt n).port ((cnt n).ctx ((cnt n).fctx P0)).world (.mem 0x10000) = .pass ∧
    Leaves (cnt n) 0 (orGate (fun s f i => s.gate f i true false false .gl) (overlapGate 8 (counterChk xF.a .read .load)) (cnt n) P0 0)
      (counterChk xF.a .read .load (cnt n) P0 0) (.mem 0x10000) ∧
    (n = 0 → (((cnt n).view P0 0).src64 xF.b).toNat ≤ (cnt n).natAt (.mem 0x10000) 8) ∧
    (n = 1 → (cnt n).natAt (.mem 0x10000) 8 < (((cnt n).view P0 0).src64 xF.b).toNat) := by
  intro n hn
  fin_cases hn <;> exact ⟨solo_of (by decide), rfl, rfl, ⟨by decide, ⟨_, rfl⟩, rfl⟩, by decide, by decide⟩

theorem test_w_TriggerWordsComplete_trig :
    Solo (cnt 0) P0 0 always (srcUse true xF.a ++ srcUse true xF.b ++ regUse true xF.c ++ regUse false xF.d) ∧
    Leaves (cnt 0) 0 (orGate (fun s f i => s.gate f i true true false .gl) quietGate (cnt 0) P0 0) (trigChk xF (cnt 0) P0 0) (.mem 0x10000) ∧
    (∃ seen, recordChk xF.c (cnt 0) P0 0 = .ok (.mem 0x10040) seen) ∧
    recMalformed (BitVec.ofNat 512 ((cnt 0).natAt (.mem 0x10040) 64)) = false ∧
    (List.range 4096).find? (fun n => (((cnt 0).die 0).entry n).st == .free) = some 0 ∧
    (∃ seen, recordChk 4 (cnt 0) P0 0 = .ok (.mem 0x10000) seen) ∧
    recMalformed (BitVec.ofNat 512 ((cnt 0).natAt (.mem 0x10000) 64)) = true :=
  ⟨solo_of (by decide), ⟨by decide, ⟨_, rfl⟩, rfl⟩, ⟨_, rfl⟩, by decide, rfl, ⟨_, rfl⟩, by decide⟩

def busy (b n : Nat) : Tbl TrigEntry := (List.range' b n).map (fun k => (k, { st := .armed }))

theorem busy_at (n : Nat) : ∀ b k, b ≤ k → k < b + n → Tbl.at (busy b n) k = some { st := .armed } := by
  induction n with
  | zero => intro b k h1 h2; omega
  | succ n ih =>
    intro b k h1 h2
    simp only [busy, List.range'_succ, List.map_cons, Tbl.at]
    rw [if_neg (by omega)]
    split
    · rfl
    · exact ih (b + 1) k (by omega) (by omega)

theorem test_w_TriggerWordsComplete_full : (List.range 4096).find? (fun n => (({ entries := busy 0 4096 } : Die).entry n).st == .free) = none := by
  simp only [List.find?_eq_none, List.mem_range, Die.entry]
  intro n hn
  rw [busy_at 4096 0 n (by omega) (by omega)]
  decide

/-- An armed entry of generation 5 at number 3 of die 0. -/
def armed : State := { bed [{ v := [(4, 0x00050003)] }] [0] with dies := [(0, { latch := .assigned 1, entries := [(3, { st := .armed, ctx := 0, gen := 5 })] })] }

theorem test_w_TriggerWordsComplete_trigx : Solo armed P0 0 always (srcUse false (.v 4) ++ regUse false 10) ∧
    armed.armedAt (armed.fctx P0) ((armed.view P0 0).src (.v 4)) = some (0, 3) ∧
    armed.armedAt (armed.fctx P0) ((armed.view P0 0).src (.v 5)) = none := ⟨solo_of (by decide), by decide, by decide⟩

/-- Registers of a copy from 0x10000 of 32 bytes to 0x10040. -/
def copying : State := bed [{ v := [(4, 0x10000), (8, 0x10040)] }] [0]
def cF : FForm := fF 8 (.v 4) (.lit 32) 0

theorem test_w_EngineCommandsQueue : ∃ w, engineOf (.cpy cF ⟨0, false⟩ false false) = some w ∧ Solo copying P0 0 w.g w.use ∧
    (copying.fgroup P0).region = none ∧ copying.gate P0 0 true true false .gl = none ∧
    (∃ p seen, checkCmd copying 0 0 (some 0) (w.args copying (copying.view P0 0)) = .ok p seen) ∧
    copying.cmdRoom 0 (dieOfCore 0) 0 (some 0) (w.args copying (copying.view P0 0)) = true :=
  ⟨_, rfl, solo_of (by decide), rfl, by decide, ⟨_, _, rfl⟩, by decide⟩

/-- The scratchpad holds at 64 a record of phases of two arrivals, of which the oldest has `n`. -/
def recBits (n : Nat) : BRec := ⟨0, true, ⟨2, n, false⟩ :: List.replicate 3 ⟨2, 0, false⟩⟩
def barred (n : Nat) : State := bedG placedCtx { scratch := 1, spad := Memory.write [] 64 (bytesOfNat (recBits n).bits 64) } { lanes := [{ v := [(6, 0xFFFFFFFF)] }] } [0]

theorem record_of {s : State} {kind : AccKind} {r : Nat × Nat} {rel : Bool} (h1 : (s.fgroup P0).region = none)
    (h2 : s.gate P0 0 true true false .sp = none) (h3 : s.laneReqs 0 0 0 = []) (h4 : checkRecord s P0 false ((s.view P0 0).src64 (.lit 64)) kind = .ok r)
    (h5 : (s.block? r.1).isSome = true) (h6 : Cells.wf (s.block r.1).spad = true) : AtRecord s P0 0 false rel (.lit 64) kind r :=
  ⟨h1, h2, fun _ => h3, h4, h5, h6⟩

theorem test_w_BarrierWordsComplete_binit : Solo pad P0 0 always (srcUse true (.lit 64) ++ srcUse false (.lit 2)) ∧
    AtRecord pad P0 0 false false (.lit 64) .store (0, 64) ∧ pad.recordWaiters (0, 64) = [] ∧ 0 < ((pad.view P0 0).src (.lit 2)).toNat ∧ ((pad.view P0 0).src (.lit 2)).toNat ≤ 65535 :=
  ⟨solo_of (by decide), record_of rfl (by decide) (by decide) rfl (by decide) (by decide), by decide, by decide, by decide⟩

set_option maxRecDepth 200000 in
theorem test_w_BarrierWordsComplete_barr : ∀ n ∈ [0, 1], Solo (barred n) P0 0 always (srcUse true (.lit 64) ++ srcUse false (.lit 0)) ∧
    AtRecord (barred n) P0 0 false true (.lit 64) .atomic (0, 64) ∧
    (let r := recOfBits ((barred n).recordBits (0, 64))
     r.valid = true ∧ r.base = 0 ∧ (r.slots.getD 0 default).expected = 2 ∧ (r.slots.getD 0 default).arrived = n ∧
     (r.slots.getD 1 default).arrived ≠ (r.slots.getD 1 default).expected) := by
  intro n hn
  fin_cases hn <;>
    exact ⟨solo_of (by decide), record_of rfl (by decide) (by decide) rfl (by decide) (by decide), by decide, by decide, by decide, by decide, by decide⟩

set_option maxRecDepth 200000 in
theorem test_w_BarrierWordsComplete_bwait : AtRecord (barred 1) P0 0 false false (.lit 64) .load (0, 64) ∧
    (let r := recOfBits ((barred 1).recordBits (0, 64))
     r.complete (((barred 1).view P0 0).src (.v 6)).toNat = true ∧ r.complete (((barred 1).view P0 0).src (.lit 0)).toNat = false ∧ r.beyond (((barred 1).view P0 0).src (.lit 0)).toNat = false) :=
  ⟨record_of rfl (by decide) (by decide) rfl (by decide) (by decide), by decide, by decide, by decide⟩

theorem test_w_BarrierWordsComplete_lead : Ready two (path [0, 1]) [] ∧ (two.acting (path [0, 1]) always).head? = some 0 ∧
    (two.fgroup (path [0, 1])).region = none ∧
    (two.onGroup (path [0, 1]) (fun g => { g with adv := (g.adv + 1) % 2 ^ 32 })).leadHolds 0 (((two.fgroup (path [0, 1])).adv + 1) % 2 ^ 32) = false :=
  ⟨ready_of (by decide), by decide, rfl, by decide⟩

/-- A block of a kernel with roles: groups of the roles 0, 1, 1; the path is of the second group of role 1. -/
def roles : State :=
  let s := bedG { placedCtx with kernels := [(0, { placedKern with groups := 3, roleGroups := [1, 2], roleRegs := [1, 1] })] } {} {} []
  { s with blocks := [(0, { groups := [{ lanes := [{}] }, { lanes := [{}], num := 1, role := 1 }, { lanes := [{}], num := 2, role := 1 }] })],
           focus := some { path [0] with grp := 2 } }

theorem test_w_ElectPicksOneThread :
    (Ready two (path [0, 1]) [] ∧ (two.acting (path [0, 1]) always).head? = some 0 ∧ (two.fkern (path [0, 1])).roleGroups = []) ∧
    (let f := { path [0] with grp := 2 }
     Ready roles f [] ∧ (roles.acting f always).head? = some 0 ∧ (roles.fkern f).roleGroups ≠ [] ∧ 1 < (roles.fblock f).groups.length ∧
     ((roles.fblock f).group 1).role = (roles.fgroup f).role ∧ (∀ m, m < 1 → ((roles.fblock f).group m).role ≠ (roles.fgroup f).role)) ∧
    two.acting (path [0, 1]) never = [] :=
  ⟨⟨ready_of (by decide), by decide, by decide⟩,
   ⟨ready_of (by decide), by decide, by decide, by decide, by decide, fun m hm => by (have : m = 0 := by omega); subst this; decide⟩, by decide⟩

def kF (k : BitVec 9) : FForm := fF 10 (.lit k) (.v 6) 8

theorem test_w_KernelWordsComplete_klaunch :
    Solo one P0 0 always (srcUse false (.lit 0) ++ srcUse true (.v 6) ++ [8, 9] ++ [10]) ∧ (one.fgroup P0).region = none ∧
    one.laneReqs 0 0 0 = [] ∧
    launchArgs one P0 false ((one.view P0 0).src (kF 5).a).toNat 0 0 0 {} = .error 1 ∧
    ∃ e, launchArgs one P0 false ((one.view P0 0).src (kF 0).a).toNat 0 0 0 {} = .ok e ∧ (one.ctx? e.ctx).isSome = true ∧
      (one.ctx e.ctx).ended = false ∧ (one.die e.die).queueFor e.ctx e.q = some 0 :=
  ⟨solo_of (by decide), rfl, by decide, rfl, _, rfl, by decide, by decide, by decide⟩

/-- Every hardware queue of die 0 is bound to another queue and holds an instance. -/
def fullQueues : State := { one with dies := [(0, { latch := .assigned 1, queues := (List.range 64).map (fun n => (n, { bound := some (1, n), insts := [9] })) })] }

theorem test_w_KernelWordsComplete_noQueue : ∃ e, launchArgs fullQueues P0 false 0 0 0 0 {} = .ok e ∧ fullQueues.enqueue e = none := ⟨_, rfl, rfl⟩

theorem test_w_KernelWordsComplete_spawn : Solo one P0 0 always (srcUse false (.lit 2) ++ srcUse true (.v 6)) ∧
    (let b := one.fblock P0
     let k := one.blockKern b
     ((one.view P0 0).src (.lit 2)).toNat < k.size ∧ k.cluster ≤ 1 ∧ (one.core b.core).bins.length < 8 ∧
     (((one.core b.core).bins.find? (fun y => y.inst == b.inst && y.target == 2)).getD ⟨b.inst, 2, [], one.ns⟩).threads.length + 1 < k.width) :=
  ⟨solo_of (by decide), by decide, by decide, by decide, by decide⟩

/-- Instance 0 depends on instance 1, which is retired, or queued. -/
def depending (st : InstSt) : State := { two with insts := [(0, { placedInst with producers := [1] }), (1, { placedInst with st := st })] }

theorem test_w_KernelWordsComplete_ktrig : Ready two (path [0, 1]) [] ∧ two.acting (path [0, 1]) always ≠ [] ∧
    (two.fgroup (path [0, 1])).region = none ∧ (two.fblock (path [0, 1])).mark = .no ∧ (two.inst (two.fblock (path [0, 1])).inst).producers = [] :=
  ⟨ready_of (by decide), by decide, rfl, rfl, rfl⟩

theorem test_w_KernelWordsComplete_kwait : Ready (depending .queued) (path [0, 1]) [] ∧ Ready (depending .retired) (path [0, 1]) [] ∧
    (depending .queued).producersVec [1] = none ∧ ∃ v, (depending .retired).producersVec [1] = some v :=
  ⟨ready_of (by decide), ready_of (by decide), rfl, _, rfl⟩

def three : State := bed [{}, {}, {}] [0, 1]

theorem test_w_RegionAndServiceWordsComplete :
    (Ready two (path [0, 1]) ((List.range 2).map (fun k => srcIx (.v 4) + k)) ∧ two.acting (path [0, 1]) always ≠ [] ∧ ∀ l ∈ (two.fgroup (path [0, 1])).live, l ∈ (path [0, 1]).lanes) ∧
    (∀ n ∈ [1, 12], let x := fF 20 (.lit (BitVec.ofNat 9 n)) (.v 4) 0
     Ready three (path [0, 1]) (sysUse x) ∧ (three.fgroup (path [0, 1])).region = none ∧ (three.fgroup (path [0, 1])).trap = none ∧
     (∀ i ∈ three.acting (path [0, 1]) x.g, 1 ≤ ((three.view (path [0, 1]) i).src x.a).toNat ∧ ((three.view (path [0, 1]) i).src x.a).toNat ≤ 12)) ∧
    (∃ b ∈ (three.fblock (path [0, 1])).liveLanes, b ∉ (path [0, 1]).lanes.map (fun i => (0, i)) ∧ unposted (three.lane 0 b.1 b.2).st = none) ∧
    ∀ h, h < (three.fblock (path [0, 1])).groups.length → (three.group 0 h).trap = none := by
  refine ⟨⟨ready_of (by decide), by decide, by decide⟩, ?_, ⟨(0, 2), by decide, by decide, rfl⟩, by decide⟩
  intro n hn
  fin_cases hn <;> exact ⟨ready_of (by decide), rfl, rfl, by decide⟩

def vectored : State := bedG { placedCtx with trapVector := 0x8000000000000005 } {} { lanes := [{}, {}] } [0, 1]
def inHandler : State := bedG placedCtx {} { lanes := [{}, {}], trap := some ⟨{ cause := 1, sub := 5 }, 0, 3, 0, [0, 1]⟩ } [0, 1]
def onPathB (s : State) (f : Focus) : Bool := readyB s f []

theorem test_w_TakingATrap : OnPath vectored (path [0, 1]) ∧ (vectored.fgroup (path [0, 1])).trap = none ∧
    (vectored.ctx (vectored.fctx (path [0, 1]))).vector = some (5, 0) ∧ ∀ i ∈ [1], i ∈ (path [0, 1]).lanes :=
  ⟨(ready_of (use := []) (by decide)).toOnPath, rfl, by decide, by decide⟩

theorem test_w_HandlerWordsComplete_trap : OnPath inHandler (path [0, 1]) ∧ (inHandler.fgroup (path [0, 1])).trap.isSome = true ∧
    (inHandler.ctx? (inHandler.fctx (path [0, 1]))).isSome = true ∧ OnPath two (path [0, 1]) ∧
    (two.ctx (two.fctx (path [0, 1]))).vector = none ∧ (two.ctx? (two.fctx (path [0, 1]))).isSome = true :=
  ⟨(ready_of (use := []) (by decide)).toOnPath, by decide, by decide, (ready_of (use := []) (by decide)).toOnPath, by decide, by decide⟩

theorem test_w_SystemRegisterWordsComplete_tables : (two.die 0).latch = .assigned 1 ∧ two.mgmt.leader.getD 0 < 4 ∧
    inWindow 0xE000000000000000 = true ∧ inWindow 0x10000 = false ∧ (0x10000 < 2 ^ 57) ∧
    (∃ g, (two.ctx 0).region 0x10000 = some g ∧ g.kind ≠ .sram) ∧ cached (two.core 0).tlb 0 0x10000 = none ∧
    (∃ l e b, walk two.mem placedRoot 0x10000 = .leaf l (pteOf e) b) ∧ two.devNum ≠ 2 ∧
    (minimalRoute two.devNum 2).first < 256 ∧ (minimalRoute two.devNum 2).second < 256 :=
  ⟨by decide, by decide, by decide, by decide, by decide, ⟨_, rfl, by decide⟩, rfl, ⟨_, mkPte true true true false 0 placedFrame 0, _, rfl⟩,
   by decide, by decide, by decide⟩

theorem test_w_HandlerWordsComplete : (∃ r, (inHandler.fgroup (path [0, 1])).trap = some r ∧ Ready inHandler (path [0, 1]) [] ∧
      (∀ i ∈ r.inside, i ∈ inHandler.acting (path [0, 1]) always) ∧ inHandler.acting (path [0, 1]) always ≠ [] ∧
      (inHandler.flane (path [0, 1]) 0).landing (r.pc + 1) < ((inHandler.kern (inHandler.fctx (path [0, 1])) r.kern).getD {}).size) ∧
    Ready inHandler (path [0, 1]) (srcUse false (.lit 7) ++ regUse true 8 ++ recordUse inHandler) ∧
    (∀ i ∈ inHandler.acting (path [0, 1]) always, ((inHandler.view (path [0, 1]) i).src (.lit 7)).toNat < 8) ∧
    Ready inHandler (path [0, 1]) (srcUse true (.v 4) ++ recordUse inHandler) ∧
    Ready two (path [0, 1]) [] ∧ Ready two (path [0, 1]) (srcUse false (.lit 7) ++ regUse true 8) ∧ Ready two (path [0, 1]) (srcUse true (.v 4)) ∧
    (two.fgroup (path [0, 1])).trap = none :=
  ⟨⟨_, rfl, ready_of (by decide), by decide, by decide, by decide⟩, ready_of (by decide), by decide, ready_of (by decide), ready_of (by decide),
   ready_of (by decide), ready_of (by decide), rfl⟩

theorem test_w_SystemRegisterWordsComplete_read : ∀ j ∈ ([.csrr (fF 8 (.lit 0x11) (.lit 0) 0) false, .pgq (fF 8 (.v 4) (.lit 0) 0),
    .lnkq (fF 8 (.lit 3) (.lit 0) 0) .state true, .wid (fF 8 (.lit 0) (.lit 0) 0) true, .fexr (fF 8 (.lit 2) (.lit 0) 0) false false] : List Instr),
    ∃ w, valueOf j = some w ∧ readyB two (path [0, 1]) w.use = true ∧ (∀ i ∈ two.acting (path [0, 1]) w.x.g, (w.val two (path [0, 1]) i).isSome = true) ∧
      (two.acting (path [0, 1]) w.x.g).head? = some 0 := by
  intro j hj
  fin_cases hj <;> exact ⟨_, rfl, by decide, by decide, by decide⟩

def csrCtx (a : BitVec 9) : FForm := fF 0 (.lit a) (.v 6) 0

theorem test_w_SystemRegisterWordsComplete_write : Ready two (path [0, 1]) (srcUse true (.v 6)) ∧
    (two.acting (path [0, 1]) always).head? = some 0 ∧ (two.ctx? (two.fctx (path [0, 1]))).isSome = true ∧
    (∀ a ∈ [0x10, 0x11, 0x12, 0x20, 0x2F], ((two.view (path [0, 1]) 0).src (csrCtx (BitVec.ofNat 9 a)).a).toNat = a) ∧
    (csrRead two (two.fctx (path [0, 1])) 0x00F).isSome = false ∧ (csrRead two (two.fctx (path [0, 1])) 0).isSome = true :=
  ⟨ready_of (by decide), by decide, by decide, by decide, by decide, by decide⟩

/-- The same path in a context of the system world. -/
def sysWorld : State := bedG { placedCtx with world := 0 } {} { lanes := [{}, {}] } [0, 1]

theorem test_w_SystemRegisterWordsComplete_end : Ready two (path [0, 1]) (srcUse false (.lit 9)) ∧ idleOutside two (path [0, 1]) always = [] ∧
    Ready two (path [0, 1]) (srcUse true (.v 4) ++ srcUse false (.lit 0)) ∧ (two.fgroup (path [0, 1])).region = none ∧
    (two.ctx (two.fctx (path [0, 1]))).world ≠ 0 ∧
    Ready sysWorld (path [0, 1]) (srcUse true (.v 4) ++ srcUse false (.lit 0)) ∧ (sysWorld.acting (path [0, 1]) always).head? = some 0 ∧
    (sysWorld.ctx (sysWorld.fctx (path [0, 1]))).world = 0 ∧
    (sysWorld.ctx? ((sysWorld.view (path [0, 1]) 0).src (.lit 0)).toNat).isSome = true :=
  ⟨ready_of (by decide), by decide, ready_of (by decide), rfl, by decide, ready_of (by decide), by decide, by decide, by decide⟩

/-! ### Events: states in which they happen -/

theorem grp_of {s : State} {b g : Nat} (h : ((s.block? b).isSome && decide (g < (s.block b).groups.length)) = true) : HasGroup s b g := by
  simpa [HasGroup] using h

theorem lane_of {s : State} {b g i : Nat} (h : ((s.block? b).isSome && decide (g < (s.block b).groups.length) && decide (i < (s.group b g).lanes.length)) = true) :
    HasLane s b g i := by simpa [HasLane, HasGroup] using h

def withLane (l : Lane) : State := bed [l] []

/-- Lanes 0 and 1 are held at `j2`, whose wait is open and names them; lane 1 is not at the wait of `j3`. -/
def atWaits : Group :=
  { lanes := [{ st := .held 2 }, { st := .held 2 }], j := [(2, 3), (3, 2)], waits := [⟨2, none, []⟩, ⟨3, none, []⟩] }

theorem test_w_CyclesEndAndSlotsFill_waits : (atWaits.waits.map JWait.j).Nodup ∧
    (∀ i, i < atWaits.lanes.length → (atWaits.lane i).st = .held 2) ∧ (Cells.get atWaits.j 3).getLsbD 1 = true ∧
    (atWaits.lane 1).st ≠ .held 3 ∧ (atWaits.lane 1).st ≠ .exited := by decide

theorem test_w_CyclesEndAndSlotsFill_executions : ({ voters with execs := [voting] } : Group).execs = [voting] ∧
    (∀ l ∈ voting.members, l ∈ voting.issued.map Member.lane) ∧
    (let x := { voting with issued := [mate] }
     0 ∈ x.members ∧ 0 ∉ x.issued.map Member.lane ∧ (voters.lane 0).st ≠ .exited) := by decide

theorem test_w_CyclesEndAndSlotsFill_cycle : two.tripped = false ∧ ({ two with agenda := [.pick] } : State).agenda = [.pick] ∧
    two.agenda = [] ∧ two.cores = [] ∧ two.reqs = [] ∧ HasGroup two 0 0 ∧ two.runs (two.block 0) = true ∧
    (two.choices 0 0).length = 1 ∧
    ∀ e ∈ two.blocks, ∀ h ∈ e.2.groups, ∀ l ∈ h.lanes, ∀ n x, l.st ≠ .waiting (.sys n x) :=
  ⟨rfl, rfl, rfl, rfl, rfl, grp_of (by decide), by decide, by decide, fun e he h hh l hl n x hx => by
    have : ∀ e ∈ two.blocks, ∀ h ∈ e.2.groups, ∀ l ∈ h.lanes, l.st = .ready := by decide
    rw [this e he h hh l hl] at hx
    cases hx⟩

theorem test_w_GroupEvents_candidateAged : let s := bedG placedCtx {} { lanes := [{}], passed := [(3, 32)] } []
    HasGroup s 0 0 ∧ (3, 32) ∈ (s.group 0 0).passed := ⟨grp_of (by decide), by decide⟩

theorem test_w_GroupEvents_result : let s := withLane { st := .waiting (.reqs [5]) }
    HasLane s 0 0 0 ∧ (s.lane 0 0 0).st = .waiting (.reqs [5]) ∧ s.waitOver 0 0 0 (.reqs [5]) = true := ⟨lane_of (by decide), by decide, by decide⟩

theorem test_w_GroupEvents_lead : let s := withLane { st := .waiting (.lead 5) }
    HasLane s 0 0 0 ∧ s.waitOver 0 0 0 (.lead 5) = true := ⟨lane_of (by decide), by decide⟩

/-- A lane waits at the record of a barrier for phase 0xFFFFFFFF, which is complete. -/
def atBarrier : State :=
  bedG placedCtx { scratch := 1, spad := Memory.write [] 64 (bytesOfNat (recBits 1).bits 64) }
    { lanes := [{ st := .waiting (.barrier false 64 0xFFFFFFFF false) }] } []

set_option maxRecDepth 200000 in
theorem test_w_GroupEvents_barrier : HasLane atBarrier 0 0 0 ∧ atBarrier.waitOver 0 0 0 (.barrier false 64 0xFFFFFFFF false) = true ∧
    atBarrier.recordAt 0 false 64 = some (0, 64) := ⟨lane_of (by decide), by decide, by decide⟩

theorem test_w_GroupEvents_timeout :
    let s := bedG placedCtx {} { lanes := [{ st := .held 2 }, {}], j := [(2, 3)], waits := [⟨2, some 99, []⟩] } []
    HasLane s 0 0 0 ∧ (s.block 0).st = .resident ∧ (s.group 0 0).waits = [⟨2, some 99, []⟩] ∧ 99 < s.clock ∧
    (s.group 0 0).allArrived ⟨2, some 99, []⟩ = false ∧ (s.lane 0 0 0).st = .held 2 :=
  ⟨lane_of (by decide), by decide, by decide, by decide, by decide, by decide⟩

theorem test_w_GroupEvents_membership :
    let x := { voting with cycles := 4096, issued := [mate] }
    let s := bedG { placedCtx with trapVector := 0x8000000000000005 } {} { lanes := [{}, { st := .waiting .member }], execs := [x] } []
    HasGroup s 0 0 ∧ (s.group 0 0).execs = [x] ∧ x.complete (s.group 0 0) = false ∧ (s.group 0 0).trap = none ∧
    (s.ctx (s.block 0).ctx).vector = some (5, 0) := ⟨grp_of (by decide), by decide, by decide, by decide, by decide⟩

theorem test_w_GroupEvents_yield : let s := withLane { st := .waiting (.yielded 99) }
    HasLane s 0 0 0 ∧ (s.lane 0 0 0).st = .waiting (.yielded 99) ∧ 99 < s.clock := ⟨lane_of (by decide), by decide, by decide⟩

theorem test_w_GroupEvents_grow : let r : GrowReq := { id := 5, blk := 0, grp := 0, lanes := [0], sreg := 2, units := 1 }
    let s := { withLane { st := .waiting (.rgrow 5) } with cores := [(0, { grows := [r] })] }
    (s.core 0).grows = [r] ∧ s.nextGrow 0 = some r ∧ HasLane s 0 0 0 ∧ (s.lane 0 0 0).st = .waiting (.rgrow r.id) :=
  ⟨by decide, by decide, lane_of (by decide), by decide⟩

theorem test_w_GroupEvents_release : (two.block? 0).isSome = true ∧ ((bedG placedCtx { mark := .releasing [] [(0, 0)] } {} []).block 0).mark = .releasing [] [(0, 0)] := by
  decide

/-- Blocks 0 and 1 of a cluster of two. -/
def pairOfBlocks : State :=
  let s := bedG { placedCtx with kernels := [(0, { placedKern with blocks := 2, cluster := 2 })] } {} {} []
  { s with blocks := [(0, { groups := [{ lanes := [{}] }] }), (1, { index := 1, groups := [{ lanes := [{}] }] })] }

theorem test_w_GroupEvents_lead_count : (pairOfBlocks.block? 0).isSome = true ∧ 1 ∈ pairOfBlocks.leadNeighbours 0 := by decide

/-- A block all of whose lanes have exited and which is retiring, in an instance all of whose blocks are placed. -/
def ended : State := bedG placedCtx { st := .retiring } { lanes := [{ st := .exited }] } []

theorem test_w_QueueEvents_retire : (ended.block? 0).isSome = true ∧ ended.mayRetire 0 = true ∧ (ended.inst? (ended.block 0).inst).isSome = true := by decide

theorem test_w_QueueEvents_instance : ({ ended with blocks := [(0, { st := .retired })] } : State).instMayRetire 0 = true := by decide

/-- An instance of two blocks, of which one stands, at the head of a queue of die 0. -/
def launching : State :=
  { ended with insts := [(0, { placedInst with blocks := 2, st := .dispatching })],
               dies := [(0, { latch := .assigned 1, queues := [(0, { bound := some (0, 0), insts := [0] })] })] }

set_option maxRecDepth 200000 in
theorem test_w_QueueEvents_placement : ∃ q core, launching.firstUnit 0 = some (.new 0 q) ∧ launching.fitUnit 0 [] (.new 0 q) = some [core] ∧
    (launching.inst? 0).isSome = true := ⟨0, 0, by rfl, by rfl, by decide⟩

theorem test_w_QueueEvents_halt : let s := bedG placedCtx { halting := true } {} []
    (s.block? 0).isSome = true ∧ (s.block 0).halting = true ∧ (s.block 0).st = .resident := by decide

theorem test_w_QueueEvents_save : let s := bedG placedCtx { st := .saving } {} []
    (s.block? 0).isSome = true ∧ (s.block 0).st = .saving ∧ s.hasTile 0 = false := by decide

/-- A block whose one lane has waited 21 µs for a counter. -/
def idle : State := bedG placedCtx { waitSince := some (5000000 - 21000), waitThreshold := 20 } { lanes := [{ st := .waiting (.counter 0x10000 1) }] } []

theorem test_w_QueueEvents_park : (idle.block? 0).isSome = true ∧ (idle.blockKern (idle.block 0)).cluster ≤ 1 ∧ idle.mayPark 0 = true ∧
    (idle.block 0).st = .resident := by decide

theorem test_w_QueueEvents_spawn : let bin : SpawnBin := ⟨0, 2, [⟨7, false, {}⟩], 5000000 - 2000⟩
    let s := { ended with cores := [(0, { bins := [bin] })] }
    (s.core 0).bins[0]? = some bin ∧ bin.since + ((s.ctx (s.inst bin.inst).ctx).spawnTimer).toNat ≤ s.ns := by decide

/-- Instance 0 runs on core 0, and instance 1 stands behind it in its queue. -/
def behind : State :=
  { two with insts := [(0, placedInst), (1, { placedInst with st := .queued, placed := 0 })],
             dies := [(0, { latch := .assigned 1, queues := [(0, { bound := some (0, 0), insts := [0, 1] })] })] }

theorem test_w_QueueEvents_prefetch : behind.reserved 0 = some 1 ∧ (behind.core 0).prefetch ≠ some 1 := by decide

/-- Block 0, of priority 0, fills the pool of core 0, every other core of die 0 is frozen, and a unit of priority 3 has blocked for 2 µs. -/
def blocked : State :=
  let s := bedG placedCtx { regUnits := [192], baseUnits := [192] } { lanes := [{}] } []
  { s with insts := [(0, placedInst), (1, { placedInst with st := .dispatching, placed := 0, prio := 3 })],
           cores := (List.range' 1 63).map (fun c => (c, { frozenBy := [5] })),
           dies := [(0, { latch := .assigned 1, blocking := some { unit := 1, fresh := true, since := 5000000 - 2000, sent := false },
                          queues := [(0, { bound := some (0, 0), insts := [1] })] })] }

theorem test_w_QueueEvents_grace : blocked.victims 0 = some [0] ∧ (blocked.block? 0).isSome = true := by decide

def inFlight (r : Req) : State := { bed [{}] [] with reqs := [r] }

theorem home_of {s : State} {r : Req} (h1 : s.req? r.id = some r) (h2 : r.performed = false) (h3 : r.stage = 2) (h4 : s.inRecord r.id = false)
    (h5 : s.free r = true) (h6 : s.port r.world r.place = .pass) (h7 : s.isHeld r.place = false) (h8 : (r.place.home?).isSome = true)
    (h9 : ∀ d, s.dupOf d r.core r.id = none) : AtHome s r :=
  ⟨h1, h2, h3, h4, h5, h6, h7, h8, h9⟩

theorem kept_of (r q : Req) (d : Nat) : (inFlight r).dupOf d q.core q.id = none := by
  rcases d with _ | d
  · rfl
  · have h : (inFlight r).die (d + 1) = {} := by simp [inFlight, bed, bedG, State.die, Tbl.at]
    simp [State.dupOf, h]

def aStore : Req := { aReq with kind := .store, isLd := false, dest := .none, data := 7 }
def anAdd : Req := { aReq with kind := .atomic .add false, data := 7 }

theorem test_w_RequestsAreAnswered_home : (AtHome (inFlight aReq) aReq ∧ aReq.kind = .load ∧ aReq.replicable = false) ∧
    (AtHome (inFlight aStore) aStore ∧ aStore.place = .mem 0x10000 ∧ 0 < aStore.size) ∧
    (AtHome (inFlight anAdd) anAdd ∧ (inFlight anAdd).atUnit anAdd = false) :=
  ⟨⟨home_of (by decide) rfl rfl (by decide) (by decide) (by decide) (by decide) (by decide) (kept_of _ _), rfl, by decide⟩,
   ⟨home_of (by decide) rfl rfl (by decide) (by decide) (by decide) (by decide) (by decide) (kept_of _ _), rfl, by decide⟩,
   home_of (by decide) rfl rfl (by decide) (by decide) (by decide) (by decide) (by decide) (kept_of _ _), by decide⟩

def aHeld : Held := { line := 0x400, holder := 1, till := 5000000, writingBack := false, writes := [] }
def underHold (wb : Bool) : State := { inFlight aReq with held := [{ aHeld with writingBack := wb }] }

theorem test_w_RequestsAreAnswered_held : let s := underHold false
    s.req? aReq.id = some aReq ∧ s.free aReq = true ∧ s.inRecord aReq.id = false ∧ s.port aReq.world aReq.place = .pass ∧
    s.heldLine (0x10000 / 64) = some aHeld ∧ aHeld.till ≤ s.ns ∧ (underHold true).heldLine 0x400 = some { aHeld with writingBack := true } := by decide

def clusterAdd : Req := { anAdd with scope := .cls }

theorem test_w_RequestsAreAnswered_unit : let s := inFlight clusterAdd
    s.req? clusterAdd.id = some clusterAdd ∧ s.free clusterAdd = true ∧ s.atUnit clusterAdd = true ∧
    s.port clusterAdd.world clusterAdd.place = .pass ∧ s.heldLine (0x10000 / 64) = none := by decide

def padStore : Req := { aStore with place := .rsp 0 0x100 }

theorem test_w_RequestsAreAnswered_pad : let s := inFlight padStore
    s.req? padStore.id = some padStore ∧ s.free padStore = true ∧ (s.block? 0).isSome = true := by decide

def aNotice (n : Nat) : Notice := { home := 2, n := n, cells := [(0x10000, 1)], setTags := [], vec := {} }
def aFill : Fill := { line := 0x400, home := 2, m := 0, data := { bytes := [], tags := [] } }
def noticed : State := { bed [{}] [] with dies := [(1, { notices := [aNotice 2, aNotice 1], fills := [aFill] })] }

theorem test_w_RequestsAreAnswered_notice : aNotice 1 ∈ (noticed.die 1).notices ∧ (aNotice 1).applicable (noticed.die 1).applied = true ∧
    (∀ y ∈ (noticed.die 1).notices, y.home = 2 → y.n = (aNotice 1).n → y = aNotice 1) ∧
    aFill ∈ (noticed.die 1).fills ∧ aFill.m ≤ (noticed.die 1).applied.get aFill.home ∧ ∀ z ∈ (noticed.die 1).fills, z.line = 0x400 → z = aFill := by decide

def loadDone : Req := { aReq with performed := true, reply := 9 }
def storeDone : Req := { aStore with performed := true }

theorem test_w_RequestsAreAnswered_reply : let s := inFlight loadDone
    s.req? loadDone.id = some loadDone ∧ s.unnumbered loadDone.id = false ∧ s.inRecord loadDone.id = false ∧ loadDone.dest = .reg 8 .n32 ∧
    HasLane s 0 0 0 ∧ (s.lane 0 0 0).st ≠ .exited ∧ isAcq loadDone.ord = false ∧ loadDone.place.isRsp = false :=
  ⟨by decide, by decide, by decide, rfl, lane_of (by decide), by decide, by decide, rfl⟩

theorem test_w_RequestsAreAnswered_ack : let s := inFlight storeDone
    s.req? storeDone.id = some storeDone ∧ s.unnumbered storeDone.id = false ∧ s.inRecord storeDone.id = false ∧ storeDone.isLd = false ∧
    HasLane s 0 0 0 := ⟨by decide, by decide, by decide, rfl, lane_of (by decide)⟩

/-! ### Stations and Kneaders -/

def comb : Req := { anAdd with kind := .atomic .add true, stage := 0 }
def anEntry (n : Nat) : StEntry :=
  { id := n, place := .mem 0x10000, ty := .n32, scope := .dev, world := 1, sum := 2, leaves := [⟨0, 3, 1, 0, false⟩, ⟨1, 4, 1, 1, false⟩] }
/-- The request of `comb` reaches a station with these entries. -/
def stationed (es : List StEntry) : State :=
  { inFlight comb with stations := [(stationOf comb.place, { table := es, records := [anEntry 9] })],
                       dies := [(0, { latch := .assigned 1, dups := [⟨0, 3, 1, 5000000⟩] })] }

theorem test_w_StationsAndKneadersWork_arrival : (∀ es ∈ [[], [anEntry 8], List.replicate 64 { anEntry 8 with ty := .n64 }], let s := stationed es
      s.req? comb.id = some comb ∧ comb.stage = 0 ∧ comb.after = [] ∧ ∀ q ∈ s.reqs, comb.follows q = false) ∧
    (anEntry 8).takes (entryOf comb 7) = true ∧ ({ anEntry 8 with ty := .n64 } : StEntry).takes (entryOf comb 7) = false := by decide

theorem test_w_StationsAndKneadersWork_forward : let s := stationed [anEntry 8]
    let k := stationOf comb.place
    (s.station k).table.find? (fun x => x.id == 8) = some (anEntry 8) ∧ 1 < (anEntry 8).leaves.length ∧ anEntry 9 ∈ (s.station k).records ∧
    s.entryDone (anEntry 9) = true ∧ (⟨0, 3, 1, 5000000⟩ : Dup) ∈ (s.die 0).dups ∧ 5000000 ≤ s.ns ∧
    s.entryRoom (anEntry 8) = true ∧ s.entryRoom { anEntry 8 with place := .dev (8192 + 0x105) 64 } = true := by decide

def kneads : Req := { aReq with kind := .kcas 2, size := 16, ty := .n64, data := 3, dest := .regs 8 4 }

theorem test_w_StationsAndKneadersWork_kcas : let s := inFlight kneads
    s.req? kneads.id = some kneads ∧ s.free kneads = true ∧ s.port kneads.world kneads.place = .pass ∧ s.isHeld kneads.place = false ∧
    Memory.wf s.mem = true ∧ s.natAt kneads.place 16 = kneads.cmp.toNat := by decide

/-! ### Names, pages, engines -/

def aRes : Resolution := { id := 9, ctx := 0, blk := 0, grp := 0, lane := some 0, home := 1, serial := 77, rights := 3, slot := none }
/-- A lane waits for the resolution of its name; slot 3 holds the object's name, or nothing does. -/
def resolving (sl : Tbl Slot) : State :=
  { bedG { placedCtx with slots := sl } {} { lanes := [{ st := .waiting (.object 9) }] } [] with resolutions := [aRes] }

theorem test_w_NameEvents_resolution : let s := resolving [(3, { slot3 with state := 2 })]
    s.resolutions.find? (fun q => q.id == 9 && q.slot.isNone) = some aRes ∧ HasLane s 0 0 0 ∧ (s.lane 0 0 0).st = .waiting (.object aRes.id) ∧
    (s.ctx 0).slotOf aRes.home aRes.serial aRes.rights.toNat = some (3, { slot3 with state := 2 }) ∧
    ((resolving []).ctx 0).slotOf aRes.home aRes.serial aRes.rights.toNat = none ∧
    (resolving []).homeOf ((resolving []).ctx 0).world aRes.home aRes.serial = aRes.home ∧
    (resolving []).body? ((resolving []).ctx 0).world aRes.home aRes.serial = none :=
  ⟨by decide, lane_of (by decide), by decide, by decide, by decide, by decide, by decide⟩

def repl : ReplicaObj := { home := 1, serial := 77, world := 1, storage := 0x20000, size := 64 }
/-- Slot 3 is in the state given, and slot 4 of the same object is resident on a replica. -/
def slotted (st : Nat) : State :=
  { resolving [(3, { slot3 with state := st }), (4, { slot3 with w := false, storage := 0x20000 })] with
    replicasObj := [repl], links := [(64, { st := .up })], mgmt := { firewall := [(0, 1)], trayTable := [(0, 0x100000)] } }

theorem test_w_NameEvents_slot : (∀ st ∈ [1, 2, 3, 4], ((slotted st).ctx? 0).isSome = true ∧ Tbl.at ((slotted st).ctx 0).slots 3 = some { slot3 with state := st } ∧
      ({ slot3 with state := st } : Slot).colour ≠ 255) ∧
    (slotted 1).replicasObj.find? (fun r => r.home == slot3.home && r.serial == slot3.serial && r.world == ((slotted 1).ctx 0).world && (slotted 1).replicaLive r) =
      some repl ∧
    isDomain 0x100000 = true ∧ 0x100000 ≠ slot3.home ∧ 0x100000 ≠ (slotted 2).devNum ∧
    (slotted 2).listed ((slotted 2).ctx 0).world 0x100000 slot3.serial = none ∧
    ∀ p ∈ [slot3.place 0, bodyPlace 0x100000 64], (slotted 2).cutOff p = false ∧
      (slotted 2).unitRoom p (Nat.min 16384 ((slot3.size + 63) / 64)) = true := by decide

def departing : State := { inFlight loadDone with departs := [{ ctx := 0, slot := 3, cores := [(0, [5]), (1, [])], storage := 0, size := 0 }] }

theorem test_w_NameEvents_ack : (∃ d ∈ departing.departs, d.ctx = 0 ∧ d.slot = 3 ∧ (0, [5]) ∈ d.cores) ∧
    ∀ i ∈ [5], departing.accessOver i = true :=
  ⟨⟨_, List.mem_singleton.mpr rfl, by decide, by decide, by decide⟩, by decide⟩

/-- The page at 0x20000 of a context whose regions hold it is being filled, for a lane that waits for it; with `w` world 1 has no region. -/
def filling (w : Nat) : State :=
  let c := { placedCtx with trapVector := 0x8000000000000005, regions := [{ base := 0x20000, size := 65536, page := 65536, r := true, w := true, x := false }] }
  { bedG c {} { lanes := [{ st := .waiting (.page 0 0x20000 .load 0x20008) }] } [] with
    pageFills := [{ ctx := 0, page := 0x20000, size := 65536, die := some 0 }], mgmt := { firewall := (List.range' 0 300).map (fun r => (r, BitVec.ofNat 8 w)) } }

set_option maxRecDepth 200000 in
theorem test_w_PageEvents_fill : ∃ p g x, (filling 1).fillOf 0 0x20000 = some p ∧ ((filling 1).ctx p.ctx).region p.page = some g ∧ p.die = some 0 ∧
    (let t : State := { filling 1 with pageFills := (filling 1).pageFills.filter (fun q => !q.is p.ctx p.page) }
     t.levainRoom 16384 4096 = true ∧ [0].findSome? (fun d => t.takeFrame d ((filling 1).ctx p.ctx).world p.size p.size) = some x) :=
  ⟨_, _, _, rfl, rfl, rfl, by decide, rfl⟩

theorem test_w_PageEvents_fail : ∃ p, (filling 2).fillOf 0 0x20000 = some p ∧ (fillDone (filling 2) p).isNone = true ∧
    (filling 2).groupIds 0 = [(0, 0)] ∧ HasLane (filling 2) 0 0 0 ∧ ((filling 2).lane 0 0 0).st = .waiting (.page 0 0x20000 .load 0x20008) ∧
    ((filling 2).group 0 0).trap = none ∧ ((filling 2).ctx ((filling 2).block 0).ctx).vector = some (5, 0) :=
  ⟨_, rfl, by decide, by decide, lane_of (by decide), by decide, by decide, by decide⟩

def anInval (toReceive : List Nat) : Inval := { id := 9, ctx := 0, base := 0, size := none, toReceive := toReceive, waiting := [(7, [5])] }
def invalidating (ag : List Nat) : State := { inFlight loadDone with invals := [anInval ag] }

theorem test_w_PageEvents_invalidation : (∀ a ∈ [0, 256, 260], (invalidating [0, 256, 260]).invals.find? (fun v => v.id == 9 && v.toReceive.contains a) =
      some (anInval [0, 256, 260])) ∧
    (anInval [] ∈ (invalidating []).invals ∧ (7, [5]) ∈ (anInval []).waiting ∧ ∀ i ∈ [5], ∀ q, (invalidating []).req? i = some q → q.performed = true) :=
  ⟨by decide, by decide, by decide, by simp [invalidating, inFlight, State.req?, loadDone, aReq]⟩

/-- A firing entry of die 0 whose record holds these bytes from its start. -/
def firing (bytes : List Byte) : State :=
  let e : TrigEntry := { st := .firing, record := BitVec.ofNat 512 (natOfBytes bytes) }
  { one with dies := [(0, { latch := .assigned 1, entries := [(3, e)], waiters := [{ ctx := 0, blk := 0, ctr := 0x10000, value := 1 }] })],
             blocks := [(0, { st := .parked, groups := [{ lanes := [{}] }] })] }
def at8 : List Byte := [0, 0, 0, 0, 0, 0, 0, 0, 0, 1, 0, 0, 0, 0, 0]

theorem test_w_Actions_launch : ∃ e q n, (firing [1]).action? 0 3 1 = some e ∧ actionEnqueue (firing [1]) 0 e = .ok q ∧
    ((firing [1]).die q.die).queueFor q.ctx q.q = some n := ⟨_, _, _, rfl, rfl, rfl⟩

/-- A copy of no bytes from 0x10000 to 0x10000. -/
def copyBytes (kind : Byte) : List Byte := kind :: at8 ++ [0, 0, 1, 0, 0, 0, 0, 0, 1]

theorem test_w_Actions_engine : ∀ kind ∈ [2, 4], ∃ e p seen, (firing (copyBytes (BitVec.ofNat 8 kind))).action? 0 3 kind = some e ∧
    checkCmd (firing (copyBytes (BitVec.ofNat 8 kind))) (prooferCore 0) e.ctx none (actionArgs e.record kind) = .ok p seen ∧
    (firing (copyBytes (BitVec.ofNat 8 kind))).cmdRoom (prooferCore 0) 0 e.ctx none (actionArgs e.record kind) = true := by
  intro kind hk
  fin_cases hk <;> exact ⟨_, _, _, rfl, rfl, by decide⟩

theorem test_w_Actions_counter : (∃ e seen, (firing (6 :: at8)).action? 0 3 6 = some e ∧ (firing (6 :: at8)).held = [] ∧ Memory.wf (firing (6 :: at8)).mem = true ∧
      checkCounter (firing (6 :: at8)) (prooferCore 0) e.ctx (BitVec.ofNat 64 (recNat e.record 8 16)) .write .atomic = .ok (.mem 0x10000) seen ∧
      (firing (6 :: at8)).port ((firing (6 :: at8)).ctx e.ctx).world (.mem 0x10000) = .pass) ∧
    (∃ e p seen, (firing (7 :: at8)).action? 0 3 7 = some e ∧
      checkCounter (firing (7 :: at8)) (prooferCore 0) e.ctx (BitVec.ofNat 64 (recNat e.record 8 16)) .read .load = .ok p seen ∧
      (⟨0, 0, ctrKey p, 1⟩ : Waiter) ∈ ((firing (7 :: at8)).die (p.home?.getD 0)).waiters ∧ ((firing (7 :: at8)).block 0).st = .parked) ∧
    ((firing [8]).action? 0 3 8).isSome = true :=
  ⟨⟨_, _, rfl, rfl, by decide, rfl, by decide⟩, ⟨_, .mem 0x10000, _, rfl, rfl, by decide, by decide⟩, by decide⟩

theorem present_of {s : State} {w : Agent} {len : Nat} {l : Loc} {need : Need}
    (h : (match s.rangeNow w l len need with | .ok _ _ => true | _ => false) = true) (hr : s.rangeRoom w l len need = true) :
    Present s w [(l, len, need)] := by
  intro r hm
  rw [List.mem_singleton] at hm
  subst hm
  refine ⟨fun p k a e => ?_, fun n t e => ?_, hr⟩ <;> simp [e] at h

def aCmd (op : CopyOp) (src dst : Loc) (started : Bool) : CopyCmd :=
  { id := 9, op := op, ctx := 0, world := 1, owner := none, core := 0, die := 0, inst := none, src := src, dst := dst, len := 32, dev := 0x105, raddr := 64, arrival := 0,
    ctr := none, vec := {}, after := [], started := started, next := 0, packets := [], got := [] }
def aPacket : Packet :=
  { id := 5, dst := 0x105, world := 1, seq := 0, cmd := some 9, req := none, kind := .store, addr := 64, bytes := [1, 2], len := 2, arrival := 0, via := none,
    returns := 0, void := false }
def engine (c : CopyCmd) : State :=
  { one with dies := [(0, { latch := .assigned 1, copyQ := [c] })], packets := [aPacket], links := (List.range 48).map (fun n => (n, { st := .up })),
             blocks := [(0, { scratch := 1, spad := Memory.write [] 0 [1, 2, 3], groups := [{ lanes := [{}] }] })] }

theorem test_w_Engine_start : ∀ op ∈ [CopyOp.cpy, .nlist, .nrd, .nwr], let c := aCmd op (.va 0x10000) (.va 0x10000) false
    (engine c).cmd? 9 = some c ∧ (engine c).mayStart c = true ∧ Present (engine c) c.who [(c.src, c.len, .read)] := by
  intro op h
  fin_cases h <;> exact ⟨by decide, by decide, present_of (by decide) (by decide)⟩

theorem test_w_Engine_rest :
    (let c := aCmd .cpy (.at (.rsp 0 0)) (.at (.rsp 0 64)) true
     (engine c).cmd? 9 = some c ∧ c.packets = [] ∧ Present (engine c) c.who c.ends ∧ ((engine c).block? 0).isSome = true ∧
     Cells.wf ((engine c).block 0).spad = true) ∧
    (let c := aCmd .nwr (.va 0x10000) .none true
     (engine c).packets.find? (fun p => p.id == 5) = some aPacket ∧ (engine c).cmd? 9 = some c ∧ (engine c).packetTurn aPacket = true ∧
     (engine c).stuck aPacket = false ∧ aPacket.dst ≠ (engine c).devNum ∧ ((engine c).ctx? c.ctx).isSome = true ∧
     (∀ f a d, packetNow (engine c) c aPacket ≠ .fill f a d) ∧ 5 < (engine c).nextId ∧ packetRoom (engine c) c aPacket = true ∧
     (engine c).packetAway c = some aPacket ∧ aPacket.leaves = []) := by
  refine ⟨⟨by decide, by decide, fun r hr => ?_, by decide, by decide⟩, by decide, by decide, by decide, by decide, by decide, by decide, ?_, by decide, by decide, by decide, rfl⟩
  · simp only [CopyCmd.ends, aCmd, List.mem_append, List.mem_cons, List.not_mem_nil] at hr
    rcases hr with (rfl | rfl | h) | h <;> first | exact present_of (by decide) (by decide) _ (List.mem_singleton.mpr rfl) | cases h
  · intro f a d h; cases h

/-- One constituent of a combined packet is the atomic of a command. -/
theorem test_w_Engine_combined : let c := { aCmd (.natom .add .n64 true 1) .none .none true with packets := [21] }
    let p := { aPacket with cmd := none, leaves := [⟨0, 21, 1, 0, true⟩] }
    let s := { engine c with packets := [p] }
    s.cmd? 9 = some c ∧ s.packetAway c = some p ∧ (s.ctx? c.ctx).isSome = true ∧ s.cmdOf 21 = some c ∧ s.queued = [] := by decide

/-- A send list of one entry: `bytes` stand at 0x10000, and the context has a channel to device 0x105. -/
def listing (bytes : List Byte) : State :=
  let s := engine (aCmd .nlist (.va 0x10000) .none true)
  { s with mem := Memory.write s.mem 0x10000 bytes, ctxs := [(0, { placedCtx with channels := [{ dev := 0x105, base := 0, size := 1024 }] })] }
/-- Four bytes from 0x10000 to address 64 of device 0x105. -/
def goodEntry : List Byte := bytesOfNat 0x10000 8 ++ bytesOfNat 64 8 ++ bytesOfNat 4 4 ++ bytesOfNat 0x105 4

theorem test_w_Engine_list : ∀ bad ∈ [true, false],
    let s := listing (if bad then [] else goodEntry)
    let c := aCmd .nlist (.va 0x10000) .none true
    let e := listEntry ((s.flushLoc c.who (.va 0x10000) 64).readLoc c.who (.va 0x10000) 64)
    s.cmd? 9 = some c ∧ c.started = true ∧ c.next < c.len ∧ Present s c.who [(.va 0x10000, 64, .read)] ∧ e.bad = bad ∧
    (bad = true → (s.ctx? c.ctx).isSome = true) ∧
    (bad = false → inWindow e.src = false ∧ Present s c.who [(.va e.src, e.len, .read)] ∧ e.dev ≠ s.devNum ∧
      s.peerOk c.ctx e.dev e.raddr (16 + Nat.max e.len 1) = true ∧ s.payloadWaits c e = false) := by
  intro bad h
  fin_cases h
  · exact ⟨by decide, by decide, by decide, present_of (by decide) (by decide), by decide, fun _ => by decide, (fun h => by cases h)⟩
  · exact ⟨by decide, by decide, by decide, present_of (by decide) (by decide), by decide, (fun h => by cases h),
      fun _ => ⟨by decide, present_of (by decide) (by decide), by decide, by decide, by decide⟩⟩


/-! ### Service calls -/

def aCall (number : Nat) (args : List DWord) : Call := { id := 9, blk := 0, number := number, args := args, lanes := [(0, 0, args.headD 0)] }
def calling (k : Call) (c : Context) : State :=
  { bedG { c with ring := [k] } {} { lanes := [at' 0x10000] } [] with
    dies := [(0, { latch := .assigned 1, pair := .leader })],
    mgmt := { leader := some 0, firewall := [(0, 1)], sessions := [(4, { st := .established, world := some 1 })] } }
def callCtx : Context := { placedCtx with arena := [(256, 256)], owner := some (4, 0) }
def serves (number : Nat) (args : List DWord) : State := calling (aCall number args) callCtx

theorem test_w_Services_alloc : (serves 1 [0]).nextCall 0 1 = some (aCall 1 [0]) ∧ (serves 1 [256]).nextCall 0 1 = some (aCall 1 [256]) ∧
    buddyPick [(256, 256)] 65536 (buddySize 256) = some 0 ∧ buddyPick [(256, 256)] 65536 (buddySize 100000) = none ∧
    ((serves 1 [256]).ctx 0).arena = [(256, 256)] ∧ ((serves 1 [256]).ctx 0).arenaSize = 65536 := ⟨rfl, rfl, rfl, rfl, rfl, rfl⟩

theorem test_w_Services_free : (serves 2 [256]).nextCall 0 2 = some (aCall 2 [256]) ∧ (serves 2 [512]).nextCall 0 2 = some (aCall 2 [512]) ∧
    ((serves 2 [256]).ctx 0).arenaBase = 0 ∧ (Tbl.at callCtx.arena 256).isSome = true ∧ Tbl.at callCtx.arena 512 = none := ⟨rfl, rfl, rfl, rfl, rfl⟩

theorem test_w_Services_map : (let s := serves 3 [0x10000, 64, 77, 0]
      s.nextCall 0 3 = some (aCall 3 [0x10000, 64, 77, 0]) ∧ (s.ctx 0).region 0x10000 = some { base := 0x10000, size := 65536, page := 65536, r := true, w := true, x := true } ∧
      (s.fillRange 0 0x10000 64).together 0 0x10000 64 = some 0x10000 ∧ s.objects = []) ∧
    ((serves 3 [0x40000, 64, 77, 0]).ctx 0).region 0x40000 = none := by decide

/-- The name of an object of device `home` stands at 0x10000, with its tag. -/
def nameIn (home : Nat) : State :=
  let s := serves 4 [0x10000]
  { s with mem := Memory.write s.mem 0x10000 (bytesOfNat (({ slot3 with home := home } : Slot).name 0).toNat 16), gtags := [0x1000] }

set_option maxRecDepth 200000 in
theorem test_w_Services_evict : (nameIn 1).nextCall 0 4 = some (aCall 4 [0x10000]) ∧
    ((nameIn 1).nameAt 0 0x10000).map (fun n => (n.home, n.rights)) = some (1, 3) ∧
    ((nameIn 0x105).nameAt 0 0x10000).map (fun n => (n.home, n.rights)) = some (0x105, 3) ∧ (nameIn 1).devNum = 1 := by decide

theorem test_w_Services_region : let s := serves 10 [8192, 0]
    s.nextCall 0 10 = some (aCall 10 [8192, 0]) ∧ 0 ∈ s.diesOf (s.ctx 0).world ∧ sramRoom (s.die 0).sramUse 8192 ((s.die 0).sramUse.length + 1) 0 = some 0 := by
  decide

theorem test_w_Services_channel : (serves 11 [1, 0, 64]).nextCall 0 11 = some (aCall 11 [1, 0, 64]) ∧
    (serves 11 [0x100000, 0, 64]).nextCall 0 11 = some (aCall 11 [0x100000, 0, 64]) ∧
    isDevice 1 = true ∧ isDevice 0x100000 = false ∧ (serves 11 [1, 0, 64]).devNum = 1 := ⟨rfl, rfl, by decide, by decide, rfl⟩

theorem test_w_Services_bytes : (let s := serves 5 [0x10000, 4, 8]
      s.nextCall 0 5 = some (aCall 5 [0x10000, 4, 8]) ∧ (s.ownerSession 0).isSome = true ∧
      ∃ u bytes, (s.fillRange 0 0x10000 8).callBytes 0 0x10000 4 = some (u, bytes) ∧ u.rangeOk 0 0x10000 8 .write = true) ∧
    (let s := serves 6 [0x10000, 4]
     s.nextCall 0 6 = some (aCall 6 [0x10000, 4]) ∧ (s.callBytes 0 0x10000 4).isSome = true) :=
  ⟨⟨by decide, by decide, _, _, rfl, by decide⟩, by decide, by decide⟩

theorem test_w_Services_rest : (∀ n ∈ [7, 8, 9, 12], (serves n [3]).nextCall 0 n = some (aCall n [3]) ∧ ((serves n [3]).block? 0).isSome = true ∧
    ((serves n [3]).block 0).st = .resident) := by
  intro n hn
  fin_cases hn <;> exact ⟨rfl, rfl, rfl⟩

def asideOf (number : Nat) : State := { serves 1 [0] with ctxs := [(0, { callCtx with aside := [{ aCall number [3] with till := 5000000 }] })] }

theorem test_w_Services_aside : (((asideOf 5).ctx 0).aside.find? (fun q => q.id == 9 && q.number == 5)).isSome = true ∧
    (((asideOf 7).ctx 0).aside.find? (fun q => q.id == 9 && q.number == 7 && decide (q.till ≤ (asideOf 7).ns))).isSome = true :=
  ⟨rfl, rfl⟩

def replying : State :=
  bedG { callCtx with replies := [{ aCall 1 [0] with results := [(0, 0, 5)] }] } {} { lanes := [{ st := .waiting (.sys 9 (fF 20 (.lit 1) (.v 4) 0)) }] } []

theorem test_w_Services_reply : (∃ k, (replying.ctx 0).replies.find? (fun q => q.id == 9) = some k ∧ HasLane replying k.blk 0 0 ∧
    k.results.find? (fun r => r.1 == 0 && r.2.1 == 0) = some (0, 0, 5)) ∧ (replying.lane 0 0 0).st = .waiting (.sys 9 (fF 20 (.lit 1) (.v 4) 0)) :=
  ⟨⟨_, rfl, lane_of (by decide), by decide⟩, by decide⟩

theorem test_w_Services_switch : (let s := { one with mgmt := { switch := some 7 } }
     s.mgmt.switch = some 7 ∧ ∀ e ∈ s.ctxs, e.2.inService = false) ∧
    (let s := bedG { callCtx with st := .frozen, msgs := [.threshold 0 2 8 4 100] } {} {} []
     Tbl.rising 0 s.ctxs = true ∧ (s.ctx? 0).isSome = true ∧ (s.ctx 0).st ≠ .live ∧ s.quiet 0 = true ∧
     (s.ctx 0).msgs.find? isThreshold = some (.threshold 0 2 8 4 100)) ∧
    (serves 1 [0]).ownerSession 0 = some 4 ∧ (Tbl.at (serves 1 [0]).mgmt.sessions 4).isSome = true := by decide

/-! ### Device, ports, links, hosts, sessions -/

/-- The ring of BAR0, with no message and with one that waits to be carried out. -/
def ring0 : Ring := { base := 0x40000000, link := none, tail := 0, pending := [], head := 0, overrun := false }
def bar0 : Ring := { ring0 with inbox := [[]] }

theorem test_w_ThrottleRule : (3600 < 3601 ∧ (0 : Nat) = 0) ∧ (95 < [90, 96, 97, 0].getD 1 0 ∧ ∀ e, e < 1 → [90, 96, 97, 0].getD e 0 ≤ 95) ∧
    one.windowSince + 100000 ≤ one.ns ∧ ¬({ one with windowSince := 4950000 } : State).windowSince + 100000 ≤ one.ns ∧
    (100 ≤ ({ one with underRun := 99, mhz := 3750 } : State).underRun + 1) ∧ (3750 : Nat) = 1000 + 250 * 11 := by decide

/-- Dies with pairs in these states; the ones that run beat last when the nanosecond clock stood at 4.6 ms. -/
def paired (ps : List PairSt) (m : Mgmt) : State :=
  { one with dies := ps.zipIdx.map (fun p => (p.2, { pair := p.1, lastBeat := 4600000 })), mgmt := m, ns := 5000000 }

theorem test_w_DeviceEvents_pairs : ((paired [.rom] {}).die 0).pair = .rom ∧
    (let s := { paired [.offline, .selfTest, .selfTest, .offline] {} with ns := 1 }
     s.mgmt.leader = none ∧ (s.die 1).pair = .selfTest ∧ (∀ d, d < 1 → (s.die d).pair ≠ .selfTest) ∧ ∀ d, d < 4 → (s.die d).pair ≠ .rom) ∧
    (let s := paired [.leader, .follower, .offline, .offline] { leader := some 0 }
     (s.die 0).pair = .leader ∧ (s.die 0).lastBeat + 100000 ≤ s.ns ∧ s.watched 0 = some 1 ∧ (s.die 1).lastBeat + 400000 ≤ s.ns ∧ (0, 1) ∉ s.mgmt.fences) ∧
    (let s := paired [.leader, .follower] { leader := some 0, fences := [(1, 0)] }
     s.mgmt.fences.head? = some (1, 0) ∧ ¬((s.die 1).pair = .fenced ∨ (s.die 0).pair = .fenced ∨ (s.die 0).pair = .offline) ∧ s.mgmt.leader = some 0) ∧
    (let s := paired [.leader, .fenced] { fences := [(1, 0)] }; (s.die 1).pair = .fenced) ∧
    ((one.ctx? 0).isSome = true ∧ (one.ctx 0).ringDie = 0) := by decide

theorem test_w_DeviceEvents_scrub : let s := { paired [] {} with ctxs := [], blocks := [], dies := [(0, { latch := .scrubbing 1 })] }
    (s.die 0).latch = .scrubbing 1 ∧ s.drained 1 = true := by decide

theorem test_w_DeviceEvents_errors : Memory.wf one.mem = true ∧ HasGroup one 0 0 ∧ Cells.wf (one.group 0 0).h = true ∧
    (one.ctx? (one.block 0).ctx).isSome = true ∧ (hyp.residents (hyp.block 0).core).any (fun e => e.1 == 0) = true ∧
    (let s := { hyp with ctxs := [(0, { placedCtx with kernels := [(0, { placedKern with hyper := true })] })] }
     (s.blockKern (s.block 0)).hyper = true) ∧ (anEntry 9 ∈ ((stationed []).station (stationOf comb.place)).records ∧ (anEntry 9).slow = false) :=
  ⟨by decide, grp_of (by decide), by decide, by decide, by decide, by decide, by decide⟩

def lent (t : Tdisp) : State := { one with mgmt := { firewall := [(0, 0x11)], tdisp := t, lent := 1, streams := [2], rings := [(0, bar0)] } }

theorem test_w_PortEvents : (lent .configUnlocked).mgmt.tdisp = .configUnlocked ∧ (lent .configLocked).mgmt.tdisp = .configLocked ∧
    (let s := lent .run
     s.mgmt.stopping = false ∧ Tbl.rising 0 s.ctxs = true ∧ s.heldDies s.mgmt.lent ≠ [] ∧ (s.ctx? 0).isSome = true ∧ (s.ctx 0).world = s.mgmt.lent ∧
     (s.ctx 0).st = .live ∧ 2 ∈ s.mgmt.streams ∧ s.held = [] ∧ Memory.wf s.mem = true ∧
     (∀ r ∈ regionsOf 0x20000 4, s.port 1 (.mem (r * 2 ^ 30)) = .pass) ∧
     s.bar0Ring = some 0x40000000 ∧ ({ s with mgmt := {} } : State).bar0Ring = none) ∧
    (let s := { lent .error with dies := [], mgmt := { tdisp := .error, lent := 1, stopping := true } }
     s.mgmt.tdisp ≠ .configUnlocked ∧ s.mgmt.stopping = true ∧ s.heldDies s.mgmt.lent = []) ∧
    ({ one with mgmt := { sessions := [(4, { st := .established })] } } : State).established 4 = true ∧ 2 < 4 := by decide

def pooled : PoolEntry := { host := 0, link := none, base := 0, size := 2 ^ 30, cls := 2, weight := 3 }
def cxl : State := { lent .run with ctxs := [(0, { placedCtx with pool := [pooled] })] }

theorem test_w_PortEvents_cxl : cxl.cxlEntry (2 ^ 31) = none ∧ cxl.mgmt.cxlInsecure = false ∧
    ({ cxl with mgmt := { cxl.mgmt with cxlInsecure := true } } : State).mgmt.cxlInsecure = true ∧ cxl.cxlEntry 64 = some (1, pooled) ∧ cxl.hostOpen 64 64 = true ∧ cxl.port 1 (.mem 64) = .pass ∧
    one.mgmt.reassign = none ∧ one.mayOwn 255 1 = true ∧
    (let s := { one with mgmt := { firewall := [(0, 1)], reassign := some (0, 1, [5]) } }
     s.mgmt.reassign = some (0, 1, [5]) ∧ (∀ v ∈ s.invals, v.id ∉ [5]) ∧ Cells.wf s.mgmt.firewall = true) := by decide

/-- Links 3 and 66 stand as given; the tray table names a domain for link 66. -/
def linked (x : Link) : State :=
  { one with links := [(3, x), (66, x)], mgmt := { trayTable := [(2, 0x100000)], rings := [(0, bar0)], sessions := [(0, { st := .established, admin := true })] } }

/-- A flit of packet 5 that has been replayed n times. -/
def aFlit (n : Nat) : Flit := { seq := 9, what := .packet 5, replays := n }

theorem test_w_LinkEvents_flit : (∀ n ∈ [3, 66], isLink n = true ∧ ((linked { st := .up, rxSeq := 7 }).link n).healthy = true ∧
      ((linked { st := .up, rxSeq := 7 }).link n).rxSeq = 7 ∧ Tbl.rising 0 ((linked { st := .up, rxSeq := 7 }).link n).keys = true) ∧
    (((linked { st := .up, flits := [aFlit 6] }).link 3).fromSeq 9 = [aFlit 6] ∧ ∀ f ∈ ((linked { st := .up, flits := [aFlit 6] }).link 3).fromSeq 9,
      f.replays + 1 < 8) := by decide

def dropped : Packet := { aPacket with cmd := none, req := some 5, dst := (neighbours 1).getD 3 0 }
def dropping : State :=
  { linked { st := .up, flits := [aFlit 7] } with packets := [dropped], reqs := [{ aReq with place := .dev (8192 + (neighbours 1).getD 3 0) 64 }] }

theorem test_w_LinkEvents_drop : aFlit 7 ∈ (dropping.link 3).fromSeq 9 ∧ 8 ≤ (aFlit 7).replays + 1 ∧
    (∀ g ∈ (dropping.link 3).fromSeq 9, 8 ≤ g.replays + 1 → g.what = (aFlit 7).what) ∧ (aFlit 7).what = .packet dropped.id ∧
    dropping.packets.find? (fun q => q.id == dropped.id) = some dropped ∧ dropping.firstLink dropped = 3 ∧ dropped.req = some 5 ∧
    dropping.packets.find? (fun p => p.id == 5 && !p.void && p.dst != dropping.devNum) = some dropped ∧ (dropping.req? 5).isSome = true := by decide

theorem test_w_LinkEvents_state : (∀ st ∈ [LinkSt.down, .training, .up, .half], ∀ n ∈ [3, 66], (linked { st := st }).linkDead n = false ∧
      ((linked { st := st }).link n).st = st) ∧
    ({ one with links := [(3, { st := .training })], ns := 100000000 } : State).linkDead 3 = false ∧
    (linked { st := .up, dropTimes := List.replicate 16 4000000 }).dropBurst 3 = true := by decide

theorem test_w_LinkEvents_rest : (∀ n ∈ [6, 7], ({ one with packets := [{ aPacket with returns := n, cmd := none }] } : State).packets.find?
      (fun p => p.id == 5 && !p.void && p.dst != 1) = some { aPacket with returns := n, cmd := none }) ∧ isDevice 0x105 = true ∧
    Tbl.at ((linked { keys := [(1, (2 ^ 32 - 1, 0))] }).link 3).keys 1 = some (2 ^ 32 - 1, 0) ∧
    ((linked {}).established 0 = true ∧ (linked {}).hasMessage 0 = true ∧ (linked {}).isAdmin 0 = true ∧ Cells.wf (linked {}).mgmt.trayTable = true ∧
      ¬(∃ h, h < 8 ∧ h ≠ 2 ∧ (Cells.get (linked {}).mgmt.trayTable h).toNat = 0x100001)) := by decide

/-- Host link 0 is up; world 1 has a key, and a pool of region 0, which lets its hosts in. -/
def hosted (x : Link) (rings : Tbl Ring) : State :=
  { one with ctxs := [(0, { placedCtx with pool := [{ pooled with link := some 0 }] })], links := [(64, { x with st := .up })],
             mgmt := { firewall := [(0, 0x11)], trayTable := [(0, 0x100000)], rings := rings } }

theorem test_w_OutsideRequests_host : (∀ k ∈ [InKind.read 256, .write [1, 2] [true, false], .atomic .add .n64 1, .raise 1], hostShape 0x10000 k = true ∧
      ((hosted {} []).link 64).inUnits + (k.size + 63) / 64 ≤ 16384) ∧ ((hosted {} []).link 64).healthy = true ∧
    1 ∈ ((hosted { frozenWorlds := [1] } []).link 64).frozenWorlds ∧ (hosted {} []).ringAt (some 0) 0x10000 8 = none ∧
    (hosted {} [(1, { bar0 with base := 0, link := some 0 })]).ringAt (some 0) 0x10000 8 ≠ none ∧
    (let s := hosted { keys := [(1, (0, 0))] } []
     Tbl.at (s.link 64).keys 1 = some (0, 0) ∧ s.poolEntry (some 0) 1 0x10000 8 = some (0, { pooled with link := some 0 }) ∧ s.hostOpen 0x10000 8 = true ∧
     s.port 1 (.mem 0x10000) = .pass ∧ s.poolEntry (some 0) 1 (2 ^ 30 - 4) 8 = none) := by decide

def aUnit (k : InKind) (last : Bool) : PoolUnit := { cls := 4, weight := 1, link := 64, world := 1, tag := 3, addr := 0x10000, kind := k, last := last }
def awaiting (u : PoolUnit) : State := { hosted {} [] with mgmt := { arbiter := { wait := [u] } } }

theorem test_w_OutsideRequests_unit : ∀ k ∈ [InKind.read 8, .write [1, 2] [true, false], .atomic .add .n64 1, .raise 1], ∀ l ∈ [true, false],
    let s := awaiting (aUnit k l)
    (∃ a, s.mgmt.arbiter.pick = some (0, a) ∧ a.wait[0]? = some (aUnit k l)) ∧ s.held = [] ∧ Memory.wf s.mem = true ∧
    s.mgmt.arbiter.since + 1000 ≤ s.ns := by
  intro k hk l hl
  fin_cases hk <;> fin_cases hl <;> exact ⟨⟨_, rfl, rfl⟩, rfl, by decide, by decide⟩

/-- A unit through the pool of world 1, and one of a world that has none. -/
theorem test_w_OutsideRequests_pool : let s := hosted {} []
    s.poolEntry (some (64 - 64)) 1 0x10000 8 ≠ none ∧ s.port 1 (.mem 0x10000) = .pass ∧ s.poolEntry (some (64 - 64)) 2 0x10000 8 = none := by decide

def hostRequest (performed : Bool) : Req := { aReq with place := .host 0 0x100, performed := performed }
def toHost (p : Bool) : State := { hosted { outbound := [⟨8, 1, 5⟩] } [] with reqs := [hostRequest p] }

theorem test_w_OutsideRequests_reply : (∀ p ∈ [true, false], ((toHost p).link 64).outbound.find? (fun h => h.tag == 8) = some ⟨8, 1, 5⟩ ∧
      (toHost p).req? 5 = some (hostRequest p) ∧ (toHost p).free (hostRequest false) = true) ∧
    (∃ u q, (toHost false).performFar (hostRequest false) = some u ∧ u.req? 5 = some q ∧ q.performed = true) :=
  ⟨by decide, _, _, rfl, rfl, rfl⟩

/-- Fabric link 3 is up, with keys of worlds 0 and 1. -/
def keyed : State := { one with links := [(3, { st := .up, keys := [(0, (0, 0)), (1, (0, 0))] })] }

theorem test_w_OutsideRequests_keys : 3 < 48 ∧ (keyed.link 3).healthy = true ∧ keyed.fabricKeyed 3 2 (.read 256) = false ∧
    (∀ op ∈ [FabricOp.read 256, .write [1, 2], .void, .atomic .add .n64 1, .cas .n64 0 1], keyed.fabricKeyed 3 0 op = true ∧
      keyed.fabricKeyed 3 1 op = true ∧ op.size ≤ 256) ∧
    (∀ w ∈ [1, 2], keyed.fabricKeyed 3 0 (.session w) = true) ∧ keyed.diesOf 1 ≠ [] ∧ keyed.diesOf 2 = [] ∧
    (keyed.inFlow 0x105 0).waiting = [] ∧ (keyed.inFlow 0x105 0).next = 0 ∧ keyed.held = [] ∧ Memory.wf keyed.mem = true := by decide

theorem test_w_OutsideRequests_fabric : isDevice 0x105 = true ∧ 0x105 ≠ one.devNum ∧ (2 ^ 32 - 1 < 2 ^ 32) ∧ (FabricOp.read 256).size ≤ 256 ∧
    (one.inFlow 0x105 1).waiting = [] ∧ (one.inFlow 0x105 1).next = 0 ∧ (one.inFlow 0x105 1).isNew 0 = true ∧ (one.inFlow 0x105 1).isNew 1 = true ∧
    one.held = [] ∧ Memory.wf one.mem = true ∧ (0x10000 + 256 ≤ 2 ^ 40) ∧ (∀ a, 0x10000 ≤ a → a < 0x10000 + 256 → one.port 0 (.mem a) = .pass) ∧
    (let s := { one with inFlows := [{ src := 0x105, world := 1, next := 5 }] }; (s.inFlow 0x105 1).isNew 4 = false) :=
  ⟨by decide, by decide, by decide, by decide, by decide, by decide, by decide, by decide, by decide, by decide, by decide,
   fun _ _ _ => by simp [State.port], by decide⟩

/-- The ring of BAR0 with its counters in memory: request head, and response tail. -/
def ringed (r : Ring) (head tail : Nat) (x : Session) : State :=
  { one with dies := [(0, { latch := .assigned 1, pair := .leader })], mem := Memory.write (Memory.write (placedMap []) 0x40000000 (bytesOfNat head 8)) 0x40000018 (bytesOfNat tail 8),
             mgmt := { firewall := [(0, 1)], leader := some 0, rings := [(0, r)], sessions := [(9, x)], worlds := [(1, {})] } }

theorem test_w_SessionEvents_ring : Tbl.at (ringed bar0 256 0 {}).mgmt.rings 0 = some bar0 ∧ (ringed bar0 256 0 {}).overRing bar0 = true ∧
    (ringed bar0 255 0 {}).overRing bar0 = false ∧ bar0.tail < (ringed bar0 255 0 {}).ringWord bar0 0 ∧ Memory.wf (ringed bar0 255 0 {}).mem = true ∧
    (let r : Ring := { ring0 with overrun := true }
     r.overrun = true ∧ r.told = false ∧ r.inbox = []) ∧
    (∀ r ∈ [{ ring0 with overrun := true, told := true, pending := [.done 0] }, { bar0 with overrun := true, pending := [.done 0] }],
      (r.told = true ∨ r.inbox ≠ []) ∧ r.head + Resp.slots (.done 0) ≤ (ringed r 256 0 {}).ringWord r 24 + 255) ∧
    (let r : Ring := { ring0 with overrun := true, told := true }
     (ringed r 256 0 {}).ringOver r = true ∧ (ringed r 256 0 {}).held = []) := by decide

theorem test_w_SessionEvents_spdm : ∀ st ∈ [SessSt.none, .version, .capable, .negotiated, .exchanged, .established, .ended],
    Tbl.at (ringed bar0 0 0 { st := st }).mgmt.sessions 9 = some { st := st } ∧ (ringed bar0 0 0 { st := st }).hasMessage 9 = true := by
  decide

def session : Session := { st := .established, world := some 1 }
def commanded : State := ringed bar0 0 0 session

theorem test_w_Commands_world : Tbl.at commanded.mgmt.sessions 9 = some session ∧ commanded.hasMessage 9 = true ∧
    (∃ r, Tbl.at commanded.mgmt.worlds 1 = some r ∧ r.owner ≠ 9) ∧
    commanded.diesOf 1 ≠ [] ∧ commanded.levainRoom (2 ^ 26) (2 ^ 25) = true ∧ commanded.freeCtx = some 1 ∧ Tbl.rising 0 commanded.ctxs = true ∧ (commanded.ctx? 0).isSome = true ∧
    session.world = some (commanded.ctx 0).world ∧ session.world ≠ some 2 ∧ commanded.ctx? 5 = none ∧
    (let s := { ringed bar0 0 0 { st := .established } with dies := [(0, { pair := .leader })], mgmt := { (ringed bar0 0 0 {}).mgmt with worlds := [] } }
     Tbl.at s.mgmt.worlds 1 = none ∧ s.heldDies 1 = [] ∧ (s.die 0).latch = .unassigned ∧ s.served 0 = true ∧ (s.die 0).pair ≠ .offline) :=
  ⟨by decide, by decide, ⟨_, rfl, by decide⟩, by decide, by decide, by decide, by decide, by decide, by decide, by decide, by decide, by decide⟩

theorem test_w_Commands_enqueue : ∃ k, Tbl.at (commanded.ctx 0).kernels 0 = some k ∧ 1 % k.cluster = 0 ∧
    ((commanded.takeMessage 9).enqueue { ctx := 0, die := if k.die = 255 then 0 else k.die, kern := 0, arg := 7, blocks := 1, q := 63, prio := 3, dep := false,
                                         vec := commanded.seqs }).isSome = true := ⟨_, rfl, by decide, by decide⟩

theorem test_w_Commands_pool : (∀ e ∈ commanded.ctxs, ∀ q ∈ e.2.pool, q.link ≠ none) ∧ let p := { pooled with link := some 0 }
    (commanded.ctx 0).pool = [] ∧ PoolEntry.ok p = true ∧ (∀ r ∈ regionsOf p.base p.size, r < 1024 ∧ commanded.regionWorld (r * 2 ^ 30) = (commanded.ctx 0).world ∧ commanded.othersIn 0 r = false) ∧
    Cells.wf commanded.mgmt.firewall = true := by decide

/-- A kernel of one `nop` word after its descriptor, in an image of 88 bytes. -/
def kernelBytes : List Byte :=
  List.replicate 36 0 ++ bytesOfNat 10 4 ++ bytesOfNat 1 4 ++ bytesOfNat 1 4 ++ bytesOfNat 1 4 ++ [16, 1, 1, 0, 0, 255] ++ List.replicate 22 0
def imageBytes : List Byte := kernelBytes ++ bytesOfNat 0x003C000000000000 8
/-- The digest of those bytes, from Python's hashlib. -/
def imageDigest : BitVec 384 := 0xf56c90c979e1605a078400746bb9707e689cdb86d0ce12101b0cde6b87dfc364b559f9cf45b1bcbe8f9946efd853afdc
def objectHead : List Byte :=
  bytesOfNat 0x4F554C42 4 ++ bytesOfNat 1 2 ++ bytesOfNat 1 2 ++ bytesOfNat 64 8 ++ bytesOfNat 248 8 ++ bytesOfNat 0 8 ++ bytesOfNat 248 8 ++
    List.replicate 8 0 ++ bytesOfNat 248 8 ++ List.replicate 8 0 ++ bytesOfNat 1 4
def objectTail : List Byte :=
  bytesOfNat 0 8 ++ bytesOfNat 160 8 ++ bytesOfNat 88 8 ++ bytesOfNat imageDigest.toNat 48 ++ bytesOfNat 1 4 ++ List.replicate 12 0 ++ imageBytes
def aKernel : KernelDesc :=
  { name := [], device := 0, entry := 0, codeOff := 10, codeSize := 1, pool := 1, blocks := 1, width := 16, groups := 1, cluster := 1, queue := 0, prio := 0,
    die := 255, roleGroups := [0, 0, 0], roleRegs := [0, 0, 0] }
def anImage (rev : BitVec 32) : CodeImage := { isNative := true, rev := rev, features := 0, digest := imageDigest, kernels := [aKernel], bytes := imageBytes }

/-- A fat object of that image alone, with the bytes of its revision: header, image table at 64, image at 160. -/
def objectOf (b0 b1 b2 b3 : Byte) : List Byte := objectHead ++ ([b0, b1, b2, b3] ++ objectTail)

theorem imageDesc : readAll kernelDesc? [kernelBytes] = some [aKernel] := by decide

set_option maxRecDepth 100000 in
theorem objectEntries (b0 b1 b2 b3 : Byte) : records? (objectOf b0 b1 b2 b3) 64 96 1 = some [[1, 0, 0, 0] ++ ([b0, b1, b2, b3] ++ objectTail.take 88)] := by rfl

set_option maxRecDepth 100000 in
theorem objectImage (b0 b1 b2 b3 : Byte) : part? (objectOf b0 b1 b2 b3) 160 88 = some imageBytes := by rfl
set_option maxRecDepth 100000 in
theorem objectHeader (b0 b1 b2 b3 : Byte) : headerOk (objectOf b0 b1 b2 b3) = true := by rfl

def entryOfRev (b0 b1 b2 b3 : Byte) : List Byte := [1, 0, 0, 0] ++ ([b0, b1, b2, b3] ++ objectTail.take 88)

set_option maxRecDepth 100000 in
theorem entryFields (b0 b1 b2 b3 : Byte) : let e := entryOfRev b0 b1 b2 b3
    field e 0 4 = 1 ∧ field e 84 12 = 0 ∧ field e 16 8 = 160 ∧ field e 24 8 = 88 ∧ field e 80 4 = 1 ∧ field e 8 8 = 0 ∧
    field e 32 48 = imageDigest.toNat ∧ field e 4 4 = natOfBytes [b0, b1, b2, b3] :=
  ⟨rfl, rfl, rfl, rfl, rfl, rfl, rfl, rfl⟩

theorem imageRead (b0 b1 b2 b3 : Byte) : image? (objectOf b0 b1 b2 b3) (entryOfRev b0 b1 b2 b3) =
    some (anImage (BitVec.ofNat 32 (natOfBytes [b0, b1, b2, b3]))) := by
  obtain ⟨h1, h2, h3, h4, h5, h6, h7, h8⟩ := entryFields b0 b1 b2 b3
  have d : records? imageBytes 0 80 1 = some [kernelBytes] := by decide
  have hc : holdsCode { anImage 0 with rev := BitVec.ofNat 32 (natOfBytes [b0, b1, b2, b3]) } aKernel = true := rfl
  simp only [image?, BitVec.ofNat_toNat, BitVec.setWidth_eq, h1, h2, h3, h4, h5, h6, h7, h8, objectImage, Option.bind_some, d, imageDesc, true_or, and_self, if_true, List.all_cons, List.all_nil,
    Bool.and_true]
  exact if_pos hc

theorem object_read (b0 b1 b2 b3 : Byte) : object (objectOf b0 b1 b2 b3) =
    some { mutableCode := false, images := [anImage (BitVec.ofNat 32 (natOfBytes [b0, b1, b2, b3]))], data := [], tags := [], labels := [], objects := [] } := by
  have f : ∀ off n, off + n ≤ 68 → field (objectOf b0 b1 b2 b3) off n = field objectHead off n := by
    intro off n h
    have hl : objectHead.length = 68 := by decide
    rw [field, field, objectOf, List.drop_append_of_le_length (by omega), List.take_append_of_le_length (by simp; omega)]
  have i : readAll (image? (objectOf b0 b1 b2 b3)) [entryOfRev b0 b1 b2 b3] = some [anImage (BitVec.ofNat 32 (natOfBytes [b0, b1, b2, b3]))] := by
    simp [readAll, imageRead]
  have e := objectEntries b0 b1 b2 b3
  have n : (objectOf b0 b1 b2 b3).length = 248 := by simp [objectOf]; decide
  rw [object, if_pos (objectHeader b0 b1 b2 b3)]
  simp only [f _ _ (show 8 + 8 ≤ 68 by decide), f _ _ (show 6 + 2 ≤ 68 by decide), f _ _ (show 16 + 8 ≤ 68 by decide), f _ _ (show 24 + 8 ≤ 68 by decide),
    f _ _ (show 32 + 8 ≤ 68 by decide), f _ _ (show 40 + 4 ≤ 68 by decide), f _ _ (show 48 + 8 ≤ 68 by decide), f _ _ (show 44 + 4 ≤ 68 by decide),
    f _ _ (show 60 + 4 ≤ 68 by decide), f _ _ (show 56 + 4 ≤ 68 by decide)]
  have a1 : field objectHead 8 8 = 64 := by decide
  have a2 : field objectHead 6 2 = 1 := by decide
  have a3 : field objectHead 16 8 = 248 := by decide
  have a4 : field objectHead 24 8 = 0 := by decide
  have a5 : field objectHead 32 8 = 248 := by decide
  have a6 : field objectHead 40 4 = 0 := by decide
  have a7 : field objectHead 48 8 = 248 := by decide
  have a8 : field objectHead 44 4 = 0 := by decide
  have a9 : field objectHead 60 4 = 0 := by decide
  have a10 : field objectHead 56 4 = 0 := by decide
  have e' : records? (objectOf b0 b1 b2 b3) 64 96 1 = some [entryOfRev b0 b1 b2 b3] := e
  rw [a1, a2, e', Option.bind_some, i]
  simp [a3, a4, a5, a6, a7, a8, a9, a10, records?, part?, n, readAll]


theorem revisionBytes (x : BitVec 32) : ∃ b0 b1 b2 b3 : Byte, BitVec.ofNat 32 (natOfBytes [b0, b1, b2, b3]) = x := by
  refine ⟨BitVec.ofNat 8 x.toNat, BitVec.ofNat 8 (x.toNat / 256), BitVec.ofNat 8 (x.toNat / 65536), BitVec.ofNat 8 (x.toNat / 16777216), ?_⟩
  apply BitVec.eq_of_toNat_eq
  have := x.isLt
  simp only [natOfBytes, BitVec.toNat_ofNat]
  omega

theorem test_w_Commands_object : ∃ bytes obj, object bytes = some obj ∧ obj.images = [anImage Config.revision] ∧ obj.data = [] ∧ obj.objects = [] ∧
    obj.mutableCode = false := by
  obtain ⟨b0, b1, b2, b3, h⟩ := revisionBytes Config.revision
  exact ⟨objectOf b0 b1 b2 b3, _, object_read b0 b1 b2 b3, by rw [h], rfl, rfl, rfl⟩

/-- An object of one virtual image of no bytes, whose entry has the digest 0. -/
def forged : List Byte :=
  bytesOfNat 0x4F554C42 4 ++ bytesOfNat 1 2 ++ bytesOfNat 1 2 ++ bytesOfNat 64 8 ++ bytesOfNat 160 8 ++ List.replicate 8 0 ++ bytesOfNat 160 8 ++
    List.replicate 8 0 ++ bytesOfNat 160 8 ++ List.replicate 8 0 ++ (bytesOfNat 2 4 ++ List.replicate 12 0 ++ bytesOfNat 160 8 ++ List.replicate 72 0)

set_option maxRecDepth 200000 in
theorem test_w_Commands_refused : object [] = none ∧ ∃ obj i, object forged = some obj ∧ chooseImage obj.images = some i ∧ sha384 i.bytes ≠ i.digest :=
  ⟨by decide, _, { isNative := false, rev := 0, features := 0, digest := 0, kernels := [], bytes := [] }, rfl, rfl, by decide⟩

/-- FIPS 180-4: the digest of three bytes, its first byte the least significant. -/
theorem test_sha384_abc : sha384 [0x61, 0x62, 0x63] =
    0xa725c834a1ecba5823cce7a12b078680ed5bff435a608b1a63d1de0eab322c270750c69a693da0b58b5ea3453f7500cb := by decide

set_option maxRecDepth 200000 in
theorem test_w_Commands_digest : sha384 (anImage 0x10000).bytes = (anImage 0x10000).digest := by decide

set_option maxRecDepth 200000 in
theorem test_w_Commands_load : let i := anImage Config.revision
    i.isNative = true ∧ i.rev = Config.revision ∧ i.kernels.length ≤ 256 ∧ (commanded.ctx 0).objects < 256 ∧
    ((Tbl.at commanded.mgmt.worlds (commanded.ctx 0).world).getD {}).entries.length < 240 ∧
    codeWords (i.kernels.map (kernelCode i)) = [0x003C000000000000] ∧
    (kernsFrom [] 0 i.kernels (i.kernels.map (kernelCode i))).all Kern.loadable = true ∧
    ∃ u, (commanded.takeMessage 9).placeBytes 0 { base := commanded.freeVa 0 65536 65536, size := 65536, page := 65536, r := false, w := false, x := true, measured := true }
      [commanded.anyDie 1] (wordsBytes [0x003C000000000000]) = some u := ⟨rfl, rfl, by decide, by decide, by decide, by decide, by decide, _, rfl⟩

/-! ### Decoding and the step -/

theorem test_w_DecodeOfEncode : WellFormed (.add (fF 2 (.v 0) (.lit 3) 0) n32) = true ∧ isWordRow (.add (fF 2 (.v 0) (.lit 3) 0) n32) = true := by decide

def issuing : State := { one with agenda := [.issue ⟨0, 0, 0, 0, [0], false⟩] }

theorem test_w_StepRunsTheDecodedInstruction : issuing.tripped = false ∧ readyLanes issuing ⟨0, 0, 0, 0, [0], false⟩ = [0] ∧ (issuing.kern 0 0).isSome = true ∧
    (issuing.core 0).codeLine (0x10000 / 64) = none ∧
    ∃ e, translate issuing.mem (issuing.core 0).tlb 0 (issuing.ctx 0) placedVa .fetch = .at (.mem 0x10000) e :=
  ⟨rfl, by decide, by decide, by decide, _, rfl⟩

theorem test_w_EveryInstructionGoesOn : State.reset.tripped = false ∧ Instr.deviceReset ∈ ({ State.reset with tripped := true, inbox := [.deviceReset] } : State).inbox ∧
    Item.event .deviceReset ∈ ({ State.reset with tripped := true, agenda := [.event .deviceReset] } : State).agenda ∧
    Item.event .deviceReset ∉ ({ State.reset with tripped := true } : State).agenda ∧
    Instr.deviceReset ∉ ({ State.reset with tripped := true } : State).inbox := by decide

theorem test_w_StepsKeepMemoryInForm : Memory.wf State.reset.mem = true := by decide

/-! ## Words written field by field from the layouts of 03_formats.md (R49, R54, R56, R59, R60) -/

def wF (maj min : BitVec 5) (n : BitVec 3) (neg : BitVec 1) (d : BitVec 9) (ka : BitVec 2) (a : BitVec 9) (kb : BitVec 2) (b c : BitVec 9)
    (keep : BitVec 2) (mods : BitVec 7) : DWord := (0 : BitVec 1) ++ maj ++ min ++ n ++ neg ++ d ++ ka ++ a ++ kb ++ b ++ c ++ keep ++ mods
def wL (maj min : BitVec 5) (n : BitVec 3) (neg : BitVec 1) (d : BitVec 9) (lit : BitVec 32) (mods : BitVec 7) : DWord :=
  (0 : BitVec 1) ++ maj ++ min ++ n ++ neg ++ d ++ lit ++ (0 : BitVec 1) ++ mods
def wM (maj min : BitVec 5) (n : BitVec 3) (neg : BitVec 1) (data : BitVec 9) (bk : BitVec 1) (base : BitVec 9) (off : BitVec 14) (scope : BitVec 3)
    (ord : BitVec 2) (ty : BitVec 4) (space : BitVec 2) (hint : BitVec 3) (low : BitVec 2) : DWord :=
  (0 : BitVec 1) ++ maj ++ min ++ n ++ neg ++ data ++ bk ++ base ++ off ++ scope ++ ord ++ ty ++ space ++ hint ++ low
def wT (maj min : BitVec 5) (td ts : BitVec 4) (p : BitVec 6) (cnt : BitVec 12) (x y ctr : BitVec 6) (en : BitVec 1) (flags : BitVec 4) : DWord :=
  (0 : BitVec 1) ++ maj ++ min ++ (7 : BitVec 3) ++ (0 : BitVec 1) ++ td ++ ts ++ p ++ cnt ++ x ++ y ++ ctr ++ en ++ flags
def wH (op : BitVec 7) (p : BitVec 3) (d s : BitVec 9) (retain : BitVec 1) : BitVec 32 := op ++ p ++ d ++ s ++ retain ++ (0 : BitVec 3)

/-- An F form of a word that retains nothing. -/
def xf (d : BitVec 9) (a b : Src) (c : BitVec 9) : FForm := fF d a b c

theorem test_decode_control :
    decode none (wF 0 1 7 0 0 0 0 0 0 0 0 0) = .ok (.nop (xf 0 (.v 0) (.v 0) 0)) ∧
    decode none (wL 0 2 2 1 0 0xFFFFFFFE 0) = .ok (.bra { g := { n := 2, neg := true }, d := 0, lit := 0xFFFFFFFE }) ∧
    decode none (wF 0 11 7 0 0 3 16 0 0 0 0 0) = .ok (.yld (xf 0 (.lit 16) (.v 0) 0)) := by decide

theorem test_decode_integer :
    decode none (wF 1 0 7 0 2 0 1 3 0x1FF 0 1 0x20) = .ok (.add { xf 2 (.v 1) (.lit 0x1FF) 0 with keep := .a } { ty := .i32, pk := .none, sat := false }) ∧
    decode none (wF 1 4 7 0 8 0 9 0 2 3 0 0x15) = .error .reservedField ∧
    decode none (wF 1 1 3 0 8 0 9 0 2 0 0 0x13) = .ok (.sub { xf 8 (.v 9) (.v 2) 0 with g := { n := 3, neg := false } } { ty := .i16, pk := .x2, sat := true }) ∧
    decode none (wL 1 16 7 0 6 1000 0x20) = .ok (.addL { g := always, d := 6, lit := 1000 } { ty := .i32, pk := .none, sat := false }) := by decide

theorem test_decode_logic :
    decode none (wF 2 4 7 0 2 0 1 3 5 0 0 0x60) = .ok (.shl (xf 2 (.v 1) (.lit 5) 0) { ty := .n32, pk := .none, sat := false }) ∧
    decode none (wF 2 0 7 0 4 0 2 2 0x8C 0 0 0x70) = .ok (.andB (xf 4 (.v 2) (.c 1 12) 0) { ty := .n64, pk := .none, sat := false }) := by decide

theorem test_decode_move :
    decode none (wF 3 2 7 0 6 1 9 0 0 0 0 0x60) = .ok (.mov (xf 6 (.s 9) (.v 0) 0) .n32 false) ∧
    decode none (wL 3 3 7 0 6 0xFFFFFFFF 0x30) = .ok (.movl { g := always, d := 6, lit := 0xFFFFFFFF } .i64 false) := by decide

theorem test_decode_float :
    decode none (wF 4 3 7 0 20 0 7 0 12 1 1 0x40) = .ok (.ffma { xf 20 (.v 7) (.v 12) 1 with keep := .a } f32) ∧
    decode none (wF 5 2 7 0 20 0 8 0 0 0 0 0x78) = .ok (.fsqrt (xf 20 (.v 8) (.v 0) 0) { ty := .f64, rnd := .rp, sat := false, x2 := false }) := by decide

/-- Words that 06_arith.md gives beside R154 and R161, and others. -/
theorem test_decode_convert : wF 7 2 7 0 8 0 6 3 20 8 0 0x68 = 0x1C5C0800D8501068 ∧ wF 8 3 7 0 10 0 8 0 0 0 0 0x50 = 0x207C0A0100000050 ∧
    decode none (wF 7 2 7 0 8 0 6 3 20 8 0 0x68) = .ok (.ldot (xf 8 (.v 6) (.lit 20) 8) { ty := .l6, rnd := .rn, sat := false }) ∧
    decode none (wF 8 3 7 0 10 0 8 0 0 0 0 0x50) = .ok (.lred (xf 10 (.v 8) (.v 0) 0) { ty := .f32, rnd := .rn, sat := false } .add .none) ∧
    decode none (wF 6 0 7 0 4 0 8 0 0 0x140 0 0x10) = .ok (.cvt (xf 4 (.v 8) (.v 0) 0) { ty := .i32, rnd := .rn, sat := false } .f32) ∧
    decode none (wF 7 0 7 0 7 0 6 3 20 0x1A0 0 0x50) = .ok (.lmul (xf 7 (.v 6) (.lit 20) 0) { ty := .f32, rnd := .rn, sat := false } .l6 .none) := by decide

theorem test_decode_memory :
    decode none (wM 9 1 7 0 8 0 4 16 3 0 6 0 0 0) = .ok (.st (mM .gl .dev) 16) ∧
    decode none (wM 10 0 7 0 8 0 4 0x3FFF 1 0 6 1 0 0) = .ok (.ldSp (mM .sp .blk) 0x3FFF) ∧
    decode none (wM 11 0 7 0 6 0 4 ((7 : BitVec 9) ++ (0 : BitVec 5)) 3 0 6 0 0 0) = .ok (.atom { mM .gl .dev with data := 6 } .add 7 false false) ∧
    decode none (wM 9 0 7 0 8 0 5 0 3 0 6 0 0 0) = .error .reservedField ∧
    decode none (wF 9 7 7 0 0 0 0 0 0 0x1C7 0 0x70) = .ok (.wcnt (xf 0 (.v 0) (.v 0) 0) 7 0 7 7) := by decide

theorem test_decode_kneader_and_names :
    decode none (wM 12 2 7 0 8 0 4 0 3 0 7 0 0 0) = .ok (.kdeq { mM .gl .dev with ty := .n64 }) ∧
    decode none (wM 13 0 7 0 12 0 14 0 3 0 7 0 0 0) = .ok (.ldn { mM .gl .dev with data := 12, base := .v 14, ty := .n64 } 0) ∧
    decode none (wF 13 3 7 0 12 0 12 0 2 0 0 0) = .ok (.padd (xf 12 (.v 12) (.v 2) 0)) := by decide

theorem test_decode_tile :
    decode none (wT 14 3 0 0 2 64 4 0 0 0 12) = .ok (.bsld { tForm with td := 0, p := 2, cnt := 64, x := 4, y := 0, flags := 12 }) ∧
    decode none (wT 15 1 1 0 6 16 8 9 0 0 4) = .ok (.tloop { tForm with td := 1, p := 6, cnt := 16, x := 8, y := 9, flags := 4 }) ∧
    decode none (wT 14 7 0 1 10 0 0 0 0 0 0) = .ok (.tred { tForm with td := 0, ts := 1, p := 10, x := 0, y := 0 }) := by decide

theorem test_decode_hyper :
    decode none (wM 16 0 7 0 1 1 22 0 3 0 0 0 0 0) = .ok (.hld { g := always, data := 1, base := .s 22, scope := .dev, ord := .rlx, ty := .i8, space := .gl, hint := .none } 0) ∧
    decode none (wF 16 4 7 0 4 0 1 3 128 0 0 8) = .ok (.hrot (xf 4 (.v 1) (.lit 128) 0) 1) ∧
    decode none (wF 17 0 7 0 20 1 24 3 8 28 0 0x20) = .ok (.hmatch (xf 20 (.s 24) (.lit 8) 28) 4 false) := by decide

theorem test_decode_counters_and_engines :
    decode none (wF 18 0 7 0 0 2 10 3 1 0 0 2) = .ok (.cnadd (xf 0 (.c 0 10) (.lit 1) 0) true) ∧
    decode none (wF 18 4 1 0 24 2 10 3 16 20 0 0) = .ok (.trig { xf 24 (.c 0 10) (.lit 16) 20 with g := { n := 1, neg := false } }) ∧
    decode none (wF 19 0 7 0 8 0 4 3 32 0 0 0) = .ok (.cpy (xf 8 (.v 4) (.lit 32) 0) { idx := 0, en := false } false false) := by decide

theorem test_decode_barriers_and_kernels :
    decode none (wF 20 0 7 0 0 1 40 3 1 0 0 0) = .ok (.binit (xf 0 (.s 40) (.lit 1) 0) false) ∧
    decode none (wF 20 4 7 0 2 0 0 0 0 0 0 1) = .ok (.elect (xf 2 (.v 0) (.v 0) 0) true) ∧
    decode none (wF 21 4 7 0 0 0 1 0 0 0 0 1) = .ok (.idem (xf 0 (.v 1) (.v 0) 0) 1) ∧
    decode none (wF 21 2 7 0 0 0 0 0 0 0 0 0) = .ok (.ktrig (xf 0 (.v 0) (.v 0) 0)) := by decide

theorem test_decode_system :
    decode none (wF 22 0 7 0 30 3 1 0 8 0 0 0) = .ok (.sys (xf 30 (.lit 1) (.v 8) 0)) ∧
    decode none (wF 22 1 7 0 0 0 0 0 0 0 0 1) = .ok (.tret (xf 0 (.v 0) (.v 0) 0) true) ∧
    decode none (wF 22 4 7 0 20 3 17 0 0 0 0 0) = .ok (.csrr (xf 20 (.lit 17) (.v 0) 0) false) ∧
    decode none (wF 22 10 7 0 20 0 6 0 0 0 0 4) = .ok (.lnkq (xf 20 (.v 6) (.v 0) 0) .route false) ∧
    decode none (wF 23 0 7 0 0 3 4 3 4 0 0 0) = .ok (.loop (xf 0 (.lit 4) (.lit 4) 0)) ∧
    decode none (wF 23 2 7 0 3 3 8 0 0 0 0 0) = .ok (.rgrow (xf 3 (.lit 8) (.v 0) 0)) := by decide

theorem test_decode_pairs :
    decode none (wH 0x41 7 4 5 1 ++ wH 0x4E 2 6 511 0) = .ok (.addHalf { p := 7, d := 4, s := 5, keep := true } ⟨.mov, { p := 2, d := 6, s := 511, keep := false }⟩) ∧
    decode none (wH 0x41 7 4 5 0 ++ wH 0x42 7 4 6 0) = .error .pair ∧ decode none (wH 0x41 7 4 5 0 ++ wH 0x42 7 8 7 0) = .error .bank := by decide

/-- A word of major 31 is not checked further (R68); an unassigned cell is refused as the opcode it is. -/
theorem test_decode_virtual : decode none (wT 31 3 15 1 1 0 0 0 0 0 0) = .ok (.vtMma ((wT 31 3 15 1 1 0 0 0 0 0 0).extractLsb' 0 53)) ∧
    decode none (wF 24 0 7 0 0 0 0 0 0 0 0 0) = .ok (.unassignedOpcodeWord (wF 24 0 7 0 0 0 0 0 0 0 0 0)) := by decide

/-! ## Terms that are no instruction -/

theorem test_wf_refuses :
    WellFormed (.nop { xf 0 (.v 0) (.v 0) 0 with g := { n := 7, neg := true } }) = false ∧                       -- R48
    WellFormed (.nop (xf 1 (.v 0) (.v 0) 0)) = false ∧ WellFormed (.nop (xf 0 (.lit 1) (.v 0) 0)) = false ∧     -- R51
    WellFormed (.add (xf 2 (.v 1) (.v 4) 0) { ty := .i64, pk := .none, sat := false }) = false ∧               -- R50: an odd pair
    WellFormed (.add (xf 3 (.v 0) (.v 4) 0) { ty := .i64, pk := .none, sat := false }) = false ∧               -- R51
    WellFormed (.add (xf 2 (.v 0) (.v 4) 0) { ty := .i32, pk := .x2, sat := false }) = false ∧                 -- R133
    WellFormed (.add { xf 2 (.lit 0) (.v 4) 0 with keep := .a } n32) = false ∧                                -- R63
    WellFormed (.add (xf 2 (.v 0) (.v 4) 0) { ty := .f32, pk := .none, sat := false }) = false ∧               -- R52
    WellFormed (.cmp (xf 7 (.v 0) (.v 4) 0) .n32 .eq) = false ∧                                              -- R51: p7
    WellFormed (.ld { mM .gl .dev with base := .v 5 } 0) = false ∧ WellFormed (.ld (mM .sp .blk) 0) = false ∧   -- R57
    WellFormed (.ldSp (mM .sp .dev) 0) = false ∧ WellFormed (.ld { mM .gl .thr with ord := .acq } 0) = false ∧  -- R211
    WellFormed (.ldq { mM .gl .dev with data := 9 } 0) = false ∧                                             -- R51
    WellFormed (.atom { mM .gl .dev with ty := .i16 } .add 7 false false) = false ∧ WellFormed (.atom (mM .gl .blk) .add 7 false false) = false ∧
    WellFormed (.tzero { tForm with td := 1, p := 5, x := 0, y := 0 }) = false ∧ WellFormed (.bsld { tForm with en := false, ctr := 2 }) = false ∧
    WellFormed (.hmov (xf 16 (.v 2) (.v 0) 0)) = false ∧ WellFormed (.csrr (xf 64 (.lit 1) (.v 0) 0) true) = false ∧
    WellFormed (.addHalf { p := 7, d := 4, s := 5, keep := false } ⟨.sub, { p := 7, d := 4, s := 6, keep := false }⟩) = false ∧  -- R62
    WellFormed (.addHalf { p := 7, d := 4, s := 511, keep := true } ⟨.nop, { p := 7, d := 0, s := 0, keep := false }⟩) = false := by decide

/-! ## One step of small states, calculated from the rules -/

/-- What lane `i` of the path holds in a register after an instruction. -/
def after (i : Instr) (s : State) (lane r : Nat) : Option Nat :=
  match exec i s with
  | .next t => some ((t.flane (path [0]) lane).reg 256 r).toNat
  | _ => none

def with4 (a b : Nat) : State := bed [{ v := [(2, BitVec.ofNat 32 a), (3, BitVec.ofNat 32 b)] }] [0]
def ab : FForm := fF 8 (.v 2) (.v 3) 0
def iM (ty : Ty) (pk : Pack) (sat : Bool) : AMods := { ty := ty, pk := pk, sat := sat }

/-- R136: a sum wraps, or saturates at the type's limit. -/
theorem test_add : after (.add ab (iM .i32 .none false)) (with4 0x7FFFFFFF 1) 0 8 = some 0x80000000 ∧
    after (.add ab (iM .i32 .none true)) (with4 0x7FFFFFFF 1) 0 8 = some 0x7FFFFFFF ∧
    after (.add ab (iM .n8 .x4 true)) (with4 0xFF01FF10 0x01010120) 0 8 = some 0xFF02FF30 := by decide

/-- R72: division truncates toward zero; by zero it gives the limit of the dividend's sign, and the remainder is the dividend. -/
theorem test_div : after (.div ab (iM .i32 .none false)) (with4 0xFFFFFFF9 2) 0 8 = some 0xFFFFFFFD ∧
    after (.div ab (iM .i32 .none false)) (with4 5 0) 0 8 = some 0x7FFFFFFF ∧ after (.rem ab (iM .i32 .none false)) (with4 0xFFFFFFF9 2) 0 8 = some 0xFFFFFFFF ∧
    after (.rem ab (iM .i32 .none false)) (with4 5 0) 0 8 = some 5 := by decide

/-- R139: a shift count is taken modulo the width. -/
theorem test_shift : after (.shl ab (iM .n32 .none false)) (with4 3 33) 0 8 = some 6 ∧ after (.sra ab (iM .i32 .none false)) (with4 0x80000000 31) 0 8 = some 0xFFFFFFFF := by
  decide

/-- 1.5 + 2.25 = 3.75, and 1 / 3 rounded to nearest and toward +∞ (R145). -/
theorem test_float : after (.fadd ab f32) (with4 0x3FC00000 0x40100000) 0 8 = some 0x40700000 ∧
    after (.fdiv ab f32) (with4 0x3F800000 0x40400000) 0 8 = some 0x3EAAAAAB ∧
    after (.fdiv ab { f32 with rnd := .rm }) (with4 0x3F800000 0x40400000) 0 8 = some 0x3EAAAAAA := by decide

/-- R62: both halves read before either writes, so a pair exchanges two registers. -/
theorem test_pair_swaps : after (.movHalf { p := 7, d := 2, s := 3, keep := false } ⟨.mov, { p := 7, d := 3, s := 2, keep := false }⟩) (with4 5 9) 0 2 = some 9 ∧
    after (.movHalf { p := 7, d := 2, s := 3, keep := false } ⟨.mov, { p := 7, d := 3, s := 2, keep := false }⟩) (with4 5 9) 0 3 = some 5 := by decide

/-- R149: a float converts to an integer by rounding; one out of range saturates. -/
theorem test_cvt : after (.cvt ab { ty := .i32, rnd := .rz, sat := false } .f32) (with4 0xC0200000 0) 0 8 = some 0xFFFFFFFE := by decide

/-- What a step leaves of the lane's word index. -/
def pcAfter (i : Instr) (s : State) : Option Nat :=
  match exec i s with
  | .next t => some (t.flane (path [0]) 0).pc
  | _ => none

/-- R109: a branch counts words from the word after it; a lane whose predicate is false goes on. -/
theorem test_bra : pcAfter (.bra { g := always, d := 0, lit := 6 }) one = some 7 ∧ pcAfter (.bra { g := never, d := 0, lit := 6 }) one = some 1 := by decide

/-- R400: a trap with no usable vector ends the context, with the cause and sub-cause of the trap. -/
theorem test_trap : (match exec (.unassignedOpcodeWord 0) one with
    | .next t => some ((t.ctx 0).st, (t.ctx 0).cause, (t.ctx 0).sub)
    | _ => none) = some (.trapped, 1, 1) := by decide

/-- R23: after a thermal trip no step is taken until a device reset. -/
theorem test_tripped : step { State.reset with tripped := true } = .fault .thermalTrip := rfl
end Sys2Proof.Tests
end

namespace Sys2Proof
namespace Machine

/-!
# Every step keeps device memory in its form (O59)

Device memory changes in few places: a commit or a held write sets bytes, zeroing removes them, a table entry is written whole, loading
code sets bytes, and a reset takes the memory over. Each of them keeps the canonical form, and everything else that a step runs either
touches no byte or goes through these. So the lemmas below come in the order of the model's files, one or two for each function that
answers a state: `f_mem` says that `f` leaves memory as it is, `f_wf` that `f` keeps its form, and `f_inForm` says the second of a result
that holds states (a word's effect, a fetch, an outcome). The last ones are of `exec` and of `step`.
-/

/-! ## Cells -/

end Machine

theorem Tbl.rising_filter {α : Type} (p : Nat × α → Bool) (t : Tbl α) (lo : Nat) (h : Tbl.rising lo t = true) :
    Tbl.rising lo (t.filter p) = true := by
  induction t generalizing lo with
  | nil => rfl
  | cons e t ih =>
    simp only [Tbl.rising, Bool.and_eq_true, decide_eq_true_eq] at h
    rw [List.filter_cons]
    split
    · simp [Tbl.rising, h.1, ih _ h.2]
    · exact ih lo (Tbl.rising_mono t h.2 (by omega))

theorem Memory.wf_filter (p : Nat × Byte → Bool) (m : Memory) (h : Memory.wf m = true) : Memory.wf (m.filter p) = true := by
  have hw := (Cells.wf_iff (n := 8) m).mp h
  exact (Cells.wf_iff (n := 8) _).mpr ⟨Tbl.rising_filter p m 0 hw.1, fun e he => hw.2 e (List.mem_of_mem_filter he)⟩

theorem Memory.wf_setBytes (cs : List (Nat × Byte)) (m : Memory) (h : Memory.wf m = true) :
    Memory.wf (cs.foldl (fun m c => Memory.setByte m c.1 c.2) m) = true :=
  Machine.foldl_keeps (fun m : Memory => Memory.wf m = true) _ (fun m c hm => Memory.wf_setByte m c.1 c.2 hm) cs m h

namespace Machine

/-! ## Folds and choices -/

/-- A function of a fold that touches no byte of memory. -/
def KeepsMem {α : Type} (f : State → α → State) : Prop := ∀ t a, (f t a).mem = t.mem

@[simp] theorem keepsMem_iff {α : Type} (f : State → α → State) : KeepsMem f ↔ ∀ t a, (f t a).mem = t.mem := ⟨id, id⟩

@[simp] theorem foldl_mem {α : Type} {f : State → α → State} (hf : KeepsMem f) (xs : List α) (s : State) :
    (xs.foldl f s).mem = s.mem :=
  foldl_keeps (fun t => t.mem = s.mem) f (fun t a ht => (hf t a).trans ht) xs s rfl

theorem foldl_wf {α : Type} {f : State → α → State} (hf : ∀ t a, Memory.wf t.mem → Memory.wf (f t a).mem) (xs : List α) {s : State}
    (hm : Memory.wf s.mem) : Memory.wf (xs.foldl f s).mem :=
  foldl_keeps (fun t => Memory.wf t.mem = true) f hf xs s hm

theorem foldl_fst_wf {α β : Type} {f : State × β → α → State × β} (hf : ∀ t a, Memory.wf t.1.mem → Memory.wf (f t a).1.mem)
    (xs : List α) {t : State × β} (hm : Memory.wf t.1.mem) : Memory.wf (xs.foldl f t).1.mem :=
  foldl_keeps (fun u => Memory.wf u.1.mem = true) f hf xs t hm

@[simp] theorem State.mem_ite (c : Prop) [Decidable c] (a b : State) : (if c then a else b).mem = if c then a.mem else b.mem :=
  apply_ite State.mem c a b

theorem getD_wf {o : Option State} (ho : ∀ t ∈ o, Memory.wf t.mem) {s : State} (hm : Memory.wf s.mem) : Memory.wf (o.getD s).mem := by
  cases o with
  | none => exact hm
  | some t => exact ho t rfl

theorem map_wf {α : Type} {o : Option α} {g : α → State} (hg : ∀ a ∈ o, Memory.wf (g a).mem) : ∀ t ∈ o.map g, Memory.wf t.mem :=
  Option.forall_mem_map.mpr hg

theorem bind_wf {α : Type} {o : Option α} {g : α → Option State} (hg : ∀ a ∈ o, ∀ t ∈ g a, Memory.wf t.mem) :
    ∀ t ∈ o.bind g, Memory.wf t.mem := by
  intro t ht
  obtain ⟨a, ha, hb⟩ := Option.mem_bind_iff.mp ht
  exact hg a ha t hb

theorem findSome_all {α β : Type} {P : β → Prop} {f : α → Option β} (hf : ∀ a, ∀ b ∈ f a, P b) {xs : List α} :
    ∀ b ∈ xs.findSome? f, P b := by
  intro b hb
  obtain ⟨a, -, ha⟩ := List.exists_of_findSome?_eq_some hb
  exact hf a b ha

/-! ## Results that hold states -/

/-- The memory of the state that a word's effect leaves, if it leaves one, is in form. -/
inductive Eff.InForm : Eff → Prop
  | ok {t nx} (h : Memory.wf t.mem) : InForm (.ok t nx)
  | stop {t} (h : Memory.wf t.mem) : InForm (.stop t)
  | trap (x) : InForm (.trap x)
  | trapNow (x) : InForm (.trapNow x)

@[simp] theorem Eff.inForm_ok {t : State} {nx : List (Nat × Next)} : (Eff.ok t nx).InForm ↔ Memory.wf t.mem := ⟨fun | .ok h => h, .ok⟩
@[simp] theorem Eff.inForm_stop {t : State} : (Eff.stop t).InForm ↔ Memory.wf t.mem := ⟨fun | .stop h => h, .stop⟩

/-- The memory of the state that a Kneader answers is in form. -/
inductive KOut.InForm : KOut → Prop
  | done {t x v} (h : Memory.wf t.mem) : InForm (.done t x v)
  | fill (p) : InForm (.fill p)
  | held (l) : InForm (.held l)

@[simp] theorem KOut.inForm_done {t : State} {x : Nat} {v : VecD} : (KOut.done t x v).InForm ↔ Memory.wf t.mem :=
  ⟨fun | .done h => h, .done⟩
@[simp] theorem KOut.inForm_fill {p : PageFill} : (KOut.fill p).InForm := .fill p
@[simp] theorem KOut.inForm_held {l : Nat} : (KOut.held l).InForm := .held l

theorem KOut.InForm.ite {c : Prop} [Decidable c] {a b : KOut} (ha : a.InForm) (hb : b.InForm) : (if c then a else b).InForm := by
  split
  · exact ha
  · exact hb

theorem Eff.InForm.ite {c : Prop} [Decidable c] {a b : Eff} (ha : a.InForm) (hb : b.InForm) : (if c then a else b).InForm := by
  split
  · exact ha
  · exact hb

/-- The memory of the state that an outcome goes on from, if it goes on, is in form. -/
inductive EndsInForm : Host.Outcome State Fault Refusal → Prop
  | next {t} (h : Memory.wf t.mem) : EndsInForm (.next t)
  | fault (x) : EndsInForm (.fault x)
  | refused (x) : EndsInForm (.refused x)

@[simp] theorem endsInForm_next {t : State} : EndsInForm (.next t) ↔ Memory.wf t.mem := ⟨fun | .next h => h, .next⟩

theorem EndsInForm.ite {c : Prop} [Decidable c] {a b : Host.Outcome State Fault Refusal} (ha : EndsInForm a) (hb : EndsInForm b) :
    EndsInForm (if c then a else b) := by
  split
  · exact ha
  · exact hb

/-- The memory of the state that a session's command leaves, if it is carried out, is in form. -/
inductive AnswersInForm : Except Nat (State × Nat) → Prop
  | ok {t v} (h : Memory.wf t.mem) : AnswersInForm (.ok (t, v))
  | error (x) : AnswersInForm (.error x)

@[simp] theorem answersInForm_ok {t : State} {v : Nat} : AnswersInForm (.ok (t, v)) ↔ Memory.wf t.mem := ⟨fun | .ok h => h, .ok⟩

theorem AnswersInForm.ite {c : Prop} [Decidable c] {a b : Except Nat (State × Nat)} (ha : AnswersInForm a) (hb : AnswersInForm b) :
    AnswersInForm (if c then a else b) := by
  split
  · exact ha
  · exact hb

/-- The memory of the state that a fetch leaves is in form. -/
inductive Fetched.InForm : Fetched → Prop
  | none {t} (h : Memory.wf t.mem) : InForm (.none t)
  | word {t} (i) (h : Memory.wf t.mem) : InForm (.word t i)

/-- The memory of the state that a resolution leaves is in form. -/
inductive Decided.InForm : Decided → Prop
  | out {t} (o) (h : Memory.wf t.mem) : InForm (.out t o)
  | fetching {t} (n) (h : Memory.wf t.mem) : InForm (.fetching t n)
/-! ## State (Sys2Proof/Machine/State.lean) -/



/-! ## Store (Sys2Proof/Machine/Store.lean) -/

@[simp] theorem State.draw_mem (s : State) : (s.draw).2.mem = s.mem := by
  simp [State.draw]

@[simp] theorem State.updReq_mem (s : State) (id : Nat) (k : Req → Req) : (s.updReq id k).mem = s.mem := by
  simp [State.updReq]

/-! ## Ops (Sys2Proof/Machine/Ops.lean) -/

@[simp] theorem State.onLanes_mem (s : State) (f : Focus) (ls : List Nat) (k : Nat → Lane → Lane) : (s.onLanes f ls k).mem = s.mem := by
  simp [State.onLanes]

@[simp] theorem State.onGroup_mem (s : State) (f : Focus) (k : Group → Group) : (s.onGroup f k).mem = s.mem := by
  simp [State.onGroup]

@[simp] theorem State.record_mem (s : State) (kind a b : Nat) (values : List Nat) : (s.record kind a b values).mem = s.mem := by
  simp [State.record]

@[simp] theorem State.note_mem (s : State) (kind a b : Nat) : (s.note kind a b).mem = s.mem := by
  simp [State.note]

@[simp] theorem State.loseData_mem (s : State) (c : Nat) : (s.loseData c).mem = s.mem := by
  simp [State.loseData]

@[simp] theorem State.readLoss_mem (s : State) (c : Nat) (p : Place) (n : Nat) : (s.readLoss c p n).mem = s.mem := by
  unfold State.readLoss
  split <;> simp

/-- What a word leaves is in form when its effect is: the path's waits, traps and moves touch no byte. -/
theorem runWord_inForm {s : State} (use : List Nat) {act : State → Focus → Eff}
    (ha : ∀ (t : State) (f : Focus), Memory.wf t.mem → (act t f).InForm) (hm : Memory.wf s.mem) : EndsInForm (runWord s use act) := by
  unfold runWord
  split
  · exact .next hm
  · dsimp only
    split
    · exact .next (by simp [hm])
    · next f0 _ _ =>
      have he := ha (s.onLanes f0 (splitPend s f0 use).1 (fun i l =>
        { l with st := .waiting (.reqs (pendIds s f0 (s.fgroup f0).nregs use i)) })) { f0 with lanes := (splitPend s f0 use).2 } (by simp [hm])
      split
      · next h => exact .next (Eff.inForm_stop.mp (h ▸ he))
      · exact .next (by simp [hm])
      · exact .ite (.next (by simp [hm])) (.next (by simp [hm]))
      · next h =>
        have ht := Eff.inForm_ok.mp (h ▸ he)
        exact .ite (.next (by simp [ht])) (.next (by simp [hm]))

@[simp] theorem trapPath_mem (s : State) (f : Focus) (t : Trap) : (trapPath s f t).mem = s.mem := by
  unfold trapPath
  split <;> simp

theorem runTrap_inForm {s : State} (t : Trap) (hm : Memory.wf s.mem) : EndsInForm (runTrap s t) := by
  unfold runTrap
  split <;> simp [hm]

theorem event_inForm {s t : State} (ok : Bool) (ht : Memory.wf t.mem) (hm : Memory.wf s.mem) : EndsInForm (event s ok t) := by
  unfold event
  split <;> simp [ht, hm]

/-! ## Flags (Sys2Proof/Machine/Flags.lean) -/

@[simp] theorem bumpFex_mem (s : State) (c i idx : Nat) : (bumpFex s c i idx).mem = s.mem := by
  simp [bumpFex]

@[simp] theorem bumpEvent_mem (s : State) (c i e : Nat) : (bumpEvent s c i e).mem = s.mem := by
  simp [bumpEvent]

@[simp] theorem countEvents_mem (s : State) (c i : Nat) (es : Events) : (countEvents s c i es).mem = s.mem := by
  simp [countEvents]

@[simp] theorem countTotals_mem (s : State) (c : Nat) (es : Events) : (countTotals s c es).mem = s.mem := by
  simp [countTotals]

@[simp] theorem State.tally_mem (s : State) (f : Focus) (es : Events) : (s.tally f es).mem = s.mem := by
  simp [State.tally]

/-! ## Home (Sys2Proof/Machine/Home.lean) -/

@[simp] theorem State.queueRelaunch_mem (s : State) (b : Nat) : (s.queueRelaunch b).mem = s.mem := by
  simp [State.queueRelaunch]

@[simp] theorem State.queueParked_mem (s : State) (b : Nat) : (s.queueParked b).mem = s.mem := by
  unfold State.queueParked
  split <;> simp

@[simp] theorem State.wakeUnit_mem (s : State) (b : Nat) : (s.wakeUnit b).mem = s.mem := by
  unfold State.wakeUnit
  split <;> simp

@[simp] theorem State.raised_mem (s : State) (d key old new : Nat) (vec : VecD) : (s.raised d key old new vec).mem = s.mem := by
  simp [State.raised]

@[simp] theorem State.sendNotices_mem (s : State) (note : Notice) : (s.sendNotices note).mem = s.mem := by
  simp [State.sendNotices]

/-- A commit sets bytes one by one; the counters that it raises touch none. -/
@[simp] theorem State.commitCells_wf {s : State} (cs : List (Nat × Byte)) (tagOn : Bool) (vec : VecD) (hm : Memory.wf s.mem) :
    Memory.wf (s.commitCells cs tagOn vec).1.mem := by
  unfold State.commitCells
  split
  · exact hm
  · simp only [foldl_mem (f := fun (t : State) (o : Nat × Nat) => State.raised t _ o.1 o.2 _ _) (fun t o => State.raised_mem ..),
      State.sendNotices_mem, State.modDie_mem]
    exact Memory.wf_setBytes _ _ hm

@[simp] theorem State.commitMem_wf {s : State} (pa : Nat) (bytes : List Byte) (tagOn : Bool) (vec : VecD) (hm : Memory.wf s.mem) :
    Memory.wf (s.commitMem pa bytes tagOn vec).1.mem := by
  simp [State.commitMem, hm]

@[simp] theorem State.commitLines_wf {s : State} (cs : List (Nat × Byte)) (vec : VecD) (hm : Memory.wf s.mem) :
    Memory.wf (s.commitLines cs vec).mem :=
  foldl_wf (fun _ _ ht => State.commitCells_wf _ _ _ ht) _ hm

@[simp] theorem State.commitSramWord_mem (s : State) (d off : Nat) (bytes : List Byte) (vec : VecD) :
    (s.commitSramWord d off bytes vec).mem = s.mem := by
  simp [State.commitSramWord]

@[simp] theorem State.commitSram_mem (s : State) (d off : Nat) (bytes : List Byte) (vec : VecD) :
    (s.commitSram d off bytes vec).mem = s.mem := by
  simp [State.commitSram]

@[simp] theorem State.commitAt_wf {s : State} (p : Place) (bytes : List Byte) (tagOn : Bool) (vec : VecD) (hm : Memory.wf s.mem) :
    Memory.wf (s.commitAt p bytes tagOn vec).1.mem := by
  unfold State.commitAt
  split <;> simp [hm]

@[simp] theorem numberHeld_wf {s : State} (w : HeldWrite) (hm : Memory.wf s.mem) : Memory.wf (numberHeld s w).mem := by
  simp [numberHeld, hm]

@[simp] theorem State.writeBack_wf {s : State} (x : Held) (hm : Memory.wf s.mem) : Memory.wf (s.writeBack x).mem :=
  foldl_wf (fun _ w ht => numberHeld_wf w ht) _ hm

@[simp] theorem State.freshRange_wf {s : State} (pa size : Nat) (hm : Memory.wf s.mem) : Memory.wf (s.freshRange pa size).mem :=
  foldl_wf (fun _ x ht => State.writeBack_wf x ht) _ hm

/-! ## Translate (Sys2Proof/Machine/Translate.lean) -/

@[simp] theorem State.askFill_mem (s : State) (f : PageFill) : (s.askFill f).mem = s.mem := by
  simp [State.askFill]

/-! ## Levain (Sys2Proof/Machine/Levain.lean) -/

@[simp] theorem State.claim_mem (s : State) (world pa size : Nat) : (s.claim world pa size).mem = s.mem := by
  simp [State.claim]

theorem State.takeFrame_wf {s : State} (d world size align : Nat) (hm : Memory.wf s.mem) :
    ∀ r ∈ s.takeFrame d world size align, Memory.wf r.2.mem := by
  unfold State.takeFrame
  split
  · simp [hm]
  · split <;> simp [hm]

@[simp] theorem State.zero_wf {s : State} (pa size : Nat) (hm : Memory.wf s.mem) : Memory.wf (s.zero pa size).mem :=
  Memory.wf_filter _ _ hm

@[simp] theorem State.takeLevain_wf {s : State} (size align : Nat) (hm : Memory.wf s.mem) : Memory.wf (s.takeLevain size align).2.mem := by
  simp [State.takeLevain, hm]

@[simp] theorem writeEntry_wf {s : State} (a : Nat) (e : DWord) (hm : Memory.wf s.mem) : Memory.wf (writeEntry s a e).mem :=
  Memory.wf_write _ _ _ hm

theorem mapFrom_wf (va leaf : Nat) (e : DWord) (fuel level table : Nat) {s : State} (hm : Memory.wf s.mem) :
    Memory.wf (mapFrom va leaf e fuel level table s).mem := by
  induction fuel generalizing level table s with
  | zero => exact hm
  | succ fuel ih =>
    simp only [mapFrom]
    repeat' split
    · exact writeEntry_wf _ _ hm
    · exact ih _ _ hm
    · exact hm
    · exact ih _ _ (writeEntry_wf _ _ (State.takeLevain_wf _ _ hm))

@[simp] theorem State.mapPage_wf {s : State} (ctx va size : Nat) (e : DWord) (hm : Memory.wf s.mem) :
    Memory.wf (s.mapPage ctx va size e).mem :=
  mapFrom_wf _ _ _ _ _ _ hm

theorem unmapFrom_wf (va fuel level table : Nat) {s : State} (hm : Memory.wf s.mem) :
    Memory.wf (unmapFrom va fuel level table s).mem := by
  induction fuel generalizing level table s with
  | zero => exact hm
  | succ fuel ih =>
    simp only [unmapFrom]
    repeat' split
    · exact hm
    · exact writeEntry_wf _ _ hm
    · exact ih _ _ hm

@[simp] theorem State.unmapPage_wf {s : State} (ctx va : Nat) (hm : Memory.wf s.mem) : Memory.wf (s.unmapPage ctx va).mem :=
  unmapFrom_wf _ _ _ _ hm

@[simp] theorem State.addRegion_mem (s : State) (ctx : Nat) (g : Region) : (s.addRegion ctx g).mem = s.mem := by
  simp [State.addRegion]

@[simp] theorem State.mapRange_wf {s : State} (ctx : Nat) (g : Region) (kind addr target : Nat) (hm : Memory.wf s.mem) :
    Memory.wf (s.mapRange ctx g kind addr target).mem :=
  foldl_wf (fun t va ht => State.mapPage_wf _ _ _ _ ht) _ (by simpa using hm)

@[simp] theorem State.startInval_mem (s : State) (ctx base : Nat) (size : Option Nat) : (s.startInval ctx base size).2.mem = s.mem := by
  simp [State.startInval]

/-! ## Operands (Sys2Proof/Machine/Operands.lean) -/

theorem eachLane_inForm {s : State} (g : Guard) (k : View → Nat → Lane × Events) (f : Focus) (hm : Memory.wf s.mem) :
    (eachLane g k s f).InForm := by
  simp [eachLane, hm]

theorem runLanes_inForm {s : State} (g : Guard) (use : List Nat) (k : View → Nat → Lane × Events) (hm : Memory.wf s.mem) :
    EndsInForm (runLanes g use s k) :=
  runWord_inForm use (fun _ f ht => eachLane_inForm g k f ht) hm

theorem runScalar_inForm {s : State} (g : Guard) (use : List Nat) (wide : Bool) (d : BitVec 9) (val : State → View → Nat → DWord)
    (hm : Memory.wf s.mem) : EndsInForm (runScalar g use s wide d val) := by
  refine runWord_inForm use (fun t f ht => ?_) hm
  split <;> simp [ht]

/-! ## Route (Sys2Proof/Machine/Route.lean) -/

@[simp] theorem State.dropFlits_mem (s : State) (what : FlitOf) : (s.dropFlits what).mem = s.mem := by
  simp [State.dropFlits]

@[simp] theorem State.keyFabric_mem (s : State) (w : Nat) : (s.keyFabric w).mem = s.mem := by
  simp [State.keyFabric]

@[simp] theorem State.drawVia_mem (s : State) (dst : Nat) : (s.drawVia dst).2.mem = s.mem := by
  simp [State.drawVia]

@[simp] theorem State.chooseVia_mem (s : State) (dst : Nat) : (s.chooseVia dst).2.mem = s.mem := by
  unfold State.chooseVia
  split
  · rfl
  · split <;> rename_i h <;> exact (congrArg (fun r => r.2.mem) h).symm.trans (State.drawVia_mem s dst)

/-! ## Access (Sys2Proof/Machine/Access.lean) -/

@[simp] theorem State.see_mem (s : State) (core ctx : Nat) (t : Seen) : (s.see core ctx t).mem = s.mem := by
  unfold State.see
  split <;> simp

/-- Each lane's step keeps the form, so the lanes one after the other do. -/
theorem memWord_inForm {s : State} (g : Guard) (ext : Bool) (gate : State → Focus → Nat → Option Wait)
    (chk : State → Focus → Nat → Chk) {go : Focus → State → Nat → Chk → State × Option Next}
    (hgo : ∀ (t : State) (f : Focus) (i : Nat) (c : Chk), Memory.wf t.mem → Memory.wf (go f t i c).1.mem)
    (f : Focus) (hm : Memory.wf s.mem) : (memWord g ext gate chk go s f).InForm := by
  refine .ite (.ok hm) (.ite (.trap _) ?_)
  dsimp only
  split
  · exact .trap _
  · refine foldl_keeps Eff.InForm _ (fun e c he => ?_) _ _ (.ok hm)
    split
    · have ht := Eff.inForm_ok.mp he
      split
      · simp [ht]
      · split
        · simp [ht]
        · exact .ok (hgo _ _ _ _ (by simp [ht]))
      · exact .ok (hgo _ _ _ _ ht)
    · exact he

@[simp] theorem State.takeSeq_mem (s : State) (dst world : Nat) : (s.takeSeq dst world).2.mem = s.mem := by
  unfold State.takeSeq
  split <;> simp

@[simp] theorem State.ontoLink_mem (s : State) (p : Packet) : (s.ontoLink p).mem = s.mem := by
  simp [State.ontoLink]

@[simp] theorem State.addPacket_mem (s : State) (p : Packet) : (s.addPacket p).mem = s.mem := by
  simp [State.addPacket]

@[simp] theorem State.launchReq_mem (s : State) (r : Req) : (s.launchReq r).mem = s.mem := by
  unfold State.launchReq
  dsimp only
  repeat' split
  all_goals simp

@[simp] theorem State.launchWaiting_mem (s : State) : (s.launchWaiting).mem = s.mem := by
  simp [State.launchWaiting]

@[simp] theorem State.send_mem (s : State) (f : Focus) (r : Req) : (s.send f r).mem = s.mem := by
  simp [State.send]

@[simp] theorem State.updCmd_mem (s : State) (id : Nat) (k : CopyCmd → CopyCmd) : (s.updCmd id k).mem = s.mem := by
  simp [State.updCmd]

@[simp] theorem State.enterPacket_mem (s : State) (p : Packet) : (s.enterPacket p).mem = s.mem := by
  unfold State.enterPacket
  split <;> simp

@[simp] theorem State.fillFlows_mem (s : State) : (s.fillFlows).mem = s.mem := by
  simp [State.fillFlows]

@[simp] theorem State.acked_mem (s : State) (r : Req) : (s.acked r).mem = s.mem := by
  simp [State.acked]

@[simp] theorem State.complete_mem (s : State) (r : Req) : (s.complete r).mem = s.mem := by
  simp [State.complete]

@[simp] theorem State.deliver_mem (s : State) (r : Req) (x : BitVec 512) (tag : Bool) : (s.deliver r x tag).mem = s.mem := by
  unfold State.deliver
  split <;> simp

@[simp] theorem State.reply_mem (s : State) (r : Req) : (s.reply r).mem = s.mem := by
  unfold State.reply
  dsimp only
  rw [State.complete_mem, State.modLane_mem, State.deliver_mem]
  split <;> simp

/-! ## Load store (Sys2Proof/Machine/LoadStore.lean) -/

@[simp] theorem putNow_mem (s : State) (f : Focus) (i : Nat) (dest : Dest) (x : Nat) : (putNow s f i dest x).mem = s.mem := by
  simp [putNow]

@[simp] theorem spRead_mem (m : MForm) (f : Focus) (s : State) (i : Nat) (p : Place) (n : Nat) : (spRead m f s i p n).mem = s.mem := by
  simp [spRead]

@[simp] theorem loadLane_mem (m : MForm) (size : Nat) (dest : Dest) (f : Focus) (s : State) (i : Nat) (c : Chk) :
    (loadLane m size dest f s i c).1.mem = s.mem := by
  unfold loadLane
  dsimp only
  repeat' split
  all_goals simp

theorem loadWord_inForm {s : State} (m : MForm) (off : BitVec 14) (size : Nat) (dest : Dest) (use : List Nat) (hm : Memory.wf s.mem) :
    EndsInForm (loadWord m off size dest use s) :=
  runWord_inForm _ (fun _ f ht => memWord_inForm _ _ _ _ (fun t f i c hu => by simp [hu]) f ht) hm

@[simp] theorem storeLane_wf (m : MForm) (kind : ReqKind) (size : Nat) (f : Focus) {s : State} (i : Nat) (c : Chk) (hm : Memory.wf s.mem) :
    Memory.wf (storeLane m kind size f s i c).1.mem := by
  unfold storeLane
  dsimp only
  repeat' split
  all_goals simp [hm]

theorem storeWord_inForm {s : State} (m : MForm) (off : BitVec 14) (size : Nat) (use : List Nat) (hm : Memory.wf s.mem) :
    EndsInForm (storeWord m off size use s) :=
  runWord_inForm _ (fun _ f ht => memWord_inForm _ _ _ _ (fun t f i c hu => by simp [hu]) f ht) hm

@[simp] theorem State.startFill_mem (s : State) (c d line : Nat) : (s.startFill c d line).mem = s.mem := by
  simp [State.startFill]

@[simp] theorem prefetchLane_mem (m : MForm) (off : BitVec 14) (f : Focus) (s : State) (i : Nat) :
    (prefetchLane m off f s i).mem = s.mem := by
  unfold prefetchLane
  split <;> simp

@[simp] theorem cwbLane_mem (m : MForm) (f : Focus) (s : State) (i : Nat) (c : Chk) : (cwbLane m f s i c).1.mem = s.mem := by
  unfold cwbLane
  split <;> simp

@[simp] theorem State.dropCode_mem (s : State) (cores : List Nat) (line : Nat) : (s.dropCode cores line).mem = s.mem := by
  simp [State.dropCode]

@[simp] theorem cinvLane_mem (m : MForm) (off : BitVec 14) (f : Focus) (s : State) (i : Nat) : (cinvLane m off f s i).mem = s.mem := by
  unfold cinvLane
  split <;> simp

/-! ## Atomics (Sys2Proof/Machine/Atomics.lean) -/

@[simp] theorem atomLane_wf (m : MForm) (op : AtomOp) (src : BitVec 9) (comb nr : Bool) (f : Focus) {s : State} (i : Nat) (c : Chk)
    (hm : Memory.wf s.mem) : Memory.wf (atomLane m op src comb nr f s i c).1.mem := by
  unfold atomLane
  dsimp only
  repeat' split
  all_goals simp [hm]

@[simp] theorem casLane_wf (m : MForm) (src : BitVec 9) (f : Focus) {s : State} (i : Nat) (c : Chk) (hm : Memory.wf s.mem) :
    Memory.wf (casLane m src f s i c).1.mem := by
  unfold casLane
  dsimp only
  repeat' split
  all_goals simp [hm]

@[simp] theorem fenceLane_mem (m : MForm) (f : Focus) (s : State) (i : Nat) : (fenceLane m f s i).mem = s.mem := by
  simp [fenceLane]

/-! ## Kneader (Sys2Proof/Machine/Kneader.lean) -/

@[simp] theorem sendK_mem (m : MForm) (kind : ReqKind) (size : Nat) (data cmp : Nat) (dest : Dest) (f : Focus) (s : State) (i : Nat) (c : Chk) :
    (sendK m kind size data cmp dest f s i c).1.mem = s.mem := by
  unfold sendK
  split <;> simp

@[simp] theorem kWrite_wf {s : State} (p : Place) (x n : Nat) (vec acc : VecD) (hm : Memory.wf s.mem) :
    Memory.wf (kWrite s p x n vec acc).1.mem := by
  simp [kWrite, hm]

@[simp] theorem kRefuse_wf {s : State} (p : Place) (acc : VecD) (hm : Memory.wf s.mem) : (kRefuse s p acc).InForm := by
  unfold kRefuse
  split <;> simp [hm]

theorem kenqAt_wf {s : State} (r : Req) (hm : Memory.wf s.mem) : (kenqAt s r).InForm := by
  unfold kenqAt
  dsimp only
  split
  · simp [hm]
  · simp
  · simp
  · split
    · simp [hm]
    · split
      · simp [hm]
      · simp
      · simp
      · exact .done (kWrite_wf _ _ _ _ _ (kWrite_wf _ _ _ _ _ (kWrite_wf _ _ _ _ _ (by simp [hm]))))

theorem kdeqAt_wf {s : State} (r : Req) (hm : Memory.wf s.mem) : (kdeqAt s r).InForm := by
  unfold kdeqAt
  dsimp only
  split
  · simp [hm]
  · split
    · simp [hm]
    · simp
    · simp
    · split <;> simp [hm]

theorem kcasAt_wf {s : State} (r : Req) (n : Nat) (hm : Memory.wf s.mem) : (kcasAt s r n).InForm := by
  unfold kcasAt
  dsimp only
  split <;> simp [hm]

/-- A walk reads alone. -/
theorem kchaseFrom_wf {s : State} (r : Req) (testKey : Bool) (left n node : Nat) (p k : Place) (acc : VecD) (hm : Memory.wf s.mem) :
    (kchaseFrom s r testKey left n node p k acc).InForm := by
  have hread {s : State} (p k : Place) (hm : Memory.wf s.mem) :
      Memory.wf ((s.readLoss r.ctx p 16).readLoss r.ctx k (if testKey then 8 else 0)).mem := by simp [hm]
  induction left generalizing s n node p k acc with
  | zero =>
    have hl := hread p k hm
    exact .ite (.done hl) (.ite (.done hl) (.ite (.done hl) (.done hl)))
  | succ left ih =>
    have hl := hread p k hm
    refine .ite (.done hl) (.ite (.done hl) (.ite (.done hl) ?_))
    split
    · exact .done hl
    · exact .fill _
    · exact .held _
    · split
      · exact .done hl
      · exact .fill _
      · exact .held _
      · exact ih _ _ _ _ _ hl

theorem kneadAt_wf {s : State} (r : Req) (hm : Memory.wf s.mem) : (kneadAt s r).InForm := by
  unfold kneadAt
  split
  · exact kcasAt_wf r _ hm
  · exact kenqAt_wf r hm
  · exact kdeqAt_wf r hm
  · dsimp only
    split <;> simp [kchaseFrom_wf, hm]
  · exact .done hm

/-! ## Perform (Sys2Proof/Machine/Perform.lean) -/

@[simp] theorem performAt_wf {s : State} (r : Req) (hm : Memory.wf s.mem) : Memory.wf (performAt s r).s.mem := by
  unfold performAt
  dsimp only
  repeat' split
  all_goals simp [hm]

@[simp] theorem State.markPerformed_mem (s : State) (id : Nat) (reply : Nat) (tag : Bool) (raises : VecD) :
    (s.markPerformed id reply tag raises).mem = s.mem := by
  simp [State.markPerformed]

@[simp] theorem State.keepDup_mem (s : State) (r : Req) (old : Nat) : (s.keepDup r old).mem = s.mem := by
  unfold State.keepDup
  split <;> simp

@[simp] theorem State.performReq_wf {s : State} (r : Req) (hm : Memory.wf s.mem) : Memory.wf (s.performReq r).mem := by
  unfold State.performReq
  split <;> simp [hm]

@[simp] theorem State.beginWriteBack_mem (s : State) (line : Nat) : (s.beginWriteBack line).mem = s.mem := by
  simp [State.beginWriteBack]

@[simp] theorem State.flush_wf {s : State} (p : Place) (n : Nat) (hm : Memory.wf s.mem) : Memory.wf (s.flush p n).mem := by
  unfold State.flush
  split
  · split
    · exact hm
    · refine foldl_wf (fun t l ht => ?_) _ hm
      split <;> simp [ht]
  · exact hm

@[simp] theorem State.refuseReq_mem (s : State) (r : Req) (p : Port) : (s.refuseReq r p).mem = s.mem := by
  unfold State.refuseReq
  split <;> simp

theorem portStop_mem (s : State) (f : Focus) (ps : List Place) : ∀ t ∈ portStop s f ps, t.mem = s.mem := by
  intro t ht
  obtain ⟨p, -, hp⟩ := List.exists_of_findSome?_eq_some ht
  split at hp
  · cases hp
    simp
  · cases hp

theorem State.performFar_wf {s : State} (r : Req) (hm : Memory.wf s.mem) : ∀ t ∈ s.performFar r, Memory.wf t.mem := by
  unfold State.performFar
  split
  · have hk := kneadAt_wf r hm
    split <;> simp_all
  · simp [hm]

theorem State.replyIn_wf {s : State} (r : Req) (hm : Memory.wf s.mem) : ∀ t ∈ s.replyIn r, Memory.wf t.mem := by
  unfold State.replyIn
  split
  · split <;> simp [hm]
  · split
    · simp [hm]
    · split
      · split
        · next u hu =>
          have hw := State.performFar_wf r hm u hu
          split
          · simp [hw]
          · simp [hw]
        · simp
      · simp

/-! ## Counter (Sys2Proof/Machine/Counter.lean) -/

@[simp] theorem counterWrite_mem (x : FForm) (rel : Bool) (kind : ReqKind) (stage : Nat) (f : Focus) (s : State) (i : Nat) (c : Chk) :
    (counterWrite x rel kind stage f s i c).1.mem = s.mem := by
  unfold counterWrite
  split <;> simp

@[simp] theorem counterRead_mem (acq : Bool) (dest : Dest) (next : Option Next) (f : Focus) (s : State) (i : Nat) (c : Chk) :
    (counterRead acq dest next f s i c).1.mem = s.mem := by
  unfold counterRead
  split <;> simp

@[simp] theorem cnwaitLane_wf (x : FForm) (acq : Bool) (f : Focus) {s : State} (i : Nat) (c : Chk) (hm : Memory.wf s.mem) :
    Memory.wf (cnwaitLane x acq f s i c).1.mem := by
  unfold cnwaitLane
  dsimp only
  repeat' split
  all_goals simp [hm]

@[simp] theorem State.arm_wf {s : State} (ctx : Nat) (p : Place) (threshold : Nat) (r : BitVec 512) (vec : VecD) (hm : Memory.wf s.mem) :
    Memory.wf (s.arm ctx p threshold r vec).1.mem := by
  unfold State.arm
  dsimp only
  repeat' split
  all_goals simp [hm]

@[simp] theorem trigLane_wf (x : FForm) (f : Focus) {s : State} (i : Nat) (c : Chk) (hm : Memory.wf s.mem) :
    Memory.wf (trigLane x f s i c).1.mem := by
  simp only [trigLane]
  split <;> simp [hm]

/-! ## Station (Sys2Proof/Machine/Station.lean) -/

theorem combineArrive_mem (s : State) (r : Req) : ∀ t ∈ combineArrive s r, t.mem = s.mem := by
  unfold combineArrive
  split <;> simp

@[simp] theorem State.forwardEntry_mem (s : State) (k : Nat) (e : StEntry) : (s.forwardEntry k e).mem = s.mem := by
  unfold State.forwardEntry
  dsimp only
  repeat' split
  all_goals simp

@[simp] theorem State.splitReply_mem (s : State) (k : Nat) (e : StEntry) : (s.splitReply k e).mem = s.mem := by
  refine (foldl_mem (fun t l => ?_) _ _).trans (State.setStation_mem s k _)
  split
  · split <;> simp
  · rfl

/-! ## Engine (Sys2Proof/Machine/Engine.lean) -/

@[simp] theorem State.engineBreach_mem (s : State) (w : Agent) (kind : Nat) : (s.engineBreach w kind).mem = s.mem := by
  simp [State.engineBreach]

theorem State.engineAt_cases {α : Type} (s : State) (w : Agent) (p : Place) (stop go : State → α) :
    s.engineAt w p stop go = go s ∨ ∃ t : State, t.mem = s.mem ∧ s.engineAt w p stop go = stop t := by
  unfold State.engineAt
  split
  · exact .inr ⟨_, State.engineBreach_mem s w _, rfl⟩
  · exact .inr ⟨_, State.countViolation_mem s _, rfl⟩
  · split
    · exact .inr ⟨_, State.loseData_mem s _, rfl⟩
    · exact .inl rfl

/-- An engine's access goes on, or is stopped with nothing written. -/
theorem State.engineAt_keeps {α : Type} {P : α → Prop} {s : State} (w : Agent) (p : Place) {stop go : State → α}
    (hs : ∀ t : State, Memory.wf t.mem → P (stop t)) (hg : P (go s)) (hm : Memory.wf s.mem) : P (s.engineAt w p stop go) := by
  rcases s.engineAt_cases w p stop go with h | ⟨t, ht, h⟩
  · rwa [h]
  · rw [h]
    exact hs t (ht ▸ hm)

@[simp] theorem State.flushLoc_wf {s : State} (w : Agent) (l : Loc) (len : Nat) (hm : Memory.wf s.mem) :
    Memory.wf (s.flushLoc w l len).mem := by
  refine foldl_wf (fun t x ht => ?_) _ hm
  split
  · exact State.engineAt_keeps (P := fun u : State => Memory.wf u.mem = true) w _ (fun u hu => hu) (by simp [ht]) ht
  · exact ht

@[simp] theorem State.writeLoc_wf {s : State} (w : Agent) (l : Loc) (bytes : List Byte) (vec : VecD) (hm : Memory.wf s.mem) :
    Memory.wf (s.writeLoc w l bytes vec).1.mem := by
  refine foldl_fst_wf (fun t x ht => ?_) _ hm
  split
  · exact State.engineAt_keeps (P := fun u : State × VecD => Memory.wf u.1.mem = true) w _ (fun u hu => hu) (by simp [ht]) ht
  · exact ht

@[simp] theorem State.queueCmd_mem (s : State) (core die ctx : Nat) (blk : Option Nat) (owner : Option (Nat × Nat × Nat)) (inst : Option Nat)
    (c : CmdArgs) (vec : VecD) (after : List Nat) (rel : Bool) :
    (s.queueCmd core die ctx blk owner inst c vec after rel).mem = s.mem := by
  simp [State.queueCmd]

theorem issueInTurn_mem {room : State → Nat → Bool} {put : State → Nat → State} (hp : ∀ (t : State) (i : Nat), (put t i).mem = t.mem)
    (f : Focus) (s : State) (is : List Nat) : (issueInTurn room put f s is).1.mem = s.mem := by
  induction is generalizing s with
  | nil => rfl
  | cons i is ih =>
    unfold issueInTurn
    split
    · rw [ih, hp]
    · rfl

theorem engineWord_inForm {s : State} (g : Guard) (one : Bool) (args : State → View → CmdArgs) (f : Focus) (hm : Memory.wf s.mem) :
    (engineWord g one args s f).InForm := by
  refine .ite (.ok hm) (.ite (.trap _) ?_)
  split
  · exact .ok hm
  · dsimp only
    split
    · exact .trap _
    · split
      · simp [hm]
      · rw [Eff.inForm_ok, issueInTurn_mem]
        · exact hm
        · simp

@[simp] theorem sendMessage_mem (s : State) (c : CopyCmd) (kind : ReqKind) (dev raddr len : Nat) (bytes : List Byte) (arrival : Word) (msg : Nat) :
    (sendMessage s c kind dev raddr len bytes arrival msg).mem = s.mem := by
  simp [sendMessage]

@[simp] theorem State.countFault_mem (s : State) (c : Nat) : (s.countFault c).mem = s.mem := by
  simp [State.countFault]

@[simp] theorem State.actionFault_mem (s : State) (ctx cause sub : Nat) (addr : DWord) :
    (s.actionFault ctx cause sub addr).mem = s.mem := by
  simp [State.actionFault]

@[simp] theorem State.removeCmd_mem (s : State) (id : Nat) : (s.removeCmd id).mem = s.mem := by
  simp [State.removeCmd]

/-- A command that names ranges waits, asks for a page, ends with a fault, or goes on. -/
theorem State.rangesThere_keeps {α : Type} {P : α → Prop} {s : State} (w : Agent) (rs : List (Loc × Nat × Need)) {fill : State → α}
    {fault : Trap → State → α} {go : State → α} (hf : ∀ t : State, t.mem = s.mem → P (fill t)) (ht : ∀ t, P (fault t s)) (hg : P (go s)) :
    ∀ x ∈ s.rangesThere w rs fill fault go, P x := by
  unfold State.rangesThere
  repeat' split
  all_goals simp [hf, ht, hg]

theorem State.whenThere_wf {s : State} (c : CopyCmd) (rs : List (Loc × Nat × Need)) {go : State → Option State}
    (hg : ∀ t ∈ go s, Memory.wf t.mem) (hm : Memory.wf s.mem) : ∀ t ∈ s.whenThere c rs go, Memory.wf t.mem := by
  intro t ht
  have ho : some t ∈ s.rangesThere c.who rs some (fun x u => some ((u.actionFault c.ctx x.cause x.sub x.addr).removeCmd c.id)) go :=
    Option.join_eq_some_iff.mp ht
  exact State.rangesThere_keeps (P := fun o => ∀ t ∈ o, Memory.wf t.mem = true) c.who rs (fun u hu => by simp [hu, hm]) (by simp [hm]) hg
    _ ho t rfl

@[simp] theorem sendAtomic_mem (s : State) (c : CopyCmd) (op : AtomOp) (ty : Ty) (comb : Bool) (x : BitVec 64) :
    (sendAtomic s c op ty comb x).mem = s.mem := by
  simp [sendAtomic]

theorem startCmd_wf {s : State} (c : CopyCmd) (hm : Memory.wf s.mem) : ∀ t ∈ startCmd s c, Memory.wf t.mem := by
  unfold startCmd
  dsimp only
  split
  · simp [hm]
  · simp [hm]
  · exact State.whenThere_wf c _ (by simp [hm]) hm
  · simp [hm]
  · simp [hm]

theorem sendEntry_wf {s : State} (c : CopyCmd) (hm : Memory.wf s.mem) : ∀ t ∈ sendEntry s c, Memory.wf t.mem := by
  unfold sendEntry
  refine State.whenThere_wf c _ ?_ hm
  dsimp only
  repeat' split
  all_goals simp [hm]

@[simp] theorem State.voidMessage_mem (s : State) (c : CopyCmd) (msg : Nat) : (s.voidMessage c msg).mem = s.mem := by
  simp [State.voidMessage]

@[simp] theorem remoteFaultOf_mem (s : State) (c : CopyCmd) (msg : Nat) : (remoteFaultOf s c msg).mem = s.mem := by
  unfold remoteFaultOf
  split <;> simp

@[simp] theorem State.loseReq_mem (s : State) (id : Nat) : (s.loseReq id).mem = s.mem := by
  simp [State.loseReq]

@[simp] theorem State.packetGone_mem (s : State) (id : Nat) : (s.packetGone id).mem = s.mem := by
  simp [State.packetGone]

@[simp] theorem State.packetBack_mem (s : State) (cmd id : Nat) : (s.packetBack cmd id).mem = s.mem := by
  simp [State.packetBack]

@[simp] theorem State.refuseLeaf_mem (s : State) (l : Leaf) : (s.refuseLeaf l).mem = s.mem := by
  unfold State.refuseLeaf
  split
  · split <;> simp
  · simp

theorem arriveAt_mem (s : State) (peer : Nat) (arrival : Word) (vec : VecD) : ∀ t ∈ arriveAt s peer arrival vec, t.mem = s.mem := by
  unfold arriveAt
  dsimp only
  split <;> simp

@[simp] theorem commandAtomic_wf {s : State} (c : CopyCmd) (op : AtomOp) (ty : Ty) (x : BitVec 64) (q : Place) (hm : Memory.wf s.mem) :
    Memory.wf (commandAtomic s c op ty x q).mem := by
  refine State.engineAt_keeps (P := fun u : State => Memory.wf u.mem = true) c.who q (fun u hu => hu) ?_ hm
  dsimp only
  split <;> simp [hm]

@[simp] theorem packetEffect_wf {s : State} (c : CopyCmd) (p : Packet) (hm : Memory.wf s.mem) : Memory.wf (packetEffect s c p).mem := by
  unfold packetEffect
  dsimp only
  split
  · simp [hm]
  · exact getD_wf (map_wf (fun q _ => commandAtomic_wf c _ _ _ q hm)) hm
  · simp [hm]

@[simp] theorem performLeaf_wf {s : State} (e : Packet) (l : Leaf) (hm : Memory.wf s.mem) : Memory.wf (performLeaf s e l).mem := by
  unfold performLeaf
  repeat' split
  all_goals simp [hm]

theorem networkArrive_wf {s : State} (p : Packet) (hm : Memory.wf s.mem) : ∀ t ∈ networkArrive s p, Memory.wf t.mem := by
  have hl : ∀ ls : List Leaf, Memory.wf (ls.foldl (fun s l => performLeaf s p l) (s.packetGone p.id)).mem := fun ls =>
    foldl_wf (fun t l ht => performLeaf_wf p l ht) ls (by simp [hm])
  have ha : ∀ (t : State) c v, Memory.wf t.mem → Memory.wf ((arriveAt t c p.arrival v).getD (t.countFault c)).mem := fun t c v ht =>
    getD_wf (fun u hu => by rw [arriveAt_mem t c _ v u hu]; exact ht) (by simp [ht])
  unfold networkArrive
  dsimp only
  repeat' split
  all_goals simp [hm, hl, ha]

@[simp] theorem raiseCounter_wf {s : State} (w : Agent) (ctr : Option Nat) (vec : VecD) (hm : Memory.wf s.mem) :
    Memory.wf (raiseCounter s w ctr vec).1.mem := by
  unfold raiseCounter
  split
  · exact hm
  · split
    · exact hm
    · exact State.engineAt_keeps (P := fun u : State × VecD => Memory.wf u.1.mem = true) w _ (fun u hu => hu) (by simp [hm]) hm

@[simp] theorem finishCmd_wf {s : State} (c : CopyCmd) (made : VecD) (hm : Memory.wf s.mem) : Memory.wf (finishCmd s c made).mem := by
  simp only [finishCmd]
  split <;> simp [hm]

theorem completeCmd_wf {s : State} (c : CopyCmd) (hm : Memory.wf s.mem) : ∀ t ∈ completeCmd s c, Memory.wf t.mem := by
  unfold completeCmd
  split
  · simp
  · refine State.whenThere_wf c _ ?_ hm
    dsimp only
    split
    · simpa using finishCmd_wf c _ (State.writeLoc_wf _ _ _ _ (State.flushLoc_wf _ _ _ hm))
    · simp [hm]
    · simp [hm]
    · simp [hm]

/-! ## Events memory (Sys2Proof/Machine/EventsMemory.lean) -/

theorem eventOpt_inForm {s : State} {t : Option State} (ht : ∀ u ∈ t, Memory.wf u.mem) (hm : Memory.wf s.mem) :
    EndsInForm (eventOpt s t) :=
  .next (getD_wf ht hm)

@[simp] theorem State.performAll_wf {s : State} (x : StEntry) (hm : Memory.wf s.mem) : Memory.wf (s.performAll x).mem := by
  refine foldl_wf (fun t l ht => ?_) _ hm
  repeat' split
  all_goals simp [ht]

theorem homeSlice_wf {s : State} (r : Req) (hm : Memory.wf s.mem) : ∀ t ∈ homeSlice s r, Memory.wf t.mem := by
  unfold homeSlice
  dsimp only
  repeat' split
  all_goals simp [hm]

@[simp] theorem State.performHeld_wf {s : State} (r : Req) (pa : Nat) (hm : Memory.wf s.mem) : Memory.wf (s.performHeld r pa).mem := by
  unfold State.performHeld
  dsimp only
  split <;> simp [hm, Memory.wf_write]

theorem clusterAtomic_wf {s : State} (r : Req) (hm : Memory.wf s.mem) : ∀ t ∈ clusterAtomic s r, Memory.wf t.mem := by
  unfold clusterAtomic
  dsimp only
  repeat' split
  all_goals simp [hm]

theorem kneadPacket_wf {s : State} (r : Req) (hm : Memory.wf s.mem) : ∀ t ∈ kneadPacket s r, Memory.wf t.mem := by
  have hk := kneadAt_wf r hm
  unfold kneadPacket
  dsimp only
  repeat' split
  all_goals simp_all

/-! ## Fetch (Sys2Proof/Machine/Fetch.lean) -/

@[simp] theorem State.fillLine_mem (s : State) (core line : Nat) (words : List DWord) : (s.fillLine core line words).mem = s.mem := by
  simp only [State.fillLine]
  split <;> simp

@[simp] theorem fetchWord_mem (s : State) (core ctx pa : Nat) : (fetchWord s core ctx pa).1.mem = s.mem := by
  unfold fetchWord
  dsimp only
  repeat' split
  all_goals simp

@[simp] theorem State.loopFetch_mem (s : State) (f : Focus) (core pa : Nat) (i : Instr) : (s.loopFetch f core pa i).mem = s.mem := by
  unfold State.loopFetch
  dsimp only
  repeat' split
  all_goals simp

theorem fetch_inForm {s : State} (c : Candidate) (hm : Memory.wf s.mem) : (fetch s c).InForm := by
  unfold fetch
  dsimp only
  split
  · exact .none hm
  · split
    · exact .none hm
    · split
      · exact .none (by simp [hm])
      · exact .none (by simp [hm])
      · split
        · exact .none (by simp [hm])
        · exact .word _ (by simp [hm])
      · exact .none (by simp [hm])

/-! ## Control (Sys2Proof/Machine/Control.lean) -/

@[simp] theorem State.discardLoads_mem (s : State) (b g l : Nat) : (s.discardLoads b g l).mem = s.mem := by
  simp [State.discardLoads]

@[simp] theorem retireLanes_mem (s : State) (f : Focus) (ls : List Nat) : (retireLanes s f ls).mem = s.mem := by
  simp [retireLanes]

@[simp] theorem State.freeDrained_mem (s : State) (blk : Nat) : (s.freeDrained blk).mem = s.mem := by
  simp [State.freeDrained]

@[simp] theorem State.rejoinDeadlock_mem (s : State) (blk grp : Nat) : (s.rejoinDeadlock blk grp).mem = s.mem := by
  unfold State.rejoinDeadlock
  dsimp only
  repeat' split
  all_goals simp

theorem thenDeadlock_inForm (s : State) {o : Host.Outcome State Fault Refusal} (ho : EndsInForm o) : EndsInForm (thenDeadlock s o) := by
  unfold thenDeadlock
  split
  · exact .next (by simp [endsInForm_next.mp ho])
  · exact ho

theorem branch_inForm {s : State} (f : Focus) (ts : List (Nat × Nat)) (hm : Memory.wf s.mem) : (branch s f ts).InForm :=
  .ite (.ok hm) (.trapNow _)

theorem stackWord_inForm {s : State} (g : Guard) (chk : State → Focus → Nat → Chk) (gate : State → Focus → Nat → Option Wait)
    {go : Focus → State → Nat → Chk → State × Option Next}
    (hgo : ∀ (t : State) (f : Focus) (i : Nat) (c : Chk), Memory.wf t.mem → Memory.wf (go f t i c).1.mem)
    (f : Focus) (hm : Memory.wf s.mem) : (stackWord g chk gate go s f).InForm := by
  unfold stackWord
  split
  · exact .trapNow _
  · exact memWord_inForm g _ _ _ hgo f hm

@[simp] theorem spill_wf (f : Focus) {s : State} (i : Nat) (p : Place) (hm : Memory.wf s.mem) : Memory.wf (spill f s i p).mem := by
  simp [spill, hm]

@[simp] theorem pushLane_wf (ts : List (Nat × Nat)) (f : Focus) {s : State} (i : Nat) (c : Chk) (hm : Memory.wf s.mem) :
    Memory.wf (pushLane ts f s i c).1.mem := by
  unfold pushLane
  split <;> simp [hm]

theorem callTo_inForm {s : State} (g : Guard) (ts : List (Nat × Nat)) (f : Focus) (hm : Memory.wf s.mem) : (callTo g ts s f).InForm := by
  have hs : (stackWord g pushCheck (stackGate pushCheck) (pushLane ts) s f).InForm :=
    stackWord_inForm g _ _ (fun t f i c ht => pushLane_wf ts f i c ht) f hm
  refine .ite (.trapNow _) ?_
  split
  · next h =>
    rw [h] at hs
    split
    · next hp => exact .stop (portStop_mem s f _ _ hp ▸ hm)
    · exact hs
  · exact hs

@[simp] theorem popLane_wf (f : Focus) {s : State} (i : Nat) (c : Chk) (hm : Memory.wf s.mem) : Memory.wf (popLane f s i c).1.mem := by
  unfold popLane
  dsimp only
  repeat' split
  all_goals simp [hm]

theorem eachNext_inForm {s : State} (g : Guard) (k : View → Lane × Next) (f : Focus) (hm : Memory.wf s.mem) :
    (eachNext g k s f).InForm := by
  simp [eachNext, hm]

@[simp] theorem State.setShare_mem (s : State) (k : Kern) (blk share a : Nat) : (s.setShare k blk share a).mem = s.mem := by
  simp [State.setShare]

theorem thenRegDeadlock_inForm (s : State) {o : Host.Outcome State Fault Refusal} (ho : EndsInForm o) :
    EndsInForm (thenRegDeadlock s o) := by
  unfold thenRegDeadlock
  split
  · exact .next (by simp [endsInForm_next.mp ho])
  · exact ho

/-! ## Cross (Sys2Proof/Machine/Cross.lean) -/

theorem joinExec_inForm {s : State} (f : Focus) (i : Instr) (ms : List Member) (first : List Nat) (shuffle : Bool) (hm : Memory.wf s.mem) :
    (joinExec s f i ms first shuffle).InForm := by
  simp [joinExec, hm]

theorem reduceWord_inForm {s : State} (scan excl : Bool) (x : FForm) (m : CMods) (op : RedOp) (pk : Pack) (hm : Memory.wf s.mem) :
    EndsInForm (reduceWord scan excl x m op pk s) := by
  refine runWord_inForm _ (fun t f ht => ?_) hm
  exact .ite (.ok ht) (.ok (by simp [ht]))

/-! ## Tile (Sys2Proof/Machine/Tile.lean) -/

@[simp] theorem queueTile_mem (s : State) (f : Focus) (c : TileCmd) : (queueTile s f c).mem = s.mem := by
  simp [queueTile]

theorem tileWord_inForm {s : State} (kind : TileKind) (t : TForm) (f : Focus) (hm : Memory.wf s.mem) : (tileWord kind t s f).InForm := by
  unfold tileWord
  split
  · exact .ok hm
  · refine .ite (.trap _) ?_
    dsimp only
    split
    · exact .ok hm
    · refine .ite (.ok hm) ?_
      split
      · exact .trap _
      · exact .ok (by simp [hm])
      · exact .ite (.trap _) (.ite (.ok (by simp [hm])) (.ok hm))

/-! ## Tile engine (Sys2Proof/Machine/TileEngine.lean) -/

@[simp] theorem performTile_wf {s : State} (core : Nat) (c : TileCmd) (hm : Memory.wf s.mem) : Memory.wf (performTile s core c).mem := by
  unfold performTile
  dsimp only
  rw [State.modCore_mem]
  split
  all_goals simp only [countEvents_mem, State.modBlock_mem, State.modCore_mem, State.flushLoc_wf, State.writeLoc_wf, hm]

@[simp] theorem State.removeTile_mem (s : State) (core : Nat) (c : TileCmd) (vec : VecD) : (s.removeTile core c vec).mem = s.mem := by
  simp [State.removeTile]

theorem State.tileThere_wf {s : State} (core : Nat) (c : TileCmd) (rs : List (Loc × Nat × Need)) {go : State → State}
    (hg : Memory.wf (go s).mem) (hm : Memory.wf s.mem) : ∀ t ∈ s.tileThere core c rs go, Memory.wf t.mem :=
  State.rangesThere_keeps _ rs (fun u hu => by simp [hu, hm]) (by simp [hm]) hg

@[simp] theorem finishTile_wf {s : State} (core : Nat) (c : TileCmd) (hm : Memory.wf s.mem) : Memory.wf (finishTile s core c).mem := by
  simp [finishTile, hm]

/-! ## Hyper (Sys2Proof/Machine/Hyper.lean) -/

theorem hyperWord_inForm {s : State} (g : Guard) (hs use : List Nat) {act : State → Focus → Nat → Eff}
    (ha : ∀ (t : State) (f : Focus) (i : Nat), Memory.wf t.mem → (act t f i).InForm) (f : Focus) (hm : Memory.wf s.mem) :
    (hyperWord g hs use act s f).InForm := by
  unfold hyperWord
  split
  · exact .ok hm
  · exact .ite (ha _ _ _ hm) (.ok hm)

theorem runHyper_inForm {s : State} (g : Guard) (hs use : List Nat) {act : State → Focus → Nat → Eff}
    (ha : ∀ (t : State) (f : Focus) (i : Nat), Memory.wf t.mem → (act t f i).InForm) (hm : Memory.wf s.mem) :
    EndsInForm (runHyper g hs use s act) :=
  runWord_inForm _ (fun _ f ht => hyperWord_inForm g hs use ha f ht) hm

theorem writesHv_inForm {s : State} (x : FForm) (hs use : List Nat) (val : State → Focus → Nat → HVec) (hm : Memory.wf s.mem) :
    EndsInForm (writesHv x hs use s val) :=
  runHyper_inForm _ _ _ (fun t f i ht => by simp [ht]) hm

@[simp] theorem imageReqs_mem (f : Focus) (i h : Nat) (store : Bool) (p : Place) (s : State) (mk : Req → Req) :
    (imageReqs f i h store p s mk).mem = s.mem :=
  foldl_mem (fun _ _ => State.send_mem ..) _ s

@[simp] theorem moveImage_wf (m : MForm) (h : Nat) (store : Bool) (f : Focus) {s : State} (i : Nat) (p : Place) (hm : Memory.wf s.mem) :
    Memory.wf (moveImage m h store f s i p).mem := by
  unfold moveImage
  dsimp only
  split
  · split
    · simp [hm]
    · rw [State.onGroup_mem]
      simp [hm]
  · split <;> simp [hm]

theorem imageWord_inForm {s : State} (m : MForm) (use : List Nat) (off : View → Int) (store : Bool) (hm : Memory.wf s.mem) :
    EndsInForm (imageWord m use off store s) := by
  refine runHyper_inForm _ _ _ (fun t f i ht => .ite (.trap _) ?_) hm
  split
  · exact .ok ht
  · split
    · exact .trap _
    · exact .ok (by simp [ht])
    · exact .ite (.ok (by simp [ht])) (.ok ht)
    · exact .ok ht

theorem hmatchWord_inForm {s : State} (x : FForm) (q : BitVec 4) (sp : Bool) (f : Focus) (i : Nat) (hm : Memory.wf s.mem) :
    (hmatchWord x q sp s f i).InForm := by
  refine .ite (.trap _) (.ite (.ok (by simp [hm])) ?_)
  split
  · exact .ok hm
  · split
    · exact .trap _
    · exact .ok (by simp [hm])
    · exact .ok (by simp [hm])

@[simp] theorem lunaGranule_wf {s : State} (core : Nat) (j : LunaJob) (p : Place) (hm : Memory.wf s.mem) :
    Memory.wf (lunaGranule s core j p).1.mem := by
  simp only [lunaGranule]
  split <;> simp [hm]

@[simp] theorem State.modLuna_mem (s : State) (core : Nat) (j : LunaJob) : (s.modLuna core j).mem = s.mem := by
  simp [State.modLuna]

@[simp] theorem State.lunaFault_mem (s : State) (core : Nat) (j : LunaJob) (sub : Nat) : (s.lunaFault core j sub).mem = s.mem := by
  simp [State.lunaFault]

theorem lunaStep_wf {s : State} (core : Nat) (hm : Memory.wf s.mem) : Memory.wf (lunaStep s core).mem := by
  unfold lunaStep
  split
  · exact hm
  · split
    · exact hm
    · split
      · split <;> simp [hm]
      · simp [hm]
      · split
        · exact hm
        · exact State.engineAt_keeps (P := fun u : State => Memory.wf u.mem) _ _ (fun u hu => by simp [hu]) (by simp [hm]) hm

@[simp] theorem lunaCycle_wf {s : State} (core : Nat) (hm : Memory.wf s.mem) : Memory.wf (lunaCycle s core).mem :=
  foldl_wf (fun _ _ ht => lunaStep_wf core ht) _ hm

@[simp] theorem finishLuna_mem (s : State) (core : Nat) (j : LunaJob) : (finishLuna s core j).mem = s.mem := by
  simp [finishLuna]

/-! ## Barrier (Sys2Proof/Machine/Barrier.lean) -/

@[simp] theorem State.putRecord_mem (s : State) (t : Nat × Nat) (r : BRec) (h : Hidden) : (s.putRecord t r h).mem = s.mem := by
  simp [State.putRecord]

theorem barrierWord_inForm {s : State} (g : Guard) (rsp ext rel : Bool) (a : Src) (kind : AccKind)
    {act : State → Focus → List Nat → View → Nat × Nat → Eff}
    (ha : ∀ (t : State) (f : Focus) (ls : List Nat) (v : View) (p : Nat × Nat), Memory.wf t.mem → (act t f ls v p).InForm)
    (f : Focus) (hm : Memory.wf s.mem) : (barrierWord g rsp ext rel a kind act s f).InForm := by
  unfold barrierWord
  dsimp only
  split
  · exact .ok hm
  · refine .ite (.trap _) ?_
    split
    · exact .ok hm
    · split
      · exact .trap _
      · exact .ite (.ok hm) (ha _ _ _ _ _ (by simp [hm]))

@[simp] theorem State.passWaiters_mem (s : State) (t : Nat × Nat) : (s.passWaiters t).mem = s.mem := by
  simp [State.passWaiters]

@[simp] theorem State.trapWaiters_mem (s : State) (t : Nat × Nat) : (s.trapWaiters t).mem = s.mem := by
  simp [State.trapWaiters]

theorem arriveOn_inForm {s : State} (f : Focus) (ls : List Nat) (a : DWord) (t : Nat × Nat) (p w : Nat) (hm : Memory.wf s.mem) :
    (arriveOn s f ls a t p w).InForm :=
  .ite (.trap _) (.ite (.trap _) (.ite (.trap _) (.ok (by simp [hm]))))

@[simp] theorem barrierAcquire_mem (rlx : Bool) (s : State) (f : Focus) (ls : List Nat) (t : Nat × Nat) :
    (barrierAcquire rlx s f ls t).mem = s.mem := by
  simp [barrierAcquire]

/-! ## Launch (Sys2Proof/Machine/Launch.lean) -/

theorem State.enqueue_mem (s : State) (e : Enqueue) : ∀ r ∈ s.enqueue e, r.1.mem = s.mem := by
  unfold State.enqueue
  split
  · simp
  · dsimp only
    split
    · simp
    · intro r hr
      obtain rfl := Option.some.inj hr
      dsimp only
      split <;> simp

@[simp] theorem startQueue_mem (s : State) (ids : List Nat) : (startQueue s ids).mem = s.mem := by
  simp [startQueue]

@[simp] theorem State.startInsts_mem (s : State) : (s.startInsts).mem = s.mem := by
  simp [State.startInsts]

@[simp] theorem newBlock_mem (s : State) (i index core : Nat) : (newBlock s i index core).2.mem = s.mem := by
  simp [newBlock]

@[simp] theorem spawnedBlock_mem (s : State) (core i target : Nat) (ts : List BinThread) :
    (spawnedBlock s core i target ts).2.mem = s.mem := by
  simp [spawnedBlock]

@[simp] theorem launchBin_mem (s : State) (core i target : Nat) (ts : List BinThread) : (launchBin s core i target ts).mem = s.mem := by
  simp [launchBin]

@[simp] theorem freeBlockStacks_mem (s : State) (b : Block) : (freeBlockStacks s b).mem = s.mem := by
  simp [freeBlockStacks]

/-! ## Action (Sys2Proof/Machine/Action.lean) -/

@[simp] theorem State.freeEntry_mem (s : State) (die idx : Nat) : (s.freeEntry die idx).mem = s.mem := by
  simp [State.freeEntry]

theorem runAction_wf (die idx kind : Nat) {act : State → TrigEntry → Option State} {s : State}
    (ha : ∀ e, ∀ t ∈ act s e, Memory.wf t.mem) : ∀ t ∈ runAction die idx kind act s, Memory.wf t.mem :=
  bind_wf (fun e _ => ha e)

theorem withPlace_wf {s : State} (die idx : Nat) (e : TrigEntry) (c : Chk) {go : Place → Option State}
    (hg : ∀ p, ∀ t ∈ go p, Memory.wf t.mem) (hm : Memory.wf s.mem) : ∀ t ∈ withPlace s die idx e c go, Memory.wf t.mem := by
  unfold withPlace
  split
  · simp [hm]
  · split
    · simp [hm]
    · split <;> simp [hm]
  · exact hg _
  · simp

theorem launchAct_wf {s : State} (die idx : Nat) (e : TrigEntry) (hm : Memory.wf s.mem) : ∀ t ∈ launchAct die idx s e, Memory.wf t.mem := by
  unfold launchAct
  split
  · simp [hm]
  · split
    · next t _ h =>
      have he : t.mem = s.mem := State.enqueue_mem s _ _ h
      simp [he, hm]
    · simp [hm]

theorem commandAct_wf {s : State} (die idx kind : Nat) (e : TrigEntry) (hm : Memory.wf s.mem) :
    ∀ t ∈ commandAct die idx kind s e, Memory.wf t.mem := by
  have hgo (c : CmdArgs) : ∀ t ∈ (if s.cmdRoom (prooferCore die) die e.ctx none c then
      some ((s.queueCmd (prooferCore die) die e.ctx none none none c e.vec [] false).freeEntry die idx) else none), Memory.wf t.mem := by
    split <;> simp [hm]
  unfold commandAct
  dsimp only
  split
  · exact hgo _
  · exact withPlace_wf die idx e _ (fun _ => hgo _) hm

theorem addAct_wf {s : State} (die idx : Nat) (e : TrigEntry) (hm : Memory.wf s.mem) : ∀ t ∈ addAct die idx s e, Memory.wf t.mem :=
  withPlace_wf die idx e _ (fun p => State.engineAt_keeps (P := fun o => ∀ t ∈ o, Memory.wf (State.mem t)) _ _ (by simp) (by simp [hm])
    (by simp [hm])) hm

theorem wakeAct_wf {s : State} (die idx : Nat) (e : TrigEntry) (hm : Memory.wf s.mem) : ∀ t ∈ wakeAct die idx s e, Memory.wf t.mem :=
  withPlace_wf die idx e _ (fun p => by simp [hm]) hm

theorem postAct_wf {s : State} (die idx : Nat) (e : TrigEntry) (hm : Memory.wf s.mem) : ∀ t ∈ postAct die idx s e, Memory.wf t.mem := by
  simp [postAct, hm]

/-! ## Pair (Sys2Proof/Machine/Pair.lean) -/

theorem runPair_inForm {s : State} (fn : Option HalfFn) (h : HArgs) (y : Half) (hm : Memory.wf s.mem) : EndsInForm (runPair fn h y s) :=
  runLanes_inForm _ _ _ hm

/-! ## Chrysalis (Sys2Proof/Machine/Chrysalis.lean) -/

@[simp] theorem State.modSlot_mem (s : State) (c idx : Nat) (k : Slot → Slot) : (s.modSlot c idx k).mem = s.mem := by
  simp [State.modSlot]

@[simp] theorem State.depart_mem (s : State) (c idx cause next : Nat) : (s.depart c idx cause next).mem = s.mem := by
  simp [State.depart]

@[simp] theorem State.releaseBodies_mem (s : State) : (s.releaseBodies).mem = s.mem := by
  simp [State.releaseBodies]

@[simp] theorem State.evictSlot_mem (s : State) (c idx : Nat) : (s.evictSlot c idx).mem = s.mem := by
  simp [State.evictSlot]

@[simp] theorem State.touchSlot_mem (s : State) (c idx : Nat) : (s.touchSlot c idx).mem = s.mem := by
  simp [State.touchSlot]

theorem openSlot_inForm {s : State} (c idx : Nat) (b : Body) (hm : Memory.wf s.mem) : (openSlot s c idx b).InForm := by
  unfold openSlot
  dsimp only
  split
  · exact .out _ (by simp [hm])
  · split
    · exact .out _ (by simp [hm])
    · exact .fetching _ (by simp [hm])

theorem resolve_inForm {s : State} (c home serial rights : Nat) (hm : Memory.wf s.mem) : (resolve s c home serial rights).InForm := by
  unfold resolve
  dsimp only
  split
  · split
    · exact .fetching _ (by simp [hm])
    · split
      · split
        · exact openSlot_inForm _ _ _ (by simp [hm])
        · exact .out _ hm
      · exact .out _ (by simp [hm])
  · split
    · exact .out _ hm
    · split
      · exact openSlot_inForm _ _ _ (by simp [hm])
      · split
        · exact .out _ hm
        · refine openSlot_inForm _ _ _ ?_
          split <;> simp [hm]

/-! ## Names (Sys2Proof/Machine/Names.lean) -/

@[simp] theorem askResolve_mem (s : State) (f : Focus) (ws : List (Nat × Want)) : (askResolve s f ws).mem = s.mem := by
  simp [askResolve]

@[simp] theorem clearHint_mem (s : State) (c : Nat) (o : Option ResOut) : (clearHint s c o).mem = s.mem := by
  unfold clearHint
  split <;> simp

theorem deliverWants_inForm {s : State} (d : BitVec 9) (clear : Bool) (f : Focus) (ws : List (Nat × Want)) (hm : Memory.wf s.mem) :
    (deliverWants d clear s f ws).InForm := by
  refine .ite (.ok (by simp [hm])) ?_
  split
  · exact .trap _
  · refine .ok (foldl_wf (fun t w ht => ?_) _ ?_)
    · split <;> simp [ht]
    · split <;> simp [hm]

@[simp] theorem ldnLane_mem (m : MForm) (f : Focus) (s : State) (i : Nat) (c : Chk) : (ldnLane m f s i c).1.mem = s.mem := by
  unfold ldnLane
  split <;> simp

@[simp] theorem stnLane_mem (m : MForm) (f : Focus) (s : State) (i : Nat) (c : Chk) : (stnLane m f s i c).1.mem = s.mem := by
  unfold stnLane
  split <;> simp

theorem desWord_inForm {s : State} (g : Guard) (ops : List Src) (k : View → List Des → Lane) (f : Focus) (hm : Memory.wf s.mem) :
    (desWord g ops k s f).InForm := by
  unfold desWord
  dsimp only
  split
  · exact .trap _
  · exact .ok (by simp [hm])

theorem ptrAddWord_inForm {s : State} (sub : Bool) (x : FForm) (hm : Memory.wf s.mem) : EndsInForm (ptrAddWord sub x s) :=
  runLanes_inForm _ _ _ hm

@[simp] theorem pfetchLane_mem (m : MForm) (off : BitVec 14) (f : Focus) (s : State) (i : Nat) : (pfetchLane m off f s i).mem = s.mem := by
  unfold pfetchLane
  dsimp only
  repeat' split
  all_goals simp

@[simp] theorem prelLane_mem (m : MForm) (f : Focus) (s : State) (i : Nat) : (prelLane m f s i).mem = s.mem := by
  simp [prelLane]

/-! ## Events names (Sys2Proof/Machine/EventsNames.lean) -/

@[simp] theorem State.giveRes_mem (s : State) (r : Resolution) (o : ResOut) : (s.giveRes r o).mem = s.mem := by
  unfold State.giveRes
  split <;> simp

@[simp] theorem State.dropRes_mem (s : State) (r : Resolution) : (s.dropRes r).mem = s.mem := by
  simp [State.dropRes]

@[simp] theorem State.fetchOutcome_mem (s : State) (c idx : Nat) (o : ResOut) : (s.fetchOutcome c idx o).mem = s.mem := by
  simp [State.fetchOutcome]

@[simp] theorem copyBody_wf {s : State} (src : Place) (dst size : Nat) (hm : Memory.wf s.mem) : Memory.wf (copyBody s src dst size).mem :=
  foldl_wf (fun t i ht => by simp [ht]) _ hm

theorem State.takeBody_wf {s : State} (world serial size : Nat) (hm : Memory.wf s.mem) :
    ∀ r ∈ s.takeBody world serial size, Memory.wf r.2.mem :=
  findSome_all fun d => State.takeFrame_wf d world size 65536 hm

@[simp] theorem fetchLost_mem (s : State) (ctx slot : Nat) : (fetchLost s ctx slot).mem = s.mem := by
  simp [fetchLost]

theorem fetchCopy_wf {s : State} (c idx : Nat) (x : Slot) (b : Body) {finish : State → Nat → State}
    (hf : ∀ (t : State) (n : Nat), (finish t n).mem = t.mem) (hm : Memory.wf s.mem) :
    ∀ t ∈ fetchCopy s c idx x b finish, Memory.wf t.mem := by
  unfold fetchCopy
  dsimp only
  split
  · simp [hm]
  · split
    · simp
    · refine map_wf fun r hr => ?_
      have ht := State.takeBody_wf _ _ _ hm r hr
      simp [hf, ht]

theorem fetchDone_wf {s : State} (c idx : Nat) (hm : Memory.wf s.mem) : ∀ t ∈ fetchDone s c idx, Memory.wf t.mem := by
  unfold fetchDone
  dsimp only
  split
  · simp
  · split
    · simp [hm]
    · exact bind_wf fun b _ => fetchCopy_wf c idx _ b (by simp) hm

@[simp] theorem State.rehome_mem (s : State) (world : Nat) (x : Slot) (home addr : Nat) (tags : List Nat) :
    (s.rehome world x home addr tags).mem = s.mem := by
  simp [State.rehome]

theorem moveObject_wf {s : State} (world : Nat) (x : Slot) (home addr : Nat) (hm : Memory.wf s.mem) :
    ∀ r ∈ moveObject s world x home addr, Memory.wf r.2.mem := by
  unfold moveObject
  dsimp only
  split
  · simp [hm]
  · intro r hr
    obtain ⟨⟨a, t⟩, hat, rfl⟩ := Option.mem_map.mp hr
    have ht : Memory.wf t.mem := by
      split at hat
      · simp at hat
      · split at hat
        · exact State.takeBody_wf _ _ _ hm _ hat
        · obtain ⟨-, rfl⟩ := Prod.mk.inj (Option.some.inj hat)
          exact hm
    exact foldl_wf (fun u i hu => by simp [hu]) _ (by simp [ht])

theorem fillDone_wf {s : State} (p : PageFill) (hm : Memory.wf s.mem) : ∀ t ∈ fillDone s p, Memory.wf t.mem := by
  unfold fillDone
  dsimp only
  split
  · simp [hm]
  · split
    · simp
    · refine map_wf fun r hr => ?_
      have ht : Memory.wf r.2.mem := by
        refine findSome_all (P := fun r : Nat × State => Memory.wf r.2.mem) (fun d => ?_) r hr
        exact State.takeFrame_wf d _ _ _ hm
      simp [ht]

@[simp] theorem failWaiters_mem (ctx page : Nat) (s : State) (b gi : Nat) : (failWaiters ctx page s b gi).mem = s.mem := by
  unfold failWaiters
  dsimp only
  repeat' split
  all_goals simp

@[simp] theorem State.dropFailed_mem (s : State) : (s.dropFailed).mem = s.mem := by
  simp [State.dropFailed]

@[simp] theorem dropCached_mem (s : State) (v : Inval) (agent : Nat) : (dropCached s v agent).mem = s.mem := by
  simp [dropCached]

/-! ## Kernel (Sys2Proof/Machine/Kernel.lean) -/

theorem afterRelease_inForm {s : State} (f : Focus) (ls : List Nat) {go : Unit → Eff} (hg : (go ()).InForm) (hm : Memory.wf s.mem) :
    (afterRelease s f ls go).InForm :=
  .ite hg (.ok hm)

theorem klaunchWord_inForm {s : State} (x : FForm) (dep : Bool) (f : Focus) (hm : Memory.wf s.mem) : (klaunchWord x dep s f).InForm := by
  unfold klaunchWord
  dsimp only
  split
  · exact .ok hm
  · refine .ite (.trap _) (afterRelease_inForm f _ ?_ hm)
    split
    · simp [hm]
    · next e _ =>
      rcases he : s.enqueue e with _ | r
      · simp [hm]
      · simp [State.enqueue_mem s e r he, hm]

@[simp] theorem spawnThread_mem (s : State) (core i target : Nat) (t : BinThread) (width : Nat) :
    (spawnThread s core i target t width).mem = s.mem := by
  simp [spawnThread]

theorem spawnWord_inForm {s : State} (x : FForm) (f : Focus) (hm : Memory.wf s.mem) : (spawnWord x s f).InForm := by
  refine .ite (.ok hm) (.ite (.trap _) (.ite (.trap _) (.ite (.trap _) (.ite (.ok hm) (afterRelease_inForm f _ ?_ hm)))))
  exact .ok (by simp [hm])

/-! ## Queue (Sys2Proof/Machine/Queue.lean) -/

@[simp] theorem State.noteHold_mem (s : State) (blk : Nat) : (s.noteHold blk).mem = s.mem := by
  simp [State.noteHold]

@[simp] theorem retireBlock_mem (s : State) (blk : Nat) : (retireBlock s blk).mem = s.mem := by
  simp [retireBlock]

@[simp] theorem State.sweepInsts_mem (s : State) : (s.sweepInsts).mem = s.mem := by
  simp [State.sweepInsts]

@[simp] theorem retireInst_mem (s : State) (i : Nat) : (retireInst s i).mem = s.mem := by
  simp [retireInst]

@[simp] theorem resumeBlock_mem (s : State) (blk core : Nat) : (resumeBlock s blk core).mem = s.mem := by
  simp [resumeBlock]

@[simp] theorem placeNew_mem (s : State) (i : Nat) (cores : List Nat) : (placeNew s i cores).mem = s.mem := by
  simp [placeNew]

@[simp] theorem placeUnit_mem (s : State) (die : Nat) (u : PUnit) (cores : List Nat) : (placeUnit s die u cores).mem = s.mem := by
  unfold placeUnit
  split <;> simp

theorem State.placeTurn_mem (s : State) (die : Nat) : ∀ t ∈ s.placeTurn die, t.mem = s.mem := by
  unfold State.placeTurn
  split
  · split <;> simp
  · split
    · simp
    · split <;> simp

@[simp] theorem discardBlock_mem (s : State) (blk : Nat) : (discardBlock s blk).mem = s.mem := by
  simp [discardBlock]

@[simp] theorem State.readyAgain_mem (s : State) (blk : Nat) : (s.readyAgain blk).mem = s.mem := by
  simp [State.readyAgain]

@[simp] theorem haltVictim_mem (s : State) (blk : Nat) : (haltVictim s blk).mem = s.mem := by
  simp [haltVictim]

@[simp] theorem saveDone_mem (s : State) (blk : Nat) : (saveDone s blk).mem = s.mem := by
  simp [saveDone]

@[simp] theorem parkNow_mem (s : State) (b : Nat) : (parkNow s b).mem = s.mem := by
  simp [parkNow]

/-! ## System (Sys2Proof/Machine/System.lean) -/

@[simp] theorem State.postCall_mem (s : State) (blk : Nat) (ls : List (Nat × Nat)) : (s.postCall blk ls).mem = s.mem := by
  simp only [State.postCall]
  split <;> simp

@[simp] theorem State.postSys_mem (s : State) (blk : Nat) : (s.postSys blk).mem = s.mem := by
  simp [State.postSys]

theorem thenPost_inForm (s : State) {o : Host.Outcome State Fault Refusal} (ho : EndsInForm o) : EndsInForm (thenPost s o) := by
  unfold thenPost
  split
  · exact .next (by simp [endsInForm_next.mp ho])
  · exact ho

theorem valueWord_inForm {s : State} (x : FForm) (toScalar wide : Bool) (badOf : List Nat → List Nat)
    (val : State → Focus → Nat → Option DWord) (f : Focus) (hm : Memory.wf s.mem) : (valueWord x toScalar wide badOf val s f).InForm :=
  .ite (.trap _) (.ite (.ok (by simp [hm])) (.ok (by simp [hm])))

theorem csrwWord_inForm {s : State} (x : FForm) (f : Focus) (hm : Memory.wf s.mem) : (csrwWord x s f).InForm := by
  unfold csrwWord
  split
  · exact .ok hm
  · exact .ite (.trap _) (.ok (by simp [hm]))

theorem csrwAt_inForm {s : State} (x : FForm) (addr : Nat) (f : Focus) (hm : Memory.wf s.mem) : (csrwAt x addr s f).InForm := by
  unfold csrwAt
  split <;> simp [hm]

theorem pginvWord_inForm {s : State} (x : FForm) (e : Extent) (f : Focus) (hm : Memory.wf s.mem) : (pginvWord x e s f).InForm := by
  unfold pginvWord
  dsimp only
  split
  · exact .ok hm
  · exact .ite (.trap _) (.ite (.stop (by simp [hm])) (.ite (.ok hm) (.ok (by simp [hm]))))

/-! ## Service (Sys2Proof/Machine/Service.lean) -/

@[simp] theorem State.answer_mem (s : State) (c : Nat) (k : Call) (results : List (Nat × Nat × DWord)) :
    (s.answer c k results).mem = s.mem := by
  simp [State.answer]

theorem serve_inForm {s : State} (c number : Nat) {f : State → Call → State × DWord} (hf : ∀ k, Memory.wf (f s k).1.mem)
    (hm : Memory.wf s.mem) : EndsInForm (serve c number f s) :=
  eventOpt_inForm (map_wf fun k _ => by simp [hf k]) hm

@[simp] theorem State.fillRange_wf {s : State} (c va len : Nat) (hm : Memory.wf s.mem) : Memory.wf (s.fillRange c va len).mem := by
  refine foldl_wf (fun t a ht => ?_) _ hm
  split
  · exact getD_wf (fillDone_wf _ ht) ht
  · exact ht

@[simp] theorem State.writeVa_wf {s : State} (c va : Nat) (bytes : List Byte) (hm : Memory.wf s.mem) :
    Memory.wf (s.writeVa c va bytes).mem := by
  refine foldl_wf (fun t x ht => ?_) _ hm
  split <;> simp [ht]

theorem State.callBytes_wf {s : State} (c va len : Nat) (hm : Memory.wf s.mem) : ∀ r ∈ s.callBytes c va len, Memory.wf r.1.mem := by
  unfold State.callBytes
  dsimp only
  split <;> simp [hm]

@[simp] theorem State.writeReply_mem (s : State) (c : Nat) (k : Call) : (s.writeReply c k).mem = s.mem := by
  simp [State.writeReply]

@[simp] theorem State.zeroVa_wf {s : State} (c va len : Nat) (hm : Memory.wf s.mem) : Memory.wf (s.zeroVa c va len).mem := by
  refine foldl_wf (fun t a ht => ?_) _ hm
  dsimp only
  split
  · exact foldl_wf (fun u g hu => by simp [hu]) _ ht
  · exact ht

@[simp] theorem State.addPart_mem (s : State) (c va size : Nat) : (s.addPart c va size).mem = s.mem := by
  unfold State.addPart
  split <;> simp

@[simp] theorem allocLane_wf (c : Nat) {s : State} (size : Nat) (hm : Memory.wf s.mem) : Memory.wf (allocLane c s size).1.mem := by
  unfold allocLane
  dsimp only
  repeat' split
  all_goals simp [hm]

@[simp] theorem freeLane_mem (c : Nat) (s : State) (addr : Nat) : (freeLane c s addr).1.mem = s.mem := by
  unfold freeLane
  dsimp only
  repeat' split
  all_goals simp

theorem serveLanes_inForm {s : State} (c number : Nat) {f : State → Nat → State × DWord}
    (hf : ∀ (t : State) (n : Nat), Memory.wf t.mem → Memory.wf (f t n).1.mem) (hm : Memory.wf s.mem) :
    EndsInForm (serveLanes c number f s) := by
  refine eventOpt_inForm (map_wf fun k _ => ?_) hm
  rw [State.answer_mem]
  exact foldl_fst_wf (β := List (Nat × Nat × DWord)) (t := (s, [])) (fun t l ht => hf _ _ ht) _ hm

@[simp] theorem mapObjectCall_wf (c : Nat) {s : State} (k : Call) (hm : Memory.wf s.mem) : Memory.wf (mapObjectCall c s k).1.mem := by
  unfold mapObjectCall
  dsimp only
  repeat' split
  all_goals simp [hm]

@[simp] theorem evictObjectCall_mem (c : Nat) (s : State) (k : Call) : (evictObjectCall c s k).1.mem = s.mem := by
  unfold evictObjectCall
  dsimp only
  repeat' split
  all_goals simp

@[simp] theorem printCall_wf {s : State} (c : Nat) (k : Call) (hm : Memory.wf s.mem) : Memory.wf (printCall c s k).1.mem := by
  unfold printCall
  split
  · exact hm
  · split
    · exact hm
    · next t _ h =>
      have ht : Memory.wf t.mem := State.callBytes_wf _ _ _ hm _ h
      simp [ht]

@[simp] theorem yieldCall_mem (c : Nat) (s : State) (k : Call) : (yieldCall c s k).1.mem = s.mem := by
  simp [yieldCall]

@[simp] theorem counterRegionCall_mem (c : Nat) (s : State) (k : Call) : (counterRegionCall c s k).1.mem = s.mem := by
  unfold counterRegionCall
  dsimp only
  repeat' split
  all_goals simp

@[simp] theorem worldChannelCall_mem (c : Nat) (s : State) (k : Call) : (worldChannelCall c s k).1.mem = s.mem := by
  simp only [worldChannelCall]
  split <;> simp

@[simp] theorem State.teardown_mem (s : State) (c : Nat) : (s.teardown c).mem = s.mem := by
  simp [State.teardown]

@[simp] theorem State.modSession_mem (s : State) (n : Nat) (f : Session → Session) : (s.modSession n f).mem = s.mem := by
  simp [State.modSession]

@[simp] theorem State.respond_mem (s : State) (n : Nat) (r : Resp) : (s.respond n r).mem = s.mem := by
  simp [State.respond]

@[simp] theorem State.modRing_mem (s : State) (n : Nat) (f : Ring → Ring) : (s.modRing n f).mem = s.mem := by
  simp [State.modRing]

@[simp] theorem State.takeMessage_mem (s : State) (n : Nat) : (s.takeMessage n).mem = s.mem := by
  simp [State.takeMessage]

theorem fromRing_inForm {s : State} (n : Nat) {f : State → State} (hf : ∀ t : State, Memory.wf t.mem → Memory.wf (f t).mem)
    (hm : Memory.wf s.mem) : EndsInForm (fromRing n s f) :=
  event_inForm _ (hf _ (by simp [hm])) hm

/-! ## Device (Sys2Proof/Machine/Device.lean) -/

@[simp] theorem State.logThrottle_mem (s : State) (r : ThrottleRec) : (s.logThrottle r).mem = s.mem := by
  simp [State.logThrottle]

@[simp] theorem throttle_mem (s : State) (power : Nat) (ts : List Nat) : (throttle s power ts).mem = s.mem := by
  simp [throttle]

@[simp] theorem State.afterReset_wf {s : State} (hm : Memory.wf s.mem) : Memory.wf (s.afterReset).mem := by
  simp [State.afterReset, hm]

@[simp] theorem trainHosts_mem (s : State) : (trainHosts s).mem = s.mem := by
  simp [trainHosts]

@[simp] theorem pairReport_mem (s : State) (die : Nat) (ok : Bool) : (pairReport s die ok).mem = s.mem := by
  simp [pairReport]

@[simp] theorem openRings_wf {s : State} (hm : Memory.wf s.mem) : Memory.wf (openRings s).mem := by
  unfold openRings
  split
  · exact foldl_wf (fun t n ht => by simp [ht]) _ hm
  · exact hm

@[simp] theorem elect_wf {s : State} (l : Nat) (hm : Memory.wf s.mem) : Memory.wf (elect s l).mem := by
  simp [elect, hm]

@[simp] theorem fence_mem (s : State) (asker target : Nat) : (fence s asker target).mem = s.mem := by
  simp [fence]

@[simp] theorem State.scrubRange_wf {s : State} (pa size : Nat) (hm : Memory.wf s.mem) : Memory.wf (s.scrubRange pa size).mem := by
  simp [State.scrubRange, hm]

@[simp] theorem scrubDone_wf {s : State} (die w : Nat) (hm : Memory.wf s.mem) : Memory.wf (scrubDone s die w).mem := by
  unfold scrubDone
  dsimp only
  rw [State.modDie_mem]
  exact foldl_wf (fun t r ht => by simp [ht]) _ (by simp [hm])

@[simp] theorem State.countSram_mem (s : State) (die : Nat) : (s.countSram die).mem = s.mem := by
  simp [State.countSram]

@[simp] theorem softError_wf {s : State} (x : SoftTarget) (hm : Memory.wf s.mem) : Memory.wf (softError s x).mem := by
  cases x
  case hyper | accum | record =>
    dsimp only [softError]
    split <;> simp [hm]
  case bstore =>
    dsimp only [softError]
    split <;> simp [hm]
  case dram | dramCorrected | sramCorrected => simp [softError, hm]

theorem scratchpadRequest_wf {s : State} (r : Req) (hm : Memory.wf s.mem) : ∀ t ∈ scratchpadRequest s r, Memory.wf t.mem := by
  unfold scratchpadRequest
  split
  · split <;> simp [hm]
  · simp

/-! ## Links (Sys2Proof/Machine/Links.lean) -/

@[simp] theorem State.countDrop_mem (s : State) (n : Nat) : (s.countDrop n).mem = s.mem := by
  simp [State.countDrop]

@[simp] theorem State.loseMessage_mem (s : State) (c : CopyCmd) (msg : Nat) : (s.loseMessage c msg).mem = s.mem := by
  simp [State.loseMessage]

@[simp] theorem State.loseLeaf_mem (s : State) (l : Leaf) : (s.loseLeaf l).mem = s.mem := by
  unfold State.loseLeaf
  split
  · split <;> simp
  · simp

@[simp] theorem State.dropPacket_mem (s : State) (p : Packet) : (s.dropPacket p).mem = s.mem := by
  simp only [State.dropPacket]
  split <;> simp

@[simp] theorem State.dropSent_mem (s : State) (n : Nat) (what : FlitOf) : (s.dropSent n what).mem = s.mem := by
  unfold State.dropSent
  split
  · split <;> simp
  all_goals simp

@[simp] theorem State.replyLost_wf {s : State} (id : Nat) (hm : Memory.wf s.mem) : Memory.wf (s.replyLost id).mem := by
  unfold State.replyLost
  split
  · next r _ =>
    rw [State.loseReq_mem]
    split
    · exact getD_wf (State.performFar_wf r hm) hm
    · exact hm
  · exact hm

@[simp] theorem State.answerLost_wf {s : State} (p : Packet) (hm : Memory.wf s.mem) : Memory.wf (s.answerLost p).mem := by
  unfold State.answerLost
  split
  · simp [hm]
  · dsimp only
    split <;> simp [hm]
  · exact foldl_wf (fun t l ht => by simp [ht]) _ (by simp [hm])

@[simp] theorem State.inboundLost_wf {s : State} (link : Nat) (answers : Option Nat) (hm : Memory.wf s.mem) :
    Memory.wf (s.inboundLost link answers).mem := by
  unfold State.inboundLost
  split
  · exact hm
  · split
    · exact getD_wf (map_wf fun p _ => State.answerLost_wf p hm) hm
    · exact getD_wf (map_wf fun h _ => State.replyLost_wf _ hm) hm

@[simp] theorem State.linkTo_mem (s : State) (n : Nat) (st : LinkSt) (f : Link → Link) : (s.linkTo n st f).mem = s.mem := by
  simp [State.linkTo]

@[simp] theorem State.returnPacket_mem (s : State) (p : Packet) : (s.returnPacket p).mem = s.mem := by
  simp [State.returnPacket]

@[simp] theorem State.putReply_mem (s : State) (src world seq returns flits : Nat) (via : Option Nat) :
    (s.putReply src world seq returns flits via).mem = s.mem := by
  simp [State.putReply]

@[simp] theorem State.returnReply_mem (s : State) (n : Nat) (l : Link) (what : FlitOf) : (s.returnReply n l what).mem = s.mem := by
  unfold State.returnReply
  split <;> simp

@[simp] theorem State.linkDown_mem (s : State) (n : Nat) : (s.linkDown n).mem = s.mem := by
  simp [State.linkDown]

@[simp] theorem trayUpdate_mem (s : State) (link domain : Nat) : (trayUpdate s link domain).mem = s.mem := by
  simp [trayUpdate]

@[simp] theorem State.answerHost_mem (s : State) (n : Nat) (x : Answer) : (s.answerHost n x).mem = s.mem := by
  simp [State.answerHost]

@[simp] theorem State.queueIn_mem (s : State) (u : PoolUnit) : (s.queueIn u).mem = s.mem := by
  simp [State.queueIn]

@[simp] theorem State.hostBreach_mem (s : State) (n world tag : Nat) : (s.hostBreach n world tag).mem = s.mem := by
  simp [State.hostBreach]

@[simp] theorem hostRequest_mem (s : State) (h world tag addr : Nat) (k : InKind) : (hostRequest s h world tag addr k).mem = s.mem := by
  unfold hostRequest
  dsimp only
  repeat' split
  all_goals simp

@[simp] theorem performIn_wf {s : State} (owner : Option Nat) (a : Nat) (k : InKind) (hm : Memory.wf s.mem) :
    Memory.wf (performIn s owner a k).1.mem := by
  unfold performIn
  dsimp only
  repeat' split
  all_goals simp [hm]

@[simp] theorem finishIn_wf {s : State} (u : PoolUnit) (hm : Memory.wf s.mem) : Memory.wf (finishIn s u).mem := by
  unfold finishIn
  dsimp only
  repeat' split
  all_goals simp [hm]

theorem serveUnit_wf {s : State} (hm : Memory.wf s.mem) : ∀ t ∈ serveUnit s, Memory.wf t.mem := by
  refine bind_wf fun x _ => map_wf fun u _ => ?_
  dsimp only
  split <;> simp [hm]

theorem hostReply_wf {s : State} (link tag : Nat) (hm : Memory.wf s.mem) : ∀ t ∈ hostReply s link tag, Memory.wf t.mem := by
  refine bind_wf fun h _ => bind_wf fun r _ => ?_
  split
  · simp [hm]
  · split
    · refine map_wf fun t ht => ?_
      have hw := State.performFar_wf r hm t ht
      split
      · split <;> simp [hw]
      · exact hw
    · simp

@[simp] theorem State.setInFlow_mem (s : State) (x : InFlow) : (s.setInFlow x).mem = s.mem := by
  simp [State.setInFlow]

@[simp] theorem State.takeLine_mem (s : State) (line holder : Nat) : (s.takeLine line holder).mem = s.mem := by
  simp [State.takeLine]

@[simp] theorem State.holdLine_wf {s : State} (line holder : Nat) (hm : Memory.wf s.mem) : Memory.wf (s.holdLine line holder).mem := by
  unfold State.holdLine
  split
  · simp [hm]
  · split <;> simp [hm]

@[simp] theorem State.writeHeld_wf {s : State} (pa : Nat) (bytes : List Byte) (hm : Memory.wf s.mem) :
    Memory.wf (s.writeHeld pa bytes).mem :=
  Memory.wf_write _ _ _ hm

@[simp] theorem fabricSwap_wf {s : State} (holder : Nat) (p : Place) (n : Nat) (new : Nat → Option Nat) (hm : Memory.wf s.mem) :
    Memory.wf (fabricSwap s holder p n new).1.mem := by
  unfold fabricSwap
  dsimp only
  repeat' split
  all_goals simp [hm]

@[simp] theorem fabricAtomic_wf {s : State} (holder : Nat) (p : Place) (op : AtomOp) (ty : Ty) (x : BitVec 64) (hm : Memory.wf s.mem) :
    Memory.wf (fabricAtomic s holder p op ty x).1.mem := by
  simp [fabricAtomic, hm]

@[simp] theorem fabricCas_wf {s : State} (holder : Nat) (p : Place) (ty : Ty) (cmp new : BitVec 64) (hm : Memory.wf s.mem) :
    Memory.wf (fabricCas s holder p ty cmp new).1.mem := by
  simp [fabricCas, hm]

theorem kneadFar_wf (r : Req) (fuel : Nat) {s : State} (hm : Memory.wf s.mem) : Memory.wf (kneadFar r fuel s).1.mem := by
  induction fuel generalizing s with
  | zero => exact hm
  | succ fuel ih =>
    unfold kneadFar
    have hk := kneadAt_wf r hm
    split
    · next h => exact KOut.inForm_done.mp (h ▸ hk)
    · refine ih ?_
      split <;> simp [hm]
    · exact hm

/-- Any far Kneader that keeps the form will do: `kneadFar` is generalised so that nothing computes its walk. -/
@[simp] theorem fabricKnead_wf {s : State} (src world addr : Nat) (p : Place) (op : FabricOp) (hm : Memory.wf s.mem) :
    Memory.wf (fabricKnead s src world addr p op).1.mem := by
  have hfar := @kneadFar_wf
  unfold fabricKnead
  generalize s.held.length + 1 = fuel, kneadFar = far at *
  cases op
  case kcas | kenq | kdeq | kchase => exact hfar _ _ (State.flush_wf _ _ hm)
  all_goals exact hm

theorem fabricLeaf_wf {sb : State × List Byte} (src holder : Nat) (p : Place) (ty : Ty) (l : Nat × Nat × BitVec 64)
    (hm : Memory.wf sb.1.mem) : Memory.wf (fabricLeaf src holder p ty sb l).1.mem := by
  unfold fabricLeaf
  dsimp only
  split <;> simp [hm]

/-- Of an inbound operation's effects, only the far Kneader's may not be computed. -/
@[simp] theorem fabricEffect_wf {s : State} (src world : Nat) (x : InOp) (ps : List (Nat × Nat × Place)) (hm : Memory.wf s.mem) :
    Memory.wf (fabricEffect s src world x ps).1.mem := by
  have hq : Memory.wf (ps.foldl (fun s p => s.flush p.2.2 p.2.1) s).mem := foldl_wf (fun t p ht => by simp [ht]) _ hm
  unfold fabricEffect
  dsimp only
  split
  · split
    · exact hm
    · exact hq
  · refine foldl_wf (fun t p ht => by simp [ht]) _ ?_
    split
    · exact hm
    · exact hq
  · split <;> simp [hm]
  · split <;> simp [hm]
  · split
    · exact foldl_fst_wf (fun t l ht => fabricLeaf_wf _ _ _ _ l ht) _ hm
    · exact hm
  · split <;> simp [hm]
  · split <;> simp [hm]
  · split <;> simp [hm]
  · split <;> simp [hm]
  · simp [hm]
  · exact hm

@[simp] theorem performFabric_wf {s : State} (src world : Nat) (x : InOp) (hm : Memory.wf s.mem) :
    Memory.wf (performFabric s src world x).1.mem := by
  unfold performFabric
  extract_lets t
  have hfill : Memory.wf t.mem := by
    subst t
    split
    · split <;> simp [hm]
    · exact hm
  clear_value t
  split
  · exact hfill
  · next ps _ =>
    split
    · simp [hfill]
    · split
      · exact hfill
      · have hdone : Memory.wf (fabricEffect t src world x ps).1.mem := fabricEffect_wf _ _ _ _ hfill
        generalize fabricEffect t src world x ps = r at *
        obtain ⟨u, bytes⟩ := r
        dsimp only at *
        have hflush : Memory.wf (ps.foldl (fun s p => s.flush p.2.2 p.2.1) u).mem := foldl_wf (fun t p ht => by simp [ht]) _ hdone
        split
        · split
          · split
            · next h => exact arriveAt_mem _ _ _ _ _ h ▸ hflush
            · exact hdone
          · exact hdone
        · exact hdone

@[simp] theorem State.sendReply_mem (s : State) (src world seq : Nat) (r : Option (List Byte)) :
    (s.sendReply src world seq r).mem = s.mem := by
  simp [State.sendReply]

@[simp] theorem State.closeFlow_mem (s : State) (f : InFlow) : (s.closeFlow f).mem = s.mem := by
  simp [State.closeFlow]

@[simp] theorem drain_wf (fuel : Nat) (f : InFlow) {s : State} (hm : Memory.wf s.mem) : Memory.wf (drain fuel f s).mem := by
  induction fuel generalizing f s with
  | zero => simp [drain, hm]
  | succ fuel ih =>
    unfold drain
    split
    · simp [hm]
    · refine ih _ ?_
      rw [State.sendReply_mem]
      exact performFabric_wf _ _ _ hm

/-! ## Management (Sys2Proof/Machine/Management.lean) -/

@[simp] theorem State.endWorld_mem (s : State) (w : Nat) : (s.endWorld w).mem = s.mem := by
  simp [State.endWorld]

@[simp] theorem State.interfaceError_mem (s : State) : (s.interfaceError).mem = s.mem := by
  simp [State.interfaceError]

@[simp] theorem stopInterface_mem (s : State) : (stopInterface s).mem = s.mem := by
  simp [stopInterface]

@[simp] theorem State.ideFailure_mem (s : State) (stream : Nat) : (s.ideFailure stream).mem = s.mem := by
  simp [State.ideFailure]

@[simp] theorem bar0Write_wf {s : State} (addr : Nat) (bytes : List Byte) (hm : Memory.wf s.mem) :
    Memory.wf (bar0Write s addr bytes).mem := by
  unfold bar0Write
  dsimp only
  repeat' split
  all_goals simp [hm]

@[simp] theorem bar2_wf {s : State} (stream world addr : Nat) (write : Bool) (bytes : List Byte) (hm : Memory.wf s.mem) :
    Memory.wf (bar2 s stream world addr write bytes).mem := by
  unfold bar2
  dsimp only
  repeat' split
  all_goals simp [hm]

@[simp] theorem cxlRequest_mem (s : State) (addr : Nat) (k : InKind) : (cxlRequest s addr k).mem = s.mem := by
  unfold cxlRequest
  split <;> simp

theorem cxlGuarded_wf {s : State} (intact : Bool) {go : State → State} (hg : Memory.wf (go s).mem) (hm : Memory.wf s.mem) :
    Memory.wf (cxlGuarded intact go s).mem := by
  unfold cxlGuarded
  split
  · exact hm
  · split
    · exact hm
    · exact hg

/-! ## Virtual (Sys2Proof/Machine/Virtual.lean) -/

theorem runVirtual_inForm {s : State} (w : BitVec 53) (use : List Nat) {act : FForm → State → Focus → Nat → Eff}
    (ha : ∀ (x : FForm) (t : State) (f : Focus) (i : Nat), Memory.wf t.mem → (act x t f i).InForm) (hm : Memory.wf s.mem) :
    EndsInForm (runVirtual w use act s) := by
  refine .ite (runWord_inForm use (fun t f ht => ?_) hm) (runTrap_inForm _ hm)
  split
  · exact .ok ht
  · exact ha _ _ _ _ ht

@[simp] theorem State.putVtile_mem (s : State) (f : Focus) (x : FForm) (t : VTile × Events) : (s.putVtile f x t).mem = s.mem := by
  simp [State.putVtile]

theorem vtAccess_inForm {s : State} (sp : Bool) (need : Need) {go : FForm → List LocalRange → State → Focus → Nat → State}
    (hg : ∀ (x : FForm) (rs : List LocalRange) (t : State) (f : Focus) (i : Nat), Memory.wf t.mem → Memory.wf (go x rs t f i).mem)
    (x : FForm) (f : Focus) (i : Nat) (hm : Memory.wf s.mem) : (vtAccess sp need go x s f i).InForm := by
  refine .ite (.trap _) ?_
  dsimp only
  split
  · exact .ok hm
  · refine .ite (.ok hm) ?_
    split
    · exact .trap _
    · exact .ok (by simp [hm])
    · split
      · next h => exact .stop (portStop_mem _ _ _ _ h ▸ hm)
      · exact .ok (hg _ _ _ _ _ (by simp [hm]))

theorem vtLoadAt_wf {s : State} (x : FForm) (rs : List LocalRange) (f : Focus) (i : Nat) (hm : Memory.wf s.mem) :
    Memory.wf (vtLoadAt x rs s f i).mem := by
  unfold vtLoadAt
  simp only [State.modLane_mem, State.putVtile_mem]
  exact foldl_wf (fun t r ht => by simp [ht]) _ hm

theorem vtStoreAt_wf {s : State} (x : FForm) (rs : List LocalRange) (f : Focus) (i : Nat) (hm : Memory.wf s.mem) :
    Memory.wf (vtStoreAt x rs s f i).mem := by
  unfold vtStoreAt
  simp only [State.modLane_mem]
  exact foldl_fst_wf (t := (s, ({} : VecD))) (fun t r ht => by simp [ht]) _ hm

/-! ## Session (Sys2Proof/Machine/Session.lean) -/

@[simp] theorem State.setRingWord_wf {s : State} (r : Ring) (off n : Nat) (hm : Memory.wf s.mem) :
    Memory.wf (s.setRingWord r off n).mem := by
  simp [State.setRingWord, hm]

@[simp] theorem State.writeSlot_wf {s : State} (r : Ring) (count len : Nat) (more : Bool) (hm : Memory.wf s.mem) :
    Memory.wf (s.writeSlot r count len more).mem := by
  simp [State.writeSlot, hm]

/-- Stated of `Inv`: the kernel compares two states under `Inv` as they stand, and under `State.mem` it would compute them. -/
theorem State.inv_writeSlot {s : State} (r : Ring) (count len : Nat) (more : Bool) (hm : Inv s) : Inv (s.writeSlot r count len more) :=
  State.writeSlot_wf r count len more hm

@[simp] theorem writeResponse_wf {s : State} (n : Nat) (r : Ring) (hm : Memory.wf s.mem) : Memory.wf (writeResponse s n r).mem := by
  unfold writeResponse
  split
  · exact hm
  · next m rest _ =>
    have hslots : Inv ((List.range m.slots).foldl (fun s i =>
        s.writeSlot r (r.head + i) (Nat.min 4088 (m.size - 4088 * i)) (decide (i + 1 < m.slots))) s) :=
      foldl_keeps Inv _ (fun _ _ ht => State.inv_writeSlot _ _ _ _ ht) _ _ hm
    simp [show Memory.wf _ from hslots]

@[simp] theorem consumeSlots_wf {s : State} (n : Nat) (r : Ring) (hm : Memory.wf s.mem) : Memory.wf (consumeSlots s n r).mem := by
  simp [consumeSlots, hm]

@[simp] theorem ringRequest_wf {s : State} (n : Nat) (r : Ring) (hm : Memory.wf s.mem) : Memory.wf (ringRequest s n r).mem := by
  unfold ringRequest
  split
  · simp [hm]
  · split
    · simp [hm]
    · split <;> simp [hm]

@[simp] theorem resetRing_wf {s : State} (n : Nat) (r : Ring) (hm : Memory.wf s.mem) : Memory.wf (resetRing s n r).mem :=
  foldl_wf (fun t i ht => by simp [ht]) _ (by simp [hm])

theorem spdm_inForm {s : State} (n : Nat) (sts : List SessSt) {f : State → State} (hf : ∀ t : State, Memory.wf t.mem → Memory.wf (f t).mem)
    (hm : Memory.wf s.mem) : EndsInForm (spdm n sts f s) := by
  refine fromRing_inForm n (fun t ht => ?_) hm
  split
  · exact hf t ht
  · simp [ht]

@[simp] theorem State.respondFree_mem (s : State) (n : Nat) (r : Nat → Resp) : (s.respondFree n r).mem = s.mem := by
  simp [State.respondFree]

@[simp] theorem openVersion_mem (s : State) (n : Nat) : (openVersion s n).mem = s.mem := by
  simp [openVersion]

@[simp] theorem State.keyLink_mem (s : State) (n w : Nat) : (s.keyLink n w).mem = s.mem := by
  simp [State.keyLink]

theorem command_inForm {s : State} (n : Nat) {f : State → Except Nat (State × Nat)} (hf : ∀ t : State, Memory.wf t.mem → AnswersInForm (f t))
    (hm : Memory.wf s.mem) : EndsInForm (command n f s) := by
  refine event_inForm _ ?_ hm
  have ha := hf (s.takeMessage n) (by simp [hm])
  dsimp only
  split
  · next h => simp [answersInForm_ok.mp (h ▸ ha)]
  · simp [hm]

@[simp] theorem State.bindSession_mem (s : State) (n w : Nat) : (s.bindSession n w).mem = s.mem := by
  simp [State.bindSession]

theorem assign_inForm {s : State} (n w : Nat) (dies : List Nat) (bind : Option Nat) (hm : Memory.wf s.mem) :
    AnswersInForm (assign s n w dies bind) := by
  refine .ite (.error _) (.ite (.error _) (.ok ?_))
  rw [State.note_mem]
  split <;> split <;> simp [hm]

@[simp] theorem State.newRegion_mem (s : State) (c size : Nat) (r w : Bool) : (s.newRegion c size r w).2.mem = s.mem := by
  simp [State.newRegion]

@[simp] theorem addMap_wf (c : Nat) {s : State} (m : MapSpec) (hm : Memory.wf s.mem) : Memory.wf (addMap c s m).mem := by
  simp [addMap, hm]

/-- Said once of any table, so that the kernel need not compare the two states to compare their memories. -/
theorem State.setCtxs_wf {s : State} (cs : Tbl Context) (hm : Memory.wf s.mem) : Memory.wf ({ s with ctxs := cs } : State).mem := hm

theorem create_inForm {s : State} (n w arena : Nat) (maps : List MapSpec) (hm : Memory.wf s.mem) :
    AnswersInForm (create s n w arena maps) := by
  unfold create
  refine .ite (.error _) (.ite (.error _) (.ite (.error _) ?_))
  split
  · exact .error _
  · have hslots : Memory.wf ((s.takeLevain (2 ^ 21) (2 ^ 21)).2.takeLevain (2 ^ 25) (2 ^ 25)).2.draw.2.mem := by simp [hm]
    dsimp only
    generalize ((s.takeLevain (2 ^ 21) (2 ^ 21)).2.takeLevain (2 ^ 25) (2 ^ 25)).2.draw = drawn at *
    rw [answersInForm_ok, State.note_mem]
    refine foldl_wf (fun _ m ht => addMap_wf _ m ht) _ ?_
    rw [State.modCtx_mem, State.newRegion_mem, State.newRegion_mem]
    exact State.setCtxs_wf _ hslots

@[simp] theorem State.putPage_wf {s : State} (c : Nat) (g : Region) (va pa : Nat) (hm : Memory.wf s.mem) :
    Memory.wf (s.putPage c g va pa).mem := by
  simp [State.putPage, hm]

theorem mapRun_wf {s : State} (c : Nat) (g : Region) (d n va : Nat) (hm : Memory.wf s.mem) : ∀ t ∈ mapRun c g d n va s, Memory.wf t.mem := by
  unfold mapRun
  dsimp only
  split
  · simp
  · split
    · next h =>
      have ht := State.takeFrame_wf _ _ _ _ hm _ h
      exact fun u hu => Option.some.inj hu ▸ foldl_wf (fun t i ht => by simp [ht]) _ ht
    · refine foldl_keeps (fun o => ∀ t ∈ o, Memory.wf (State.mem t)) _ (fun o i ho => ?_) _ _ (by simp [hm])
      refine bind_wf fun t ht => map_wf fun r hr => ?_
      have hw := State.takeFrame_wf _ _ _ _ (ho t ht) r hr
      simp [hw]

theorem mapFrames_wf (c : Nat) (g : Region) (runs : List (Nat × Nat)) (va : Nat) {s : State} (hm : Memory.wf s.mem) :
    ∀ t ∈ mapFrames c g runs va s, Memory.wf t.mem := by
  induction runs generalizing va s with
  | nil => simp [mapFrames, hm]
  | cons r runs ih => exact bind_wf fun t ht => ih _ (mapRun_wf c g r.1 r.2 va hm t ht)

@[simp] theorem State.putBytes_wf {s : State} (c va : Nat) (bytes : List Byte) (hm : Memory.wf s.mem) :
    Memory.wf (s.putBytes c va bytes).mem := by
  refine foldl_wf (fun t i ht => ?_) _ hm
  dsimp only
  split
  · exact Memory.wf_setByte _ _ _ ht
  · exact ht

theorem State.placeBytes_wf {s : State} (c : Nat) (g : Region) (dies : List Nat) (bytes : List Byte) (hm : Memory.wf s.mem) :
    ∀ t ∈ s.placeBytes c g dies bytes, Memory.wf t.mem := by
  refine map_wf fun t ht => State.putBytes_wf _ _ _ ?_
  exact mapFrames_wf c g _ _ (by simp [hm]) t ht

@[simp] theorem State.putRemote_mem (s : State) (domain a : Nat) (body : List Byte) (tags : List Nat) :
    (s.putRemote domain a body tags).mem = s.mem := by
  simp [State.putRemote]

@[simp] theorem placeObject_mem (c dataVa : Nat) (tags : List Nat) (data : List Byte) (far : List FarObject) (s : State) (o : ObjectDesc × Nat) :
    (placeObject c dataVa tags data far s o).mem = s.mem := by
  unfold placeObject
  dsimp only
  repeat' split
  all_goals simp

theorem placeData_wf {s : State} (c : Nat) (obj : CodeObject) (pageDies : List Nat) (hm : Memory.wf s.mem) :
    ∀ r ∈ placeData s c obj pageDies, Memory.wf r.2.mem := by
  unfold placeData
  split
  · simp [hm]
  · intro r hr
    obtain ⟨t, ht, rfl⟩ := Option.mem_map.mp hr
    exact State.placeBytes_wf c _ _ _ hm t ht

theorem loadImage_inForm {s : State} (c : Nat) (spec : LoadSpec) (obj : CodeObject) (i : CodeImage) (hm : Memory.wf s.mem) :
    AnswersInForm (loadImage s c spec obj i) := by
  refine .ite (.error _) (.ite (.error _) (.ite (.error _) ?_))
  dsimp only
  split
  · exact .error _
  · next t ht =>
    have ht := State.placeBytes_wf _ _ _ _ hm t ht
    split
    · exact .error _
    · next u hu =>
      have hu := placeData_wf c obj spec.pageDies ht _ hu
      refine .ite (.error _) (.ok ?_)
      rw [State.note_mem]
      exact foldl_wf (fun t i ht => by simp [ht]) _ (by simp [hu])

theorem loadCode_inForm {s : State} (n c : Nat) (spec : LoadSpec) (hm : Memory.wf s.mem) : AnswersInForm (loadCode s n c spec) := by
  unfold loadCode
  split
  · exact .error _
  · refine .ite (.error _) ?_
    split
    · exact .error _
    · exact loadImage_inForm _ _ _ _ hm

theorem hostEnqueue_inForm {s : State} (n c kernel blocks q prio : Nat) (arg : DWord) (dep : Bool) (hm : Memory.wf s.mem) :
    AnswersInForm (hostEnqueue s n c kernel blocks q prio arg dep) := by
  unfold hostEnqueue
  split
  · exact .error _
  · refine .ite (.error _) ?_
    split
    · exact .error _
    · refine .ite (.error _) ?_
      split
      · exact .error _
      · next h => exact .ok (State.enqueue_mem _ _ _ h ▸ hm)

theorem openPool_inForm {s : State} (n c : Nat) (es : List PoolEntry) (hm : Memory.wf s.mem) : AnswersInForm (openPool s n c es) := by
  unfold openPool
  split
  · exact .error _
  · exact .ite (.error _) (.ite (.error _) (.ok (by simp [hm])))

@[simp] theorem unmapRegion_wf {s : State} (region c : Nat) (hm : Memory.wf s.mem) : Memory.wf (unmapRegion s region c).1.mem := by
  unfold unmapRegion
  dsimp only
  split
  · exact hm
  · exact foldl_fst_wf (fun t p ht => by simp [ht]) _ (by simp [hm])

@[simp] theorem beginReassign_wf {s : State} (region w : Nat) (hm : Memory.wf s.mem) : Memory.wf (beginReassign s region w).mem :=
  foldl_fst_wf (β := List Nat) (t := (s, [])) (fun t e ht => by simp [ht]) _ hm

@[simp] theorem endReassign_wf {s : State} (region w : Nat) (hm : Memory.wf s.mem) : Memory.wf (endReassign s region w).mem := by
  simp [endReassign, hm]

/-! ## Hazard (Sys2Proof/Machine/Hazard.lean) -/

@[simp] theorem holdGroup_mem (s : State) (blk gi : Nat) : (holdGroup s blk gi).mem = s.mem := by
  simp [holdGroup]

@[simp] theorem State.holdLanes_mem (s : State) : (s.holdLanes).mem = s.mem := by
  simp [State.holdLanes]

/-! ## Issue (Sys2Proof/Machine/Issue.lean) -/

@[simp] theorem pickIssues_mem (s : State) : (pickIssues s).mem = s.mem := by
  simp [pickIssues]

/-! ## Cycle (Sys2Proof/Machine/Cycle.lean) -/

@[simp] theorem State.onRunning_mem (s : State) (f : Group → Group) : (s.onRunning f).mem = s.mem := by
  simp [State.onRunning]

@[simp] theorem State.completeCtxs_mem (s : State) : (s.completeCtxs).mem = s.mem := by
  simp [State.completeCtxs]

@[simp] theorem State.markWaits_mem (s : State) : (s.markWaits).mem = s.mem := by
  simp [State.markWaits]

@[simp] theorem State.tick_mem (s : State) : (s.tick).mem = s.mem := by
  simp [State.tick]

@[simp] theorem State.settle_wf {s : State} (hm : Memory.wf s.mem) : Memory.wf s.settle.mem := by
  have hluna : Memory.wf ((s.launchWaiting.cores.filter (fun e => !e.2.luna.isEmpty)).foldl (fun s e => lunaCycle s e.1) s.launchWaiting).mem :=
    foldl_wf (fun t e ht => by simp [ht]) _ (by simp [hm])
  simp only [State.settle]
  simp [hluna]



@[simp] theorem endCycle_wf {s : State} (hm : Memory.wf s.mem) : Memory.wf (endCycle s).mem := by
  simp [endCycle, hm]

/-! ## Step (Sys2Proof/Machine/Step.lean) -/







/-! ## Words of memory -/

theorem runMem_inForm {s : State} (use : List Nat) (g : Guard) (ext : Bool) (gate : State → Focus → Nat → Option Wait)
    (chk : State → Focus → Nat → Chk) {go : Focus → State → Nat → Chk → State × Option Next}
    (hgo : ∀ (t : State) (f : Focus) (i : Nat) (c : Chk), Memory.wf t.mem → Memory.wf (go f t i c).1.mem)
    (hm : Memory.wf s.mem) : EndsInForm (runWord s use (memWord g ext gate chk go)) :=
  runWord_inForm use (fun _ f ht => memWord_inForm g ext gate chk hgo f ht) hm

theorem execPrf_inForm {s : State} (m : MForm) (off : BitVec 14) (hm : Memory.wf s.mem) : EndsInForm (execPrf m off s) := by
  refine runWord_inForm _ (fun t f ht => ?_) hm
  dsimp only
  split
  · exact .trap _
  · exact .ok (by simp [ht])

theorem execWcnt_inForm {s : State} (f : FForm) (ld st cp tl : BitVec 3) (hm : Memory.wf s.mem) : EndsInForm (execWcnt f ld st cp tl s) :=
  runWord_inForm _ (fun _ _ ht => .ite (.ok ht) (.ite (.ok (by simp [ht])) (.ok ht))) hm

theorem execCnget_inForm {s : State} (x : FForm) (acq toScalar : Bool) (hm : Memory.wf s.mem) : EndsInForm (execCnget x acq toScalar s) := by
  refine .ite (runWord_inForm _ (fun t f ht => ?_) hm) (runMem_inForm _ _ _ _ _ (fun _ _ _ _ hu => by simp [hu]) hm)
  have he : (memWord x.g false (fun s f i => s.gate f i true false false .gl) (counterChk x.a .read .load) (fun f s i c =>
      if i = (lowestActing t f x.g).getD 0 then counterRead acq (.scalar x.d.toNat 2) none f s i c else (s, none)) t f).InForm := by
    refine memWord_inForm _ _ _ _ (fun u f i c hu => ?_) f ht
    split <;> simp [hu]
  dsimp only
  split
  · next h =>
    have hu := Eff.inForm_ok.mp (h ▸ he)
    exact .ite (.ok hu) (.ok hu)
  · exact he

theorem execCnwait_inForm {s : State} (x : FForm) (acq : Bool) (hm : Memory.wf s.mem) : EndsInForm (execCnwait x acq s) := by
  unfold execCnwait
  refine runWord_inForm _ (fun t f ht => ?_) hm
  have he : (memWord x.g false (orGate (fun s f i => s.gate f i true false false .gl) (overlapGate 8 (counterChk x.a .read .load)))
      (counterChk x.a .read .load) (cnwaitLane x acq) t f).InForm :=
    memWord_inForm _ _ _ _ (fun u f i c hu => by simp [hu]) f ht
  split
  · next h =>
    split
    · next hp => exact .stop (portStop_mem _ _ _ _ hp ▸ ht)
    · exact .ok (Eff.inForm_ok.mp (h ▸ he))
  · exact he

theorem execTrig_inForm {s : State} (x : FForm) (hm : Memory.wf s.mem) : EndsInForm (execTrig x s) := by
  refine runWord_inForm _ (fun t f ht => ?_) hm
  have he : (memWord x.g true (orGate (fun s f i => s.gate f i true true false .gl) quietGate) (trigChk x) (trigLane x) t f).InForm :=
    memWord_inForm _ _ _ _ (fun u f i c hu => by simp [hu]) f ht
  split
  · next h =>
    split
    · next hp => exact .stop (portStop_mem _ _ _ _ hp ▸ ht)
    · exact .ok (Eff.inForm_ok.mp (h ▸ he))
  · exact he

theorem execTrigx_inForm {s : State} (x : FForm) (hm : Memory.wf s.mem) : EndsInForm (execTrigx x s) := by
  refine runWord_inForm _ (fun t f ht => .ite (.trap _) (.ok (foldl_wf (fun u i hu => ?_) _ ht))) hm
  dsimp only
  split <;> simp [hu]

theorem execLdn_inForm {s : State} (m : MForm) (off : BitVec 14) (hm : Memory.wf s.mem) : EndsInForm (execLdn m off s) := by
  refine runWord_inForm _ (fun t f ht => ?_) hm
  dsimp only
  generalize { f with lanes := f.lanes.filter (fun i => !((t.acting f m.g).filter (fun i => (t.flane f i).gran.isSome)).contains i) } = fresh
  have he : (memWord m.g false (fun s f i => s.gate f i true false false .gl) (checkM m (scaled off 16) 16 [.read] .load false)
      (ldnLane m) t fresh).InForm :=
    memWord_inForm _ _ _ _ (fun u f i c hu => by simp [hu]) fresh ht
  split
  · next h =>
    have hu := Eff.inForm_ok.mp (h ▸ he)
    split
    · next hd => exact .ok (Eff.inForm_ok.mp (hd ▸ deliverWants_inForm _ _ _ _ hu))
    · exact deliverWants_inForm _ _ _ _ hu
  · exact he

/-! ## Words of control -/

theorem execJoin_inForm {s : State} (x : FForm) (hm : Memory.wf s.mem) : EndsInForm (execJoin x s) := by
  refine thenDeadlock_inForm s (runWord_inForm _ (fun t f ht => ?_) hm)
  split
  · exact .ok ht
  · exact .ok (by simp [ht])

theorem execJwait_inForm {s : State} (x : FForm) (bounded : Bool) (j : BitVec 3) (hm : Memory.wf s.mem) :
    EndsInForm (execJwait x bounded j s) := by
  refine thenDeadlock_inForm s (runWord_inForm _ (fun t f ht => ?_) hm)
  dsimp only
  split
  · exact .ok (by simp [ht])
  · exact .ok ht

theorem execRet_inForm {s : State} (x : FForm) (hm : Memory.wf s.mem) : EndsInForm (execRet x s) := by
  refine thenDeadlock_inForm s (runWord_inForm _ (fun t f ht => .ite (.trapNow _) ?_) hm)
  have he : (stackWord x.g popCheck (stackGate popCheck) popLane t f).InForm := stackWord_inForm _ _ _ (fun u f i c hu => by simp [hu]) f ht
  dsimp only
  split
  · next h =>
    split
    · next hp => exact .stop (portStop_mem _ _ _ _ hp ▸ ht)
    · exact .ok (by simp [Eff.inForm_ok.mp (h ▸ he)])
  · exact he

theorem execYld_inForm {s : State} (x : FForm) (hm : Memory.wf s.mem) : EndsInForm (execYld x s) := by
  refine runWord_inForm _ (fun t f ht => ?_) hm
  split
  · exact .ok ht
  · exact .ite (.ok ht) (.ok (by simp [ht]))

theorem execRgrow_inForm {s : State} (x : FForm) (hm : Memory.wf s.mem) : EndsInForm (execRgrow x s) := by
  refine thenRegDeadlock_inForm s (runWord_inForm _ (fun t f ht => ?_) hm)
  split
  · exact .ok ht
  · exact .ite (.ok (by simp [ht])) (.ok (by simp [ht]))

theorem execRshrink_inForm {s : State} (x : FForm) (hm : Memory.wf s.mem) : EndsInForm (execRshrink x s) := by
  refine runWord_inForm _ (fun t f ht => ?_) hm
  split
  · exact .ok ht
  · exact .ok (by simp [ht])

theorem execRgrowGrant_inForm {s : State} (core : Nat) (hm : Memory.wf s.mem) : EndsInForm (execRgrowGrant core s) := by
  unfold execRgrowGrant
  split
  · exact .next hm
  · exact .next (by simp [hm])

theorem execMembershipTimeout_inForm {s : State} (blk grp pc : Nat) (hm : Memory.wf s.mem) :
    EndsInForm (execMembershipTimeout blk grp pc s) := by
  unfold execMembershipTimeout
  dsimp only
  split
  · exact .next hm
  · exact .next (by simp [hm])

theorem execRdsr_inForm {s : State} (x : FForm) (ty : Ty) (toScalar : Bool) (hm : Memory.wf s.mem) : EndsInForm (execRdsr x ty toScalar s) := by
  refine .ite (runWord_inForm _ (fun t f ht => ?_) hm) (runWord_inForm _ (fun t f ht => eachLane_inForm _ _ _ ht) hm)
  split
  · exact .ok ht
  · exact .ok (by simp [ht])

/-! ## Words of barriers, kernels and the system -/

theorem execBinit_inForm {s : State} (x : FForm) (rsp : Bool) (hm : Memory.wf s.mem) : EndsInForm (execBinit x rsp s) :=
  runWord_inForm _ (fun _ f ht => barrierWord_inForm _ _ _ _ _ _ (fun _ _ _ _ _ hu => .ite (.trap _) (.ok (by simp [hu]))) f ht) hm

theorem execBarr_inForm {s : State} (x : FForm) (rsp grp rlx : Bool) (hm : Memory.wf s.mem) : EndsInForm (execBarr x rsp grp rlx s) :=
  runWord_inForm _ (fun _ f ht => barrierWord_inForm _ _ _ _ _ _ (fun _ f ls _ p hu => arriveOn_inForm f ls _ p _ _ hu) f ht) hm

theorem execBwait_inForm {s : State} (x : FForm) (rsp rlx : Bool) (hm : Memory.wf s.mem) : EndsInForm (execBwait x rsp rlx s) :=
  runWord_inForm _ (fun _ f ht => barrierWord_inForm _ _ _ _ _ _
    (fun _ _ _ _ _ hu => .ite (.ok (by simp [hu])) (.ite (.trap _) (.ok hu))) f ht) hm

theorem execBtest_inForm {s : State} (x : FForm) (rsp rlx : Bool) (hm : Memory.wf s.mem) : EndsInForm (execBtest x rsp rlx s) := by
  refine runWord_inForm _ (fun _ f ht => barrierWord_inForm _ _ _ _ _ _ (fun _ _ _ _ _ hu => .ok ?_) f ht) hm
  split <;> simp [hu]

theorem execElect_inForm {s : State} (x : FForm) (role : Bool) (hm : Memory.wf s.mem) : EndsInForm (execElect x role s) := by
  refine runWord_inForm _ (fun t f ht => ?_) hm
  dsimp only
  split
  · exact .ok ht
  · exact .ok (by simp [ht])

theorem execLead_inForm {s : State} (x : FForm) (hm : Memory.wf s.mem) : EndsInForm (execLead x s) := by
  refine runWord_inForm _ (fun t f ht => ?_) hm
  split
  · exact .ok ht
  · exact .ok (by simp [ht])

theorem execLeadAdv_inForm {s : State} (x : FForm) (hm : Memory.wf s.mem) : EndsInForm (execLeadAdv x s) := by
  refine runWord_inForm _ (fun t f ht => ?_) hm
  split
  · exact .ok ht
  · exact .ite (.trap _) (.ite (.ok (by simp [ht])) (.ok (by simp [ht])))

theorem execKtrig_inForm {s : State} (x : FForm) (hm : Memory.wf s.mem) : EndsInForm (execKtrig x s) :=
  runWord_inForm _ (fun _ _ ht => .ite (.ok ht) (.ite (.trap _) (.ite (.ok ht) (.ok (by simp [ht]))))) hm

theorem execKwait_inForm {s : State} (x : FForm) (hm : Memory.wf s.mem) : EndsInForm (execKwait x s) := by
  refine runWord_inForm _ (fun t f ht => .ite (.ok ht) ?_) hm
  split
  · exact .ok ht
  · exact .ok (by simp [ht])

theorem execTret_inForm {s : State} (x : FForm) (next : Bool) (hm : Memory.wf s.mem) : EndsInForm (execTret x next s) := by
  refine runWord_inForm _ (fun t f ht => ?_) hm
  split
  · exact .trap _
  · exact .ok (by simp [ht])

theorem execEmget_inForm {s : State} (x : FForm) (hm : Memory.wf s.mem) : EndsInForm (execEmget x s) := by
  refine runWord_inForm _ (fun t f ht => ?_) hm
  split
  · exact .trap _
  · exact .ite (.trap _) (eachLane_inForm _ _ _ ht)

theorem execEmset_inForm {s : State} (x : FForm) (dst : EmTarget) (hm : Memory.wf s.mem) : EndsInForm (execEmset x dst s) := by
  refine runWord_inForm _ (fun t f ht => ?_) hm
  split
  · exact .trap _
  · exact eachLane_inForm _ _ _ ht

theorem execHalt_inForm {s : State} (x : FForm) (hm : Memory.wf s.mem) : EndsInForm (execHalt x s) := by
  refine runWord_inForm _ (fun t f ht => ?_) hm
  split
  · exact .ok ht
  · exact .ite (.trapNow _) (.stop (by simp [ht]))

/-! ## Events of engines, names and services -/

theorem execObjectResolution_inForm {s : State} (res : Nat) (hm : Memory.wf s.mem) : EndsInForm (execObjectResolution res s) := by
  refine eventOpt_inForm (map_wf fun r _ => ?_) hm
  have hr := resolve_inForm r.ctx r.home r.serial r.rights.toNat hm
  split
  · next h =>
    rw [h] at hr
    cases hr with
    | out _ ht => simp [ht]
  · next h =>
    rw [h] at hr
    cases hr with
    | fetching _ ht => split <;> simp [ht]

theorem execObjectHomeMove_inForm {s : State} (ctx slot home addr : Nat) (hm : Memory.wf s.mem) :
    EndsInForm (execObjectHomeMove ctx slot home addr s) := by
  refine eventOpt_inForm ?_ hm
  split
  · refine map_wf fun r hr => ?_
    have ht := moveObject_wf _ _ _ _ hm r hr
    simp [ht]
  · simp

theorem execSpawnTimerExpiry_inForm {s : State} (core bin : Nat) (hm : Memory.wf s.mem) : EndsInForm (execSpawnTimerExpiry core bin s) := by
  refine .next ?_
  split
  · exact hm
  · dsimp only
    split <;> simp [hm]

theorem execKtrigReleaseComplete_inForm {s : State} (blk : Nat) (hm : Memory.wf s.mem) : EndsInForm (execKtrigReleaseComplete blk s) := by
  refine .next ?_
  split <;> simp [hm]

theorem execUnitPlacement_inForm {s : State} (die : Nat) (hm : Memory.wf s.mem) : EndsInForm (execUnitPlacement die s) :=
  .next (getD_wf (fun t ht => State.placeTurn_mem s die t ht ▸ hm) hm)

theorem execPreemptionGraceExpiry_inForm {s : State} (die : Nat) (hm : Memory.wf s.mem) : EndsInForm (execPreemptionGraceExpiry die s) := by
  refine .next ?_
  split
  · exact hm
  · simp [hm]

theorem execYieldExpiry_inForm {s : State} (blk grp lane : Nat) (hm : Memory.wf s.mem) : EndsInForm (execYieldExpiry blk grp lane s) := by
  refine .next ?_
  split
  · split <;> simp [hm]
  · exact hm

theorem execPreemptionHalt_inForm {s : State} (blk : Nat) (hm : Memory.wf s.mem) : EndsInForm (execPreemptionHalt blk s) := by
  refine event_inForm _ ?_ hm
  split <;> simp [hm]

theorem execCodePrefetch_inForm {s : State} (core : Nat) (hm : Memory.wf s.mem) : EndsInForm (execCodePrefetch core s) := by
  refine event_inForm _ ?_ hm
  split <;> simp [hm]

theorem execCopyEngineCommandStart_inForm {s : State} (cmd : Nat) (hm : Memory.wf s.mem) : EndsInForm (execCopyEngineCommandStart cmd s) := by
  refine .next (getD_wf (bind_wf fun c _ => ?_) hm)
  split
  · exact startCmd_wf c hm
  · simp

theorem execSendListEntry_inForm {s : State} (cmd : Nat) (hm : Memory.wf s.mem) : EndsInForm (execSendListEntry cmd s) := by
  refine .next (getD_wf (bind_wf fun c _ => ?_) hm)
  split
  · exact sendEntry_wf c hm
  · simp

theorem execRemoteFault_inForm {s : State} (cmd : Nat) (hm : Memory.wf s.mem) : EndsInForm (execRemoteFault cmd s) := by
  refine .next (getD_wf (bind_wf fun c _ => map_wf fun p _ => ?_) hm)
  split <;> simp [hm]

theorem execLoadReply_inForm {s : State} (req : Nat) (hm : Memory.wf s.mem) : EndsInForm (execLoadReply req s) := by
  refine eventOpt_inForm (bind_wf fun r _ => ?_) hm
  split
  · exact State.replyIn_wf r hm
  · simp

theorem execStoreAck_inForm {s : State} (req : Nat) (hm : Memory.wf s.mem) : EndsInForm (execStoreAck req s) := by
  refine eventOpt_inForm (bind_wf fun r _ => ?_) hm
  split
  · simp
  · exact State.replyIn_wf r hm

theorem execHostCall_inForm {s : State} (ctx : Nat) (hm : Memory.wf s.mem) : EndsInForm (execHostCall ctx s) := by
  refine eventOpt_inForm (map_wf fun k _ => ?_) hm
  dsimp only
  split
  · simp [hm]
  · next t _ h =>
    have ht : Memory.wf t.mem := State.callBytes_wf _ _ _ (State.fillRange_wf _ _ _ hm) _ h
    split
    · simp [hm]
    · split <;> simp [hm, ht]

theorem execSleep_inForm {s : State} (ctx : Nat) (hm : Memory.wf s.mem) : EndsInForm (execSleep ctx s) := by
  refine eventOpt_inForm (map_wf fun k _ => ?_) hm
  dsimp only
  split <;> simp [hm]

theorem execFirmwareSwitch_inForm {s : State} (hm : Memory.wf s.mem) : EndsInForm (execFirmwareSwitch s) := by
  refine eventOpt_inForm (bind_wf fun d _ => ?_) hm
  split <;> simp [hm]

theorem execThresholdNotification_inForm {s : State} (ctx : Nat) (hm : Memory.wf s.mem) : EndsInForm (execThresholdNotification ctx s) := by
  refine eventOpt_inForm (bind_wf fun n _ => ?_) hm
  split <;> simp [hm]

/-! ## Events of the device, its links and its sessions -/

theorem execFenceRequest_inForm {s : State} (asker target : Nat) (hm : Memory.wf s.mem) : EndsInForm (execFenceRequest asker target s) := by
  refine event_inForm _ ?_ hm
  dsimp only
  split <;> simp [hm]

theorem execFlitReceive_inForm {s : State} (link seq world : Nat) (crcOk : Bool) (tag : FlitTag) (hm : Memory.wf s.mem) :
    EndsInForm (execFlitReceive link seq world crcOk tag s) := by
  refine event_inForm _ ?_ hm
  split
  · dsimp only
    split <;> simp [hm]
  · simp [hm]

theorem execLinkTrained_inForm {s : State} (link peer : Nat) (hm : Memory.wf s.mem) : EndsInForm (execLinkTrained link peer s) := by
  refine event_inForm _ ?_ hm
  split <;> simp [hm]

theorem execLinkPortFail_inForm {s : State} (link : Nat) (hm : Memory.wf s.mem) : EndsInForm (execLinkPortFail link s) := by
  refine event_inForm _ ?_ hm
  split <;> simp [hm]

theorem execHostTrayTableUpdate_inForm {s : State} (session link domain : Nat) (hm : Memory.wf s.mem) :
    EndsInForm (execHostTrayTableUpdate session link domain s) := by
  unfold execHostTrayTableUpdate
  refine fromRing_inForm session (fun t ht => ?_) hm
  split
  · simp [ht]
  · split <;> simp [ht]

theorem execFabricPacketArrival_inForm {s : State} (src : Sender) (world seq : Nat) (peer : Option Nat) (addr : Nat) (op : FabricOp)
    (arrival : BitVec 32) (hm : Memory.wf s.mem) : EndsInForm (execFabricPacketArrival src world seq peer addr op arrival s) := by
  unfold execFabricPacketArrival
  refine event_inForm _ ?_ hm
  split
  · exact drain_wf _ _ (by simp [hm])
  · dsimp only
    split <;> simp [hm]

theorem execFunctionLevelReset_inForm {s : State} (hm : Memory.wf s.mem) : EndsInForm (execFunctionLevelReset s) := by
  refine .next ?_
  split <;> simp [hm]

theorem execIdeKmRequest_inForm {s : State} (session stream : Nat) (intact : Bool) (hm : Memory.wf s.mem) :
    EndsInForm (execIdeKmRequest session stream intact s) := by
  refine event_inForm _ ?_ hm
  split
  · exact hm
  · split <;> simp [hm]

theorem execBar2Access_inForm {s : State} (stream world addr : Nat) (intact write : Bool) (bytes : List Byte) (hm : Memory.wf s.mem) :
    EndsInForm (execBar2Access stream world addr intact write bytes s) := by
  refine .next ?_
  split <;> simp [hm]

theorem execFirewallReassign_inForm {s : State} (region world : Nat) (hm : Memory.wf s.mem) :
    EndsInForm (execFirewallReassign region world s) := by
  refine .next ?_
  split <;> split <;> simp [hm]

theorem execTeardownWorld_inForm {s : State} (session world : Nat) (hm : Memory.wf s.mem) : EndsInForm (execTeardownWorld session world s) :=
  command_inForm session (fun _ ht => .ite (.ok (by simp [ht])) (.error _)) hm

theorem execFirmwareUpdate_inForm {s : State} (session : Nat) (digest : BitVec 384) (hm : Memory.wf s.mem) :
    EndsInForm (execFirmwareUpdate session digest s) :=
  command_inForm session (fun _ ht => .ite (.ok ht) (.error _)) hm

/-! ## Every instruction -/

theorem exec_inForm (i : Instr) {s : State} (hm : Memory.wf s.mem) : EndsInForm (exec i s) := by
  cases i
  all_goals unfold exec
  case add | addL | sub | mul | mulL | mulh | mad | div | rem | min | max | abs | neg | mulmod | andB | andL | orB | orL | xorB | xorL |
      notB | shl | shr | sra | rol | clz | popc | brev | bfe | bfi | cmp | sel =>
    exact runLanes_inForm _ _ _ hm
  case fadd | faddL | fsub | fmul | fmulL | ffma | fmin | fmax | fabs | fneg | fcmp | fdiv | frcp | frsq | fsqrt | fexp2 | flog2 | fsin |
      fcos | fclass | frnd | cvt | pack | unpack | lmul | lcvt | ldot =>
    exact runLanes_inForm _ _ _ hm
  case nopHalf | addHalf | subHalf | mulHalf | andHalf | orHalf | xorHalf | shlHalf | shrHalf | sraHalf | minI32Half | maxI32Half |
      minN32Half | maxN32Half | movHalf | faddHalf | fsubHalf | fmulHalf | fminHalf | fmaxHalf =>
    exact runPair_inForm _ _ _ hm
  case mov | movl => exact .ite (runScalar_inForm _ _ _ _ _ hm) (runLanes_inForm _ _ _ hm)
  case rdsr => exact execRdsr_inForm _ _ _ hm
  case nop => exact runWord_inForm _ (fun _ _ ht => .ok ht) hm
  case bra | brx => exact runWord_inForm _ (fun _ f ht => branch_inForm f _ ht) hm
  case call | callx => exact runWord_inForm _ (fun _ f ht => callTo_inForm _ _ f ht) hm
  case ret => exact execRet_inForm _ hm
  case join => exact execJoin_inForm _ hm
  case jwait => exact execJwait_inForm _ _ _ hm
  case jdrop | exit => exact thenDeadlock_inForm _ (runWord_inForm _ (fun _ _ ht => .ok (by simp [ht])) hm)
  case yld => exact execYld_inForm _ hm
  case loop | lbrk => exact runWord_inForm _ (fun _ f ht => eachNext_inForm _ _ f ht) hm
  case rgrow => exact execRgrow_inForm _ hm
  case rshrink => exact execRshrink_inForm _ hm
  case vote | shfl | matchK => exact runWord_inForm _ (fun _ f ht => joinExec_inForm f _ _ _ _ ht) hm
  case lred | lscan => exact reduceWord_inForm _ _ _ _ _ _ hm
  case ld | ldSp | ldq | ldqSp => exact loadWord_inForm _ _ _ _ _ hm
  case st | stSp | stq | stqSp => exact storeWord_inForm _ _ _ _ hm
  case prf => exact execPrf_inForm _ _ hm
  case wcnt => exact execWcnt_inForm _ _ _ _ _ hm
  case cinv | fence | pfetch | prel => exact runWord_inForm _ (fun _ _ ht => .ok (by simp [ht])) hm
  case cwb | atom | cas | kcas | kenq | kdeq | kchase | cnadd | cnset | stn =>
    exact runMem_inForm _ _ _ _ _ (fun _ _ _ _ ht => by simp [ht]) hm
  case cnget => exact execCnget_inForm _ _ _ hm
  case cnwait => exact execCnwait_inForm _ _ hm
  case trig => exact execTrig_inForm _ hm
  case trigx => exact execTrigx_inForm _ hm
  case ldn => exact execLdn_inForm _ _ hm
  case peq | pinfo | pnam => exact runWord_inForm _ (fun _ f ht => desWord_inForm _ _ _ f ht) hm
  case padd | psub => exact ptrAddWord_inForm _ _ hm
  case pswz => exact runWord_inForm _ (fun _ f ht => deliverWants_inForm _ _ f _ ht) hm
  case tld | tst | tzero | bsld | bsinv | tcvt | tact | tred | tmma | tloop | tmmod | tntt =>
    exact runWord_inForm _ (fun _ f ht => tileWord_inForm _ _ f ht) hm
  case hld | hst | hmset => exact imageWord_inForm _ _ _ _ hm
  case hmov | hxor | hrot | hthr | hgen => exact writesHv_inForm _ _ _ _ hm
  case hacc | hclr | hpop | hdist | htie =>
    exact runHyper_inForm _ _ _ (fun _ _ _ ht => .ok (by simp only [State.modCtx_mem, State.onGroup_mem, ht])) hm
  case hmatch => exact runHyper_inForm _ _ _ (fun _ f i ht => hmatchWord_inForm _ _ _ f i ht) hm
  case cpy | nwr | nrd | natom | nlist => exact runWord_inForm _ (fun _ f ht => engineWord_inForm _ _ _ f ht) hm
  case binit => exact execBinit_inForm _ _ hm
  case barr => exact execBarr_inForm _ _ _ _ hm
  case bwait => exact execBwait_inForm _ _ _ hm
  case btest => exact execBtest_inForm _ _ _ hm
  case elect => exact execElect_inForm _ _ hm
  case lead => exact execLead_inForm _ hm
  case leadAdv => exact execLeadAdv_inForm _ hm
  case spawn => exact runWord_inForm _ (fun _ f ht => spawnWord_inForm _ f ht) hm
  case klaunch => exact runWord_inForm _ (fun _ f ht => klaunchWord_inForm _ _ f ht) hm
  case ktrig => exact execKtrig_inForm _ hm
  case kwait => exact execKwait_inForm _ hm
  case idem => exact runWord_inForm _ (fun _ _ ht => .ite (.ok ht) (.ite (.trap _) (.ok (by simp [ht])))) hm
  case idemx => exact runWord_inForm _ (fun _ _ ht => .ite (.ok ht) (.ok (by simp [ht]))) hm
  case sys => exact thenPost_inForm _ (runWord_inForm _ (fun _ _ ht => .ite (.trap _) (.ite (.trap _) (.ok ht))) hm)
  case tret => exact execTret_inForm _ _ hm
  case emget => exact execEmget_inForm _ hm
  case emset => exact execEmset_inForm _ _ hm
  case csrr | fexr | pgq | lnkq | wid => exact runWord_inForm _ (fun _ f ht => valueWord_inForm _ _ _ _ _ f ht) hm
  case csrw => exact runWord_inForm _ (fun _ f ht => csrwWord_inForm _ f ht) hm
  case csrwParkThreshold | csrwSpawnTimer => exact runWord_inForm _ (fun _ f ht => csrwAt_inForm _ _ f ht) hm
  case halt => exact execHalt_inForm _ hm
  case pginv => exact runWord_inForm _ (fun _ f ht => pginvWord_inForm _ _ f ht) hm
  case vtDecl | vtMma | vtMap | vtRed => exact runVirtual_inForm _ _ (fun _ _ _ _ ht => .ok (by simp [ht])) hm
  case vtLd => exact runVirtual_inForm _ _ (fun x _ f i ht => vtAccess_inForm _ _ (fun x rs _ f i hu => vtLoadAt_wf x rs f i hu) x f i ht) hm
  case vtSt => exact runVirtual_inForm _ _ (fun x _ f i ht => vtAccess_inForm _ _ (fun x rs _ f i hu => vtStoreAt_wf x rs f i hu) x f i ht) hm
  case unassignedOpcodeWord => exact runTrap_inForm _ hm
  case candidateAged => exact .next (by simp [hm])
  case membershipTimeout => exact execMembershipTimeout_inForm _ _ _ hm
  case yieldExpiry => exact execYieldExpiry_inForm _ _ _ hm
  case rgrowGrant => exact execRgrowGrant_inForm _ hm
  case laneResultArrival | jwaitTimeout | blockRetire | instanceRetire | blockSaveComplete | parkThresholdExpiry | leadCountUpdate =>
    exact event_inForm _ (by simp [hm]) hm
  case thresholdNotification => exact execThresholdNotification_inForm _ hm
  case unitPlacement => exact execUnitPlacement_inForm _ hm
  case preemptionGraceExpiry => exact execPreemptionGraceExpiry_inForm _ hm
  case preemptionHalt => exact execPreemptionHalt_inForm _ hm
  case spawnTimerExpiry => exact execSpawnTimerExpiry_inForm _ _ hm
  case ktrigReleaseComplete => exact execKtrigReleaseComplete_inForm _ hm
  case codePrefetch => exact execCodePrefetch_inForm _ hm
  case homeSliceRequest => exact eventOpt_inForm (bind_wf fun r _ => homeSlice_wf r hm) hm
  case clusterAtomicUnitRequest => exact eventOpt_inForm (bind_wf fun r _ => clusterAtomic_wf r hm) hm
  case remoteScratchpadRequest => exact eventOpt_inForm (bind_wf fun r _ => scratchpadRequest_wf r hm) hm
  case combiningArrival => exact eventOpt_inForm (bind_wf fun r _ t ht => combineArrive_mem s r t ht ▸ hm) hm
  case kneaderPacketPerform => exact eventOpt_inForm (bind_wf fun r _ => kneadPacket_wf r hm) hm
  case noticeApply | replicaLineInstall | atomicWriteBackComplete | combinedRequestForward | decombineReply =>
    exact eventOpt_inForm (map_wf fun _ _ => by simp [hm]) hm
  case loadReply => exact execLoadReply_inForm _ hm
  case storeAck => exact execStoreAck_inForm _ hm
  case atomicLeaseExpiry | combiningRecordExpiry => exact event_inForm _ (by simp [hm]) hm
  case objectResolution => exact execObjectResolution_inForm _ hm
  case fetchComplete => exact eventOpt_inForm (fetchDone_wf _ _ hm) hm
  case fetchLost | slotEviction | slotInvalidationAck | pageFillFail | invalidationAck => exact event_inForm _ (by simp [hm]) hm
  case objectHomeMove => exact execObjectHomeMove_inForm _ _ _ _ hm
  case pageFillComplete => exact eventOpt_inForm (bind_wf fun p _ => fillDone_wf p hm) hm
  case invalidationReceipt => exact eventOpt_inForm (map_wf fun _ _ => by simp [hm]) hm
  case launchAction => exact eventOpt_inForm (runAction_wf _ _ _ fun e => launchAct_wf _ _ e hm) hm
  case copyAction | networkWriteAction | networkReadAction | networkAtomicAction =>
    exact eventOpt_inForm (runAction_wf _ _ _ fun e => commandAct_wf _ _ _ e hm) hm
  case addAction => exact eventOpt_inForm (runAction_wf _ _ _ fun e => addAct_wf _ _ e hm) hm
  case wakeAction => exact eventOpt_inForm (runAction_wf _ _ _ fun e => wakeAct_wf _ _ e hm) hm
  case postAction => exact eventOpt_inForm (runAction_wf _ _ _ fun e => postAct_wf _ _ e hm) hm
  case copyEngineCommandStart => exact execCopyEngineCommandStart_inForm _ hm
  case sendListEntry => exact execSendListEntry_inForm _ hm
  case copyEngineCommandComplete => exact eventOpt_inForm (bind_wf fun c _ => completeCmd_wf c hm) hm
  case networkArrival => exact eventOpt_inForm (bind_wf fun p _ => networkArrive_wf p hm) hm
  case remoteFault => exact execRemoteFault_inForm _ hm
  case tileCommandExecute =>
    exact eventOpt_inForm (bind_wf fun c _ => State.tileThere_wf _ c _ (performTile_wf _ c hm) hm) hm
  case tileCommandComplete =>
    exact eventOpt_inForm (bind_wf fun c _ => State.tileThere_wf _ c _ (finishTile_wf _ c hm) hm) hm
  case lunaSearchComplete | sysReply | sleepExpiry | contextExit => exact eventOpt_inForm (map_wf fun _ _ => by simp [hm]) hm
  case alloc | free => exact serveLanes_inForm _ _ (fun _ _ ht => by simp [ht]) hm
  case mapObject | evictObject | print | yieldCore | queryTime | counterRegion | worldChannel =>
    exact serve_inForm _ _ (fun _ => by simp [hm]) hm
  case hostCall => exact execHostCall_inForm _ hm
  case hostCallReply => exact eventOpt_inForm (map_wf fun _ _ => by simp [hm]) hm
  case sleep => exact execSleep_inForm _ hm
  case firmwareSwitch => exact execFirmwareSwitch_inForm hm
  case contextTeardown | throttleWindowEnd | thermalTrip => exact event_inForm _ (by simp [hm]) hm
  case deviceReset => exact .next (by simp [hm])
  case uncorrectableSoftError => exact .next (softError_wf _ hm)
  case leaderElectionTimeout | heartbeatMissed | scrubComplete => exact eventOpt_inForm (map_wf fun _ _ => by simp [hm]) hm
  case pairSelfTestComplete | pairHeartbeat | pairLockstepMismatch => exact event_inForm _ (by simp [hm]) hm
  case fenceRequest => exact execFenceRequest_inForm _ _ hm
  case flitReceive => exact execFlitReceive_inForm _ _ _ _ _ hm
  case linkTrained => exact execLinkTrained_inForm _ _ hm
  case linkPortFail => exact execLinkPortFail_inForm _ hm
  case replayRequest | linkRetrainOrder | linkTrainingTimeout | linkPortRetrained | linkDropBurst | routeTableUpdate |
      linkKeyExhausted => exact event_inForm _ (by simp [hm]) hm
  case hostRead | hostWrite | hostAtomic | hostRaise => exact .next (by simp [hm])
  case hostReply => exact eventOpt_inForm (hostReply_wf _ _ hm) hm
  case poolUnitServe => exact eventOpt_inForm (serveUnit_wf hm) hm
  case poolArbiterWindowEnd => exact event_inForm _ hm hm
  case hostTrayTableUpdate => exact execHostTrayTableUpdate_inForm _ _ _ hm
  case fabricPacketArrival => exact execFabricPacketArrival_inForm _ _ _ _ _ _ _ hm
  case fabricPacketReturn => exact eventOpt_inForm (map_wf fun _ _ => by simp [hm]) hm
  case bar0Write | configWrite | lockInterfaceRequest | getDeviceInterfaceReport | startInterfaceRequest | stopInterfaceRequest =>
    exact event_inForm _ (by simp [hm]) hm
  case bar2Access => exact execBar2Access_inForm _ _ _ _ _ _ hm
  case functionLevelReset => exact execFunctionLevelReset_inForm hm
  case ideKmRequest => exact execIdeKmRequest_inForm _ _ _ hm
  case cxlMemRead | cxlMemWrite => exact .next (cxlGuarded_wf _ (by simp [hm]) hm)
  case sessionRingRequest | sessionRingReset => exact eventOpt_inForm (map_wf fun _ _ => by simp [hm]) hm
  case getVersion | getCapabilities | negotiateAlgorithms | getDigests | getCertificate | getMeasurements | keyExchange |
      finishSession | keyUpdate | spdmHeartbeat | endSession => exact spdm_inForm _ _ (fun _ ht => by simp [ht]) hm
  case assignWorld => exact command_inForm _ (fun _ ht => assign_inForm _ _ _ _ ht) hm
  case teardownWorld => exact execTeardownWorld_inForm _ _ hm
  case createContext => exact command_inForm _ (fun _ ht => create_inForm _ _ _ _ ht) hm
  case loadCode => exact command_inForm _ (fun _ ht => loadCode_inForm _ _ _ ht) hm
  case hostEnqueue => exact command_inForm _ (fun _ ht => hostEnqueue_inForm _ _ _ _ _ _ _ _ ht) hm
  case firmwareUpdate => exact execFirmwareUpdate_inForm _ _ hm
  case openPool => exact command_inForm _ (fun _ ht => openPool_inForm _ _ _ ht) hm
  case firewallReassign => exact execFirewallReassign_inForm _ _ hm

/-! ## Due events and steps -/

/-- Each due event is an instruction. -/
theorem Due.run_eq_exec (s : State) : ∀ e : Due, ∃ i, e.run s = exec i s
  | .candidateAged blk grp pc => ⟨.candidateAged blk grp pc, rfl⟩
  | .laneResultArrival blk grp lane => ⟨.laneResultArrival blk grp lane, rfl⟩
  | .jwaitTimeout blk grp j => ⟨.jwaitTimeout blk grp j, rfl⟩
  | .membershipTimeout blk grp pc => ⟨.membershipTimeout blk grp pc, rfl⟩
  | .yieldExpiry blk grp lane => ⟨.yieldExpiry blk grp lane, rfl⟩
  | .rgrowGrant core => ⟨.rgrowGrant core, rfl⟩
  | .thresholdNotification ctx => ⟨.thresholdNotification ctx, rfl⟩
  | .blockRetire blk => ⟨.blockRetire blk, rfl⟩
  | .instanceRetire inst => ⟨.instanceRetire inst, rfl⟩
  | .unitPlacement die => ⟨.unitPlacement die, rfl⟩
  | .preemptionGraceExpiry die => ⟨.preemptionGraceExpiry die, rfl⟩
  | .preemptionHalt blk => ⟨.preemptionHalt blk, rfl⟩
  | .blockSaveComplete blk => ⟨.blockSaveComplete blk, rfl⟩
  | .parkThresholdExpiry blk => ⟨.parkThresholdExpiry blk, rfl⟩
  | .spawnTimerExpiry core bin => ⟨.spawnTimerExpiry core bin, rfl⟩
  | .ktrigReleaseComplete blk => ⟨.ktrigReleaseComplete blk, rfl⟩
  | .leadCountUpdate blk nb => ⟨.leadCountUpdate blk nb, rfl⟩
  | .codePrefetch core => ⟨.codePrefetch core, rfl⟩
  | .homeSliceRequest req => ⟨.homeSliceRequest req, rfl⟩
  | .noticeApply die home => ⟨.noticeApply die home, rfl⟩
  | .replicaLineInstall die line => ⟨.replicaLineInstall die line, rfl⟩
  | .loadReply req => ⟨.loadReply req, rfl⟩
  | .storeAck req => ⟨.storeAck req, rfl⟩
  | .atomicLeaseExpiry line => ⟨.atomicLeaseExpiry line, rfl⟩
  | .atomicWriteBackComplete line => ⟨.atomicWriteBackComplete line, rfl⟩
  | .combiningArrival req => ⟨.combiningArrival req, rfl⟩
  | .combinedRequestForward die entry => ⟨.combinedRequestForward die entry, rfl⟩
  | .decombineReply die rcd => ⟨.decombineReply die rcd, rfl⟩
  | .combiningRecordExpiry die req => ⟨.combiningRecordExpiry die req, rfl⟩
  | .kneaderPacketPerform req => ⟨.kneaderPacketPerform req, rfl⟩
  | .objectResolution res => ⟨.objectResolution res, rfl⟩
  | .fetchComplete ctx slot => ⟨.fetchComplete ctx slot, rfl⟩
  | .slotInvalidationAck ctx slot core => ⟨.slotInvalidationAck ctx slot core, rfl⟩
  | .pageFillComplete ctx page => ⟨.pageFillComplete ctx page, rfl⟩
  | .pageFillFail ctx page => ⟨.pageFillFail ctx page, rfl⟩
  | .invalidationReceipt inv agent => ⟨.invalidationReceipt inv agent, rfl⟩
  | .invalidationAck inv agent => ⟨.invalidationAck inv agent, rfl⟩
  | .launchAction die idx => ⟨.launchAction die idx, rfl⟩
  | .copyAction die idx => ⟨.copyAction die idx, rfl⟩
  | .networkWriteAction die idx => ⟨.networkWriteAction die idx, rfl⟩
  | .networkReadAction die idx => ⟨.networkReadAction die idx, rfl⟩
  | .networkAtomicAction die idx => ⟨.networkAtomicAction die idx, rfl⟩
  | .addAction die idx => ⟨.addAction die idx, rfl⟩
  | .wakeAction die idx => ⟨.wakeAction die idx, rfl⟩
  | .postAction die idx => ⟨.postAction die idx, rfl⟩
  | .copyEngineCommandStart cmd => ⟨.copyEngineCommandStart cmd, rfl⟩
  | .sendListEntry cmd => ⟨.sendListEntry cmd, rfl⟩
  | .copyEngineCommandComplete cmd => ⟨.copyEngineCommandComplete cmd, rfl⟩
  | .networkArrival pkt => ⟨.networkArrival pkt, rfl⟩
  | .tileCommandExecute core => ⟨.tileCommandExecute core, rfl⟩
  | .tileCommandComplete core => ⟨.tileCommandComplete core, rfl⟩
  | .lunaSearchComplete core => ⟨.lunaSearchComplete core, rfl⟩
  | .sysReply ctx call => ⟨.sysReply ctx call, rfl⟩
  | .alloc ctx => ⟨.alloc ctx, rfl⟩
  | .free ctx => ⟨.free ctx, rfl⟩
  | .mapObject ctx => ⟨.mapObject ctx, rfl⟩
  | .evictObject ctx => ⟨.evictObject ctx, rfl⟩
  | .hostCall ctx => ⟨.hostCall ctx, rfl⟩
  | .print ctx => ⟨.print ctx, rfl⟩
  | .sleep ctx => ⟨.sleep ctx, rfl⟩
  | .sleepExpiry ctx call => ⟨.sleepExpiry ctx call, rfl⟩
  | .yieldCore ctx => ⟨.yieldCore ctx, rfl⟩
  | .queryTime ctx => ⟨.queryTime ctx, rfl⟩
  | .counterRegion ctx => ⟨.counterRegion ctx, rfl⟩
  | .worldChannel ctx => ⟨.worldChannel ctx, rfl⟩
  | .contextExit ctx => ⟨.contextExit ctx, rfl⟩
  | .firmwareSwitch => ⟨.firmwareSwitch, rfl⟩
  | .leaderElectionTimeout => ⟨.leaderElectionTimeout, rfl⟩
  | .pairHeartbeat die => ⟨.pairHeartbeat die, rfl⟩
  | .heartbeatMissed watcher => ⟨.heartbeatMissed watcher, rfl⟩
  | .fenceRequest asker target => ⟨.fenceRequest asker target, rfl⟩
  | .scrubComplete die => ⟨.scrubComplete die, rfl⟩
  | .linkTrainingTimeout link => ⟨.linkTrainingTimeout link, rfl⟩
  | .linkDropBurst link => ⟨.linkDropBurst link, rfl⟩
  | .hostReply link tag => ⟨.hostReply link tag, rfl⟩
  | .poolUnitServe => ⟨.poolUnitServe, rfl⟩
  | .poolArbiterWindowEnd => ⟨.poolArbiterWindowEnd, rfl⟩
  | .fabricPacketReturn pkt => ⟨.fabricPacketReturn pkt, rfl⟩
  | .linkKeyExhausted link world => ⟨.linkKeyExhausted link world, rfl⟩
  | .stopInterfaceRequest => ⟨.stopInterfaceRequest, rfl⟩
  | .sessionRingRequest ring => ⟨.sessionRingRequest ring, rfl⟩
  | .sessionRingReset ring => ⟨.sessionRingReset ring, rfl⟩
  | .firewallReassign region world => ⟨.firewallReassign region world, rfl⟩
  | .clusterAtomicUnitRequest req => ⟨.clusterAtomicUnitRequest req, rfl⟩
  | .remoteScratchpadRequest req => ⟨.remoteScratchpadRequest req, rfl⟩

theorem Due.run_inForm (e : Due) {s : State} (hm : Memory.wf s.mem) : EndsInForm (e.run s) := by
  obtain ⟨i, hi⟩ := Due.run_eq_exec s e
  rw [hi]
  exact exec_inForm i hm

theorem issueStep_inForm {s : State} (c : Candidate) (hm : Memory.wf s.mem) : EndsInForm (issueStep s c) := by
  have hf := fetch_inForm c hm
  unfold issueStep
  split
  · next h =>
    rw [h] at hf
    cases hf with
    | none ht => exact .next ht
  · next h =>
    rw [h] at hf
    cases hf with
    | word _ ht => exact exec_inForm _ ht

theorem trippedStep_inForm {s : State} (hm : Memory.wf s.mem) : EndsInForm (trippedStep s) := by
  unfold trippedStep
  split
  · exact exec_inForm _ hm
  · split
    · exact exec_inForm _ hm
    · exact .fault _

/-- A step is a reset of the tripped device, an event, a due event, an issue, the schedulers' pick or the cycle's end. -/
theorem step_inForm {s : State} (hm : Memory.wf s.mem) : EndsInForm (step s) := by
  unfold step
  split
  · exact trippedStep_inForm hm
  · split
    · exact exec_inForm _ hm
    · exact Due.run_inForm _ hm
    · exact issueStep_inForm _ hm
    · exact .next (by simp [hm])
    · exact .next (endCycle_wf hm)

/-- Settles O59: every write to device memory is a write of bytes, a removal of bytes, or a copy of the memory as it stood. -/
theorem stepsKeepMemoryInForm : Obligations.StepsKeepMemoryInForm := by
  intro s t hs hstep
  have ht := step_inForm hs
  rw [hstep] at ht
  exact endsInForm_next.mp ht
end Machine
end Sys2Proof

namespace Sys2Proof.Machine

/-!
# The throttle rule (O48)

`throttle` has three outcomes (01_device.md R20): a record with a decrease when something is over its limit, a record with an increase
after 100 windows under the limits, and the count of those windows alone. Each has its equation; which one applies is said in terms of
the power and of every temperature.
-/

/-! ## Power and temperatures -/

theorem foldl_max_le_iff (xs : List Nat) (a n : Nat) : xs.foldl Nat.max a ≤ n ↔ a ≤ n ∧ ∀ x ∈ xs, x ≤ n := by
  induction xs generalizing a with
  | nil => simp
  | cons x xs ih =>
    rw [List.foldl_cons, ih, show Nat.max a x ≤ n ↔ a ≤ n ∧ x ≤ n from Nat.max_le]
    simp [and_assoc]

/-- The package power or a temperature is over its limit (R20). -/
def OverLimit (power : Nat) (ts : List Nat) : Prop := 3600 < power ∨ ∃ x ∈ ts, 95 < x

/-- The package power and every temperature are under the marks for an increase (R20). -/
def UnderMarks (power : Nat) (ts : List Nat) : Prop := power < 3400 ∧ ∀ x ∈ ts, x < 90

theorem overLimit_iff {power : Nat} {ts : List Nat} :
    (decide (3600 < power) || decide (95 < ts.foldl Nat.max 0)) = true ↔ OverLimit power ts := by
  have hot : 95 < ts.foldl Nat.max 0 ↔ ∃ x ∈ ts, 95 < x := by
    rw [← Nat.not_le, foldl_max_le_iff]
    simp
  simp [OverLimit, hot]

theorem underMarks_iff {power : Nat} {ts : List Nat} :
    (decide (power < 3400) && decide (ts.foldl Nat.max 0 < 90)) = true ↔ UnderMarks power ts := by
  have cool : ts.foldl Nat.max 0 < 90 ↔ ∀ x ∈ ts, x < 90 := by
    rw [← Nat.le_sub_one_iff_lt (by decide), foldl_max_le_iff]
    simp [Nat.lt_succ_iff]
  simp [UnderMarks, cool]

theorem UnderMarks.not_overLimit {power : Nat} {ts : List Nat} (h : UnderMarks power ts) : ¬OverLimit power ts := by
  obtain ⟨hp, ht⟩ := h
  rintro (h | ⟨x, hx, h⟩)
  · omega
  · have := ht x hx
    omega

/-! ## The three outcomes -/

/-- The state after a decrease or an increase to `mhz`, with its record. -/
def State.throttledTo (s : State) (mhz cause : Nat) : State :=
  { s.logThrottle { ns := s.ns, old := s.mhz, new := mhz, cause := cause } with mhz := mhz, underRun := 0 }

theorem throttle_over {power : Nat} {ts : List Nat} (h : OverLimit power ts) (s : State) :
    throttle s power ts = s.throttledTo (if 1000 < s.mhz then s.mhz - 250 else s.mhz) (overCause power ts) :=
  if_pos (overLimit_iff.mpr h)

theorem throttle_recovers {power : Nat} {ts : List Nat} (h : UnderMarks power ts) {s : State} (hr : 100 ≤ s.underRun + 1)
    (hm : s.mhz < 4000) : throttle s power ts = s.throttledTo (s.mhz + 250) 5 := by
  unfold throttle
  dsimp only
  rw [if_neg (overLimit_iff.not.mpr h.not_overLimit), if_pos (by simp [underMarks_iff.mpr h, hr, hm])]
  rfl

theorem throttle_counts {power : Nat} {ts : List Nat} (h : UnderMarks power ts) {s : State} (hr : s.underRun + 1 < 100 ∨ 4000 ≤ s.mhz) :
    throttle s power ts = { s with underRun := s.underRun + 1 } := by
  unfold throttle
  dsimp only
  rw [if_neg (overLimit_iff.not.mpr h.not_overLimit), if_pos (underMarks_iff.mpr h), if_neg (by simp; omega)]

theorem throttle_between {power : Nat} {ts : List Nat} (hu : ¬UnderMarks power ts) (ho : ¬OverLimit power ts) (s : State) :
    throttle s power ts = { s with underRun := 0 } := by
  unfold throttle
  dsimp only
  rw [if_neg (overLimit_iff.not.mpr ho), if_neg (underMarks_iff.not.mpr hu), if_neg (by simp)]

/-- The clock of the steps of R20: 1.0 GHz and up to twelve steps of 250 MHz. -/
def ClockStep (mhz : Nat) : Prop := ∃ j, j ≤ 12 ∧ mhz = 1000 + 250 * j

theorem throttle_clockStep {s : State} (h : ClockStep s.mhz) (power : Nat) (ts : List Nat) : ClockStep (throttle s power ts).mhz := by
  obtain ⟨k, hk, hm⟩ := h
  by_cases ho : OverLimit power ts
  · rw [throttle_over ho]
    exact ⟨k - 1, by omega, by simp only [State.throttledTo]; split <;> omega⟩
  · by_cases hu : UnderMarks power ts
    · by_cases hr : 100 ≤ s.underRun + 1 ∧ s.mhz < 4000
      · rw [throttle_recovers hu hr.1 hr.2]
        exact ⟨k + 1, by omega, by simp only [State.throttledTo]; omega⟩
      · rw [throttle_counts hu (by omega)]
        exact ⟨k, hk, hm⟩
    · rw [throttle_between hu ho]
      exact ⟨k, hk, hm⟩

/-! ## The cause (R22) -/

theorem overCause_power {power : Nat} (h : 3600 < power) (ts : List Nat) : overCause power ts = 0 := if_pos h

theorem lt_length_of_hot {ts : List Nat} {d : Nat} (hot : 95 < ts.getD d 0) : d < ts.length := by
  by_contra hn
  rw [List.getD_eq_default _ _ (Nat.not_lt.mp hn)] at hot
  exact absurd hot (by decide)

/-- Below the power limit the cause names the lowest die that is too hot. -/
theorem overCause_die {power : Nat} (h : power ≤ 3600) {ts : List Nat} {d : Nat} (hot : 95 < ts.getD d 0)
    (first : ∀ e, e < d → ts.getD e 0 ≤ 95) : overCause power ts = 1 + d := by
  have hd := lt_length_of_hot hot
  have hf : ts.findIdx? (fun t => decide (95 < t)) = some d := by
    rw [List.findIdx?_eq_some_iff_getElem]
    refine ⟨hd, by simpa [hd] using hot, fun e he => ?_⟩
    have := first e he
    simpa [Nat.lt_trans he hd] using this
  rw [overCause, if_neg (by omega), hf]
  rfl

theorem overLimit_of_die {power : Nat} {ts : List Nat} {d : Nat} (hot : 95 < ts.getD d 0) : OverLimit power ts :=
  .inr ⟨ts.getD d 0, by simp [lt_length_of_hot hot], hot⟩

/-! ## The event -/

theorem exec_throttleWindowEnd_of_ended {s : State} (h : s.windowSince + 100000 ≤ s.ns) (power t0 t1 t2 t3 : Nat) :
    exec (.throttleWindowEnd power t0 t1 t2 t3) s =
      .next { throttle s power [t0, t1, t2, t3] with windowSince := s.ns / 100000 * 100000 } := by
  simp [exec, execThrottleWindowEnd, event, h]

theorem exec_throttleWindowEnd_of_not_ended {s : State} (h : ¬s.windowSince + 100000 ≤ s.ns) (power t0 t1 t2 t3 : Nat) :
    exec (.throttleWindowEnd power t0 t1 t2 t3) s = .next s := by
  simp [exec, execThrottleWindowEnd, event, h]

/-- Settles O48, by the three outcomes of the rule. -/
theorem throttleRule : Obligations.ThrottleRule := by
  intro power t0 t1 t2 t3 s
  refine ⟨fun hn => ⟨s, exec_throttleWindowEnd_of_not_ended hn .., rfl⟩, fun he cause hc => ⟨_, exec_throttleWindowEnd_of_ended he .., ?_⟩,
    fun he hu hr hm => ⟨_, exec_throttleWindowEnd_of_ended he .., ?_⟩, fun he hu hr => ⟨_, exec_throttleWindowEnd_of_ended he .., ?_⟩,
    fun he hu hp ht => ⟨_, exec_throttleWindowEnd_of_ended he .., ?_⟩, fun k t hk hm ht => ?_⟩
  · rcases hc with ⟨hp, rfl⟩ | ⟨hp, d, rfl, hot, first⟩
    · rw [throttle_over (.inl hp), overCause_power hp]
      rfl
    · rw [throttle_over (overLimit_of_die hot), overCause_die hp hot first]
      rfl
  · rw [throttle_recovers hu hr hm]
    rfl
  · rw [throttle_counts hu hr]
  · rw [throttle_between hu (by simpa [OverLimit, hp] using ht)]
  · by_cases he : s.windowSince + 100000 ≤ s.ns
    · rw [exec_throttleWindowEnd_of_ended he] at ht
      cases ht
      exact throttle_clockStep ⟨k, hk, hm⟩ power _
    · rw [exec_throttleWindowEnd_of_not_ended he] at ht
      cases ht
      exact ⟨k, hk, hm⟩

end Sys2Proof.Machine

namespace Sys2Proof.Machine

/-!
# A scrub, and a held write outside its line (O49)

O49's clause on R443 is over every state. Scrubbing goes region by region: what holders have of a region is written back, then the region
is zeroed. A write back of a later region that writes into an earlier one leaves a byte there. The model holds a write only with the line
that its address lies in (10_memory.md R219), which rules this out; the statement asks nothing of the held writes.
-/

/-- Die 0 is being scrubbed of world 1, which has regions 0 and 1. The first line of region 1 is held, with a write of byte 0, which lies
in region 0. -/
def strayWrite : State :=
  { State.reset with
    dies := [(0, { latch := .scrubbing 1 })]
    held := [{ line := 2 ^ 24, holder := 0, till := 0, writingBack := false, writes := [⟨0, 0, [1], {}⟩] }]
    mgmt := { firewall := [(0, 1), (1, 1)] } }

theorem exec_scrubComplete_strayWrite : exec (.scrubComplete 0) strayWrite = .next (scrubDone strayWrite 0 1) := rfl

/-- Region 0 is zeroed before region 1's line is written back. -/
theorem byte_scrubDone_strayWrite : Memory.byte (scrubDone strayWrite 0 1).mem 0 = 1 := by decide

/-- Refutes O49: after the scrub of `strayWrite`, byte 0 of region 0, which was the world's, is 1. -/
theorem not_deviceEventsHappen : ¬ Obligations.DeviceEventsHappen := by
  intro h
  obtain ⟨-, -, -, -, -, -, -, scrub, -⟩ := h
  obtain ⟨t, ht, -, -, -, zeroed⟩ := scrub 0 1 strayWrite rfl (by decide)
  obtain rfl : scrubDone strayWrite 0 1 = t := by simpa [exec_scrubComplete_strayWrite] using ht
  obtain ⟨-, zero⟩ := zeroed 0 (by decide)
  have byte := zero 0 (by decide) (by decide)
  rw [byte_scrubDone_strayWrite] at byte
  exact absurd byte (by decide)

end Sys2Proof.Machine

namespace Sys2Proof.Machine

/-!
# Every instruction answers a next state (O58)

One lemma for each operation that words and events share says that it goes on; `exec_goesOn` then goes through the instructions, and the
last lemmas are of a step and of a tripped device.
-/

/-! ## Outcomes that go on -/

/-- The outcome is a next state. -/
inductive GoesOn : Host.Outcome State Fault Refusal → Prop
  | next (t) : GoesOn (.next t)

theorem goesOn_iff {o : Host.Outcome State Fault Refusal} : GoesOn o ↔ ∃ t, o = .next t :=
  ⟨fun | .next t => ⟨t, rfl⟩, fun ⟨t, h⟩ => h ▸ .next t⟩

theorem GoesOn.ite {c : Prop} [Decidable c] {a b : Host.Outcome State Fault Refusal} (ha : GoesOn a) (hb : GoesOn b) :
    GoesOn (if c then a else b) := by
  split
  · exact ha
  · exact hb

/-! ## The shared operations of words -/

/-- A word goes on whatever its effect is: a trap is a next state too (21_context.md R398). -/
theorem runWord_goesOn (s : State) (use : List Nat) (act : State → Focus → Eff) : GoesOn (runWord s use act) := by
  unfold runWord
  split
  · exact .next _
  · refine .ite (.next _) ?_
    split
    · exact .next _
    · exact .next _
    · exact .ite (.next _) (.next _)
    · exact .ite (.next _) (.next _)

theorem runTrap_goesOn (s : State) (t : Trap) : GoesOn (runTrap s t) := by
  unfold runTrap
  split <;> exact .next _

theorem thenDeadlock_goesOn (s : State) {o : Host.Outcome State Fault Refusal} (ho : GoesOn o) : GoesOn (thenDeadlock s o) := by
  cases ho
  unfold thenDeadlock
  split <;> exact .next _

theorem thenRegDeadlock_goesOn (s : State) {o : Host.Outcome State Fault Refusal} (ho : GoesOn o) : GoesOn (thenRegDeadlock s o) := by
  cases ho
  unfold thenRegDeadlock
  split <;> exact .next _

theorem thenPost_goesOn (s : State) {o : Host.Outcome State Fault Refusal} (ho : GoesOn o) : GoesOn (thenPost s o) := by
  cases ho
  unfold thenPost
  split <;> exact .next _

theorem runLanes_goesOn (g : Guard) (use : List Nat) (s : State) (k : View → Nat → Lane × Events) : GoesOn (runLanes g use s k) :=
  runWord_goesOn _ _ _

theorem runPair_goesOn (fn : Option HalfFn) (h : HArgs) (y : Half) (s : State) : GoesOn (runPair fn h y s) := runLanes_goesOn _ _ _ _

theorem runScalar_goesOn (g : Guard) (use : List Nat) (s : State) (wide : Bool) (d : BitVec 9) (val : State → View → Nat → DWord) :
    GoesOn (runScalar g use s wide d val) := runWord_goesOn _ _ _

theorem reduceWord_goesOn (scan excl : Bool) (x : FForm) (m : CMods) (op : RedOp) (pk : Pack) (s : State) :
    GoesOn (reduceWord scan excl x m op pk s) := runWord_goesOn _ _ _

theorem loadWord_goesOn (m : MForm) (off : BitVec 14) (size : Nat) (dest : Dest) (use : List Nat) (s : State) :
    GoesOn (loadWord m off size dest use s) := runWord_goesOn _ _ _

theorem storeWord_goesOn (m : MForm) (off : BitVec 14) (size : Nat) (use : List Nat) (s : State) :
    GoesOn (storeWord m off size use s) := runWord_goesOn _ _ _

theorem ptrAddWord_goesOn (sub : Bool) (x : FForm) (s : State) : GoesOn (ptrAddWord sub x s) := runLanes_goesOn _ _ _ _

theorem runHyper_goesOn (g : Guard) (hs use : List Nat) (s : State) (act : State → Focus → Nat → Eff) :
    GoesOn (runHyper g hs use s act) := runWord_goesOn _ _ _

theorem writesHv_goesOn (x : FForm) (hs use : List Nat) (s : State) (val : State → Focus → Nat → HVec) :
    GoesOn (writesHv x hs use s val) := runHyper_goesOn _ _ _ _ _

theorem imageWord_goesOn (m : MForm) (use : List Nat) (off : View → Int) (store : Bool) (s : State) :
    GoesOn (imageWord m use off store s) := runHyper_goesOn _ _ _ _ _

theorem runVirtual_goesOn (w : BitVec 53) (use : List Nat) (act : FForm → State → Focus → Nat → Eff) (s : State) :
    GoesOn (runVirtual w use act s) :=
  .ite (runWord_goesOn _ _ _) (runTrap_goesOn _ _)

/-! ## The shared operations of events -/

theorem event_goesOn (s : State) (ok : Bool) (t : State) : GoesOn (event s ok t) := .next _

theorem eventOpt_goesOn (s : State) (t : Option State) : GoesOn (eventOpt s t) := .next _

theorem fromRing_goesOn (n : Nat) (s : State) (f : State → State) : GoesOn (fromRing n s f) := event_goesOn _ _ _

theorem spdm_goesOn (n : Nat) (sts : List SessSt) (f : State → State) (s : State) : GoesOn (spdm n sts f s) := fromRing_goesOn _ _ _

theorem command_goesOn (n : Nat) (f : State → Except Nat (State × Nat)) (s : State) : GoesOn (command n f s) := event_goesOn _ _ _

theorem serve_goesOn (c number : Nat) (f : State → Call → State × DWord) (s : State) : GoesOn (serve c number f s) := eventOpt_goesOn _ _

theorem serveLanes_goesOn (c number : Nat) (f : State → Nat → State × DWord) (s : State) : GoesOn (serveLanes c number f s) :=
  eventOpt_goesOn _ _

theorem execRgrowGrant_goesOn (core : Nat) (s : State) : GoesOn (execRgrowGrant core s) := by
  unfold execRgrowGrant
  split <;> exact .next _

theorem execMembershipTimeout_goesOn (blk grp pc : Nat) (s : State) : GoesOn (execMembershipTimeout blk grp pc s) := by
  unfold execMembershipTimeout
  dsimp only
  split <;> exact .next _

/-! ## Every instruction -/

theorem exec_goesOn (i : Instr) (s : State) : GoesOn (exec i s) := by
  cases i
  all_goals unfold exec
  case add | addL | sub | mul | mulL | mulh | mad | div | rem | min | max | abs | neg | mulmod | andB | andL | orB | orL | xorB | xorL |
      notB | shl | shr | sra | rol | clz | popc | brev | bfe | bfi | cmp | sel | fadd | faddL | fsub | fmul | fmulL | ffma | fmin | fmax |
      fabs | fneg | fcmp | fdiv | frcp | frsq | fsqrt | fexp2 | flog2 | fsin | fcos | fclass | frnd | cvt | pack | unpack | lmul | lcvt |
      ldot =>
    exact runLanes_goesOn _ _ _ _
  case nopHalf | addHalf | subHalf | mulHalf | andHalf | orHalf | xorHalf | shlHalf | shrHalf | sraHalf | minI32Half | maxI32Half |
      minN32Half | maxN32Half | movHalf | faddHalf | fsubHalf | fmulHalf | fminHalf | fmaxHalf =>
    exact runPair_goesOn _ _ _ _
  case mov | movl => exact .ite (runScalar_goesOn _ _ _ _ _ _) (runLanes_goesOn _ _ _ _)
  case rdsr | cnget => exact .ite (runWord_goesOn _ _ _) (runWord_goesOn _ _ _)
  case join | jwait | jdrop | exit | ret => exact thenDeadlock_goesOn _ (runWord_goesOn _ _ _)
  case rgrow => exact thenRegDeadlock_goesOn _ (runWord_goesOn _ _ _)
  case sys => exact thenPost_goesOn _ (runWord_goesOn _ _ _)
  case lred | lscan => exact reduceWord_goesOn _ _ _ _ _ _ _
  case ld | ldSp | ldq | ldqSp => exact loadWord_goesOn _ _ _ _ _ _
  case st | stSp | stq | stqSp => exact storeWord_goesOn _ _ _ _ _
  case padd | psub => exact ptrAddWord_goesOn _ _ _
  case hld | hst | hmset => exact imageWord_goesOn _ _ _ _ _
  case hmov | hxor | hrot | hthr | hgen => exact writesHv_goesOn _ _ _ _ _
  case hacc | hclr | hpop | hdist | htie | hmatch => exact runHyper_goesOn _ _ _ _ _
  case vtDecl | vtLd | vtSt | vtMma | vtMap | vtRed => exact runVirtual_goesOn _ _ _ _
  case unassignedOpcodeWord => exact runTrap_goesOn _ _
  case nop | bra | brx | call | callx | yld | loop | lbrk | rshrink | vote | shfl | matchK | prf | wcnt | cinv | fence | pfetch | prel |
      cwb | atom | cas | kcas | kenq | kdeq | kchase | cnadd | cnset | stn | trig | trigx | ldn | peq | pinfo | pnam | pswz |
      tld | tst | tzero | bsld | bsinv | tcvt | tact | tred | tmma | tloop | tmmod | tntt | cpy | nwr | nrd | natom | nlist | binit |
      barr | bwait | btest | elect | lead | leadAdv | spawn | klaunch | ktrig | kwait | idem | idemx | tret | emget | emset | csrr |
      fexr | pgq | lnkq | wid | csrw | csrwParkThreshold | csrwSpawnTimer | halt | pginv =>
    exact runWord_goesOn _ _ _
  case cnwait =>
    unfold execCnwait
    exact runWord_goesOn _ _ _
  case rgrowGrant => exact execRgrowGrant_goesOn _ _
  case membershipTimeout => exact execMembershipTimeout_goesOn _ _ _ _
  case alloc | free => exact serveLanes_goesOn _ _ _ _
  case mapObject | evictObject | print | yieldCore | queryTime | counterRegion | worldChannel => exact serve_goesOn _ _ _ _
  case getVersion | getCapabilities | negotiateAlgorithms | getDigests | getCertificate | getMeasurements | keyExchange |
      finishSession | keyUpdate | spdmHeartbeat | endSession => exact spdm_goesOn _ _ _ _
  case assignWorld | teardownWorld | createContext | loadCode | hostEnqueue | firmwareUpdate | openPool => exact command_goesOn _ _ _
  all_goals exact .next _

/-! ## Steps -/

theorem issueStep_goesOn (s : State) (c : Candidate) : GoesOn (issueStep s c) := by
  unfold issueStep
  split
  · exact .next _
  · exact exec_goesOn _ _

theorem step_goesOn {s : State} (h : s.tripped = false) : GoesOn (step s) := by
  unfold step
  rw [if_neg (by simp [h])]
  split
  · exact exec_goesOn _ _
  · next e rest _ =>
    obtain ⟨i, hi⟩ := Due.run_eq_exec { s with agenda := rest, focus := none } e
    exact hi ▸ exec_goesOn _ _
  · exact issueStep_goesOn _ _
  · exact .next _
  · exact .next _

@[simp] theorem trainHosts_tripped (s : State) : (trainHosts s).tripped = s.tripped :=
  foldl_keeps (fun t : State => t.tripped = s.tripped) _ (fun t h ht => by split <;> simp [ht]) _ _ rfl

/-- A device reset ends a thermal trip (01_device.md R23). -/
theorem execDeviceReset_restores (s : State) : ∃ t, exec .deviceReset s = .next t ∧ t.tripped = false :=
  ⟨_, rfl, by rw [trainHosts_tripped]; rfl⟩

theorem isReset_iff {i : Instr} : isReset i = true ↔ i = .deviceReset := by
  cases i <;> simp [isReset]

theorem Item.isReset_iff {x : Item} : x.isReset = true ↔ x = .event .deviceReset := by
  cases x <;> simp [Item.isReset, Machine.isReset_iff]

theorem agenda_any_isReset {xs : List Item} : xs.any Item.isReset = true ↔ Item.event .deviceReset ∈ xs := by
  simp [Item.isReset_iff]

theorem dropWhile_not_isReset {xs : List Instr} : xs.dropWhile (fun i => !isReset i) = [] ↔ Instr.deviceReset ∉ xs := by
  simp [List.dropWhile_eq_nil_iff, ← Bool.not_eq_true, isReset_iff, List.forall_mem_ne']

/-- R23: a tripped device goes on with the reset that stands in its agenda or among what has come from outside. -/
theorem trippedStep_of_reset {s : State} (h : Item.event .deviceReset ∈ s.agenda ∨ Instr.deviceReset ∈ s.inbox) :
    ∃ t, trippedStep s = .next t ∧ t.tripped = false := by
  unfold trippedStep
  split
  · exact execDeviceReset_restores _
  · next ha =>
    split
    · exact execDeviceReset_restores _
    · next hi => exact absurd h (by simp [← agenda_any_isReset, ha, dropWhile_not_isReset.mp hi])

theorem trippedStep_without_reset {s : State} (ha : Item.event .deviceReset ∉ s.agenda) (hi : Instr.deviceReset ∉ s.inbox) :
    trippedStep s = .fault .thermalTrip := by
  unfold trippedStep
  rw [if_neg (agenda_any_isReset.not.mpr ha), dropWhile_not_isReset.mpr hi]

/-- Settles O58: a word's trap and an event whose condition does not hold are next states too, so that only a tripped device stops. -/
theorem everyInstructionGoesOn : Obligations.EveryInstructionGoesOn := by
  refine ⟨fun i s => goesOn_iff.mp (exec_goesOn i s), fun s h => goesOn_iff.mp (step_goesOn h), fun s h hr => ?_, fun s h ha hi => ?_⟩
  · rw [step, if_pos h]
    exact trippedStep_of_reset hr
  · rw [step, if_pos h]
    exact trippedStep_without_reset ha hi

end Sys2Proof.Machine

namespace Sys2Proof

/-!
# The decoder reads back what the encoder writes (O55)

First each field of a word is read back from the word: fields of a concatenation, the codes of operand kinds and modifiers, and then the
formats of 03_formats.md one by one. An opcode leads the decoder to the reader of its group of majors; `encode_readsAs` goes through the
word rows, by format and reader. Pair words and words of no assigned opcode have ways of their own through the checks of R67.
-/

/-! ## Fields of a concatenation

The lemmas of the library, in a form that `simp` finds for a word whose 64 bits are the sum of its fields' widths. -/

@[simp] theorem extract_append_high {v w s l : Nat} (x : BitVec v) (y : BitVec w) (h : w ≤ s) :
    (no_index (x ++ y)).extractLsb' s l = x.extractLsb' (s - w) l :=
  BitVec.extractLsb'_append_eq_of_le h

@[simp] theorem extract_append_low {v w s l : Nat} (x : BitVec v) (y : BitVec w) (h : s + l ≤ w) :
    (no_index (x ++ y)).extractLsb' s l = y.extractLsb' s l :=
  BitVec.extractLsb'_append_eq_of_add_le h

@[simp] theorem getElem_append_ite {v w k : Nat} (x : BitVec v) (y : BitVec w) (h : k < v + w) :
    getElem (coll := BitVec (no_index (v + w))) (no_index (x ++ y)) k h = if h' : k < w then y[k] else x[k - w] :=
  BitVec.getElem_append h

@[simp] theorem getElem_bit (b : Bool) : (bit b)[0] = b := by cases b <;> rfl

/-! ## Codes of operand kinds and modifiers (R50, R52, R53) -/

theorem getSrc_bits (a : Src) : getSrc (a.bits.extractLsb' 9 2) (a.bits.extractLsb' 0 9) = a := by
  cases a <;> simp [Src.bits, getSrc]

theorem getKeep_bits (k : Keep) :
    (if k.bits[1] then (if k.bits[0] then Keep.c else .b) else (if k.bits[0] then .a else .none)) = k := by
  cases k <;> rfl

theorem getBase_bits (b : Base) : getBase b.bits[9] (b.bits.extractLsb' 0 9) = b := by
  cases b <;> simp [Base.bits, getBase]

@[simp] theorem getTy_code (t : Ty) : getTy t.code = some t := by cases t <;> rfl
@[simp] theorem getPack_bits (k : Pack) : getPack k.bits = some k := by cases k <;> rfl
@[simp] theorem getRnd_bits (r : Rnd) : getRnd r.bits = r := by cases r <;> rfl
@[simp] theorem getFTy_bits (t : FTy) : getFTy t.bits = t := by cases t <;> rfl
@[simp] theorem getCond_code (c : Cond) : getCond c.code = some c := by cases c <;> rfl
@[simp] theorem getRed_code (o : RedOp) : getRed o.code = some o := by cases o <;> rfl
@[simp] theorem getAtom_code (o : AtomOp) : getAtom o.code.toNat = some o := by cases o <;> rfl
@[simp] theorem getAtom_zero_append (o : AtomOp) : getAtom (0#2 ++ o.code).toNat = some o := by cases o <;> rfl
@[simp] theorem getVote_code (o : VoteOp) : getVote o.code = o := by cases o <;> rfl
@[simp] theorem getShfl_code (o : ShflOp) : getShfl o.code = o := by cases o <;> rfl
@[simp] theorem getScope_code (x : Scope) : getScope x.code = some x := by cases x <;> rfl
@[simp] theorem getOrder_code (x : Order) : getOrder x.code = x := by cases x <;> rfl
@[simp] theorem getSpace_code (x : Space) : getSpace x.code = x := by cases x <;> rfl
@[simp] theorem getHint_code (x : Hint) : getHint x.code = some x := by cases x <;> rfl
@[simp] theorem getExtent_code (x : Extent) : getExtent x.code = x := by cases x <;> rfl
@[simp] theorem getLinkSel_code (x : LinkSel) : getLinkSel x.code = some x := by cases x <;> rfl
@[simp] theorem getEm_code (x : EmTarget) : getEm x.code = some x := by cases x <;> rfl
@[simp] theorem getHalfOp_code (o : HalfOp) : getHalfOp o.code = some o := by cases o <;> rfl

/-- Layout A has three bits of the type code, which tell the integer types apart (R52). -/
theorem getTy_low3 {t : Ty} (h : t.isInt = true) : getTy (t.low3.setWidth 4) = some t := by
  revert h
  cases t <;> decide

/-- The cross-lane words have layout C with nothing but its type (R155). -/
theorem code_append_zero (t : Ty) : t.code ++ 0#3 = CMods.bits ⟨t, .rn, false⟩ := by cases t <;> rfl

section Selectors
variable (x : BitVec 4) (k : BitVec 3) (o : BitVec 2)

@[simp] theorem extract_high_selC : (selC x k o).extractLsb' 5 4 = x := by simp [selC]
@[simp] theorem extract_mid_selC : (selC x k o).extractLsb' 2 3 = k := by simp [selC]
@[simp] theorem extract_low_selC : (selC x k o).extractLsb' 0 2 = o := by simp [selC]
@[simp] theorem getElem_selC : (selC x k o)[0] = o[0] := by simp [selC]

end Selectors

/-! ## Modifiers: bits [6:0] of formats F and L (R52, R329) -/

section Modifiers
variable {w : DWord} {b : BitVec 7}

theorem extract_of_mods (h : w.extractLsb' 0 7 = b) {s l : Nat} (hl : s + l ≤ 7) : w.extractLsb' s l = b.extractLsb' s l := by
  rw [← h, BitVec.extractLsb'_extractLsb'_of_le hl]

theorem getElem_of_mods (h : w.extractLsb' 0 7 = b) {k : Nat} (hk : k < 7) : w[k] = b[k] := by
  subst h
  rw [BitVec.getElem_extractLsb', Nat.zero_add, BitVec.getLsbD_eq_getElem]

theorem getA_of_mods {m : AMods} (h : w.extractLsb' 0 7 = m.bits) (hi : m.ty.isInt = true) : getA w = some m := by
  simp [getA, extract_of_mods h, getElem_of_mods h, AMods.bits, getTy_low3 hi]

theorem getB_of_mods {m : BMods} (h : w.extractLsb' 0 7 = m.bits) : getB w = m := by
  simp [getB, extract_of_mods h, getElem_of_mods h, BMods.bits]

theorem getC_of_mods {m : CMods} (h : w.extractLsb' 0 7 = m.bits) : getC w = some m := by
  simp [getC, extract_of_mods h, getElem_of_mods h, CMods.bits]

theorem getCtr_of_mods {x : Ctr} (h : w.extractLsb' 0 7 = x.bits) : getCtr w = x := by
  simp [getCtr, extract_of_mods h, getElem_of_mods h, Ctr.bits]

end Modifiers

/-! ## Format F (R49) -/

section FormatF
variable (op : BitVec 10) (f : FForm) (d c : BitVec 9) (m : BitVec 7)

@[simp] theorem opcodeOf_encFWith : opcodeOf (encFWith op f d c m) = op.toNat :=
  congrArg BitVec.toNat (by simp [encFWith] : (encFWith op f d c m).extractLsb' 53 10 = op)

@[simp] theorem getElem_63_encFWith : (encFWith op f d c m)[63] = false := by simp [encFWith]

@[simp] theorem getF_encFWith : getF (encFWith op f d c m) = { f with d := d, c := c } := by
  simp [getF, encFWith, getGuard, getKeep, Guard.bits, getSrc_bits, getKeep_bits]

@[simp] theorem extract_mods_encFWith {s l : Nat} (h : s + l ≤ 7) : (encFWith op f d c m).extractLsb' s l = m.extractLsb' s l := by
  simp [encFWith, h]

@[simp] theorem getElem_mods_encFWith {k : Nat} (h : k < 7) : (encFWith op f d c m)[k] = m[k] := by simp [encFWith, h]

@[simp] theorem extract_c_encFWith {s l : Nat} (h : 9 ≤ s) (k : s + l ≤ 18) :
    (encFWith op f d c m).extractLsb' s l = c.extractLsb' (s - 9) l := by
  rw [encFWith, extract_append_high _ _ (by omega), extract_append_high _ _ (by omega), extract_append_low _ _ (by omega), Nat.sub_sub]

@[simp] theorem getElem_c_encFWith {k : Nat} (h : 9 ≤ k) (k' : k < 18) : (encFWith op f d c m)[k] = (c)[k - 9] := by
  simp [encFWith, show ¬ k < 7 by omega, show ¬ k - 7 < 2 by omega, Nat.sub_sub, show k - 9 < 9 by omega]

theorem mods_encFWith : (encFWith op f d c m).extractLsb' 0 7 = m := by simp

@[simp] theorem getB_encFWith (m : BMods) : getB (encFWith op f d c m.bits) = m := getB_of_mods (mods_encFWith ..)
@[simp] theorem getC_encFWith (m : CMods) : getC (encFWith op f d c m.bits) = some m := getC_of_mods (mods_encFWith ..)
@[simp] theorem getCtr_encFWith (x : Ctr) : getCtr (encFWith op f d c x.bits) = x := getCtr_of_mods (mods_encFWith ..)

variable {op f d c m}

theorem getA_encFWith {m : AMods} (h : m.ty.isInt = true) : getA (encFWith op f d c m.bits) = some m :=
  getA_of_mods (mods_encFWith ..) h

/-- Selectors in source C leave the register field at 0. -/
theorem getF0_encFWith (h : f.c = 0) : getF0 (encFWith op f f.d c m) = f := by
  rw [getF0, getF_encFWith, ← h]

/-! The compares (R141): the predicate lies in the destination below the condition. -/

variable {c : Cond}

theorem opcodeOf_encCmp : opcodeOf (encCmp op f c m) = op.toNat := opcodeOf_encFWith ..
@[simp] theorem extract_cond_encCmp : (encCmp op f c m).extractLsb' 43 6 = c.code := by simp [encCmp, encFWith]
theorem getTy_encCmp {t : Ty} (h : t.isInt = true) :
    getTy (((encCmp op f c (t.low3 ++ 0#4)).extractLsb' 4 3).setWidth 4) = some t := by simp [encCmp, getTy_low3 h]

theorem setWidth_extract_dPred {d : BitVec 9} (h : dPred d = true) : (d.extractLsb' 0 3).setWidth 9 = d := by
  have hd : d.toNat < 7 := of_decide_eq_true h
  apply BitVec.eq_of_toNat_eq
  simp
  omega

theorem getFd3_encCmp (h : dPred f.d = true) : getFd3 (encCmp op f c m) = f := by
  have he : (encCmp op f c m).extractLsb' 40 3 = f.d.extractLsb' 0 3 := by simp [encCmp, encFWith]
  rw [getFd3, he, setWidth_extract_dPred h, encCmp, getF_encFWith]

end FormatF

/-! ## Formats L, M and T, and major 31 (R54, R56, R59, R290) -/

section FormatL
variable (op : BitVec 10) (l : LForm) (m : BitVec 7)

@[simp] theorem opcodeOf_encL : opcodeOf (encL op l m) = op.toNat :=
  congrArg BitVec.toNat (by simp [encL] : (encL op l m).extractLsb' 53 10 = op)
@[simp] theorem getElem_63_encL : (encL op l m)[63] = false := by simp [encL]
@[simp] theorem getL_encL : getL (encL op l m) = l := by simp [getL, encL, getGuard, Guard.bits]
@[simp] theorem extract_mods_encL {s k : Nat} (h : s + k ≤ 7) : (encL op l m).extractLsb' s k = m.extractLsb' s k := by simp [encL, h]
@[simp] theorem getElem_mods_encL {k : Nat} (h : k < 7) : (encL op l m)[k] = m[k] := by simp [encL, h]

theorem mods_encL : (encL op l m).extractLsb' 0 7 = m := by simp
@[simp] theorem getB_encL (m : BMods) : getB (encL op l m.bits) = m := getB_of_mods (mods_encL ..)

variable {op l m}

theorem getA_encL {m : AMods} (h : m.ty.isInt = true) : getA (encL op l m.bits) = some m := getA_of_mods (mods_encL ..) h

end FormatL

section FormatM
variable (op : BitVec 10) (m : MForm) (mid : BitVec 14) (low : BitVec 2)

@[simp] theorem opcodeOf_encM : opcodeOf (encM op m mid low) = op.toNat :=
  congrArg BitVec.toNat (by simp [encM] : (encM op m mid low).extractLsb' 53 10 = op)
@[simp] theorem getElem_63_encM : (encM op m mid low)[63] = false := by simp [encM]
@[simp] theorem getM_encM : getM (encM op m mid low) = some m := by simp [getM, encM, getGuard, Guard.bits, getBase_bits]
@[simp] theorem getOff_encM : getOff (encM op m mid low) = mid := by simp [getOff, encM]

@[simp] theorem extract_mid_encM {s l : Nat} (h : 16 ≤ s) (k : s + l ≤ 30) :
    (encM op m mid low).extractLsb' s l = mid.extractLsb' (s - 16) l := by
  have hs : s - 2 - 3 - 2 - 4 - 2 - 3 = s - 16 := by omega
  simp [encM, hs, show 2 ≤ s by omega, show 3 ≤ s - 2 by omega, show 2 ≤ s - 2 - 3 by omega, show 4 ≤ s - 2 - 3 - 2 by omega,
    show 2 ≤ s - 2 - 3 - 2 - 4 by omega, show 3 ≤ s - 2 - 3 - 2 - 4 - 2 by omega, show s - 16 + l ≤ 14 by omega]
@[simp] theorem getElem_20_encM : (encM op m mid low)[20] = mid[4] := by simp [encM]
@[simp] theorem getElem_low_encM {k : Nat} (h : k < 2) : (encM op m mid low)[k] = low[k] := by simp [encM, h]

/-- The source register of majors 11 and 12 is the upper part of the offset field (R58). -/
@[simp] theorem getMSrc_encM (r : BitVec 9) (x : BitVec 5) : getMSrc (encM op m (r ++ x) low) = r := by simp [getMSrc, encM]

end FormatM

section FormatT
variable (op : BitVec 10) (t : TForm)

@[simp] theorem opcodeOf_encT : opcodeOf (encT op t) = op.toNat :=
  congrArg BitVec.toNat (by simp [encT] : (encT op t).extractLsb' 53 10 = op)
@[simp] theorem getElem_63_encT : (encT op t)[63] = false := by simp [encT]
@[simp] theorem getT_encT : getT (encT op t) = t := by simp [getT, encT, getGuard, Guard.bits]

end FormatT

section FormatV
variable (op : BitVec 10) (v : BitVec 53)

@[simp] theorem opcodeOf_encV : opcodeOf (encV op v) = op.toNat :=
  congrArg BitVec.toNat (by simp [encV] : (encV op v).extractLsb' 53 10 = op)
@[simp] theorem getElem_63_encV : (encV op v)[63] = false := by simp [encV]
@[simp] theorem extract_encV : (encV op v).extractLsb' 0 53 = v := by simp [encV]

end FormatV

/-! ## The reader of each major (R66) -/

section Readers
variable {w : DWord} {n : Nat}

theorem readWord_control (h : opcodeOf w = n) (k : n / 32 = 0 ∨ n / 32 = 23) : readWord w = readControl n w := by
  subst h; rcases k with k | k <;> simp [readWord, k]

theorem readWord_integer (h : opcodeOf w = n) (k : n / 32 = 1 ∨ n / 32 = 2) : readWord w = readInteger n w := by
  subst h; rcases k with k | k <;> simp [readWord, k]

theorem readWord_move (h : opcodeOf w = n) (k : n / 32 = 3) : readWord w = readMove n w := by
  subst h; simp [readWord, k]

theorem readWord_float (h : opcodeOf w = n) (k : n / 32 = 4 ∨ n / 32 = 5) : readWord w = readFloat n w := by
  subst h; rcases k with k | k <;> simp [readWord, k]

theorem readWord_layoutC (h : opcodeOf w = n) (k : n / 32 = 6 ∨ n / 32 = 7 ∨ n / 32 = 8) : readWord w = readLayoutC n w := by
  subst h; rcases k with k | k | k <;> simp [readWord, k]

theorem readWord_memory (h : opcodeOf w = n)
    (k : n / 32 = 9 ∧ n ≠ 0x127 ∨ n / 32 = 10 ∨ n / 32 = 11 ∨ n / 32 = 12 ∨
      n ∈ [0x1A0, 0x1A1, 0x1A6, 0x1A9, 0x200, 0x201, 0x221]) :
    readWord w = readMemory n w := by
  subst h
  rcases k with ⟨k, k'⟩ | k | k | k | k
  · simp [readWord, k, k']
  · simp [readWord, k]
  · simp [readWord, k]
  · simp [readWord, k]
  · simp only [List.mem_cons, List.not_mem_nil, or_false] at k
    rcases k with k | k | k | k | k | k | k <;> simp [readWord, k]

theorem readWord_tile (h : opcodeOf w = n) (k : n / 32 = 14 ∨ n / 32 = 15) : readWord w = readTile n w := by
  subst h; rcases k with k | k <;> simp [readWord, k]

theorem readWord_names (h : opcodeOf w = n)
    (k : n = 0x127 ∨ n / 32 = 13 ∧ n ∉ [0x1A0, 0x1A1, 0x1A6, 0x1A9] ∨ n / 32 = 16 ∧ n ∉ [0x200, 0x201] ∨ n = 0x220 ∨
      n / 32 = 18) :
    readWord w = readNames n w := by
  subst h
  rcases k with k | ⟨k, k'⟩ | ⟨k, k'⟩ | k | k
  · simp [readWord, k]
  · simp_all [readWord]
  · simp_all [readWord]
  · simp [readWord, k]
  · simp [readWord, k]

theorem readWord_engine (h : opcodeOf w = n) (k : n / 32 = 19 ∨ n / 32 = 20 ∨ n / 32 = 21) : readWord w = readEngine n w := by
  subst h; rcases k with k | k | k <;> simp [readWord, k]

theorem readWord_system (h : opcodeOf w = n) (k : n / 32 = 22 ∨ n / 32 = 31) : readWord w = readSystem n w := by
  subst h; rcases k with k | k <;> simp [readWord, k]

end Readers

/-- A `csrw` is read as the row of its own that its address names, if there is one (R412). -/
theorem readCsrw_of_ne {f : FForm} (h : f.a ≠ .lit 0x11) (h' : f.a ≠ .lit 0x12) : readCsrw f = .csrw f := by
  rw [readCsrw, if_neg (by simpa using h), if_neg (by simpa using h')]
theorem readCsrw_parkThreshold {f : FForm} (h : f.a = .lit 0x11) : readCsrw f = .csrwParkThreshold f := by
  rw [readCsrw, if_pos (by simpa using h)]
theorem readCsrw_spawnTimer {f : FForm} (h : f.a = .lit 0x12) : readCsrw f = .csrwSpawnTimer f := by
  rw [readCsrw, if_neg (by simp [h]), if_pos (by simpa using h)]

/-! ## Words that are no pair -/

/-- A word of an assigned opcode whose fields name the instruction. -/
structure ReadsAs (w : DWord) (i : Instr) : Prop where
  single : w[63] = false
  assigned : assignedOpcode (opcodeOf w) = true
  read : readWord w = some i

namespace ReadsAs
variable {op : BitVec 10} {i : Instr} (ha : assignedOpcode op.toNat = true)
include ha

theorem of_encF {f : FForm} {m : BitVec 7} (hr : readWord (encFWith op f f.d f.c m) = some i) : ReadsAs (encF op f m) i :=
  ⟨getElem_63_encFWith .., by rw [encF, opcodeOf_encFWith, ha], hr⟩

theorem of_encFc {f : FForm} {c : BitVec 9} {m : BitVec 7} (hr : readWord (encFWith op f f.d c m) = some i) :
    ReadsAs (encFc op f c m) i :=
  ⟨getElem_63_encFWith .., by rw [encFc, opcodeOf_encFWith, ha], hr⟩

theorem of_encCmp {f : FForm} {c : Cond} {m : BitVec 7} (hr : readWord (encCmp op f c m) = some i) : ReadsAs (encCmp op f c m) i :=
  ⟨getElem_63_encFWith .., by rw [opcodeOf_encCmp, ha], hr⟩

theorem of_encL {l : LForm} {m : BitVec 7} (hr : readWord (encL op l m) = some i) : ReadsAs (encL op l m) i :=
  ⟨getElem_63_encL .., by rw [opcodeOf_encL, ha], hr⟩

theorem of_encM {m : MForm} {mid : BitVec 14} {low : BitVec 2} (hr : readWord (encM op m mid low) = some i) :
    ReadsAs (encM op m mid low) i :=
  ⟨getElem_63_encM .., by rw [opcodeOf_encM, ha], hr⟩

theorem of_encT {t : TForm} (hr : readWord (encT op t) = some i) : ReadsAs (encT op t) i :=
  ⟨getElem_63_encT .., by rw [opcodeOf_encT, ha], hr⟩

theorem of_encV {v : BitVec 53} (hr : readWord (encV op v) = some i) : ReadsAs (encV op v) i :=
  ⟨getElem_63_encV .., by rw [opcodeOf_encV, ha], hr⟩

end ReadsAs

theorem left_of_and {a b : Bool} (h : (a && b) = true) : a = true := (Bool.and_eq_true_iff.mp h).1

theorem isInt_of_okL {m : AMods} {s : Bool} (h : m.okL s = true) : m.ty.isInt = true := by
  have ht : (m.ty == .i32 || m.ty == .n32 || m.ty == .i64 || m.ty == .n64) = true := left_of_and (left_of_and h)
  revert ht
  cases m.ty <;> decide

/-- The types of the moves and selects (R142). -/
theorem isInt_of_move {t : Ty} (h : t = .n32 ∨ t = .n64 ∨ t = .i64) : t.isInt = true := by
  obtain rfl | rfl | rfl := h <;> rfl

/-- Each word row but the pairs and the words of no opcode, by its reader and format. -/
theorem encode_readsAs (i : Instr) (hx : i.extra = true) (hr : Claims.isWordRow i = true) (hp : i.halves = none)
    (hu : ∀ w, i ≠ .unassignedOpcodeWord w) : ReadsAs (encode i) i := by
  cases i
  -- majors 0 and 23
  case nop f | brx f | callx f | ret f | join f | jdrop f | exit f | yld f | loop f | lbrk f | rgrow f | rshrink f =>
    exact .of_encF rfl (by rw [readWord_control (opcodeOf_encFWith ..) (by decide), readControl.eq_def, getF_encFWith]; rfl)
  case jwait f b j =>
    exact .of_encF rfl ((readWord_control (opcodeOf_encFWith ..) (by decide)).trans (congrArg some (by simp)))
  case bra l | call l =>
    exact .of_encL rfl (by rw [readWord_control (opcodeOf_encL ..) (by decide), readControl.eq_def, getL_encL]; rfl)
  -- majors 1 and 2
  case add f m | sub f m | mul f m | mulh f m | mad f m | div f m | rem f m | min f m | max f m | abs f m | neg f m | andB f m |
      orB f m | xorB f m | notB f m | shl f m | shr f m | sra f m | rol f m | clz f m | popc f m | brev f m | bfe f m | bfi f m =>
    have h : (_ && _) = true := hx
    simp only [AMods.ok, Bool.and_eq_true] at h
    have hi : m.ty.isInt = true := by tauto
    exact .of_encF rfl (by
      rw [readWord_integer (opcodeOf_encFWith ..) (by decide), readInteger, getA_encFWith hi, getF_encFWith]
      rfl)
  case mulmod f m =>
    have h : (_ && _) = true := hx
    simp only [Bool.and_eq_true, beq_iff_eq] at h
    have hi := isInt_of_move (t := m.ty) (by tauto)
    exact .of_encF rfl (by
      rw [readWord_integer (opcodeOf_encFWith ..) (by decide), readInteger, getA_encFWith hi, getF_encFWith]
      rfl)
  case addL l m | mulL l m | andL l m | orL l m | xorL l m =>
    have hi := isInt_of_okL (Bool.and_eq_true_iff.mp (left_of_and hx)).2
    exact .of_encL rfl (by rw [readWord_integer (opcodeOf_encL ..) (by decide), readInteger, getA_encL hi, getL_encL]; rfl)
  -- major 3
  case cmp f ty c =>
    have h : (((ty.isInt && dPred f.d) && f.c == 0) && c != .ord && c != .uno) = true := hx
    have h := left_of_and (left_of_and (left_of_and h))
    rw [Bool.and_eq_true] at h
    obtain ⟨hi, hd⟩ := h
    exact .of_encCmp rfl (by
      rw [readWord_move (opcodeOf_encCmp) (by decide), readMove, getTy_encCmp hi, extract_cond_encCmp, getCond_code,
        getFd3_encCmp hd]
      rfl)
  case sel f ty p =>
    have h : ((ty == .n32 || ty == .n64) && dOk ty.wide f.d && f.c == 0) = true := hx
    simp only [Bool.and_eq_true, Bool.or_eq_true, beq_iff_eq] at h
    obtain ⟨⟨ht, -⟩, hc⟩ := h
    have hi := isInt_of_move (t := ty) (by tauto)
    refine .of_encFc rfl ((readWord_move (opcodeOf_encFWith ..) (by decide)).trans ?_)
    simp [readMove, getTy_low3 hi, getF0_encFWith hc]
  case mov f ty _ | rdsr f ty _ =>
    have h : (_ && _) = true := hx
    simp only [Bool.and_eq_true, Bool.or_eq_true, beq_iff_eq] at h
    have hi := isInt_of_move (t := ty) (by tauto)
    exact .of_encF rfl ((readWord_move (opcodeOf_encFWith ..) (by decide)).trans (by simp [readMove, moveMods, getTy_low3 hi]))
  case movl l ty _ =>
    have h : (_ && _) = true := hx
    simp only [Bool.and_eq_true, Bool.or_eq_true, beq_iff_eq] at h
    have hi := isInt_of_move (t := ty) (by tauto)
    exact .of_encL rfl ((readWord_move (opcodeOf_encL ..) (by decide)).trans (by simp [readMove, moveMods, getTy_low3 hi]))
  -- majors 4 and 5
  case fadd f m | fsub f m | fmul f m | ffma f m | fmin f m | fmax f m | fabs f m | fneg f m | fdiv f m | frcp f m | frsq f m |
      fsqrt f m | fexp2 f m | flog2 f m | fsin f m | fcos f m | fclass f m | frnd f m =>
    exact .of_encF rfl (by rw [readWord_float (opcodeOf_encFWith ..) (by decide), readFloat.eq_def, getB_encFWith, getF_encFWith]; rfl)
  case fcmp f m c =>
    have hd : dPred f.d = true := (Bool.and_eq_true_iff.mp (left_of_and hx)).2
    exact .of_encCmp rfl (by
      rw [readWord_float (opcodeOf_encCmp) (by decide), readFloat.eq_def, extract_cond_encCmp, getCond_code,
        getFd3_encCmp hd, encCmp, getB_encFWith]
      rfl)
  case faddL l m | fmulL l m =>
    exact .of_encL rfl (by rw [readWord_float (opcodeOf_encL ..) (by decide), readFloat.eq_def, getB_encL, getL_encL]; rfl)
  -- majors 6, 7 and 8
  case ldot f m =>
    exact .of_encF rfl (by rw [readWord_layoutC (opcodeOf_encFWith ..) (by decide), readLayoutC, getC_encFWith, getF_encFWith]; rfl)
  case cvt f m t | lcvt f m t | pack f m t k | unpack f m t k | lmul f m t k | vote f ty o | shfl f ty o | matchK f ty | lred f m o k |
      lscan f m o k x =>
    have h : (_ && _) = true := hx
    simp only [Bool.and_eq_true, beq_iff_eq] at h
    have hc : f.c = 0 := by tauto
    refine .of_encFc rfl ((readWord_layoutC (opcodeOf_encFWith ..) (by decide)).trans ?_)
    simp [readLayoutC, getTy2, getPack2, getF0_encFWith hc, code_append_zero]
  -- majors 9 to 13, 16 and 17, format M
  case ld m o | st m o | ldq m o | stq m o | prf m o | cwb m o | cinv m o | ldSp m o | stSp m o | ldqSp m o | stqSp m o | ldn m o |
      stn m o | pfetch m o | hld m o | hst m o =>
    exact .of_encM rfl (by rw [readWord_memory (opcodeOf_encM ..) (by decide), readMemory, getM_encM, getOff_encM]; rfl)
  case fence m | kdeq m | prel m =>
    exact .of_encM rfl (by rw [readWord_memory (opcodeOf_encM ..) (by decide), readMemory, getM_encM]; rfl)
  case cas m r | kenq m r | hmset m r =>
    exact .of_encM rfl (by rw [readWord_memory (opcodeOf_encM ..) (by decide), readMemory, getM_encM, getMSrc_encM]; rfl)
  case atom m o r comb nr | kcas m r n | kchase m r k t =>
    refine .of_encM rfl ((readWord_memory (opcodeOf_encM ..) (by decide)).trans ?_)
    simp [readMemory, -BitVec.extractLsb'_toNat, -BitVec.toNat_append]
  -- majors 14 and 15
  case tld t | tst t | tzero t | bsld t | bsinv t | tcvt t | tact t | tred t | tmma t | tloop t | tmmod t | tntt t =>
    exact .of_encT rfl (by rw [readWord_tile (opcodeOf_encT ..) (by decide), readTile.eq_def, getT_encT]; rfl)
  -- majors 9, 13 and 16 to 18, format F
  case peq f | padd f | psub f | pinfo f | pswz f | pnam f | hmov f | hxor f | hthr f | hpop f | hdist f | hgen f | htie f | trig f |
      trigx f =>
    exact .of_encF rfl (by rw [readWord_names (opcodeOf_encFWith ..) (by decide), readNames.eq_def, getF_encFWith]; rfl)
  case hrot f _ | hacc f _ | hclr f _ | hmatch f _ _ | cnadd f _ | cnwait f _ | cnget f _ _ | cnset f _ =>
    exact .of_encF rfl ((readWord_names (opcodeOf_encFWith ..) (by decide)).trans (congrArg some (by simp)))
  case wcnt f ld st cp tl =>
    have h : ((noAB f) && _) = true := hx
    simp only [noAB, Bool.and_eq_true, beq_iff_eq] at h
    have hc : f.c = 0 := by tauto
    refine .of_encFc rfl ((readWord_names (opcodeOf_encFWith ..) (by decide)).trans (congrArg some ?_))
    simp [getF0_encFWith hc]
  -- majors 19, 20 and 21
  case nwr f x | nrd f x | nlist f x =>
    exact .of_encF rfl (by
      rw [readWord_engine (opcodeOf_encFWith ..) (by decide), readEngine.eq_def, getF_encFWith, getCtr_encFWith]
      rfl)
  case cpy f x _ _ | natom f x o t k =>
    have h : (_ && _) = true := hx
    simp only [Bool.and_eq_true, beq_iff_eq] at h
    have hc : f.c = 0 := by tauto
    refine .of_encFc rfl ((readWord_engine (opcodeOf_encFWith ..) (by decide)).trans ?_)
    simp [readEngine, getF0_encFWith hc, -BitVec.extractLsb'_toNat]
  case spawn f | ktrig f | kwait f | idemx f =>
    exact .of_encF rfl (by rw [readWord_engine (opcodeOf_encFWith ..) (by decide), readEngine.eq_def, getF_encFWith]; rfl)
  case binit f _ | barr f _ _ _ | bwait f _ _ | btest f _ _ | elect f _ | klaunch f _ | idem f _ =>
    exact .of_encF rfl ((readWord_engine (opcodeOf_encFWith ..) (by decide)).trans (congrArg some (by simp)))
  case lead f | leadAdv f =>
    refine .of_encF rfl ((readWord_engine (opcodeOf_encFWith ..) (by decide)).trans ?_)
    simp [readEngine]
  -- majors 22 and 31
  case sys f | emget f | halt f | pgq f =>
    exact .of_encF rfl (by rw [readWord_system (opcodeOf_encFWith ..) (by decide), readSystem.eq_def, getF_encFWith]; rfl)
  case tret f _ | csrr f _ | fexr f _ _ | pginv f _ | wid f _ =>
    exact .of_encF rfl ((readWord_system (opcodeOf_encFWith ..) (by decide)).trans (congrArg some (by simp)))
  case emset f _ | lnkq f _ _ =>
    refine .of_encF rfl ((readWord_system (opcodeOf_encFWith ..) (by decide)).trans ?_)
    simp [readSystem]
  case csrw f =>
    have h : ((_ && f.a != .lit 0x11) && f.a != .lit 0x12) = true := hx
    simp only [Bool.and_eq_true, bne_iff_ne] at h
    obtain ⟨⟨-, hp⟩, ht⟩ := h
    refine .of_encF rfl ((readWord_system (opcodeOf_encFWith ..) (by decide)).trans (congrArg some ?_))
    rw [getF_encFWith, readCsrw_of_ne hp ht]
  case csrwParkThreshold f =>
    have ha : f.a = .lit 0x11 := beq_iff_eq.mp (Bool.and_eq_true_iff.mp (left_of_and hx)).2
    refine .of_encF rfl ((readWord_system (opcodeOf_encFWith ..) (by decide)).trans (congrArg some ?_))
    rw [getF_encFWith, readCsrw_parkThreshold ha]
  case csrwSpawnTimer f =>
    have ha : f.a = .lit 0x12 := beq_iff_eq.mp (Bool.and_eq_true_iff.mp (left_of_and hx)).2
    refine .of_encF rfl ((readWord_system (opcodeOf_encFWith ..) (by decide)).trans (congrArg some ?_))
    rw [getF_encFWith, readCsrw_spawnTimer ha]
  case vtDecl v | vtLd v | vtSt v | vtMma v | vtMap v | vtRed v =>
    exact .of_encV rfl (by rw [readWord_system (opcodeOf_encV ..) (by decide), readSystem.eq_def, extract_encV]; rfl)
  case unassignedOpcodeWord w => exact absurd rfl (hu w)
  -- the pairs and the event rows
  all_goals cases hp
  all_goals cases hr

theorem ReadsAs.decode3_eq {i : Instr} (h : ReadsAs (encode i) i) (hw : WellFormed i = true) : decode3 (encode i) = .ok i := by
  rw [decode3, if_neg (by simp [h.single]), if_pos h.assigned, h.read]
  simp [hw]

/-! ## Pair words (R60, R61) -/

theorem getHalf_encHalf (x : Half) : getHalf (encHalf x) = some x := by simp [getHalf, encHalf]

theorem getElem_31_encHalf (x : Half) : (encHalf x)[31] = true := by
  obtain ⟨op, h⟩ := x
  cases op <;> simp [encHalf, HalfOp.code]

theorem encode_mkPair (x y : Half) : encode (mkPair x y) = encHalf x ++ encHalf y := by
  obtain ⟨op, h⟩ := x
  cases op <;> rfl

theorem wellFormed_mkPair (x y : Half) : WellFormed (mkPair x y) = pairOk x y := by
  obtain ⟨op, h⟩ := x
  cases op <;> rfl

theorem eq_mkPair_of_halves {i : Instr} {x y : Half} (h : i.halves = some (x, y)) : i = mkPair x y := by
  cases i <;> cases h <;> rfl

theorem eq_zero_of_nop {x : Half} (h : x.ok = true) (hn : x.op = .nop) : x.h.d = 0 ∧ x.h.s = 0 ∧ x.h.keep = false := by
  simp only [Half.ok, Bool.and_eq_true] at h
  simpa [hn, and_assoc] using h.1

/-- R62: a legal pair fails none of the checks of the pair rules. -/
theorem decode3_pair {x y : Half} (h : pairOk x y = true) : decode3 (encHalf x ++ encHalf y) = .ok (mkPair x y) := by
  have hw : WellFormed (mkPair x y) = true := (wellFormed_mkPair x y).trans h
  simp only [pairOk, Bool.and_eq_true] at h
  obtain ⟨⟨⟨hx, hy⟩, distinct⟩, keep⟩ := h
  have hx0 := eq_zero_of_nop hx
  have hy0 := eq_zero_of_nop hy
  simp at distinct keep
  rw [decode3, if_pos (by simp [getElem_31_encHalf])]
  simp [getHalf_encHalf, encode_mkPair, hw]
  grind

theorem decode3_of_halves {i : Instr} {x y : Half} (h : i.halves = some (x, y)) (hw : WellFormed i = true) :
    decode3 (encode i) = .ok i := by
  obtain rfl := eq_mkPair_of_halves h
  rw [encode_mkPair, decode3_pair (wellFormed_mkPair x y ▸ hw)]

/-! ## Every word row -/

theorem decode3_unassigned {w : DWord} (hw : WellFormed (.unassignedOpcodeWord w) = true) : decode3 w = .ok (.unassignedOpcodeWord w) := by
  have h : (!w.getLsbD 63 && !assignedOpcode (opcodeOf w)) = true := hw
  rw [Bool.and_eq_true, Bool.not_eq_true', Bool.not_eq_true'] at h
  obtain ⟨single, unassigned⟩ := h
  rw [decode3, single, unassigned]
  rfl

/-- Settles O55: the fields of each format are read back one by one; a pair word and a word of no assigned opcode go ways of their own. -/
theorem decodeOfEncode : Obligations.DecodeOfEncode := by
  intro i hw hr
  cases hp : i.halves with
  | some p => exact decode3_of_halves hp hw
  | none =>
    by_cases hu : ∃ w, i = .unassignedOpcodeWord w
    · obtain ⟨w, rfl⟩ := hu
      exact decode3_unassigned hw
    · exact (encode_readsAs i (Bool.and_eq_true_iff.mp hw).2 hr hp (not_exists.mp hu)).decode3_eq hw
end Sys2Proof

/-!
# Words written out from the encodings (O56)
-/

namespace Sys2Proof

/-- Settles O56: `decode` computes on each of the words. -/
theorem sampleWordsDecode : Obligations.SampleWordsDecode := by
  refine ⟨?_, ?_, ?_, ?_, ?_, ?_, ?_, ?_⟩
  all_goals decide

end Sys2Proof

/-!
# A step runs the decoded instruction (O57)

What a fetch does to the state: it caches a translation, it may put a line into the core's instruction cache and its loop buffer, and it
counts the loss that a struck line is. `TouchesCode` says that nothing else differs, once for the fill of a line, the loss and the loop
buffer; `fetch_of_decoded` and `fetch_of_refused` give the fetch of a candidate whose word is at a fetchable address.
-/

namespace Sys2Proof.Machine

/-! ## What a fetch changes -/

theorem Core.mod_mem_fetchWays (k : Core) (n : Nat) : n % k.fetchWays.length ∈ k.fetchWays := by
  unfold Core.fetchWays
  rw [List.length_range, List.mem_range]
  exact Nat.mod_lt n (by split <;> decide)

/-- A line enters one of the ways that fetch uses; to choose one to replace takes a free value. -/
theorem fillLine_cases (s : State) (core line : Nat) (words : List DWord) :
    ∃ way ∈ (s.core core).fetchWays, ∃ t, (t = s ∨ t = s.draw.2) ∧
      s.fillLine core line words = t.modCore core (fun k => k.putLine way line words) := by
  cases h : (s.core core).fetchWays.find? (fun w => (Tbl.at (s.core core).icache (8 * codeSet line + w)).isNone) with
  | some way => exact ⟨way, List.mem_of_find?_eq_some h, s, .inl rfl, by simp [State.fillLine, h]⟩
  | none =>
    refine ⟨_, Core.mod_mem_fetchWays _ (Config.icacheWay s.draw.1), s.draw.2, .inr rfl, ?_⟩
    simp only [State.fillLine, h]
    rfl

/-- The loop buffer stays or takes in or loses lines. -/
theorem loopFetch_cases (s : State) (f : Focus) (core pa : Nat) (i : Instr) :
    s.loopFetch f core pa i = s ∨ ∃ buf : Core → Tbl (List DWord),
      s.loopFetch f core pa i = s.modCore core (fun k => { k with loopBuf := buf k }) := by
  unfold State.loopFetch
  split
  · split
    · exact .inl rfl
    · exact .inr ⟨fun _ => [], rfl⟩
  · dsimp only
    split
    · split
      · next ws _ => exact .inr ⟨fun k => Tbl.put k.loopBuf (pa / 64) ws, rfl⟩
      · exact .inl rfl
    · exact .inl rfl

/-- Nothing differs but the code that a core holds, the count of free values and what contexts have counted. -/
structure TouchesCode (core : Nat) (s u : State) : Prop where
  rest : u = { s with cores := u.cores, freeCount := u.freeCount, ctxs := u.ctxs }
  others : ∀ n, n ≠ core → u.core n = s.core n
  held : u.core core = { s.core core with icache := (u.core core).icache, loopBuf := (u.core core).loopBuf }

namespace TouchesCode
variable {core : Nat} {s t u : State}

theorem refl (core : Nat) (s : State) : TouchesCode core s s := ⟨rfl, fun _ _ => rfl, rfl⟩

theorem trans (h : TouchesCode core s t) (h' : TouchesCode core t u) : TouchesCode core s u where
  rest := by rw [h'.rest, h.rest]
  others := fun n hn => (h'.others n hn).trans (h.others n hn)
  held := by rw [h'.held, h.held]

theorem tlb_eq (h : TouchesCode core s u) : (u.core core).tlb = (s.core core).tlb := by
  rw [h.held]

theorem prefetch_eq (h : TouchesCode core s u) : (u.core core).prefetch = (s.core core).prefetch := by
  rw [h.held]

theorem mem_eq (h : TouchesCode core s u) : u.mem = s.mem := by rw [h.rest]

theorem poison_eq (h : TouchesCode core s u) : u.poison = s.poison := by rw [h.rest]

theorem draw (core : Nat) (s : State) : TouchesCode core s s.draw.2 := ⟨rfl, fun _ _ => rfl, rfl⟩

theorem modCore {f : Core → Core} (h : ∀ k, f k = { k with icache := (f k).icache, loopBuf := (f k).loopBuf }) :
    TouchesCode core s (s.modCore core f) where
  rest := rfl
  others := fun _ hn => State.core_modCore_ne s f hn
  held := by rw [State.core_modCore_same, h]

theorem readLoss (core : Nat) (s : State) (c : Nat) (p : Place) (n : Nat) : TouchesCode core s (s.readLoss c p n) := by
  unfold State.readLoss
  split
  · split
    · exact ⟨rfl, fun _ _ => rfl, rfl⟩
    · exact refl core s
  · exact refl core s

theorem fillLine (core : Nat) (s : State) (line : Nat) (words : List DWord) : TouchesCode core s (s.fillLine core line words) := by
  obtain ⟨way, -, t, ht, hf⟩ := fillLine_cases s core line words
  rw [hf]
  obtain rfl | rfl := ht
  · exact modCore fun _ => rfl
  · exact (draw core s).trans (modCore fun _ => rfl)

theorem loopFetch (s : State) (f : Focus) (core pa : Nat) (i : Instr) : TouchesCode core s (s.loopFetch f core pa i) := by
  obtain h | ⟨buf, h⟩ := loopFetch_cases s f core pa i
  · rw [h]
    exact refl core s
  · rw [h]
    exact modCore fun _ => rfl

end TouchesCode

/-- The loss that a struck range is depends on nothing that a fetch changes. -/
theorem readLoss_ctxs_congr {s u : State} (hp : u.poison = s.poison) (hc : u.ctxs = s.ctxs) (c pa n : Nat) :
    (u.readLoss c (.mem pa) n).ctxs = (s.readLoss c (.mem pa) n).ctxs := by
  have hs : u.struck pa n = s.struck pa n := by rw [State.struck, hp, State.struck]
  simp only [State.readLoss, hs]
  split
  · simp only [State.loseData, State.modCtx, hc]
  · exact hc

theorem fillLine_ctxs (s : State) (core line : Nat) (words : List DWord) : (s.fillLine core line words).ctxs = s.ctxs := by
  obtain ⟨way, -, t, ht, hf⟩ := fillLine_cases s core line words
  rw [hf]
  obtain rfl | rfl := ht <;> rfl

theorem loopFetch_ctxs (s : State) (f : Focus) (core pa : Nat) (i : Instr) : (s.loopFetch f core pa i).ctxs = s.ctxs := by
  obtain h | ⟨buf, h⟩ := loopFetch_cases s f core pa i
  · rw [h]
  · rw [h]
    rfl

theorem readLoss_cores (s : State) (c : Nat) (p : Place) (n : Nat) : (s.readLoss c p n).cores = s.cores := by
  unfold State.readLoss
  split
  · split <;> rfl
  · rfl

theorem loopFetch_icache (s : State) (f : Focus) (core pa : Nat) (i : Instr) :
    ((s.loopFetch f core pa i).core core).icache = (s.core core).icache := by
  obtain h | ⟨buf, h⟩ := loopFetch_cases s f core pa i
  · rw [h]
  · rw [h, State.core_modCore_same]

/-! ## The line that a fetch puts into the cache -/

/-- What a way of a line's set holds of the line. -/
def Core.wayCode (k : Core) (line way : Nat) : Option (List DWord) :=
  match Tbl.at k.icache (8 * codeSet line + way) with
  | some x => if x.line = line then some x.words else none
  | none => none

theorem Core.cachedCode_congr {k k' : Core} (hi : k'.icache = k.icache) (hp : k'.prefetch = k.prefetch) (line : Nat) :
    k'.cachedCode line = k.cachedCode line := by
  simp only [Core.cachedCode, Core.fetchWays, hi, hp]

theorem Core.cachedCode_of_codeLine {k : Core} {line : Nat} (h : k.codeLine line = none) : k.cachedCode line = none := by
  unfold Core.codeLine at h
  split at h
  · cases h
  · exact h

theorem Core.wayCode_putLine_same (k : Core) (way line : Nat) (words : List DWord) :
    (k.putLine way line words).wayCode line way = some words := by
  simp [Core.wayCode, Core.putLine, Tbl.at_put_same]

theorem Core.wayCode_putLine_ne (k : Core) {way way' line : Nat} (words : List DWord) (h : way' ≠ way) :
    (k.putLine way line words).wayCode line way' = k.wayCode line way' := by
  have hk : 8 * codeSet line + way' ≠ 8 * codeSet line + way := by omega
  simp only [Core.wayCode, Core.putLine, Tbl.at_put_ne _ _ hk]

/-- A line of which no way holds anything is in the cache once a way that fetch uses has it. -/
theorem Core.cachedCode_putLine {k : Core} {way line : Nat} (words : List DWord) (hw : way ∈ k.fetchWays)
    (h : k.cachedCode line = none) : (k.putLine way line words).cachedCode line = some words := by
  have absent : ∀ w ∈ k.fetchWays, k.wayCode line w = none := List.findSome?_eq_none_iff.mp h
  have found : ∀ ws : List Nat, way ∈ ws → (∀ w ∈ ws, k.wayCode line w = none) →
      ws.findSome? ((k.putLine way line words).wayCode line) = some words := by
    intro ws
    induction ws with
    | nil => exact fun hm => absurd hm List.not_mem_nil
    | cons w ws ih =>
      intro hm hn
      by_cases he : w = way
      · rw [he, List.findSome?_cons, Core.wayCode_putLine_same]
      · rw [List.findSome?_cons, Core.wayCode_putLine_ne k words he, hn w List.mem_cons_self]
        exact ih ((List.mem_cons.mp hm).resolve_left (Ne.symm he)) fun v hv => hn v (List.mem_cons_of_mem w hv)
  exact found k.fetchWays hw absent

theorem fillLine_cachedCode {s : State} {core line : Nat} (words : List DWord) (h : (s.core core).codeLine line = none) :
    ((s.fillLine core line words).core core).cachedCode line = some words := by
  obtain ⟨way, hw, t, ht, hf⟩ := fillLine_cases s core line words
  have hc : t.core core = s.core core := by obtain rfl | rfl := ht <;> rfl
  rw [hf, State.core_modCore_same, hc]
  exact Core.cachedCode_putLine words hw (Core.cachedCode_of_codeLine h)

theorem loopFetch_cachedCode (s : State) (f : Focus) (core pa : Nat) (i : Instr) (line : Nat) :
    ((s.loopFetch f core pa i).core core).cachedCode line = (s.core core).cachedCode line :=
  Core.cachedCode_congr (loopFetch_icache s f core pa i) (TouchesCode.loopFetch s f core pa i).prefetch_eq line

theorem readLoss_cachedCode (s : State) (c : Nat) (p : Place) (n core line : Nat) :
    ((s.readLoss c p n).core core).cachedCode line = (s.core core).cachedCode line := by
  rw [State.core, readLoss_cores, State.core]

/-! ## The word that is fetched -/

theorem lineWords_getD {m : Memory} {pa : Nat} (h : pa % 8 = 0) :
    (lineWords m (pa / 64)).getD (pa / 8 % 8) 0 = BitVec.ofNat 64 (Memory.readNat m pa 8) := by
  have hi : pa / 8 % 8 < 8 := Nat.mod_lt _ (by decide)
  have hpa : 64 * (pa / 64) + 8 * (pa / 8 % 8) = pa := by omega
  simp [lineWords, List.getD, hi, hpa]

/-- The word at an address of which the core has no line, or the line as memory has it. -/
theorem fetchWord_word {s : State} {core pa : Nat} (ctx : Nat) (ha : pa % 8 = 0)
    (h : (s.core core).codeLine (pa / 64) = none ∨ (s.core core).codeLine (pa / 64) = some (lineWords s.mem (pa / 64))) :
    (fetchWord s core ctx pa).2 = BitVec.ofNat 64 (Memory.readNat s.mem pa 8) := by
  rw [← lineWords_getD ha]
  rcases h with h | h <;> simp [fetchWord, h]

theorem fetchWord_of_none {s : State} {core pa : Nat} (ctx : Nat) (h : (s.core core).codeLine (pa / 64) = none) :
    (fetchWord s core ctx pa).1 =
      (s.fillLine core (pa / 64) (lineWords s.mem (pa / 64))).readLoss ctx (.mem (64 * (pa / 64))) 64 := by
  simp [fetchWord, h]

theorem fetchWord_of_current {s : State} {core pa : Nat} (ctx : Nat)
    (h : (s.core core).codeLine (pa / 64) = some (lineWords s.mem (pa / 64))) : (fetchWord s core ctx pa).1 = s := by
  simp [fetchWord, h]

theorem TouchesCode.fetchWord (core ctx pa : Nat) (s : State) : TouchesCode core s (fetchWord s core ctx pa).1 := by
  unfold Machine.fetchWord
  dsimp only
  split
  · dsimp only
    exact (fillLine core s _ _).trans (readLoss core _ _ _ _)
  · split
    · exact refl core s
    · exact draw core s

theorem fetchWord_ctxs_of_none {s : State} {core pa : Nat} (ctx : Nat) (h : (s.core core).codeLine (pa / 64) = none) :
    (fetchWord s core ctx pa).1.ctxs = (s.readLoss ctx (.mem (64 * (pa / 64))) 64).ctxs := by
  rw [fetchWord_of_none ctx h]
  exact readLoss_ctxs_congr (TouchesCode.fillLine ..).poison_eq (fillLine_ctxs ..) ..

theorem fetchWord_cachedCode {s : State} {core pa : Nat} (ctx : Nat) (h : (s.core core).codeLine (pa / 64) = none) :
    ((fetchWord s core ctx pa).1.core core).cachedCode (pa / 64) = some (lineWords s.mem (pa / 64)) := by
  rw [fetchWord_of_none ctx h, readLoss_cachedCode, fillLine_cachedCode _ h]

/-- The bank exemption's word depends on nothing that the loop buffer changes. -/
theorem codeWord_loopFetch (s : State) (f : Focus) (core pa : Nat) (i : Instr) (ctx : Nat) (k : Kern) (pc : Nat) :
    codeWord (s.loopFetch f core pa i) core ctx k pc = codeWord s core ctx k pc := by
  have h := TouchesCode.loopFetch s f core pa i
  rw [codeWord, h.mem_eq, h.tlb_eq, State.ctx, State.ctx?, loopFetch_ctxs]
  rfl

/-! ## The fetch of a candidate -/

/-- The core has the translation of a candidate's address. -/
def tlbFilled (s : State) (c : Candidate) (e : Option TlbEntry) : State :=
  s.modCore (s.block c.blk).core (fun x => { x with tlb := addTlb e x.tlb })

/-- The state in which a candidate's word has come. -/
def wordFetched (s : State) (c : Candidate) (pa : Nat) (e : Option TlbEntry) : State :=
  (fetchWord (tlbFilled s c e) (s.block c.blk).core (s.block c.blk).ctx pa).1

/-- The path of a candidate with its word. -/
def wordFocus (s : State) (c : Candidate) (w : DWord) : Focus :=
  { blk := c.blk, grp := c.grp, kern := c.kern, pc := c.pc, lanes := readyLanes s c, word := w, second := c.second }

/-- The word before a candidate's, which the pair rules look at (R64). -/
def wordBefore (s u : State) (c : Candidate) (k : Kern) : Option DWord :=
  if c.pc = 0 then none else codeWord u (s.block c.blk).core (s.block c.blk).ctx k (c.pc - 1)

section
variable {s : State} {c : Candidate} {k : Kern} {pa : Nat} {e : Option TlbEntry} {m : DWord}
  (hl : readyLanes s c ≠ []) (hk : s.kern (s.block c.blk).ctx c.kern = some k)
  (ht : translate s.mem (s.core (s.block c.blk).core).tlb (s.block c.blk).ctx (s.ctx (s.block c.blk).ctx) (k.codeVa + 8 * c.pc) .fetch =
    .at (.mem pa) e)
  (hm : (fetchWord (tlbFilled s c e) (s.block c.blk).core (s.block c.blk).ctx pa).2 = m)
include hl hk ht hm

theorem fetch_of_decoded {i : Instr} (hd : decode (wordBefore s (wordFetched s c pa e) c k) (k.wordAs c.pc m) = .ok i) :
    fetch s c = .word { (wordFetched s c pa e).loopFetch (wordFocus s c (k.wordAs c.pc m)) (s.block c.blk).core pa i with
      focus := some (wordFocus s c (k.wordAs c.pc m)) } i := by
  subst hm
  simp only [wordFetched, tlbFilled, wordBefore] at hd
  simp only [fetch, List.isEmpty_iff, hl, hk, ht, hd]
  rfl

theorem fetch_of_refused {x : Illegal} (hd : decode (wordBefore s (wordFetched s c pa e) c k) (k.wordAs c.pc m) = .error x) :
    fetch s c = .none (takeTrap (wordFetched s c pa e) (wordFocus s c (k.wordAs c.pc m))
      { cause := 1, sub := x.code, lanes := readyLanes s c }) := by
  subst hm
  simp only [wordFetched, tlbFilled, wordBefore] at hd
  simp only [fetch, List.isEmpty_iff, hl, hk, ht, hd]
  rfl

end

/-! ## Due events -/

/-- A due event is the event row of its name. -/
theorem Due.exists_eventRow : ∀ e : Due, ∃ i, Claims.isWordRow i = false ∧ ∀ s, e.run s = exec i s
  | .candidateAged blk grp pc => ⟨.candidateAged blk grp pc, rfl, fun _ => rfl⟩
  | .laneResultArrival blk grp lane => ⟨.laneResultArrival blk grp lane, rfl, fun _ => rfl⟩
  | .jwaitTimeout blk grp j => ⟨.jwaitTimeout blk grp j, rfl, fun _ => rfl⟩
  | .membershipTimeout blk grp pc => ⟨.membershipTimeout blk grp pc, rfl, fun _ => rfl⟩
  | .yieldExpiry blk grp lane => ⟨.yieldExpiry blk grp lane, rfl, fun _ => rfl⟩
  | .rgrowGrant core => ⟨.rgrowGrant core, rfl, fun _ => rfl⟩
  | .thresholdNotification ctx => ⟨.thresholdNotification ctx, rfl, fun _ => rfl⟩
  | .blockRetire blk => ⟨.blockRetire blk, rfl, fun _ => rfl⟩
  | .instanceRetire inst => ⟨.instanceRetire inst, rfl, fun _ => rfl⟩
  | .unitPlacement die => ⟨.unitPlacement die, rfl, fun _ => rfl⟩
  | .preemptionGraceExpiry die => ⟨.preemptionGraceExpiry die, rfl, fun _ => rfl⟩
  | .preemptionHalt blk => ⟨.preemptionHalt blk, rfl, fun _ => rfl⟩
  | .blockSaveComplete blk => ⟨.blockSaveComplete blk, rfl, fun _ => rfl⟩
  | .parkThresholdExpiry blk => ⟨.parkThresholdExpiry blk, rfl, fun _ => rfl⟩
  | .spawnTimerExpiry core bin => ⟨.spawnTimerExpiry core bin, rfl, fun _ => rfl⟩
  | .ktrigReleaseComplete blk => ⟨.ktrigReleaseComplete blk, rfl, fun _ => rfl⟩
  | .leadCountUpdate blk nb => ⟨.leadCountUpdate blk nb, rfl, fun _ => rfl⟩
  | .codePrefetch core => ⟨.codePrefetch core, rfl, fun _ => rfl⟩
  | .homeSliceRequest req => ⟨.homeSliceRequest req, rfl, fun _ => rfl⟩
  | .noticeApply die home => ⟨.noticeApply die home, rfl, fun _ => rfl⟩
  | .replicaLineInstall die line => ⟨.replicaLineInstall die line, rfl, fun _ => rfl⟩
  | .loadReply req => ⟨.loadReply req, rfl, fun _ => rfl⟩
  | .storeAck req => ⟨.storeAck req, rfl, fun _ => rfl⟩
  | .atomicLeaseExpiry line => ⟨.atomicLeaseExpiry line, rfl, fun _ => rfl⟩
  | .atomicWriteBackComplete line => ⟨.atomicWriteBackComplete line, rfl, fun _ => rfl⟩
  | .combiningArrival req => ⟨.combiningArrival req, rfl, fun _ => rfl⟩
  | .combinedRequestForward die entry => ⟨.combinedRequestForward die entry, rfl, fun _ => rfl⟩
  | .decombineReply die rcd => ⟨.decombineReply die rcd, rfl, fun _ => rfl⟩
  | .combiningRecordExpiry die req => ⟨.combiningRecordExpiry die req, rfl, fun _ => rfl⟩
  | .kneaderPacketPerform req => ⟨.kneaderPacketPerform req, rfl, fun _ => rfl⟩
  | .objectResolution res => ⟨.objectResolution res, rfl, fun _ => rfl⟩
  | .fetchComplete ctx slot => ⟨.fetchComplete ctx slot, rfl, fun _ => rfl⟩
  | .slotInvalidationAck ctx slot core => ⟨.slotInvalidationAck ctx slot core, rfl, fun _ => rfl⟩
  | .pageFillComplete ctx page => ⟨.pageFillComplete ctx page, rfl, fun _ => rfl⟩
  | .pageFillFail ctx page => ⟨.pageFillFail ctx page, rfl, fun _ => rfl⟩
  | .invalidationReceipt inv agent => ⟨.invalidationReceipt inv agent, rfl, fun _ => rfl⟩
  | .invalidationAck inv agent => ⟨.invalidationAck inv agent, rfl, fun _ => rfl⟩
  | .launchAction die idx => ⟨.launchAction die idx, rfl, fun _ => rfl⟩
  | .copyAction die idx => ⟨.copyAction die idx, rfl, fun _ => rfl⟩
  | .networkWriteAction die idx => ⟨.networkWriteAction die idx, rfl, fun _ => rfl⟩
  | .networkReadAction die idx => ⟨.networkReadAction die idx, rfl, fun _ => rfl⟩
  | .networkAtomicAction die idx => ⟨.networkAtomicAction die idx, rfl, fun _ => rfl⟩
  | .addAction die idx => ⟨.addAction die idx, rfl, fun _ => rfl⟩
  | .wakeAction die idx => ⟨.wakeAction die idx, rfl, fun _ => rfl⟩
  | .postAction die idx => ⟨.postAction die idx, rfl, fun _ => rfl⟩
  | .copyEngineCommandStart cmd => ⟨.copyEngineCommandStart cmd, rfl, fun _ => rfl⟩
  | .sendListEntry cmd => ⟨.sendListEntry cmd, rfl, fun _ => rfl⟩
  | .copyEngineCommandComplete cmd => ⟨.copyEngineCommandComplete cmd, rfl, fun _ => rfl⟩
  | .networkArrival pkt => ⟨.networkArrival pkt, rfl, fun _ => rfl⟩
  | .tileCommandExecute core => ⟨.tileCommandExecute core, rfl, fun _ => rfl⟩
  | .tileCommandComplete core => ⟨.tileCommandComplete core, rfl, fun _ => rfl⟩
  | .lunaSearchComplete core => ⟨.lunaSearchComplete core, rfl, fun _ => rfl⟩
  | .sysReply ctx call => ⟨.sysReply ctx call, rfl, fun _ => rfl⟩
  | .alloc ctx => ⟨.alloc ctx, rfl, fun _ => rfl⟩
  | .free ctx => ⟨.free ctx, rfl, fun _ => rfl⟩
  | .mapObject ctx => ⟨.mapObject ctx, rfl, fun _ => rfl⟩
  | .evictObject ctx => ⟨.evictObject ctx, rfl, fun _ => rfl⟩
  | .hostCall ctx => ⟨.hostCall ctx, rfl, fun _ => rfl⟩
  | .print ctx => ⟨.print ctx, rfl, fun _ => rfl⟩
  | .sleep ctx => ⟨.sleep ctx, rfl, fun _ => rfl⟩
  | .sleepExpiry ctx call => ⟨.sleepExpiry ctx call, rfl, fun _ => rfl⟩
  | .yieldCore ctx => ⟨.yieldCore ctx, rfl, fun _ => rfl⟩
  | .queryTime ctx => ⟨.queryTime ctx, rfl, fun _ => rfl⟩
  | .counterRegion ctx => ⟨.counterRegion ctx, rfl, fun _ => rfl⟩
  | .worldChannel ctx => ⟨.worldChannel ctx, rfl, fun _ => rfl⟩
  | .contextExit ctx => ⟨.contextExit ctx, rfl, fun _ => rfl⟩
  | .firmwareSwitch => ⟨.firmwareSwitch, rfl, fun _ => rfl⟩
  | .leaderElectionTimeout => ⟨.leaderElectionTimeout, rfl, fun _ => rfl⟩
  | .pairHeartbeat die => ⟨.pairHeartbeat die, rfl, fun _ => rfl⟩
  | .heartbeatMissed watcher => ⟨.heartbeatMissed watcher, rfl, fun _ => rfl⟩
  | .fenceRequest asker target => ⟨.fenceRequest asker target, rfl, fun _ => rfl⟩
  | .scrubComplete die => ⟨.scrubComplete die, rfl, fun _ => rfl⟩
  | .linkTrainingTimeout link => ⟨.linkTrainingTimeout link, rfl, fun _ => rfl⟩
  | .linkDropBurst link => ⟨.linkDropBurst link, rfl, fun _ => rfl⟩
  | .hostReply link tag => ⟨.hostReply link tag, rfl, fun _ => rfl⟩
  | .poolUnitServe => ⟨.poolUnitServe, rfl, fun _ => rfl⟩
  | .poolArbiterWindowEnd => ⟨.poolArbiterWindowEnd, rfl, fun _ => rfl⟩
  | .fabricPacketReturn pkt => ⟨.fabricPacketReturn pkt, rfl, fun _ => rfl⟩
  | .linkKeyExhausted link world => ⟨.linkKeyExhausted link world, rfl, fun _ => rfl⟩
  | .stopInterfaceRequest => ⟨.stopInterfaceRequest, rfl, fun _ => rfl⟩
  | .sessionRingRequest ring => ⟨.sessionRingRequest ring, rfl, fun _ => rfl⟩
  | .sessionRingReset ring => ⟨.sessionRingReset ring, rfl, fun _ => rfl⟩
  | .firewallReassign region world => ⟨.firewallReassign region world, rfl, fun _ => rfl⟩
  | .clusterAtomicUnitRequest req => ⟨.clusterAtomicUnitRequest req, rfl, fun _ => rfl⟩
  | .remoteScratchpadRequest req => ⟨.remoteScratchpadRequest req, rfl, fun _ => rfl⟩

/-! ## Steps -/

/-- The state that an item of the agenda runs in. -/
def itemTaken (s : State) (rest : List Item) : State := { s with agenda := rest, focus := none }

section
variable {s : State} {rest : List Item} (h : s.tripped = false)
include h

theorem step_of_issue {c : Candidate} (ha : s.agenda = .issue c :: rest) : step s = issueStep (itemTaken s rest) c := by
  rw [step, if_neg (by simp [h]), ha]
  rfl

theorem step_of_event {i : Instr} (ha : s.agenda = .event i :: rest) : step s = exec i (itemTaken s rest) := by
  rw [step, if_neg (by simp [h]), ha]
  rfl

theorem step_of_due {e : Due} (ha : s.agenda = .due e :: rest) : step s = e.run (itemTaken s rest) := by
  rw [step, if_neg (by simp [h]), ha]
  rfl

end

theorem tlbFilled_core (s : State) (c : Candidate) (e : Option TlbEntry) : (tlbFilled s c e).core (s.block c.blk).core =
    { s.core (s.block c.blk).core with tlb := addTlb e (s.core (s.block c.blk).core).tlb } :=
  State.core_modCore_same ..

theorem tlbFilled_codeLine (s : State) (c : Candidate) (e : Option TlbEntry) (line : Nat) :
    ((tlbFilled s c e).core (s.block c.blk).core).codeLine line = (s.core (s.block c.blk).core).codeLine line := by
  rw [tlbFilled_core]
  rfl

/-- What a fetch leaves alone, from the state in which the translation is cached. -/
theorem TouchesCode.of_tlbFilled {s u : State} {c : Candidate} {e : Option TlbEntry} {ctxs : Tbl Context}
    (h : TouchesCode (s.block c.blk).core (tlbFilled s c e) u) (hc : u.ctxs = ctxs) :
    u = { s with cores := u.cores, freeCount := u.freeCount, ctxs := ctxs } ∧
    (∀ n, n ≠ (s.block c.blk).core → u.core n = s.core n) ∧
    u.core (s.block c.blk).core = { s.core (s.block c.blk).core with
      tlb := addTlb e (s.core (s.block c.blk).core).tlb, icache := (u.core (s.block c.blk).core).icache,
      loopBuf := (u.core (s.block c.blk).core).loopBuf } :=
  ⟨by rw [h.rest, ← hc]; rfl, fun n hn => (h.others n hn).trans (State.core_modCore_ne s _ hn), by rw [h.held, tlbFilled_core]⟩

/-- The loss that a fetch counts is that of a struck line which the core has not got. -/
theorem wordFetched_ctxs {s : State} {rest : List Item} {c : Candidate} {pa : Nat} (e : Option TlbEntry)
    (h : (s.core (s.block c.blk).core).codeLine (pa / 64) = none ∨
      (s.core (s.block c.blk).core).codeLine (pa / 64) = some (lineWords s.mem (pa / 64))) :
    (wordFetched (itemTaken s rest) c pa e).ctxs = (if (s.core (s.block c.blk).core).codeLine (pa / 64) = none
      then s.readLoss (s.block c.blk).ctx (.mem (64 * (pa / 64))) 64 else s).ctxs := by
  have hf := tlbFilled_codeLine (itemTaken s rest) c e (pa / 64)
  obtain h | h := h
  · rw [if_pos h]
    exact (fetchWord_ctxs_of_none _ (hf.trans h)).trans (readLoss_ctxs_congr (s := s) (u := tlbFilled (itemTaken s rest) c e) rfl rfl ..)
  · rw [if_neg (by simp [h]), wordFetched, fetchWord_of_current]
    · rfl
    · exact hf.trans h

theorem wordFetched_cachedCode {s : State} {c : Candidate} {pa : Nat} (e : Option TlbEntry)
    (h : (s.core (s.block c.blk).core).codeLine (pa / 64) = none) :
    ((wordFetched s c pa e).core (s.block c.blk).core).cachedCode (pa / 64) = some (lineWords s.mem (pa / 64)) :=
  fetchWord_cachedCode _ ((tlbFilled_codeLine ..).trans h)

/-- Settles O57: the word has come in `wordFetched`, and of a decoded word the loop buffer takes note. -/
theorem stepRunsTheDecodedInstruction : Obligations.StepRunsTheDecodedInstruction := by
  refine ⟨?_, fun i rest s ht ha => step_of_event ht ha, fun e rest s ht ha => ?_⟩
  · intro c rest k pa e s htrip hagenda hl b w lost hk ha ht hline f prev
    let s₀ := itemTaken s rest
    have hm := fetchWord_word (s := tlbFilled s₀ c e) b.ctx ha (by rw [tlbFilled_codeLine]; exact hline)
    have fetched : TouchesCode b.core (tlbFilled s₀ c e) (wordFetched s₀ c pa e) := .fetchWord ..
    have hctxs : (wordFetched s₀ c pa e).ctxs = lost.ctxs := wordFetched_ctxs (some e) hline
    have hcached := wordFetched_cachedCode (s := s₀) (c := c) (pa := pa) (some e)
    have hstep := step_of_issue htrip hagenda
    cases hd : decode (wordBefore s₀ (wordFetched s₀ c pa e) c k) w with
    | error x =>
      obtain ⟨frame, others, held⟩ := TouchesCode.of_tlbFilled (s := s₀) fetched hctxs
      refine ⟨wordFetched s₀ c pa e, frame, others, held, hcached, fun i hi => ?_, fun y hy => ?_⟩
      · cases hd.symm.trans hi
      · cases hd.symm.trans hy
        rw [hstep, issueStep, fetch_of_refused (s := s₀) hl hk ht hm hd]
        rfl
    | ok i =>
      have buffered := TouchesCode.loopFetch (wordFetched s₀ c pa e) (wordFocus s₀ c w) b.core pa i
      obtain ⟨frame, others, held⟩ :=
        TouchesCode.of_tlbFilled (s := s₀) (fetched.trans buffered) ((loopFetch_ctxs ..).trans hctxs)
      have hprev : prev ((wordFetched s₀ c pa e).loopFetch (wordFocus s₀ c w) b.core pa i) =
          wordBefore s₀ (wordFetched s₀ c pa e) c k := by
        simp only [prev, codeWord_loopFetch]
        rfl
      refine ⟨_, frame, others, held, fun h => (loopFetch_cachedCode ..).trans (hcached h), fun j hj => ?_, fun y hy => ?_⟩
      · rw [hprev] at hj
        cases hd.symm.trans hj
        rw [hstep, issueStep, fetch_of_decoded (s := s₀) hl hk ht hm hd]
        rfl
      · rw [hprev] at hy
        cases hd.symm.trans hy
  · obtain ⟨i, hi, hrun⟩ := e.exists_eventRow
    exact ⟨i, hi, (step_of_due ht ha).trans (hrun _)⟩

end Sys2Proof.Machine

/-!
# A tile's store into a scratchpad that lists a byte twice (O6)

O6's clause on `vt.st` is over every state. A scratchpad lists its bytes that are not zero in rising order, each of them once, and a store
of a zero byte takes the byte from the list. Where the list has a byte twice, which no write makes, the store takes its first entry and
the second then shows. Other statements on scratchpads ask that the list is in its form (`Cells.wf`); this one asks nothing of it.
-/

namespace Sys2Proof.Machine

/-- A lane of a translated image is at a store of tile 0, one row of four zero bytes, to the scratchpad from byte 64 on. The scratchpad
lists byte 64 twice. -/
def doubledByte : State :=
  { State.reset with
    ctxs := [(0, { placedCtx with kernels := [(0, { placedKern with virt := [0] })] })]
    insts := [(0, placedInst)]
    blocks := [(0, { placedBlock with
      groups := [{ lanes := [{ v := [(4, 64)] }] }], scratch := 1, spad := [(64, 1), (64, 2)]
      vtiles := [(0, { rows := 1, cols := 4, els := [0, 0, 0, 0] })] })]
    focus := some { blk := 0, grp := 0, kern := 0, pc := 0, lanes := [0], word := 0 } }

/-- The path of `doubledByte`. -/
def doubledPath : Focus := { blk := 0, grp := 0, kern := 0, pc := 0, lanes := [0], word := 0 }

/-- `vt.st` of tile 0 to the scratchpad, at the address in v4 and with the stride in v6. -/
def tileToSpad : BitVec 53 :=
  (encF 0 { g := { n := 7, neg := false }, d := 0, a := .v 4, b := .v 6, c := 0, keep := .none } 0).setWidth 53 ||| 1

/-- The row that `tileToSpad` writes. -/
def storedRow : LocalRange := ⟨⟨64, false, srcNamed (.v 4)⟩, true, 4, .write⟩

/-- The state after the store. -/
def afterStore : State :=
  match exec (.vtSt tileToSpad) doubledByte with
  | .next t => t
  | _ => doubledByte

theorem exec_vtSt_doubledByte : exec (.vtSt tileToSpad) doubledByte = .next afterStore := rfl

/-- The store of a zero byte shows the second entry of byte 64. -/
theorem bytesAt_afterStore : afterStore.bytesAt (.rsp 0 64) 4 = [2, 0, 0, 0] := by decide

theorem ready_doubledByte : Ready doubledByte doubledPath (vtUse tileToSpad) where
  block := by decide
  group := by decide
  lanes := by decide
  focus := rfl
  ready := by decide
  once := by decide
  some := by decide
  delivered := by decide
  inside := by decide

theorem vtRanges_doubledByte : vtRanges (doubledByte.view doubledPath 0) (vtForm tileToSpad)
    (doubledByte.vtile doubledPath (vtForm tileToSpad).d.toNat) true .write = [storedRow] := by decide

theorem vtLoc_storedRow : vtLoc doubledByte doubledPath storedRow = .at (.rsp 0 64) := by decide

/-- The row passes its checks and, in the scratchpad, the firewall. -/
theorem storedRow_open (who : Agent) : (∃ p e, vtCheck doubledByte doubledPath storedRow = .ok p e) ∧
    ∀ o < storedRow.len, ∀ p, doubledByte.locPlace who (vtLoc doubledByte doubledPath storedRow) o .write = some p →
      doubledByte.port who.world p = .pass := by
  refine ⟨⟨_, _, rfl⟩, fun o _ p hp => ?_⟩
  rw [vtLoc_storedRow] at hp
  obtain rfl : Place.rsp 0 (64 + o) = p := Option.some.inj hp
  simp [State.port, Place.home?]

/-- Refutes O6: after the store of zeros in `doubledByte`, byte 64 of the scratchpad is 2. -/
theorem not_virtualAndUnassignedWords : ¬ Obligations.VirtualAndUnassignedWords := by
  intro h
  obtain ⟨-, -, memory⟩ := h
  obtain ⟨-, store⟩ := memory tileToSpad 0 doubledByte doubledPath ready_doubledByte (by decide) (by decide) rfl rfl (by decide)
  obtain ⟨t, ht, -, -, bytes⟩ := store fun r hr => by
    obtain rfl : r = storedRow := List.mem_singleton.mp (vtRanges_doubledByte ▸ hr)
    exact storedRow_open _
  obtain rfl : afterStore = t := by simpa [exec_vtSt_doubledByte] using ht
  have zeros := bytes storedRow vtRanges_doubledByte (by decide)
  exact absurd (bytesAt_afterStore.symm.trans zeros) (by decide)

end Sys2Proof.Machine

/-!
# Every result is rounded once (O4)

The patterns of a format, without their signs, stand for values in rising order (`magQ_strictMono`), so the value to round lies between two
successive patterns (`Between`). `roundAt` takes one of the two by the mode (`Mag.StandsFor.roundedAt`), the units of a binade being
successive patterns (`RoundedAt.between`), and what it takes is what R77 asks for (`Between.roundsTo`). A sum's, a product's and a
quotient's magnitude stands for the exact result (`addMag_exact`, `mulMag_exact`, `divMag_standsFor`).
-/

namespace Sys2Proof.Machine

open Sys2Proof.Claims

/-! ## The patterns of a format in order (R75) -/

/-- A pattern is a count of units of one power of two: `E` binades up, the unit is `2 ^ E` times the least one. The count may be the
first of the next binade. -/
theorem magQ_units (t : FFmt) {E n : Nat} (hn : n ≤ 2 * 2 ^ t.fbits) (hE : E = 0 ∨ 2 ^ t.fbits ≤ n) :
    magQ t (E * 2 ^ t.fbits + n) = n * (2 : ℚ) ^ (t.emin - (t.fbits : Int) + (E : Int)) := by
  have hF : 0 < 2 ^ t.fbits := by positivity
  unfold magQ
  generalize 2 ^ t.fbits = F at *
  obtain hlow | hmid | rfl : n < F ∨ (F ≤ n ∧ n < 2 * F) ∨ n = 2 * F := by omega
  · obtain rfl : E = 0 := by omega
    simp [Nat.div_eq_of_lt hlow]
  · obtain ⟨k, rfl⟩ := Nat.exists_eq_add_of_le hmid.1
    have hk : k < F := by omega
    have hy : E * F + (F + k) = F * (E + 1) + k := by ring
    simp [hy, Nat.mul_add_div hF, Nat.div_eq_of_lt hk, Nat.mod_eq_of_lt hk]
  · have hy : E * F + 2 * F = F * (E + 2) := by ring
    rw [hy, Nat.mul_div_cancel_left _ hF, Nat.mul_mod_right, if_neg (by omega), Nat.add_sub_assoc (by norm_num) E]
    push_cast
    rw [← add_assoc, zpow_add_one₀ (by norm_num)]
    ring

/-- Every pattern is a count of units within its binade. -/
theorem exists_units (t : FFmt) (y : Nat) :
    ∃ E n, y = E * 2 ^ t.fbits + n ∧ n < 2 * 2 ^ t.fbits ∧ (E = 0 ∨ 2 ^ t.fbits ≤ n) := by
  have hF : 0 < 2 ^ t.fbits := by positivity
  generalize 2 ^ t.fbits = F at *
  by_cases hy : y < F
  · exact ⟨0, y, by omega, by omega, .inl rfl⟩
  · have hd : 1 ≤ y / F := (Nat.one_le_div_iff hF).mpr (by omega)
    have hm := Nat.div_add_mod' y F
    have hlt := Nat.mod_lt y hF
    refine ⟨y / F - 1, F + y % F, ?_, by omega, .inr (by omega)⟩
    rw [Nat.sub_mul, one_mul]
    have := Nat.le_mul_of_pos_left F hd
    omega

/-- One pattern on is one unit more. -/
theorem magQ_succ (t : FFmt) {E n : Nat} (hn : n < 2 * 2 ^ t.fbits) (hE : E = 0 ∨ 2 ^ t.fbits ≤ n) :
    magQ t (E * 2 ^ t.fbits + n + 1) = (n + 1) * (2 : ℚ) ^ (t.emin - (t.fbits : Int) + (E : Int)) := by
  rw [add_assoc, magQ_units t hn (by omega)]
  push_cast
  rfl

theorem magQ_strictMono (t : FFmt) : StrictMono (magQ t) := by
  refine strictMono_nat_of_lt_succ fun y => ?_
  obtain ⟨E, n, rfl, hn, hE⟩ := exists_units t y
  rw [magQ_units t hn.le hE, magQ_succ t hn hE]
  have : (0 : ℚ) < 2 ^ (t.emin - (t.fbits : Int) + (E : Int)) := by positivity
  linarith

/-! ## Between two neighbours (R77) -/

/-- Which of the two neighbours of `x`, the `n`th value `lo` and the next one `hi`, a mode takes: does it go up? -/
def GoesUp (r : Rnd) (neg : Bool) (lo x hi : ℚ) (n : Nat) : Prop :=
  match r with
  | .rn => hi - x < x - lo ∨ (hi - x = x - lo ∧ n % 2 = 1)
  | .rz => False
  | .rm => neg = true ∧ lo < x
  | .rp => neg = false ∧ lo < x

/-- The number `m` that is taken, of `n` and the next one. -/
def Takes (r : Rnd) (neg : Bool) (lo x hi : ℚ) (n m : Nat) : Prop :=
  (GoesUp r neg lo x hi n ∧ m = n + 1) ∨ (¬ GoesUp r neg lo x hi n ∧ m = n)

/-- The pattern `b` and the next one are the neighbours of `x`; the patterns from infinity's on count as the powers of two they would be. -/
def Between (t : FFmt) (b : Nat) (x : ℚ) : Prop := magQ t b ≤ x ∧ x < magQ t (b + 1)

section
variable {t : FFmt} {b c : Nat} {x : ℚ}

theorem Between.magQ_le_iff (h : Between t b x) (z : Nat) : magQ t z ≤ x ↔ z ≤ b :=
  ⟨fun hz => Nat.lt_succ_iff.mp ((magQ_strictMono t).lt_iff_lt.mp (hz.trans_lt h.2)),
    fun hz => ((magQ_strictMono t).monotone hz).trans h.1⟩

theorem Between.le_magQ_iff_of_lt (h : Between t b x) (hx : magQ t b < x) (z : Nat) : x ≤ magQ t z ↔ b + 1 ≤ z :=
  ⟨fun hz => (magQ_strictMono t).lt_iff_lt.mp (hx.trans_le hz), fun hz => h.2.le.trans ((magQ_strictMono t).monotone hz)⟩

theorem Between.le_magQ_iff_of_not_lt (h : Between t b x) (hx : ¬ magQ t b < x) (z : Nat) : x ≤ magQ t z ↔ b ≤ z := by
  rw [← h.1.antisymm (not_lt.mp hx), (magQ_strictMono t).le_iff_le]

/-- The greatest value not above `x`. -/
theorem down_of_magQ_le_iff (ht : 0 < t.infBits) (h : ∀ z, magQ t z ≤ x ↔ z ≤ b) :
    let y := if t.infBits ≤ b then t.maxBits else b
    y < t.infBits ∧ magQ t y ≤ x ∧ ∀ z, z < t.infBits → magQ t z ≤ x → z ≤ y := by
  simp only [h, FFmt.maxBits]
  split <;> exact ⟨by omega, by omega, fun z => by omega⟩

/-- The least value not below `x`. -/
theorem up_of_le_magQ_iff (h : ∀ z, x ≤ magQ t z ↔ b ≤ z) :
    let y := if t.infBits ≤ b then t.infBits else b
    y ≤ t.infBits ∧ (y < t.infBits → x ≤ magQ t y) ∧ ∀ z, z < t.infBits → x ≤ magQ t z → y ≤ z := by
  simp only [h]
  split <;> exact ⟨by omega, by omega, fun z => by omega⟩

/-- How far a value lies from `x`, by the side it is on. -/
theorem Between.dist_eq (h : Between t b x) (z : Nat) :
    |magQ t z - x| = if z ≤ b then x - magQ t z else magQ t z - x := by
  split
  · rw [abs_of_nonpos (by linarith [(h.magQ_le_iff z).mpr ‹_›])]; ring
  · exact abs_of_pos (by linarith [not_le.mp (mt (h.magQ_le_iff z).mp ‹_›)])

/-- The neighbour below is nearest where the way down is no longer than the way up, and on a tie if it is even. -/
theorem Between.nearest_low (h : Between t b x) (hd : x - magQ t b ≤ magQ t (b + 1) - x)
    (he : x - magQ t b = magQ t (b + 1) - x → b % 2 = 0) (z : Nat) (hz : z ≠ b) :
    |magQ t b - x| < |magQ t z - x| ∨ (|magQ t b - x| = |magQ t z - x| ∧ b % 2 = 0) := by
  rw [h.dist_eq b, h.dist_eq z, if_pos le_rfl]
  split
  · exact .inl (by linarith [magQ_strictMono t (show z < b by omega)])
  · have hup : magQ t (b + 1) ≤ magQ t z := (magQ_strictMono t).monotone (by omega)
    rcases lt_or_eq_of_le (hd.trans (sub_le_sub_right hup x)) with hlt | heq
    · exact .inl hlt
    · exact .inr ⟨heq, he (by linarith)⟩

/-- The neighbour above, the same way. -/
theorem Between.nearest_high (h : Between t b x) (hd : magQ t (b + 1) - x ≤ x - magQ t b)
    (he : magQ t (b + 1) - x = x - magQ t b → (b + 1) % 2 = 0) (z : Nat) (hz : z ≠ b + 1) :
    |magQ t (b + 1) - x| < |magQ t z - x| ∨ (|magQ t (b + 1) - x| = |magQ t z - x| ∧ (b + 1) % 2 = 0) := by
  rw [h.dist_eq (b + 1), h.dist_eq z, if_neg (by omega)]
  split
  · have hdown : magQ t z ≤ magQ t b := (magQ_strictMono t).monotone ‹_›
    rcases lt_or_eq_of_le (hd.trans (sub_le_sub_left hdown x)) with hlt | heq
    · exact .inl hlt
    · exact .inr ⟨heq, he (by linarith)⟩
  · exact .inl (by linarith [magQ_strictMono t (show b + 1 < z by omega)])

/-- To the nearest: the neighbour that is taken is nearer than any other value. -/
theorem Between.nearest (h : Between t b x) {neg : Bool} (hc : Takes .rn neg (magQ t b) x (magQ t (b + 1)) b c) (z : Nat) (hz : z ≠ c) :
    |magQ t c - x| < |magQ t z - x| ∨ (|magQ t c - x| = |magQ t z - x| ∧ c % 2 = 0) := by
  obtain ⟨hup, rfl⟩ | ⟨hdown, rfl⟩ := hc
  · have hup : _ ∨ (_ ∧ b % 2 = 1) := hup
    exact h.nearest_high (hup.elim le_of_lt fun tie => tie.1.le) (fun e => hup.elim (absurd e ·.ne) fun tie => by omega) z hz
  · obtain ⟨hle, htie⟩ := not_or.mp (show ¬ (_ ∨ (_ ∧ c % 2 = 1)) from hdown)
    exact h.nearest_low (not_lt.mp hle) (fun e => by have := not_and.mp htie e.symm; omega) z hz

/-- The same among the values up to infinity's, which stands for all that lie beyond it. -/
theorem Between.nearest_upto_inf (h : Between t b x) {neg : Bool} (hc : Takes .rn neg (magQ t b) x (magQ t (b + 1)) b c) :
    let y := if t.infBits ≤ c then t.infBits else c
    y ≤ t.infBits ∧ ∀ z, z ≤ t.infBits → z ≠ y →
      |magQ t y - x| < |magQ t z - x| ∨ (|magQ t y - x| = |magQ t z - x| ∧ y % 2 = 0) := by
  by_cases hfar : t.infBits < c
  · have hb : t.infBits ≤ b := by obtain ⟨-, rfl⟩ | ⟨-, rfl⟩ := hc <;> omega
    rw [if_pos hfar.le]
    refine ⟨le_rfl, fun z hz hne => .inl ?_⟩
    rw [h.dist_eq, h.dist_eq, if_pos hb, if_pos (by omega)]
    linarith [magQ_strictMono t (show z < t.infBits by omega)]
  · have hy : (if t.infBits ≤ c then t.infBits else c) = c := by split <;> omega
    rw [hy]
    exact ⟨by omega, fun z _ hne => h.nearest hc z hne⟩

/-- Away from zero: the neighbour that is taken is the least value not below `x`. -/
theorem Between.le_magQ_iff_of_takes (h : Between t b x) {r : Rnd} {neg : Bool}
    (hr : GoesUp r neg (magQ t b) x (magQ t (b + 1)) b ↔ magQ t b < x)
    (hc : Takes r neg (magQ t b) x (magQ t (b + 1)) b c) (z : Nat) : x ≤ magQ t z ↔ c ≤ z := by
  obtain ⟨hup, rfl⟩ | ⟨hdown, rfl⟩ := hc
  · exact h.le_magQ_iff_of_lt (hr.mp hup) z
  · exact h.le_magQ_iff_of_not_lt (mt hr.mpr hdown) z

/-- Toward zero: it is the neighbour below. -/
theorem Between.magQ_le_iff_of_takes (h : Between t b x) {r : Rnd} {neg : Bool} (hr : ¬ GoesUp r neg (magQ t b) x (magQ t (b + 1)) b)
    (hc : Takes r neg (magQ t b) x (magQ t (b + 1)) b c) (z : Nat) : magQ t z ≤ x ↔ z ≤ c := by
  obtain ⟨hup, -⟩ | ⟨-, rfl⟩ := hc
  · exact absurd hup hr
  · exact h.magQ_le_iff z

/-- R77: the neighbour that the mode takes, or what an overflow becomes, is what the magnitude is rounded to. -/
theorem Between.roundsTo (h : Between t b x) (ht : 0 < t.infBits) (r : Rnd) (neg : Bool)
    (hc : Takes r neg (magQ t b) x (magQ t (b + 1)) b c) :
    RoundsTo t r neg x (if t.infBits ≤ c then overflowed t r neg else c) := by
  cases r with
  | rn => exact h.nearest_upto_inf hc
  | rz => exact down_of_magQ_le_iff ht (h.magQ_le_iff_of_takes (by simp [GoesUp]) hc)
  | rm =>
    cases neg with
    | true => exact up_of_le_magQ_iff (h.le_magQ_iff_of_takes (by simp [GoesUp]) hc)
    | false => exact down_of_magQ_le_iff ht (h.magQ_le_iff_of_takes (by simp [GoesUp]) hc)
  | rp =>
    cases neg with
    | true => exact down_of_magQ_le_iff ht (h.magQ_le_iff_of_takes (by simp [GoesUp]) hc)
    | false => exact up_of_le_magQ_iff (h.le_magQ_iff_of_takes (by simp [GoesUp]) hc)

end

/-! ## Rounding to units (R77) -/

/-- `x` is the number that a magnitude stands for: with `more`, any that lies strictly between two successive counts of its unit. -/
def Mag.StandsFor (m : Mag) (x : ℚ) : Prop :=
  if m.more then m.mag * (2 : ℚ) ^ m.exp < x ∧ x < (m.mag + 1) * (2 : ℚ) ^ m.exp else x = m.mag * (2 : ℚ) ^ m.exp

theorem Mag.StandsFor.bounds {m : Mag} {x : ℚ} (h : m.StandsFor x) :
    m.mag * (2 : ℚ) ^ m.exp ≤ x ∧ x < (m.mag + 1) * (2 : ℚ) ^ m.exp := by
  unfold Mag.StandsFor at h
  split at h
  · exact ⟨h.1.le, h.2⟩
  · have : (0 : ℚ) < 2 ^ m.exp := by positivity
    constructor <;> linarith

/-- `x` between its neighbours among the multiples of `2 ^ q`, of which `roundAt` takes one. -/
def RoundedAt (r : Rnd) (neg : Bool) (q : Int) (x : ℚ) (k n : Nat) : Prop :=
  k * (2 : ℚ) ^ q ≤ x ∧ x < (k + 1) * (2 : ℚ) ^ q ∧ Takes r neg (k * (2 : ℚ) ^ q) x ((k + 1) * (2 : ℚ) ^ q) k n

/-- A count of a coarser unit, in a finer one. -/
theorem mul_two_zpow_eq (n : Nat) {e q : Int} (h : q ≤ e) :
    (n : ℚ) * 2 ^ e = ((n * 2 ^ (e - q).toNat : Nat) : ℚ) * 2 ^ q := by
  push_cast
  rw [mul_assoc, ← zpow_natCast, ← zpow_add₀ (by norm_num), Int.toNat_of_nonneg (by omega), sub_add_cancel]

theorem takes_ite {r : Rnd} {neg : Bool} {lo x hi : ℚ} {n : Nat} {up : Bool} (h : GoesUp r neg lo x hi n ↔ up = true) :
    Takes r neg lo x hi n (if up then n + 1 else n) := by
  split
  · exact .inl ⟨h.mpr ‹_›, rfl⟩
  · exact .inr ⟨mt h.mp ‹_›, rfl⟩

/-- An exact multiple of the unit is taken as it is. -/
theorem takes_self (r : Rnd) (neg : Bool) (n : Nat) {lo hi : ℚ} (h : lo < hi) : Takes r neg lo lo hi n n := by
  refine .inr ⟨?_, rfl⟩
  cases r with
  | rn => rintro (hlt | ⟨heq, -⟩) <;> linarith
  | rz => exact id
  | rm => exact fun up => up.2.false
  | rp => exact fun up => up.2.false

/-- The mode's decision as `roundAt` makes it: from the last digit kept, from whether the part cut off is at least half a unit, and from
whether it is more than half, or than nothing. -/
def cutGoesUp (r : Rnd) (neg : Bool) (n : Nat) (half rest : Bool) : Bool :=
  match r with
  | .rn => half && (rest || n % 2 == 1)
  | .rz => false
  | .rm => neg && (half || rest)
  | .rp => !neg && (half || rest)

/-- A magnitude whose unit is no finer than `2 ^ q` is a multiple of it. -/
theorem roundAt_fine (r : Rnd) (neg : Bool) {m : Mag} {q : Int} (hq : q ≤ m.exp) (hm : m.more = false) :
    (roundAt r neg m q).1 = m.mag * 2 ^ (m.exp - q).toNat := by
  unfold roundAt
  cases r <;> simp [hq, hm]

/-- A magnitude of a finer unit is cut, and the decision is made on what is cut off. -/
theorem roundAt_coarse (r : Rnd) (neg : Bool) {m : Mag} {q : Int} (hq : m.exp < q) :
    let h := 2 ^ ((q - m.exp).toNat - 1)
    let low := m.mag % (2 * h)
    (roundAt r neg m q).1 = if cutGoesUp r neg (m.mag / (2 * h)) (decide (h ≤ low)) (m.more || low % h != 0)
      then m.mag / (2 * h) + 1 else m.mag / (2 * h) := by
  have hs : 2 ^ (q - m.exp).toNat = 2 * 2 ^ ((q - m.exp).toNat - 1) := by
    rw [← pow_succ', Nat.sub_add_cancel (by omega)]
  simp only [roundAt, if_neg (not_le.mpr hq), ← hs]
  rfl

/-- The part that is cut off, `w` in units of the magnitude, of a number whose lowest whole digits are `low`. -/
def CutOff (low : Nat) (more : Bool) (w : ℚ) : Prop := if more then low < w ∧ w < low + 1 else w = low

section
variable {h low : Nat} {more : Bool} {w : ℚ}

theorem mod_eq_of_lt_two_mul (hlow : low < 2 * h) : low % h = if low < h then low else low - h := by
  split
  · exact Nat.mod_eq_of_lt ‹_›
  · rw [Nat.mod_eq_sub_mod (by omega), Nat.mod_eq_of_lt (by omega)]

theorem CutOff.bounds (hw : CutOff low more w) (hlow : low < 2 * h) : 0 ≤ w ∧ w < 2 * h := by
  have hnn : (0 : ℚ) ≤ low := Nat.cast_nonneg low
  have hle : (low : ℚ) + 1 ≤ 2 * h := by exact_mod_cast hlow
  unfold CutOff at hw
  split at hw <;> constructor <;> linarith

/-- More than half. -/
theorem CutOff.half_lt_iff (hw : CutOff low more w) (hlow : low < 2 * h) :
    h < w ↔ (decide (h ≤ low) && (more || low % h != 0)) = true := by
  cases more with
  | true =>
    obtain ⟨hlo, hhi⟩ : low < w ∧ w < low + 1 := hw
    simp only [Bool.true_or, Bool.and_true, decide_eq_true_eq]
    constructor
    · exact fun hgt => Nat.lt_succ_iff.mp (by exact_mod_cast hgt.trans hhi)
    · exact fun hge => lt_of_le_of_lt (by exact_mod_cast hge) hlo
  | false =>
    obtain rfl : w = low := hw
    simp only [Nat.cast_lt, Bool.false_or, Bool.and_eq_true, decide_eq_true_eq, bne_iff_ne, mod_eq_of_lt_two_mul hlow]
    split <;> omega

/-- Just half. -/
theorem CutOff.eq_half_iff (hw : CutOff low more w) (hlow : low < 2 * h) :
    w = h ↔ (decide (h ≤ low) && !(more || low % h != 0)) = true := by
  cases more with
  | true =>
    obtain ⟨hlo, hhi⟩ : low < w ∧ w < low + 1 := hw
    simp only [Bool.true_or, Bool.not_true, Bool.and_false, Bool.false_eq_true, iff_false]
    rintro rfl
    have : low < h := by exact_mod_cast hlo
    have : h < low + 1 := by exact_mod_cast hhi
    omega
  | false =>
    obtain rfl : w = low := hw
    simp only [Nat.cast_inj, Bool.false_or, Bool.and_eq_true, Bool.not_eq_true', decide_eq_true_eq, bne_eq_false_iff_eq,
      mod_eq_of_lt_two_mul hlow]
    split <;> omega

/-- More than nothing. -/
theorem CutOff.pos_iff (hw : CutOff low more w) (hlow : low < 2 * h) :
    0 < w ↔ (decide (h ≤ low) || (more || low % h != 0)) = true := by
  cases more with
  | true =>
    obtain ⟨hlo, -⟩ : low < w ∧ w < low + 1 := hw
    simpa using (Nat.cast_nonneg low).trans_lt hlo
  | false =>
    obtain rfl : w = low := hw
    simp only [Nat.cast_pos, Bool.false_or, Bool.or_eq_true, decide_eq_true_eq, bne_iff_ne, mod_eq_of_lt_two_mul hlow]
    split <;> omega

/-- What is cut off decides as the neighbours do: they are `2 * h` units of the magnitude apart, and `x` is `w` of them above `lo`. -/
theorem CutOff.cutGoesUp_iff (hw : CutOff low more w) (hlow : low < 2 * h) {u lo : ℚ} (hu : 0 < u) (r : Rnd) (neg : Bool) (n : Nat) :
    GoesUp r neg lo (lo + w * u) (lo + 2 * h * u) n ↔ cutGoesUp r neg n (decide (h ≤ low)) (more || low % h != 0) = true := by
  have hpos : lo < lo + w * u ↔ 0 < w := by rw [lt_add_iff_pos_right, mul_pos_iff_of_pos_right hu]
  have hgt : lo + 2 * h * u - (lo + w * u) < lo + w * u - lo ↔ h < w := by
    rw [← mul_lt_mul_iff_left₀ hu (b := (h : ℚ))]; constructor <;> intro <;> linarith
  have heq : lo + 2 * h * u - (lo + w * u) = lo + w * u - lo ↔ w = h := by
    rw [← mul_left_inj' hu.ne' (a := w)]; constructor <;> intro <;> linarith
  cases r with
  | rn =>
    simp only [GoesUp, cutGoesUp, hgt, heq, hw.half_lt_iff hlow, hw.eq_half_iff hlow]
    generalize decide (h ≤ low) = half, (more || low % h != 0) = rest
    cases half <;> cases rest <;> simp
  | rz => simp [GoesUp, cutGoesUp]
  | rm => simp only [GoesUp, cutGoesUp, hpos, hw.pos_iff hlow, Bool.and_eq_true]
  | rp => simp only [GoesUp, cutGoesUp, hpos, hw.pos_iff hlow, Bool.and_eq_true, Bool.not_eq_true']

end

/-- What is cut off of a number when `n` is kept of its whole units. -/
theorem Mag.StandsFor.cutOff {m : Mag} {x : ℚ} (hx : m.StandsFor x) {n low : Nat} (hm : n + low = m.mag) :
    CutOff low m.more (x / 2 ^ m.exp - n) := by
  have hu : (0 : ℚ) < 2 ^ m.exp := by positivity
  have hmag : (m.mag : ℚ) = n + low := by exact_mod_cast hm.symm
  unfold Mag.StandsFor at hx
  unfold CutOff
  split <;> rename_i hmore
  · rw [if_pos hmore, ← lt_div_iff₀ hu, ← div_lt_iff₀ hu, hmag] at hx
    constructor <;> linarith
  · rw [if_neg hmore, ← div_eq_iff hu.ne', hmag] at hx
    linarith

/-- `roundAt` takes one of the two neighbours, by the mode. With `more` the unit must be below `2 ^ q`: the mode decides on what is cut off. -/
theorem Mag.StandsFor.roundedAt {m : Mag} {x : ℚ} (hx : m.StandsFor x) (r : Rnd) (neg : Bool) (q : Int) (hm : m.more = true → m.exp < q) :
    ∃ k, RoundedAt r neg q x k (roundAt r neg m q).1 := by
  by_cases hq : m.exp < q
  · rw [roundAt_coarse r neg hq]
    have hunit : (2 : ℚ) ^ q = 2 * (2 ^ ((q - m.exp).toNat - 1) : Nat) * 2 ^ m.exp := by
      push_cast
      rw [← pow_succ', Nat.sub_add_cancel (by omega), ← zpow_natCast, ← zpow_add₀ (by norm_num), Int.toNat_of_nonneg (by omega),
        sub_add_cancel]
    have hh : 0 < 2 ^ ((q - m.exp).toNat - 1) := by positivity
    generalize 2 ^ ((q - m.exp).toNat - 1) = h at *
    have hu : (0 : ℚ) < 2 ^ m.exp := by positivity
    have hlow : m.mag % (2 * h) < 2 * h := Nat.mod_lt _ (by omega)
    have hcut := hx.cutOff (Nat.div_add_mod' m.mag (2 * h))
    obtain ⟨hnn, hlt⟩ := hcut.bounds hlow
    generalize hw : x / 2 ^ m.exp - (m.mag / (2 * h) * (2 * h) : Nat) = w at *
    have hx' : x = (m.mag / (2 * h) : Nat) * 2 ^ q + w * 2 ^ m.exp := by
      rw [hunit, ← hw]; push_cast; field_simp; ring
    have hhi : ((m.mag / (2 * h) : Nat) + 1 : ℚ) * 2 ^ q = (m.mag / (2 * h) : Nat) * 2 ^ q + 2 * h * 2 ^ m.exp := by
      rw [add_one_mul, hunit]
    refine ⟨m.mag / (2 * h), ?_, ?_, takes_ite ?_⟩
    · rw [hx']; exact le_add_of_nonneg_right (by positivity)
    · rw [hhi, hx', add_lt_add_iff_left]; exact mul_lt_mul_of_pos_right hlt hu
    · rw [hhi, hx']; exact hcut.cutGoesUp_iff hlow hu r neg _
  · have hmore : m.more = false := by simpa using mt hm hq
    rw [roundAt_fine r neg (not_lt.mp hq) hmore]
    have hval : x = ((m.mag * 2 ^ (m.exp - q).toNat : Nat) : ℚ) * 2 ^ q := by
      rw [← mul_two_zpow_eq _ (not_lt.mp hq)]; simpa [Mag.StandsFor, hmore] using hx
    have hlt : x < (((m.mag * 2 ^ (m.exp - q).toNat : Nat) : ℚ) + 1) * 2 ^ q := by
      rw [hval, add_one_mul]; exact lt_add_of_pos_right _ (by positivity)
    exact ⟨_, hval.ge, hlt, by rw [← hval]; exact takes_self r neg _ hlt⟩

/-! ## Delivering a magnitude (R77, R78) -/

theorem bitLen_bounds {n : Nat} (hn : n ≠ 0) : 2 ^ (bitLen n - 1) ≤ n ∧ n < 2 ^ bitLen n ∧ 0 < bitLen n := by
  rw [bitLen, if_neg hn, Nat.add_sub_cancel]
  exact ⟨Nat.log2_self_le hn, Nat.lt_log2_self, Nat.succ_pos _⟩

theorem Mag.StandsFor.binade {m : Mag} {x : ℚ} (hx : m.StandsFor x) (hm : m.mag ≠ 0) :
    (2 : ℚ) ^ (m.exp + (bitLen m.mag : Int) - 1) ≤ x ∧ x < 2 ^ (m.exp + (bitLen m.mag : Int)) := by
  obtain ⟨hlo, hhi⟩ := hx.bounds
  obtain ⟨hge, hlt, hpos⟩ := bitLen_bounds hm
  have hu : (0 : ℚ) < 2 ^ m.exp := by positivity
  have hge' : (2 : ℚ) ^ (bitLen m.mag - 1) ≤ m.mag := by exact_mod_cast hge
  have hlt' : (m.mag : ℚ) + 1 ≤ 2 ^ bitLen m.mag := by exact_mod_cast hlt
  constructor
  · refine le_trans ?_ hlo
    rw [show m.exp + (bitLen m.mag : Int) - 1 = ((bitLen m.mag - 1 : Nat) : Int) + m.exp by omega, zpow_add₀ (by norm_num), zpow_natCast]
    exact mul_le_mul_of_nonneg_right hge' hu.le
  · refine hhi.trans_le ?_
    rw [add_comm m.exp, zpow_add₀ (by norm_num), zpow_natCast]
    exact mul_le_mul_of_nonneg_right hlt' hu.le

/-- An even number of values further up, the same is taken. -/
theorem Takes.add_even {r : Rnd} {neg : Bool} {lo x hi : ℚ} {k n : Nat} (h : Takes r neg lo x hi k n) {d : Nat} (hd : d % 2 = 0) :
    Takes r neg lo x hi (d + k) (d + n) := by
  have hsame : GoesUp r neg lo x hi (d + k) ↔ GoesUp r neg lo x hi k := by
    cases r with
    | rn => simp only [GoesUp, show (d + k) % 2 = k % 2 by omega]
    | rz => rfl
    | rm => rfl
    | rp => rfl
  simpa only [Takes, hsame, add_assoc, Nat.add_left_cancel_iff] using h

/-- The neighbours in units of a binade are the neighbours among the patterns. -/
theorem RoundedAt.between {t : FFmt} {r : Rnd} {neg : Bool} {x : ℚ} {E k n : Nat}
    (h : RoundedAt r neg (t.emin - (t.fbits : Int) + (E : Int)) x k n) (ht : 0 < t.fbits)
    (hlt : x < 2 ^ (t.emin + (E : Int) + 1)) (hge : E = 0 ∨ 2 ^ (t.emin + (E : Int)) ≤ x) :
    Between t (E * 2 ^ t.fbits + k) x ∧
      Takes r neg (magQ t (E * 2 ^ t.fbits + k)) x (magQ t (E * 2 ^ t.fbits + k + 1)) (E * 2 ^ t.fbits + k) (E * 2 ^ t.fbits + n) := by
  obtain ⟨hlo, hhi, htakes⟩ := h
  have hu : (0 : ℚ) < 2 ^ (t.emin - (t.fbits : Int) + (E : Int)) := by positivity
  have hE : (2 : ℚ) ^ (t.emin + (E : Int)) = (2 ^ t.fbits : Nat) * 2 ^ (t.emin - (t.fbits : Int) + (E : Int)) := by
    push_cast
    rw [← zpow_natCast, ← zpow_add₀ (by norm_num)]
    congr 1
    omega
  have hk : k < 2 * 2 ^ t.fbits := by
    rw [zpow_add_one₀ (by norm_num), hE, mul_right_comm] at hlt
    have := lt_of_mul_lt_mul_right (hlo.trans_lt hlt) hu.le
    rw [mul_comm]
    exact_mod_cast this
  have hbin : E = 0 ∨ 2 ^ t.fbits ≤ k := hge.imp_right fun hge => by
    have := lt_of_mul_lt_mul_right ((hE ▸ hge).trans_lt hhi) hu.le
    exact Nat.lt_succ_iff.mp (by exact_mod_cast this)
  have heven : (E * 2 ^ t.fbits) % 2 = 0 :=
    Nat.even_iff.mp ((Nat.even_pow.mpr ⟨even_two, ht.ne'⟩).mul_left E)
  rw [Between, magQ_units t hk.le hbin, magQ_succ t hk hbin]
  exact ⟨⟨hlo, hhi⟩, htakes.add_even heven⟩

/-- The binades that a magnitude lies above the lowest one. -/
def binadesUp (t : FFmt) (m : Mag) : Nat := (m.exp + (bitLen m.mag : Int) - 1 - t.emin).toNat

theorem max_unit_eq (t : FFmt) (m : Mag) :
    max (m.exp + (bitLen m.mag : Int) - 1 - (t.fbits : Int)) (t.emin - (t.fbits : Int)) =
      t.emin - (t.fbits : Int) + (binadesUp t m : Int) := by
  unfold binadesUp; omega

/-- The pattern without its sign that a magnitude is rounded to before an overflow is looked at. -/
def patternOf (t : FFmt) (r : Rnd) (neg : Bool) (m : Mag) : Nat :=
  binadesUp t m * 2 ^ t.fbits + (roundAt r neg m (t.emin - (t.fbits : Int) + (binadesUp t m : Int))).1

theorem roundF_fst (t : FFmt) (r : Rnd) (sat neg : Bool) {m : Mag} (hm : m.mag ≠ 0) :
    (roundF t r sat neg m).1 =
      let y := if t.infBits ≤ patternOf t r neg m then overflowed t r neg else patternOf t r neg m
      withSign t neg (if sat ∧ y = t.infBits then t.maxBits else y) := by
  have hE : (t.emin - (t.fbits : Int) + (binadesUp t m : Int) - (t.emin - (t.fbits : Int))).toNat = binadesUp t m := by omega
  simp only [roundF, hm, max_unit_eq, hE, decide_false, Bool.false_and, Bool.false_eq_true, if_false]
  rw [← patternOf]
  split
  · simp
  · have hne : patternOf t r neg m ≠ t.infBits := by omega
    simp [hne]

theorem FFmt.of_fbits_pos (ty : FTy) : 0 < (FFmt.of ty).fbits := by cases ty <;> decide
theorem FFmt.of_infBits_pos (ty : FTy) : 0 < (FFmt.of ty).infBits := by cases ty <;> decide

/-- R77: a magnitude is rounded once. -/
theorem patternOf_roundsTo {t : FFmt} (hf : 0 < t.fbits) (hi : 0 < t.infBits) (r : Rnd) (neg : Bool) {m : Mag} {x : ℚ} (hx : m.StandsFor x)
    (hm : m.mag ≠ 0) (hmore : m.more = true → (t.fbits : Int) + 1 < (bitLen m.mag : Int)) :
    RoundsTo t r neg x (if t.infBits ≤ patternOf t r neg m then overflowed t r neg else patternOf t r neg m) := by
  obtain ⟨hge, hlt⟩ := hx.binade hm
  obtain ⟨k, hk⟩ := hx.roundedAt r neg (t.emin - (t.fbits : Int) + (binadesUp t m : Int))
    fun h => by have := hmore h; unfold binadesUp; omega
  have hE : m.exp + (bitLen m.mag : Int) - 1 ≤ t.emin + binadesUp t m := by unfold binadesUp; omega
  have hE' : binadesUp t m = 0 ∨ t.emin + binadesUp t m = m.exp + (bitLen m.mag : Int) - 1 := by unfold binadesUp; omega
  obtain ⟨hb, ht⟩ := hk.between hf (hlt.trans_le (zpow_le_zpow_right₀ (by norm_num) (by omega))) (hE'.imp_right fun h => by rwa [h])
  exact hb.roundsTo hi r neg ht

/-! ## Signs and exact values (R75) -/

/-- The sign of a value as a factor. -/
def signQ (neg : Bool) : ℚ := if neg then -1 else 1

theorem signQ_bne (x y : Bool) : signQ (x != y) = signQ x * signQ y := by
  cases x <;> cases y <;> norm_num [signQ]

theorem signQ_div (x y : Bool) : signQ x / signQ y = signQ (x != y) := by
  cases x <;> cases y <;> norm_num [signQ]

theorem signQ_ne_zero (x : Bool) : signQ x ≠ 0 := by cases x <;> norm_num [signQ]

theorem signQ_mul_neg_iff (neg : Bool) {x : ℚ} (hx : 0 < x) : signQ neg * x < 0 ↔ neg = true := by
  cases neg
  · simpa [signQ] using hx.le
  · simpa [signQ] using hx

theorem abs_signQ_mul (neg : Bool) {x : ℚ} (hx : 0 < x) : |signQ neg * x| = x := by
  cases neg <;> simp [signQ, abs_of_pos hx]

/-- `round(x, T, m)` delivers the number that its magnitude stands for. -/
theorem roundF_delivers (ty : FTy) (r : Rnd) (sat neg : Bool) {m : Mag} {x : ℚ} (hx : m.StandsFor x) (hpos : 0 < x) (hm : m.mag ≠ 0)
    (hmore : m.more = true → ((FFmt.of ty).fbits : Int) + 1 < (bitLen m.mag : Int)) :
    Delivers ty r sat (signQ neg * x) (roundF (FFmt.of ty) r sat neg m).1 := by
  unfold Delivers
  simp only [signQ_mul_neg_iff neg hpos, Bool.decide_eq_true, abs_signQ_mul neg hpos]
  exact ⟨_, patternOf_roundsTo (FFmt.of_fbits_pos ty) (FFmt.of_infBits_pos ty) r neg hx hm hmore, roundF_fst _ r sat neg hm⟩

/-- The value of a magnitude without `more`. -/
def Mag.exactQ (m : Mag) : ℚ := m.mag * (2 : ℚ) ^ m.exp

theorem Mag.exactQ_eq_zero_iff (m : Mag) : m.exactQ = 0 ↔ m.mag = 0 := by
  simp [Mag.exactQ, zpow_ne_zero]

theorem Mag.exactQ_pos {m : Mag} (hm : m.mag ≠ 0) : 0 < m.exactQ :=
  mul_pos (by exact_mod_cast Nat.pos_of_ne_zero hm) (by positivity)

theorem exists_of_valQ {v : FVal} {p : ℚ} (h : valQ v = some p) :
    ∃ neg m, v = .fin neg m ∧ m.more = false ∧ p = signQ neg * m.exactQ := by
  cases v with
  | nan => cases h
  | inf neg => cases h
  | fin neg m =>
    simp only [valQ] at h
    split at h
    · cases h
    · exact ⟨neg, m, rfl, Bool.eq_false_of_not_eq_true ‹_›, by rw [← Option.some.inj h, mul_assoc]; rfl⟩

/-- An exact magnitude, rounded once. -/
theorem roundF_delivers_exact (ty : FTy) (r : Rnd) (sat neg : Bool) {m : Mag} (hmore : m.more = false) (hm : m.mag ≠ 0) :
    Delivers ty r sat (signQ neg * m.exactQ) (roundF (FFmt.of ty) r sat neg m).1 :=
  roundF_delivers ty r sat neg (by simp [Mag.StandsFor, hmore, Mag.exactQ]) (Mag.exactQ_pos hm) hm (by simp [hmore])

/-! ## Sums -/

theorem signedInt_cast (neg : Bool) (n : Nat) : ((signedInt neg n : Int) : ℚ) = signQ neg * n := by
  cases neg <;> simp [signedInt, signQ]

theorem signQ_mul_natAbs (x : Int) : signQ (decide (x < 0)) * (x.natAbs : ℚ) = x := by
  by_cases hx : x < 0
  · simp [hx, signQ, abs_of_neg]
  · simp [hx, signQ, abs_of_nonneg (not_lt.mp hx)]

theorem addMag_exact (na : Bool) (a : Mag) (nb : Bool) (b : Mag) :
    signQ (addMag na a nb b).1 * (addMag na a nb b).2.exactQ = signQ na * a.exactQ + signQ nb * b.exactQ := by
  simp only [addMag, Mag.exactQ]
  rw [← mul_assoc, signQ_mul_natAbs, Int.cast_add, signedInt_cast, signedInt_cast, add_mul, mul_assoc, mul_assoc,
    ← mul_two_zpow_eq _ (min_le_left _ _), ← mul_two_zpow_eq _ (min_le_right _ _)]

theorem addMag_mag_eq_zero_iff (na : Bool) (a : Mag) (nb : Bool) (b : Mag) :
    (addMag na a nb b).2.mag = 0 ↔ signQ na * a.exactQ + signQ nb * b.exactQ = 0 := by
  rw [← addMag_exact, mul_eq_zero, or_iff_right (signQ_ne_zero _), Mag.exactQ_eq_zero_iff]

theorem sumF_fin (t : FFmt) (r : Rnd) (sat x y : Bool) (m k : Mag) :
    sumF t r sat (.fin x m) (.fin y k) =
      if (addMag x m y k).2.mag = 0 then (withSign t (if x == y then x else r == .rm) 0, [])
      else roundF t r sat (addMag x m y k).1 (addMag x m y k).2 := rfl

/-- R77: a sum that is not zero. -/
theorem sumF_delivers (ty : FTy) (r : Rnd) (sat : Bool) {a b : FVal} {p q : ℚ} (ha : valQ a = some p) (hb : valQ b = some q)
    (hne : p + q ≠ 0) : Delivers ty r sat (p + q) (sumF (FFmt.of ty) r sat a b).1 := by
  obtain ⟨x, m, rfl, -, rfl⟩ := exists_of_valQ ha
  obtain ⟨y, k, rfl, -, rfl⟩ := exists_of_valQ hb
  have hmag := mt (addMag_mag_eq_zero_iff x m y k).mp hne
  rw [sumF_fin, if_neg hmag, ← addMag_exact]
  exact roundF_delivers_exact ty r sat _ rfl hmag

/-- R78: an exact sum of zero of operands that are not zero, and so of opposite sign. -/
theorem sumF_cancels (t : FFmt) (r : Rnd) (sat : Bool) {a b : FVal} {p q : ℚ} (ha : valQ a = some p) (hb : valQ b = some q)
    (hp : p ≠ 0) (hz : p + q = 0) : sumF t r sat a b = (withSign t (decide (r = .rm)) 0, []) := by
  obtain ⟨x, m, rfl, -, rfl⟩ := exists_of_valQ ha
  obtain ⟨y, k, rfl, -, rfl⟩ := exists_of_valQ hb
  have hopposite : ¬ x = y := by
    rintro rfl
    rw [← mul_add] at hz
    have hm : 0 < m.exactQ := Mag.exactQ_pos fun h => hp (by rw [m.exactQ_eq_zero_iff.mpr h, mul_zero])
    have hk : 0 ≤ k.exactQ := by unfold Mag.exactQ; positivity
    exact mul_ne_zero (signQ_ne_zero x) (by linarith) hz
  rw [sumF_fin, if_pos ((addMag_mag_eq_zero_iff x m y k).mpr hz), if_neg (by simpa using hopposite)]
  cases r <;> rfl

/-! ## Products -/

theorem mulMag_exact (a b : Mag) : (mulMag a b).exactQ = a.exactQ * b.exactQ := by
  simp only [mulMag, Mag.exactQ, zpow_add₀ (two_ne_zero' ℚ), Nat.cast_mul]
  ring

/-- The exact product of two finite values is their product. -/
theorem valQ_prodF {a b : FVal} {p q : ℚ} (ha : valQ a = some p) (hb : valQ b = some q) :
    ∃ neg m, prodF a b = some (.fin neg m) ∧ valQ (.fin neg m) = some (p * q) := by
  obtain ⟨x, m, rfl, -, rfl⟩ := exists_of_valQ ha
  obtain ⟨y, k, rfl, -, rfl⟩ := exists_of_valQ hb
  refine ⟨x != y, mulMag m k, rfl, ?_⟩
  have : signQ (x != y) * (mulMag m k).exactQ = signQ x * m.exactQ * (signQ y * k.exactQ) := by
    rw [signQ_bne, mulMag_exact]; ring
  rw [← this, Mag.exactQ, ← mul_assoc]
  rfl

/-- R77: a finite value that is not zero, in a type. -/
theorem packF_delivers (ty : FTy) (r : Rnd) (sat : Bool) {a : FVal} {p : ℚ} (ha : valQ a = some p) (hp : p ≠ 0) :
    Delivers ty r sat p (packF (FFmt.of ty) r sat a).1 := by
  obtain ⟨x, m, rfl, hmore, rfl⟩ := exists_of_valQ ha
  exact roundF_delivers_exact ty r sat x hmore fun h => hp (by rw [m.exactQ_eq_zero_iff.mpr h, mul_zero])

theorem mulF_delivers (ty : FTy) (r : Rnd) (sat : Bool) {a b : FVal} {p q : ℚ} (ha : valQ a = some p) (hb : valQ b = some q)
    (hne : p * q ≠ 0) : Delivers ty r sat (p * q) (mulF (FFmt.of ty) r sat a b).1 := by
  obtain ⟨neg, m, hprod, hval⟩ := valQ_prodF ha hb
  rw [mulF, hprod]
  exact packF_delivers ty r sat hval hne

theorem fmaF_delivers (ty : FTy) (r : Rnd) (sat : Bool) {a b c : FVal} {p q o : ℚ} (ha : valQ a = some p) (hb : valQ b = some q)
    (hc : valQ c = some o) (hne : p * q + o ≠ 0) : Delivers ty r sat (p * q + o) (fmaF (FFmt.of ty) r sat a b c).1 := by
  obtain ⟨neg, m, hprod, hval⟩ := valQ_prodF ha hb
  rw [fmaF, hprod]
  exact sumF_delivers ty r sat hval hc hne

/-! ## Quotients -/

theorem lt_bitLen {j n : Nat} (h : 2 ^ j ≤ n) : j < bitLen n := by
  have hn : n ≠ 0 := by have := Nat.two_pow_pos j; omega
  rw [bitLen, if_neg hn, Nat.lt_succ_iff, Nat.le_log2 hn]
  exact h

/-- The quotient keeps more bits than any format has. -/
theorem bitLen_divMag {a b : Mag} (ha : a.mag ≠ 0) (hb : b.mag ≠ 0) : 159 < bitLen (divMag a b).mag := by
  obtain ⟨hge, -, hpos⟩ := bitLen_bounds ha
  obtain ⟨-, hlt, -⟩ := bitLen_bounds hb
  refine lt_bitLen ((Nat.le_div_iff_mul_le (Nat.pos_of_ne_zero hb)).mpr ?_)
  calc 2 ^ 159 * b.mag ≤ 2 ^ 159 * 2 ^ bitLen b.mag := Nat.mul_le_mul_left _ hlt.le
    _ = 2 ^ (159 + bitLen b.mag) := (pow_add ..).symm
    _ ≤ 2 ^ (bitLen a.mag - 1 + (160 + bitLen b.mag - bitLen a.mag)) := Nat.pow_le_pow_right two_pos (by omega)
    _ = 2 ^ (bitLen a.mag - 1) * 2 ^ (160 + bitLen b.mag - bitLen a.mag) := pow_add ..
    _ ≤ a.mag * 2 ^ (160 + bitLen b.mag - bitLen a.mag) := Nat.mul_le_mul_right _ hge

/-- A quotient of two numbers in units of `2 ^ e`, whose whole part `more` says to be exceeded if there is a remainder. -/
theorem standsFor_div (n : Nat) {d : Nat} (hd : d ≠ 0) (e : Int) :
    (⟨n / d, e, n % d != 0⟩ : Mag).StandsFor ((n : ℚ) / d * 2 ^ e) := by
  have hu : (0 : ℚ) < 2 ^ e := by positivity
  have hd' : (0 : ℚ) < d := by exact_mod_cast Nat.pos_of_ne_zero hd
  have hn : (n : ℚ) / d = (n / d : Nat) + (n % d : Nat) / d := by
    rw [eq_comm, ← eq_sub_iff_add_eq', div_eq_iff hd'.ne', sub_mul, div_mul_cancel₀ _ hd'.ne', eq_sub_iff_add_eq']
    exact_mod_cast Nat.div_add_mod' n d
  have hlt : ((n % d : Nat) : ℚ) / d < 1 := (div_lt_one hd').mpr (by exact_mod_cast Nat.mod_lt n (Nat.pos_of_ne_zero hd))
  by_cases hr : n % d = 0
  · simp [Mag.StandsFor, hn, hr]
  · have hpos : 0 < ((n % d : Nat) : ℚ) / d := div_pos (by exact_mod_cast Nat.pos_of_ne_zero hr) hd'
    simp only [Mag.StandsFor, bne_iff_ne, ne_eq, hr, not_false_eq_true, if_true, hn, mul_lt_mul_iff_left₀ hu]
    constructor <;> linarith

/-- `more` tells a remainder. -/
theorem divMag_standsFor (a : Mag) {b : Mag} (hb : b.mag ≠ 0) : (divMag a b).StandsFor (a.exactQ / b.exactQ) := by
  have hscale (k : Nat) : a.exactQ / b.exactQ = ((a.mag * 2 ^ k : Nat) : ℚ) / b.mag * 2 ^ (a.exp - b.exp - (k : Int)) := by
    rw [Mag.exactQ, Mag.exactQ, zpow_sub₀ (by norm_num), zpow_sub₀ (by norm_num), zpow_natCast]
    push_cast
    field_simp
  rw [hscale]
  exact standsFor_div _ hb _

theorem divF_fin (t : FFmt) (r : Rnd) (sat x y : Bool) {m k : Mag} (hm : m.mag ≠ 0) (hk : k.mag ≠ 0) :
    divF t r sat (.fin x m) (.fin y k) = roundF t r sat (x != y) (divMag m k) := by
  simp [divF, hm, hk]

theorem FFmt.of_fbits_le (ty : FTy) : (FFmt.of ty).fbits ≤ 52 := by cases ty <;> decide

theorem divF_delivers (ty : FTy) (r : Rnd) (sat : Bool) {a b : FVal} {p q : ℚ} (ha : valQ a = some p) (hb : valQ b = some q)
    (hp : p ≠ 0) (hq : q ≠ 0) : Delivers ty r sat (p / q) (divF (FFmt.of ty) r sat a b).1 := by
  obtain ⟨x, m, rfl, -, rfl⟩ := exists_of_valQ ha
  obtain ⟨y, k, rfl, -, rfl⟩ := exists_of_valQ hb
  have hm : m.mag ≠ 0 := mt m.exactQ_eq_zero_iff.mpr (right_ne_zero_of_mul hp)
  have hk : k.mag ≠ 0 := mt k.exactQ_eq_zero_iff.mpr (right_ne_zero_of_mul hq)
  have hquot : signQ x * m.exactQ / (signQ y * k.exactQ) = signQ (x != y) * (m.exactQ / k.exactQ) := by
    rw [mul_div_mul_comm, signQ_div]
  have hbits := bitLen_divMag hm hk
  have hf := FFmt.of_fbits_le ty
  rw [hquot, divF_fin _ _ _ _ _ hm hk]
  exact roundF_delivers ty r sat _ (divMag_standsFor m hk) (div_pos (Mag.exactQ_pos hm) (Mag.exactQ_pos hk))
    (fun h => by simp [h, bitLen] at hbits) fun _ => by omega

/-! ## NaNs (R78, R79) -/

theorem sumF_nan_right (t : FFmt) (r : Rnd) (sat : Bool) (a : FVal) : sumF t r sat a .nan = (t.nanBits, []) := by cases a <;> rfl
theorem mulF_nan_right (t : FFmt) (r : Rnd) (sat : Bool) (a : FVal) : mulF t r sat a .nan = (t.nanBits, []) := by cases a <;> rfl
theorem divF_nan_right (t : FFmt) (r : Rnd) (sat : Bool) (a : FVal) : divF t r sat a .nan = (t.nanBits, []) := by cases a <;> rfl

/-- ∞ − ∞. -/
theorem sumF_inf_opposite (t : FFmt) (r : Rnd) (sat x : Bool) : sumF t r sat (.inf x) (.inf !x) = nanMade t := by cases x <;> rfl

/-- 0 × ∞. -/
theorem mulF_zero_inf (t : FFmt) (r : Rnd) (sat x y : Bool) {m : Mag} (hm : m.mag = 0) : mulF t r sat (.fin y m) (.inf x) = nanMade t := by
  simp [mulF, prodF, hm]

/-- 0 / 0. -/
theorem divF_zero_zero (t : FFmt) (r : Rnd) (sat x y : Bool) {m : Mag} (hm : m.mag = 0) :
    divF t r sat (.fin x m) (.fin y m) = nanMade t := by
  simp [divF, hm]

/-- Settles O4: every result goes through `roundF`, whose magnitude stands for the exact result and which takes one of its two
neighbours by the mode. -/
theorem resultsAreRoundedOnce : Obligations.ResultsAreRoundedOnce := by
  exact ⟨fun ty r sat a b c p q o ha hb hc => ⟨sumF_delivers ty r sat ha hb, mulF_delivers ty r sat ha hb,
      fmaF_delivers ty r sat ha hb hc, divF_delivers ty r sat ha hb, packF_delivers ty r sat ha, sumF_cancels _ r sat ha hb⟩,
    fun ty r sat x y a m hm => ⟨⟨rfl, sumF_nan_right _ r sat a, rfl, mulF_nan_right _ r sat a, rfl, divF_nan_right _ r sat a⟩,
      sumF_inf_opposite _ r sat x, mulF_zero_inf _ r sat x y hm, rfl, divF_zero_zero _ r sat x y hm⟩⟩

end Sys2Proof.Machine

/-!
# Words that steer a path (O7 to O12)
-/

namespace Sys2Proof.Machine

open Sys2Proof.Claims

/-! ## Where the lanes of a path go -/

theorem nextOf_map (f : Focus) (ls : List Nat) (n : Nat → Next) (i : Nat) :
    nextOf f (ls.map (fun j => (j, n j))) i = if i ∈ ls then n i else .go (f.pc + 1) := by
  unfold nextOf
  by_cases hi : i ∈ ls
  · rw [lookup_map_self ls n i hi, if_pos hi]
  · have hnone : (ls.map (fun j => (j, n j))).lookup i = none := by
      rw [List.lookup_eq_none_iff]
      simp only [List.mem_map, bne_iff_ne, forall_exists_index, and_imp]
      rintro _ j hj rfl rfl
      exact hi hj
    rw [hnone, if_neg hi]

/-- No lane of the path stands outside the code where each of them goes on inside it (R110). -/
theorem outside_nil_of_go {t : State} {f : Focus} {size : Nat} {nx : List (Nat × Next)} (target : Nat → Nat)
    (hn : ∀ i ∈ f.lanes, nextOf f nx i = .go (target i)) (hs : ∀ i ∈ f.lanes, (t.flane f i).landing (target i) < size) :
    outside t f size nx = [] := by
  simp only [outside, List.filter_eq_nil_iff]
  intro i hi
  simpa [hn i hi] using hs i hi

@[simp] theorem Lane.advance_pc (l : Lane) (a : Nat) : (l.advance a).pc = l.landing a := rfl

@[simp] theorem Lane.advance_st (l : Lane) (a : Nat) : (l.advance a).st = .ready := rfl

@[simp] theorem Lane.advance_v (l : Lane) (a : Nat) : (l.advance a).v = l.v := rfl

/-- What a word leaves, said of the lanes and the group as they were. -/
theorem PathResult.congr {s t : State} {f : Focus} {gr gr' : Group → Group} {k k' : Nat → Lane → Lane} (h : PathResult s t f gr k)
    (hg : { gr (s.fgroup f) with lanes := (t.fgroup f).lanes } = { gr' (s.fgroup f) with lanes := (t.fgroup f).lanes })
    (hk : ∀ i ∈ f.lanes, k i (s.flane f i) = k' i (s.flane f i)) : PathResult s t f gr' k' :=
  ⟨h.toOnlyGroup, fun i hi => (h.lanes i hi).trans (hk i hi), h.others, h.group.trans hg, h.rest⟩

theorem Group.modLanes_self (g : Group) (ls : List Nat) : g.modLanes ls (fun _ l => l) = g := by
  induction ls with
  | nil => rfl
  | cons i ls ih =>
    have h : g.modLane i (fun l => l) = g := by simp [Group.modLane, show (fun l : Lane => l) = id from rfl]
    rw [Group.modLanes_cons, h, ih]

theorem State.onLanes_self (s : State) (f : Focus) (ls : List Nat) : s.onLanes f ls (fun _ l => l) = s := by
  show s.onGroup f (fun g => g.modLanes ls (fun _ l => l)) = s
  simp only [Group.modLanes_self]
  exact s.onGroup_id f

theorem acts_iff_mem_acting {s : State} {f : Focus} (g : Guard) {i : Nat} (hi : i ∈ f.lanes) :
    Acts s f g i = true ↔ i ∈ s.acting f g :=
  (mem_acting s f g hi).symm

/-- The lanes in which a word acts become what `k` gives and go to their targets, and the others go on. -/
def sentLane (s : State) (f : Focus) (g : Guard) (k : Nat → Lane → Lane) (target : Nat → Nat) (i : Nat) (l : Lane) : Lane :=
  if Acts s f g i then (k i l).advance (target i) else l.advance (f.pc + 1)

/-- A word that changes the lanes in which it acts and sends each of them to a target inside the code. -/
theorem runWord_sends {s : State} {f : Focus} {use : List Nat} (h : Issues s f use) {g : Guard} {act : State → Focus → Eff}
    {k : Nat → Lane → Lane} {target : Nat → Nat}
    (ha : act s f = .ok (s.onLanes f (s.acting f g) k) ((s.acting f g).map (fun i => (i, .go (target i)))))
    (hin : LandsIn s f (sentLane s f g k target)) :
    ∃ t, runWord s use act = .next t ∧ PathResult s t f id (sentLane s f g k target) := by
  have hp := h.toOnPath
  have hacts := hp.once.filter (fun i => (s.flane f i).acts g)
  have hlane : ∀ i ∈ f.lanes, ((s.fgroup f).modLanes (s.acting f g) k).lane i =
      if Acts s f g i then k i (s.flane f i) else s.flane f i := by
    intro i hi
    by_cases hm : i ∈ s.acting f g
    · rw [if_pos ((acts_iff_mem_acting g hi).mpr hm)]
      exact Group.lane_modLanes_same _ _ k i hm hacts (hp.lanes i hi)
    · rw [if_neg (fun hn => hm ((acts_iff_mem_acting g hi).mp hn))]
      exact Group.lane_modLanes_ne _ _ k i hm
  have hnext : ∀ i ∈ f.lanes, nextOf f ((s.acting f g).map (fun i => (i, .go (target i)))) i =
      .go (if Acts s f g i then target i else f.pc + 1) := by
    intro i hi
    rw [nextOf_map]
    simp only [← acts_iff_mem_acting g hi]
    split <;> rfl
  have hout : outside (s.onLanes f (s.acting f g) k) f (s.fkern f).size
      ((s.acting f g).map (fun i => (i, .go (target i)))) = [] := by
    refine outside_nil_of_go _ hnext (fun i hi => ?_)
    have hl := hin i hi
    have hg : (s.onLanes f (s.acting f g) k).flane f i = ((s.fgroup f).modLanes (s.acting f g) k).lane i :=
      congrArg (fun x => Group.lane x i) (hp.group_eq _)
    rw [hg, hlane i hi]
    unfold sentLane at hl
    split at hl
    · next hc => simpa [hc] using hl
    · next hc => simpa [hc] using hl
  obtain ⟨t, ht, hr⟩ := runWord_path h (fun x => x.modLanes (s.acting f g) k) ha (fun x => Group.modLanes_length x _ k)
    (fun i hi => Group.lane_modLanes_ne _ _ k i (fun hm => hi (acting_sub s f g i hm).1)) hout
  refine ⟨t, ht, hr.congr ?_ (fun i hi => ?_)⟩
  · rw [Group.modLanes_rest]
    rfl
  · simp only [placeLane, hnext i hi, hlane i hi, sentLane]
    split <;> rfl

/-! ## Branches (R109, R110) -/

theorem badTargets_map (s : State) (f : Focus) (ls : List Nat) (target : Nat → Nat) :
    badTargets s f (ls.map (fun i => (i, target i))) = ls.filter (fun i => decide ((s.fkern f).size ≤ target i)) := by
  simp [badTargets, List.filter_map, Function.comp_def]

/-- A branch whose targets lie inside the code. -/
theorem runWord_branch {s : State} {f : Focus} {use : List Nat} (h : Issues s f use) (g : Guard) (target : State → Focus → Nat → Nat)
    (ht : ∀ i ∈ f.lanes, Acts s f g i = true → target s f i < (s.fkern f).size) (hin : LandsIn s f (sendTo s f g (target s f))) :
    ∃ t, runWord s use (fun s f => branch s f ((s.acting f g).map (fun i => (i, target s f i)))) = .next t ∧
      PathResult s t f id (sendTo s f g (target s f)) := by
  have hbad : badTargets s f ((s.acting f g).map (fun i => (i, target s f i))) = [] := by
    rw [badTargets_map, List.filter_eq_nil_iff]
    intro i hi
    obtain ⟨hl, hg⟩ := acting_sub s f g i hi
    simpa using ht i hl hg
  have hsent : sentLane s f g (fun _ l => l) (target s f) = sendTo s f g (target s f) := by
    funext i l
    unfold sentLane sendTo
    split <;> rfl
  rw [← hsent] at hin ⊢
  refine runWord_sends h ?_ hin
  rw [branch, hbad, State.onLanes_self]
  simp

/-- A branch with targets outside the code traps in the lanes that have them. -/
theorem runWord_branch_outside {s : State} {f : Focus} {use : List Nat} (h : Issues s f use) (g : Guard)
    (target : State → Focus → Nat → Nat)
    (hbad : (s.acting f g).filter (fun i => decide ((s.fkern f).size ≤ target s f i)) ≠ []) :
    runWord s use (fun s f => branch s f ((s.acting f g).map (fun i => (i, target s f i)))) = .next (takeTrap s f
      { cause := 5, lanes := (s.acting f g).filter (fun i => decide ((s.fkern f).size ≤ target s f i)) }) := by
  rw [runWord_issues h, branch]
  simp only [badTargets_map, List.isEmpty_iff, hbad, if_false, boundsTrap]

/-- Settles O7: a branch changes no lane but by where it goes. -/
theorem branchesSendEachLane : Obligations.BranchesSendEachLane := by
  refine ⟨⟨fun l s f h ht hin => ?_, fun x s f h ht hin => ?_⟩, fun l s f h hacts hsize => ?_, fun x s f h => ?_⟩
  · exact runWord_branch h l.g (fun _ f _ => relTarget f.pc l.lit) ht hin
  · exact runWord_branch h x.g (fun s f i => ((s.view f i).src x.a).toNat) ht hin
  · have hall : (s.acting f l.g).filter (fun _ => decide ((s.fkern f).size ≤ relTarget f.pc l.lit)) = s.acting f l.g :=
      List.filter_eq_self.mpr fun _ _ => decide_eq_true hsize
    have htrap := runWord_branch_outside h l.g (fun _ f _ => relTarget f.pc l.lit) (by rw [hall]; exact hacts)
    rw [hall] at htrap
    exact htrap
  · exact runWord_branch_outside h x.g (fun s f i => ((s.view f i).src x.a).toNat)

end Sys2Proof.Machine

namespace Sys2Proof.Machine

open Sys2Proof.Claims

/-! ## Words whose lanes wait or go on -/

/-- The address whose loops decide where a lane stands after a word (R110, R122). -/
def Next.stop (f : Focus) : Next → Nat
  | .go a => a
  | .goWait a _ => a
  | _ => f.pc + 1

theorem outside_nil_of_stop {t : State} {f : Focus} {size : Nat} {nx : List (Nat × Next)}
    (hs : ∀ i ∈ f.lanes, (t.flane f i).landing ((nextOf f nx i).stop f) < size) : outside t f size nx = [] := by
  simp only [outside, List.filter_eq_nil_iff]
  intro i hi
  have h := hs i hi
  cases hn : nextOf f nx i <;> simp_all [Next.stop]

/-- What a word makes of a lane that it sends somewhere. -/
def Next.placed (l : Lane) : Next → Lane
  | .go a => l.advance a
  | .wait w => { l with st := .waiting w }
  | .goWait a w => { l.advance a with st := .waiting w }
  | .hold j => { l with st := .held j }
  | .stay => l

theorem placeLane_eq (f : Focus) (nx : List (Nat × Next)) (i : Nat) (l : Lane) : placeLane f nx i l = (nextOf f nx i).placed l := by
  unfold placeLane
  cases nextOf f nx i <;> rfl

theorem placeLane_map (f : Focus) (ls : List Nat) (n : Next) (i : Nat) (l : Lane) :
    placeLane f (ls.map (fun j => (j, n))) i l = if i ∈ ls then n.placed l else l.advance (f.pc + 1) := by
  rw [placeLane_eq, nextOf_map f ls (fun _ => n)]
  split <;> rfl

theorem PathResult.exists_congr {s : State} {f : Focus} {o : Host.Outcome State Fault Refusal} {gr : Group → Group}
    {k k' : Nat → Lane → Lane} (h : ∃ t, o = .next t ∧ PathResult s t f gr k)
    (hk : ∀ i ∈ f.lanes, k i (s.flane f i) = k' i (s.flane f i)) : ∃ t, o = .next t ∧ PathResult s t f gr k' := by
  obtain ⟨t, ht, hr⟩ := h
  exact ⟨t, ht, hr.congr rfl hk⟩

/-- A word that changes its group but for its lanes, of which it stops some, at the next word. -/
theorem runWord_stops {s : State} {f : Focus} {use : List Nat} (h : Ready s f use) {act : State → Focus → Eff} (gr : Group → Group)
    (ls : List Nat) (n : Next) (ha : act s f = .ok (s.onGroup f gr) (ls.map (fun i => (i, n)))) (hn : n.stop f = f.pc + 1)
    (hl : ∀ g, (gr g).lanes = g.lanes) :
    ∃ t, runWord s use act = .next t ∧
      PathResult s t f gr (fun i l => if i ∈ ls then n.placed l else l.advance (f.pc + 1)) := by
  have hlane : ∀ i, (gr (s.fgroup f)).lane i = s.flane f i := fun i => by
    show Group.lane _ i = (s.fgroup f).lane i
    simp only [Group.lane, hl]
  have hout : outside (s.onGroup f gr) f (s.fkern f).size (ls.map (fun i => (i, n))) = [] := by
    refine outside_nil_of_stop (fun i hi => ?_)
    have hstop : (nextOf f (ls.map (fun i => (i, n))) i).stop f = f.pc + 1 := by
      rw [nextOf_map f ls (fun _ => n)]
      split
      · exact hn
      · rfl
    have hg : (s.onGroup f gr).flane f i = s.flane f i :=
      (congrArg (fun x => Group.lane x i) (h.toOnPath.group_eq gr)).trans (hlane i)
    rw [hstop, hg]
    exact h.inside i hi
  exact PathResult.exists_congr (runWord_path h.toIssues gr ha (fun g => by rw [hl]) (fun i _ => hlane i) hout)
    (fun i _ => by rw [hlane, placeLane_map])

/-- Changes of the path's group that agree on the group as it stands. -/
theorem HasPath.onGroup_congr {s : State} {f : Focus} (h : HasPath s f) {k k' : Group → Group} (hk : k (s.fgroup f) = k' (s.fgroup f)) :
    s.onGroup f k = s.onGroup f k' := by
  obtain ⟨x, hx⟩ := Option.isSome_iff_exists.mp h.block
  have hb : s.block f.blk = x := by simp [State.block, hx]
  have hm : x.modGroup f.grp k = x.modGroup f.grp k' := by
    have hk' : k (x.groups.getD f.grp {}) = k' (x.groups.getD f.grp {}) := by
      simpa only [State.fgroup, State.group, Block.group, hb] using hk
    have hlt : f.grp < x.groups.length := by simpa only [State.fblock, hb] using h.group
    rw [List.getD_eq_getElem _ _ hlt] at hk'
    simp only [Block.modGroup, List.modify_eq_set_getElem?, List.getElem?_eq_getElem hlt, Option.map_eq_map, Option.map_some, hk']
  simp only [State.onGroup, State.modGroup, State.modBlock, Tbl.upd, show Tbl.at s.blocks f.blk = some x from hx, hm]

/-! ## Rejoin deadlocks (R115) -/

theorem Group.mem_live {g : Group} {i : Nat} : i ∈ g.live ↔ (g.lane i).st ≠ .exited := by
  simp only [Group.live, List.mem_filter, List.mem_range, bne_iff_ne, and_iff_right_iff_imp]
  intro h
  by_contra hi
  exact h (by rw [Group.lane, List.getD_eq_default _ _ (Nat.le_of_not_lt hi)])

theorem Group.not_deadlocked_of_none {g : Group} (h : ∀ i, (g.lane i).st = .exited) : g.deadlocked = false := by
  have hl : g.live = [] := List.eq_nil_iff_forall_not_mem.mpr fun i hi => Group.mem_live.mp hi (h i)
  simp [Group.deadlocked, hl]

/-- A live lane that no rejoin wait holds frees its group from a deadlock. -/
theorem Group.not_deadlocked_of_free {g : Group} {i : Nat} (he : (g.lane i).st ≠ .exited) (hh : ∀ j, (g.lane i).st ≠ .held j) :
    g.deadlocked = false := by
  unfold Group.deadlocked
  rw [Bool.and_eq_false_iff, Bool.and_eq_false_iff, List.all_eq_false]
  refine .inl (.inr ⟨i, Group.mem_live.mpr he, ?_⟩)
  split
  · next j hj => exact absurd hj (hh j)
  · simp

theorem rejoinDeadlock_of_not_deadlocked {s : State} {blk grp : Nat} (h : (s.group blk grp).deadlocked = false) :
    s.rejoinDeadlock blk grp = s := by
  have hg : ((s.block blk).group grp).deadlocked = false := h
  simp [State.rejoinDeadlock, hg]

/-- A word that leaves its group in no deadlock ends as it would without the test of R115. -/
theorem thenDeadlock_ends {s : State} {f : Focus} (hf : s.focus = some f) {o : Host.Outcome State Fault Refusal} {P : State → Prop}
    (ho : ∃ t, o = .next t ∧ P t) (hd : ∀ t, P t → (t.fgroup f).deadlocked = false) : ∃ t, thenDeadlock s o = .next t ∧ P t := by
  obtain ⟨t, rfl, ht⟩ := ho
  refine ⟨t, ?_, ht⟩
  simp only [thenDeadlock, hf, rejoinDeadlock_of_not_deadlocked (hd t ht)]

theorem not_deadlocked_of_ready {t : State} {f : Focus} {i : Nat} (h : (t.flane f i).st = .ready) : (t.fgroup f).deadlocked = false := by
  have hl : ((t.fgroup f).lane i).st = .ready := h
  exact Group.not_deadlocked_of_free (by rw [hl]; exact nofun) (by rw [hl]; exact nofun)

/-- A word after which some lane of its path is ready. -/
theorem thenDeadlock_path {s : State} {f : Focus} (hf : s.focus = some f) {o : Host.Outcome State Fault Refusal} {gr : Group → Group}
    {k : Nat → Lane → Lane} (ho : ∃ t, o = .next t ∧ PathResult s t f gr k) {i : Nat} (hi : i ∈ f.lanes)
    (hr : (k i (s.flane f i)).st = .ready) : ∃ t, thenDeadlock s o = .next t ∧ PathResult s t f gr k :=
  thenDeadlock_ends hf ho (fun t ht => not_deadlocked_of_ready (i := i) (by rw [ht.lanes i hi]; exact hr))

/-- A word after which every lane of its path goes on. -/
theorem thenDeadlock_goOn {s : State} {f : Focus} (h : OnPath s f) {o : Host.Outcome State Fault Refusal} {gr : Group → Group}
    (ho : ∃ t, o = .next t ∧ PathResult s t f gr (goOn f)) : ∃ t, thenDeadlock s o = .next t ∧ PathResult s t f gr (goOn f) := by
  obtain ⟨i, hi⟩ := List.exists_mem_of_ne_nil _ h.some
  exact thenDeadlock_path h.focus ho hi rfl

/-! ## Rejoin masks (R111 to R114) -/

section
variable {s : State} {f : Focus} (x : FForm)

theorem join_writes_mask (h : Ready s f (srcUse true x.a)) {i : Nat} (hi : (s.acting f x.g).head? = some i) :
    ∃ t, exec (.join x) s = .next t ∧
      PathResult s t f (fun g => { g with j := Cells.set g.j x.d.toNat (laneMask g.width ((s.view f i).src64 x.a)) }) (goOn f) := by
  refine thenDeadlock_goOn h.toOnPath (runWord_group h _ ?_ (fun _ => rfl))
  simp only [lowestActing, hi]

theorem join_of_none (h : Ready s f (srcUse true x.a)) (hn : s.acting f x.g = []) :
    ∃ t, exec (.join x) s = .next t ∧ PathResult s t f id (goOn f) := by
  refine thenDeadlock_goOn h.toOnPath (runWord_idle h ?_)
  simp only [lowestActing, hn, List.head?_nil]

/-- The lanes that `jwait` holds, as its meaning lists them. -/
theorem holds_iff_mem (j : Nat) {k : Nat} (hk : k ∈ f.lanes) :
    Holds s f x.g j k = true ↔ k ∈ (s.acting f x.g).filter (bitAt (Cells.get (s.fgroup f).j j)) := by
  simp only [Holds, Bool.and_eq_true, List.mem_filter, bitAt, acts_iff_mem_acting x.g hk]

variable (j : BitVec 3) (bounded : Bool)

theorem Group.arrive_lanes (g : Group) (j : Nat) (bound : Option Nat) : (g.arrive j bound).lanes = g.lanes := by
  unfold Group.arrive
  split <;> rfl

theorem jwait_holds (h : Ready s f (if bounded then srcUse false x.a else [])) {i : Nat} (hi : (s.acting f x.g).head? = some i)
    (hh : ∃ k ∈ f.lanes, Holds s f x.g j.toNat k = true)
    (hfree : ∃ k, (s.flane f k).st = .ready ∧ (k ∈ f.lanes → Holds s f x.g j.toNat k = false)) :
    ∃ t, exec (.jwait x bounded j) s = .next t ∧
      PathResult s t f (fun g => g.arrive j.toNat (if bounded then some (s.clock + ((s.view f i).src x.a).toNat) else none))
        (fun k l => if Holds s f x.g j.toNat k then { l with st := .held j.toNat } else l.advance (f.pc + 1)) := by
  obtain ⟨k, hk, hheld⟩ := hh
  obtain ⟨r, hready, hr⟩ := hfree
  refine thenDeadlock_ends h.focus (PathResult.exists_congr (runWord_stops h
    (fun g => g.arrive j.toNat (if bounded then some (s.clock + ((s.view f i).src x.a).toNat) else none))
    ((s.acting f x.g).filter (bitAt (Cells.get (s.fgroup f).j j.toNat))) (.hold j.toNat) ?_ rfl (fun g => g.arrive_lanes _ _))
    (fun k hk => ?_)) (fun t ht => not_deadlocked_of_ready (i := r) ?_)
  · obtain ⟨y, ys, hys⟩ := List.exists_cons_of_ne_nil (List.ne_nil_of_mem ((holds_iff_mem x j.toNat hk).mp hheld))
    simp only [lowestActing, hi, hys]
  · simp only [← holds_iff_mem x j.toNat hk, Next.placed]
  · by_cases hm : r ∈ f.lanes
    · rw [ht.lanes r hm, if_neg (by simp [hr hm])]
      rfl
    · rw [ht.others r hm, hready]

theorem jwait_of_none (h : Ready s f (if bounded then srcUse false x.a else []))
    (hn : ∀ k ∈ f.lanes, Holds s f x.g j.toNat k = false) :
    ∃ t, exec (.jwait x bounded j) s = .next t ∧ PathResult s t f id (goOn f) := by
  refine thenDeadlock_goOn h.toOnPath (runWord_idle h ?_)
  have hnil : (s.acting f x.g).filter (bitAt (Cells.get (s.fgroup f).j j.toNat)) = [] := by
    refine List.eq_nil_iff_forall_not_mem.mpr fun k hk => ?_
    have hl := (acting_sub s f x.g k (List.mem_of_mem_filter hk)).1
    exact absurd ((holds_iff_mem x j.toNat hl).mpr hk) (by simp [hn k hl])
  simp only [hnil]

/-- R114: `jdrop` releases no lane of its own path, since those are ready. -/
theorem jdrop_clears_mask (h : Ready s f []) :
    ∃ t, exec (.jdrop x) s = .next t ∧
      PathResult s t f
        (fun g => { g with j := Cells.set g.j x.d.toNat (Cells.get g.j x.d.toNat &&& ~~~ maskOf (s.acting f x.g)) }) (goOn f) := by
  refine thenDeadlock_goOn h.toOnPath (runWord_group h _ (congrArg (Eff.ok · []) (h.toHasPath.onGroup_congr ?_)) (fun _ => rfl))
  have hfree : ((s.fgroup f).heldAt x.d.toNat).filter (s.acting f x.g).contains = [] := by
    refine List.filter_eq_nil_iff.mpr fun i hi hm => ?_
    have hst : (s.flane f i).st = .held x.d.toNat := beq_iff_eq.mp (List.mem_filter.mp hi).2
    have hready := h.ready i (acting_sub s f x.g i (by simpa using hm)).1
    rw [hready] at hst
    cases hst
  simp only [hfree, Group.release, Group.modLanes_nil]

end

/-- Settles O8: after each of these words some lane is ready, so that no deadlock is found. -/
theorem rejoinWordsComplete : Obligations.RejoinWordsComplete := by
  refine fun x j bounded s f => ⟨fun i h hi => join_writes_mask x h hi, fun h hn => join_of_none x h hn,
    fun i h hi hh hfree => ?_, fun h hn => jwait_of_none x j bounded h hn, fun h => jdrop_clears_mask x h⟩
  obtain ⟨k, -, hready, hk⟩ := hfree
  exact jwait_holds x j bounded h hi hh ⟨k, hready, hk⟩

/-! ## nop and yld (R120) -/

theorem yld_stops {s : State} {f : Focus} (x : FForm) (h : Ready s f (srcUse false x.a)) {i : Nat}
    (hi : (s.acting f x.g).head? = some i) (hn : ((s.view f i).src x.a).toNat ≠ 0) :
    ∃ t, exec (.yld x) s = .next t ∧ PathResult s t f (fun g => g.restartCount f) (fun k l =>
      if Acts s f x.g k then { l.advance (f.pc + 1) with st := .waiting (.yielded (s.clock + ((s.view f i).src x.a).toNat)) }
      else l.advance (f.pc + 1)) := by
  show ∃ t, execYld x s = .next t ∧ _
  refine PathResult.exists_congr (runWord_stops h (fun g => g.restartCount f) (s.acting f x.g)
    (.goWait (f.pc + 1) (.yielded (s.clock + ((s.view f i).src x.a).toNat))) ?_ rfl (fun _ => rfl)) (fun k hk => ?_)
  · simp only [lowestActing, hi, hn, if_false]
  · simp only [← acts_iff_mem_acting x.g hk, Next.placed]

/-- Settles O10: `yld` stops the lanes in which it acts, at the next word, and takes its own candidate's count away. -/
theorem nopAndYieldComplete : Obligations.NopAndYieldComplete := by
  refine ⟨fun x s f h => ?_, fun x s f h hn => ?_, fun x i s f h hi => ⟨fun hz => ?_, fun hn => ?_⟩⟩
  · show ∃ t, execNop x s = .next t ∧ _
    exact runWord_idle h rfl
  · show ∃ t, execYld x s = .next t ∧ _
    refine runWord_idle h ?_
    simp only [lowestActing, hn, List.head?_nil]
  · show ∃ t, execYld x s = .next t ∧ _
    refine runWord_idle h ?_
    simp only [lowestActing, hi, hz, if_true]
  · obtain ⟨t, ht, hr⟩ := yld_stops x h hi hn
    have hpassed : (t.fgroup f).passed = Tbl.del (s.fgroup f).passed (f.kern * 2 ^ 32 + f.pc) := by rw [hr.group]; rfl
    have haged : (t.fgroup f).aged = (s.fgroup f).aged.filter (fun k => k != f.kern * 2 ^ 32 + f.pc) := by rw [hr.group]; rfl
    refine ⟨t, ht, hr.congr ?_ (fun k hk => rfl), fun hrise => ?_, fun k => ?_⟩
    · rw [hpassed, haged]
      rfl
    · rw [hpassed]
      exact ⟨Tbl.at_del_same _ 0 _ hrise, fun k hk => Tbl.at_del_ne _ 0 hrise hk⟩
    · rw [haged]
      simp

/-! ## Hardware loops (R121, R123) -/

/-- Changes of the path's lanes that agree on the lanes as they stand. -/
theorem OnPath.onLanes_congr {s : State} {f : Focus} (h : OnPath s f) {ls : List Nat} (hs : ls ⊆ f.lanes) (hn : ls.Nodup)
    {k k' : Nat → Lane → Lane} (hk : ∀ i ∈ ls, k i (s.flane f i) = k' i (s.flane f i)) : s.onLanes f ls k = s.onLanes f ls k' := by
  refine h.onGroup_congr ?_
  have hlanes : ((s.fgroup f).modLanes ls k).lanes = ((s.fgroup f).modLanes ls k').lanes := by
    refine List.ext_getElem (by simp) (fun i hi hi' => ?_)
    have hlane : ((s.fgroup f).modLanes ls k).lane i = ((s.fgroup f).modLanes ls k').lane i := by
      by_cases hm : i ∈ ls
      · rw [Group.lane_modLanes_same _ ls k i hm hn (h.lanes i (hs hm)), Group.lane_modLanes_same _ ls k' i hm hn (h.lanes i (hs hm))]
        exact hk i hm
      · rw [Group.lane_modLanes_ne _ ls k i hm, Group.lane_modLanes_ne _ ls k' i hm]
    simpa only [Group.lane, List.getD_eq_getElem _ _ hi, List.getD_eq_getElem _ _ hi'] using hlane
  rw [Group.modLanes_rest, hlanes, ← Group.modLanes_rest]

/-- A word that makes of each lane in which it acts what `k` gives, and sends it where `k` says. -/
theorem runWord_eachNext {s : State} {f : Focus} {use : List Nat} (h : Issues s f use) (g : Guard) (k : View → Lane × Nat)
    {act : State → Focus → Eff} (ha : act s f = eachNext g (fun v => ((k v).1, .go (k v).2)) s f) {q : Nat → Lane → Lane}
    (hq : ∀ i, (k (s.view f i)).1.advance (k (s.view f i)).2 = q i (s.flane f i))
    (hin : LandsIn s f (fun i l => if Acts s f g i then q i l else l.advance (f.pc + 1))) :
    ∃ t, runWord s use act = .next t ∧ PathResult s t f id (fun i l => if Acts s f g i then q i l else l.advance (f.pc + 1)) := by
  have heq : ∀ i ∈ f.lanes, sentLane s f g (fun i _ => (k (s.view f i)).1) (fun i => (k (s.view f i)).2) i (s.flane f i) =
      if Acts s f g i then q i (s.flane f i) else (s.flane f i).advance (f.pc + 1) := fun i _ => by
    rw [sentLane, hq i]
  refine PathResult.exists_congr (runWord_sends h ?_ (fun i hi => by rw [heq i hi]; exact hin i hi)) heq
  rw [ha, eachNext]
  simp only [List.map_map, Function.comp_def]
  congr 1
  refine h.toOnPath.onLanes_congr (fun i hi => (acting_sub s f g i hi).1) (h.once.filter _) (fun i hi => ?_)
  rw [lookup_map_self _ _ i hi]

/-- What `loop` gives a lane, and where it sends it. -/
def loopNext (f : Focus) (slot n stop : Nat) (l : Lane) : Lane × Nat :=
  if n = 0 then (l, stop)
  else ({ l with lc := Cells.set l.lc slot (BitVec.ofNat 32 n),
                 slots := ⟨slot, f.pc + 1, stop⟩ :: l.slots.filter (fun y => y.n != slot) }, f.pc + 1)

/-- What `lbrk` gives a lane, and where it sends it. -/
def breakNext (f : Focus) (slot : Nat) (l : Lane) : Lane × Nat :=
  match l.slots.find? (fun y => y.n == slot) with
  | none => (l, f.pc + 1)
  | some y => ({ l with lc := Cells.set l.lc slot 0, slots := l.slots.filter (fun z => z.n != slot) }, y.stop)

theorem loopNext_advance (f : Focus) (slot n stop : Nat) (l : Lane) :
    (loopNext f slot n stop l).1.advance (loopNext f slot n stop l).2 = startLoop f slot n stop l := by
  unfold loopNext startLoop
  split <;> rfl

theorem breakNext_advance (f : Focus) (slot : Nat) (l : Lane) :
    (breakNext f slot l).1.advance (breakNext f slot l).2 = leaveLoop f slot l := by
  unfold breakNext leaveLoop
  cases l.slots.find? (fun y => y.n == slot) <;> rfl

/-- Settles O11: each word sends its acting lanes where `loopNext` or `breakNext` says, from their own loop slots alone. -/
theorem loopWordsComplete : Obligations.LoopWordsComplete := by
  refine ⟨fun x s f h hin => ?_, fun x s f h hin => ?_⟩
  · show ∃ t, execLoop x s = .next t ∧ _
    refine runWord_eachNext h x.g
      (fun v => loopNext f x.d.toNat (v.src x.a).toNat (f.pc + 1 + (v.src x.b).toNat) v.l) ?_ (fun i => loopNext_advance ..) hin
    congr 1
    funext v
    dsimp only [loopNext]
    split <;> rfl
  · show ∃ t, execLbrk x s = .next t ∧ _
    refine runWord_eachNext h x.g (fun v => breakNext f x.d.toNat v.l) ?_ (fun i => breakNext_advance ..) hin
    congr 1
    funext v
    dsimp only [breakNext]
    cases v.l.slots.find? (fun y => y.n == x.d.toNat) <;> rfl

end Sys2Proof.Machine

/-!
# Calls, returns and exits (O9)

A push with room and a pop of an entry touch the lane's own stack alone, so the word's frame for accesses makes of the acting lanes what
each of them becomes by itself (`memWord_const`). Lanes that exit lose their outstanding loads; what that leaves of the other lanes is
said once, by `KeepsLanes`.
-/

namespace Sys2Proof

theorem Tbl.put_put {α : Type} (t : Tbl α) (n : Nat) (x y : α) : Tbl.put (Tbl.put t n x) n y = Tbl.put t n y := by
  induction t with
  | nil => simp [Tbl.put]
  | cons e t ih =>
    obtain ⟨k, z⟩ := e
    by_cases h1 : n < k
    · simp [Tbl.put, h1]
    · by_cases h2 : n = k <;> simp [Tbl.put, h1, h2, ih]

theorem Tbl.upd_upd {α : Type} (t : Tbl α) (n : Nat) (f g : α → α) : Tbl.upd (Tbl.upd t n f) n g = Tbl.upd t n (fun x => g (f x)) := by
  cases h : Tbl.at t n with
  | none => simp [Tbl.upd, h]
  | some x => simp [Tbl.upd, h, Tbl.at_put_same, Tbl.put_put]

theorem Tbl.at_map {α β : Type} (t : Tbl α) (k : Nat → α → β) (n : Nat) :
    Tbl.at (t.map (fun e => (e.1, k e.1 e.2))) n = (Tbl.at t n).map (k n) := by
  induction t with
  | nil => rfl
  | cons e t ih =>
    obtain ⟨m, x⟩ := e
    simp only [List.map_cons, Tbl.at, ih]
    split
    · rfl
    · split
      · next h => subst h; rfl
      · rfl

theorem Tbl.mem_of_at {α : Type} {t : Tbl α} {n : Nat} {x : α} (h : Tbl.at t n = some x) : (n, x) ∈ t := by
  induction t with
  | nil => cases h
  | cons e t ih =>
    obtain ⟨m, y⟩ := e
    simp only [Tbl.at] at h
    split at h
    · cases h
    · split at h
      · next he => cases h; exact he ▸ List.mem_cons_self
      · exact List.mem_cons_of_mem _ (ih h)

namespace Machine

open Sys2Proof.Claims

/-! ## Lanes changed one after the other -/

theorem State.modBlock_modBlock (s : State) (b : Nat) (f g : Block → Block) :
    (s.modBlock b f).modBlock b g = s.modBlock b (fun x => g (f x)) := by
  simp only [State.modBlock, Tbl.upd_upd]

theorem Block.modGroup_modGroup (b : Block) (n : Nat) (f g : Group → Group) :
    (b.modGroup n f).modGroup n g = b.modGroup n (fun x => g (f x)) := by
  simp only [Block.modGroup, List.modify_modify_eq, Function.comp_def]

theorem State.modGroup_modGroup (s : State) (b n : Nat) (f g : Group → Group) :
    (s.modGroup b n f).modGroup b n g = s.modGroup b n (fun x => g (f x)) := by
  simp only [State.modGroup, State.modBlock_modBlock, Block.modGroup_modGroup]

theorem State.onLanes_cons (s : State) (f : Focus) (i : Nat) (ls : List Nat) (k : Nat → Lane → Lane) :
    s.onLanes f (i :: ls) k = (s.modLane f.blk f.grp i (k i)).onLanes f ls k :=
  (s.modGroup_modGroup f.blk f.grp (fun g => g.modLane i (k i)) (fun g => g.modLanes ls k)).symm

theorem State.flane_modLane_ne (s : State) (f : Focus) {i j : Nat} (h : j ≠ i) (k : Lane → Lane) :
    (s.modLane f.blk f.grp i k).flane f j = s.flane f j :=
  s.onLanes_others f [i] (fun _ => k) f.blk f.grp j (.inr (.inr (by simpa using h)))

/-- Steps of a fold that change one lane each, and send it somewhere. -/
theorem foldl_onLanes {s : State} {f : Focus} {step : Eff → Nat × Chk → Eff} {k : Nat → Lane → Lane} {n : Nat → Next} {ls : List Nat}
    (hstep : ∀ i ∈ ls, ∀ t nx, t.flane f i = s.flane f i →
      step (.ok t nx) (i, .const 0) = .ok (t.modLane f.blk f.grp i (k i)) (nx ++ [(i, n i)]))
    (hn : ls.Nodup) (t : State) (nx : List (Nat × Next)) (ht : ∀ i ∈ ls, t.flane f i = s.flane f i) :
    (ls.map (fun i => (i, Chk.const 0))).foldl step (.ok t nx) = .ok (t.onLanes f ls k) (nx ++ ls.map (fun i => (i, n i))) := by
  induction ls generalizing t nx with
  | nil => simp [State.onLanes, State.modLanes_nil]
  | cons i ls ih =>
    obtain ⟨hi, hn⟩ := List.nodup_cons.mp hn
    rw [List.map_cons, List.foldl_cons, hstep i List.mem_cons_self t nx (ht i List.mem_cons_self),
      ih (fun j hj => hstep j (List.mem_cons_of_mem _ hj)) hn _ _ (fun j hj => ?_), State.onLanes_cons, List.append_assoc]
    · rfl
    · rw [State.flane_modLane_ne t f (fun e : j = i => hi (e ▸ hj)), ht j (List.mem_cons_of_mem _ hj)]

/-- A word of which no lane waits, fails a check or accesses memory: each lane acts by itself. -/
theorem memWord_const {s : State} {f : Focus} (h : OnPath s f) {g : Guard} {gate : State → Focus → Nat → Option Wait}
    {chk : State → Focus → Nat → Chk} {go : Focus → State → Nat → Chk → State × Option Next} {k : Nat → Lane → Lane} {n : Nat → Next}
    (hgate : ∀ i ∈ s.acting f g, gate s f i = none) (hchk : ∀ i ∈ s.acting f g, chk s f i = .const 0)
    (hgo : ∀ i ∈ s.acting f g, ∀ t, t.flane f i = s.flane f i → go f t i (.const 0) = (t.modLane f.blk f.grp i (k i), some (n i))) :
    memWord g false gate chk go s f = .ok (s.onLanes f (s.acting f g) k) ((s.acting f g).map (fun i => (i, n i))) := by
  by_cases hnil : s.acting f g = []
  · simp [memWord, hnil, State.onLanes, State.modLanes_nil]
  have hgated : (s.acting f g).filterMap (fun i => (gate s f i).map (fun w => (i, Next.wait w))) = [] :=
    List.filterMap_eq_nil_iff.mpr fun i hi => by rw [hgate i hi]; rfl
  have hnow : (s.acting f g).filter (fun i => (gate s f i).isNone) = s.acting f g :=
    List.filter_eq_self.mpr fun i hi => by rw [hgate i hi]; rfl
  have hcs : (s.acting f g).map (fun i => (i, chk s f i)) = (s.acting f g).map (fun i => (i, Chk.const 0)) :=
    List.map_congr_left fun i hi => by rw [hchk i hi]
  have hbad : ∀ ls : List Nat, firstBad (ls.map (fun i => (i, Chk.const 0))) = none := fun ls => by
    simp [firstBad, List.filterMap_map]
  simp only [memWord, List.isEmpty_iff, hnil, if_false, Bool.false_and, hgated, hnow, hcs, hbad]
  refine foldl_onLanes (s := s) (fun i hi t nx ht => ?_) (h.once.filter _) s [] (fun i _ => rfl)
  simp only [hgo i hi t ht]

theorem stackWord_const {s : State} {f : Focus} (h : OnPath s f) {g : Guard} {chk : State → Focus → Nat → Chk}
    {go : Focus → State → Nat → Chk → State × Option Next} {k : Nat → Lane → Lane} {n : Nat → Next}
    (hchk : ∀ i ∈ s.acting f g, chk s f i = .const 0)
    (hgo : ∀ i ∈ s.acting f g, ∀ t, t.flane f i = s.flane f i → go f t i (.const 0) = (t.modLane f.blk f.grp i (k i), some (n i))) :
    stackWord g chk (stackGate chk) go s f = .ok (s.onLanes f (s.acting f g) k) ((s.acting f g).map (fun i => (i, n i))) := by
  rw [stackWord, memWord_const h (fun i hi => by rw [stackGate, hchk i hi]) hchk hgo]

theorem portStop_const {s : State} {f : Focus} {ls : List Nat} {chk : State → Focus → Nat → Chk} (hchk : ∀ i ∈ ls, chk s f i = .const 0) :
    portStop s f (placesOf s f ls chk) = none := by
  have h : placesOf s f ls chk = [] := List.filterMap_eq_nil_iff.mpr fun i hi => by rw [hchk i hi]
  rw [h]
  rfl

/-- A change of lanes that keeps their loops lands them where the bare branch would. -/
theorem landsIn_sentLane {s : State} {f : Focus} {g : Guard} {k : Nat → Lane → Lane} {target : Nat → Nat}
    (hk : ∀ i l a, (k i l).landing a = l.landing a) (h : LandsIn s f (sendTo s f g target)) : LandsIn s f (sentLane s f g k target) := by
  intro i hi
  have hl := h i hi
  unfold sendTo at hl
  unfold sentLane
  split
  · next ha => simpa [ha, hk] using hl
  · next ha => simpa [ha] using hl

/-! ## Calls (R117, R118) -/

/-- A call of lanes with room for the push. -/
theorem runWord_call {s : State} {f : Focus} {use : List Nat} (h : Issues s f use) (g : Guard) (target : State → Focus → Nat → Nat)
    (hroom : ∀ i ∈ s.acting f g, (s.flane f i).stack.length < 4 ∧ target s f i < (s.fkern f).size)
    (hin : LandsIn s f (sendTo s f g (target s f))) :
    ∃ t, runWord s use (fun s f => callTo g ((s.acting f g).map (fun i => (i, target s f i))) s f) = .next t ∧
      PathResult s t f id
        (sentLane s f g (fun _ l => { l with stack := l.stack ++ [f.pc + 1] }) (target s f)) := by
  refine runWord_sends h ?_ (landsIn_sentLane (fun _ _ _ => rfl) hin)
  have hchk : ∀ i ∈ s.acting f g, pushCheck s f i = .const 0 := fun i hi => by rw [pushCheck, if_pos (hroom i hi).1]
  have hbad : badTargets s f ((s.acting f g).map (fun i => (i, target s f i))) = [] := by
    rw [badTargets_map, List.filter_eq_nil_iff]
    intro i hi
    simpa using (hroom i hi).2
  have hpush := stackWord_const h.toOnPath (go := pushLane ((s.acting f g).map (fun i => (i, target s f i)))) hchk
    (k := fun _ l => { l with stack := l.stack ++ [f.pc + 1] }) (n := fun i => .go (target s f i)) (fun i hi t _ => by
      simp only [pushLane, lookup_map_self _ (target s f) i hi, Option.map_some])
  simp only [callTo, hbad, hpush, portStop_const hchk, List.isEmpty_nil, Bool.not_true, Bool.false_eq_true, if_false]

/-! ## Returns (R119) -/

/-- A return of lanes that have an entry to return to. -/
theorem ret_pops {s : State} {f : Focus} (x : FForm) (h : Issues s f []) (hr : (s.fgroup f).region = none)
    (hs : ∀ i ∈ s.acting f x.g, ∃ a, (s.flane f i).stack.getLast? = some a ∧ a < (s.fkern f).size)
    (hin : LandsIn s f (sendTo s f x.g (fun i => ((s.flane f i).stack.getLast?).getD 0))) :
    ∃ t, exec (.ret x) s = .next t ∧ PathResult s t f id
      (sentLane s f x.g (fun _ l => { l with stack := l.stack.dropLast }) (fun i => ((s.flane f i).stack.getLast?).getD 0)) := by
  obtain ⟨j, hj⟩ := List.exists_mem_of_ne_nil _ h.some
  refine thenDeadlock_path h.focus (runWord_sends h ?_ (landsIn_sentLane (fun _ _ _ => rfl) hin)) hj ?_
  · have hne : ∀ i ∈ s.acting f x.g, (s.flane f i).stack.isEmpty = false := fun i hi => by
      obtain ⟨a, ha, -⟩ := hs i hi
      exact List.isEmpty_eq_false_iff.mpr fun hnil => by simp [hnil] at ha
    have hchk : ∀ i ∈ s.acting f x.g, popCheck s f i = .const 0 := fun i hi => by
      obtain ⟨a, ha, hsize⟩ := hs i hi
      simp [popCheck, Lane.refills, hne i hi, ha, Nat.not_le.mpr hsize]
    have hpop := stackWord_const h.toOnPath (go := popLane) hchk (k := fun _ l => { l with stack := l.stack.dropLast })
      (n := fun i => .go (((s.flane f i).stack.getLast?).getD 0)) (fun i hi t ht => by
        obtain ⟨a, ha, -⟩ := hs i hi
        simp only [popLane, ht, ha, Option.getD_some])
    have hdone : (s.acting f x.g).filter (fun i => (s.flane f i).stack.isEmpty && (s.flane f i).depth == 0) = [] :=
      List.filter_eq_nil_iff.mpr fun i hi => by simp [hne i hi]
    simp only [belowIdem, hr, hpop, portStop_const hchk, hdone, retireLanes, List.isEmpty_nil, Bool.not_true, Bool.false_eq_true,
      if_false, if_true]
  · unfold sentLane
    split <;> rfl

/-! ## Requests that are over -/

theorem foldl_blocks {α : Type} {f : State → α → State} (hf : ∀ t a, (f t a).blocks = t.blocks) (xs : List α) (s : State) :
    (xs.foldl f s).blocks = s.blocks :=
  foldl_keeps (fun t : State => t.blocks = s.blocks) f (fun t a ht => (hf t a).trans ht) xs s rfl

@[simp] theorem State.drawVia_blocks (s : State) (dst : Nat) : (s.drawVia dst).2.blocks = s.blocks := rfl

@[simp] theorem State.chooseVia_blocks (s : State) (dst : Nat) : (s.chooseVia dst).2.blocks = s.blocks := by
  have h := State.drawVia_blocks s dst
  unfold State.chooseVia
  split
  · rfl
  · split <;> next hd => simpa [hd] using h

@[simp] theorem State.takeSeq_blocks (s : State) (dst world : Nat) : (s.takeSeq dst world).2.blocks = s.blocks := by
  unfold State.takeSeq
  split <;> rfl

@[simp] theorem State.ontoLink_blocks (s : State) (p : Packet) : (s.ontoLink p).blocks = s.blocks := by
  unfold State.ontoLink
  split <;> rfl

@[simp] theorem State.addPacket_blocks (s : State) (p : Packet) : (s.addPacket p).blocks = s.blocks := by
  simp [State.addPacket]

@[simp] theorem State.enterPacket_blocks (s : State) (p : Packet) : (s.enterPacket p).blocks = s.blocks := by
  unfold State.enterPacket
  split <;> simp [State.updCmd]

@[simp] theorem State.fillFlows_blocks (s : State) : s.fillFlows.blocks = s.blocks :=
  foldl_blocks (fun t p => by split <;> simp) _ _

@[simp] theorem State.acked_blocks (s : State) (r : Req) : (s.acked r).blocks = s.blocks := by
  unfold State.acked
  split
  · rfl
  · rw [State.fillFlows_blocks]
    show (List.foldl _ s _).blocks = s.blocks
    exact foldl_blocks (f := fun t (p : Packet) => t.dropFlits (.packet p.id)) (fun t p => rfl) _ _

/-- The blocks of `t` are those of `s`, with the same groups and lanes, and a lane differs in what its later accesses wait for alone. -/
structure KeepsLanes (s t : State) : Prop where
  some : ∀ b, (t.block? b).isSome = (s.block? b).isSome
  groups : ∀ b, (t.block b).groups.length = (s.block b).groups.length
  length : ∀ b g, (t.group b g).lanes.length = (s.group b g).lanes.length
  lane : ∀ b g i, t.lane b g i = { s.lane b g i with order := (t.lane b g i).order }

theorem KeepsLanes.of_blocks {s t : State} (h : t.blocks = s.blocks) : KeepsLanes s t := by
  refine ⟨fun b => ?_, fun b => ?_, fun b g => ?_, fun b g i => ?_⟩ <;>
    simp only [State.lane, State.group, State.block, State.block?, h]

theorem KeepsLanes.trans {s t u : State} (h : KeepsLanes s t) (k : KeepsLanes t u) : KeepsLanes s u :=
  ⟨fun b => (k.some b).trans (h.some b), fun b => (k.groups b).trans (h.groups b), fun b g => (k.length b g).trans (h.length b g),
   fun b g i => by rw [k.lane, h.lane]⟩

theorem KeepsLanes.foldl {α : Type} {f : State → α → State} (hf : ∀ t a, KeepsLanes t (f t a)) (xs : List α) (s : State) :
    KeepsLanes s (xs.foldl f s) :=
  foldl_keeps (KeepsLanes s) f (fun t a ht => ht.trans (hf t a)) xs s (.of_blocks rfl)

/-- A block of another table of blocks that keeps every block's groups. -/
theorem KeepsLanes.of_map {s t : State} (k : Nat → Block → Block) (hk : ∀ n b, (k n b).groups = b.groups)
    (h : t.blocks = s.blocks.map (fun e => (e.1, k e.1 e.2))) : KeepsLanes s t := by
  have hb : ∀ n, t.block? n = (s.block? n).map (k n) := fun n => by rw [State.block?, h, Tbl.at_map]; rfl
  have hg : ∀ n, (t.block n).groups = (s.block n).groups := fun n => by
    rw [State.block, State.block, hb]
    cases s.block? n with
    | none => rfl
    | some x => exact hk n x
  refine ⟨fun b => ?_, fun b => ?_, fun b g => ?_, fun b g i => ?_⟩
  · rw [hb, Option.isSome_map]
  · rw [hg]
  all_goals simp only [State.lane, State.group, Block.group, hg]

/-- After a change of one group a group is what it was, or what the change makes of it. -/
theorem State.group_modGroup_cases (s : State) (b g : Nat) (k : Group → Group) (c h : Nat) :
    (s.modGroup b g k).group c h = s.group c h ∨ (s.modGroup b g k).group c h = k (s.group c h) := by
  by_cases hn : c ≠ b ∨ h ≠ g
  · exact .inl (s.group_modGroup_ne k hn)
  · obtain ⟨rfl, rfl⟩ : c = b ∧ h = g := by simpa using hn
    by_cases he : (s.block? c).isSome = true ∧ h < (s.block c).groups.length
    · exact .inr (s.group_modGroup_same c h k he.1 he.2)
    · left
      cases hx : s.block? c with
      | none => rw [State.modGroup, State.modBlock_fix s _ _ hx]
      | some x =>
        have hl : x.groups.length ≤ h := by simpa [hx, State.block] using he
        rw [State.modGroup, State.modBlock_id s c _ (fun y hy => by
          obtain rfl : x = y := by simpa [hx] using hy
          rw [Block.modGroup, List.modify_eq_self hl])]

theorem State.modBlock_isSome (s : State) (b : Nat) (k : Block → Block) (c : Nat) :
    ((s.modBlock b k).block? c).isSome = (s.block? c).isSome := by
  by_cases h : c = b
  · rw [h, State.block?_modBlock_same, Option.isSome_map]
  · rw [State.block?_modBlock_ne s k h]

theorem State.modGroup_groups_length (s : State) (b g : Nat) (k : Group → Group) (c : Nat) :
    ((s.modGroup b g k).block c).groups.length = (s.block c).groups.length := by
  by_cases h : c = b
  · subst h
    by_cases he : (s.block? c).isSome = true
    · rw [State.modGroup, State.block_modBlock_same s c _ he, Block.modGroup_length]
    · rw [State.modGroup, State.modBlock_fix s _ _ (by simpa using he)]
  · rw [State.modGroup, State.block_modBlock_ne s _ h]

theorem KeepsLanes.modGroup (s : State) (b g : Nat) {k : Lane → Lane} (hk : ∀ l, k l = { l with order := (k l).order }) :
    KeepsLanes s (s.modGroup b g (fun x => { x with lanes := x.lanes.map k })) := by
  refine ⟨fun c => s.modBlock_isSome b _ c, fun c => s.modGroup_groups_length b g _ c, fun c h => ?_, fun c h i => ?_⟩
  · obtain hg | hg := s.group_modGroup_cases b g (fun x => { x with lanes := x.lanes.map k }) c h <;> rw [hg]
    exact List.length_map ..
  · obtain hg | hg := s.group_modGroup_cases b g (fun x => { x with lanes := x.lanes.map k }) c h <;> simp only [State.lane, hg]
    simp only [Group.lane, List.getD_eq_getElem?_getD, List.getElem?_map]
    cases (s.group c h).lanes[i]? with
    | none => rfl
    | some l => exact hk l

theorem ackOrder_keeps (s : State) (id : Nat) (l : Lane) : ackOrder s id l = { l with order := (ackOrder s id l).order } := by
  unfold ackOrder
  split <;> rfl

theorem State.complete_keepsLanes (s : State) (r : Req) : KeepsLanes s (s.complete r) := by
  unfold State.complete
  dsimp only
  refine .trans (t := State.modGroup _ r.blk r.grp (fun g => { g with lanes := g.lanes.map (ackOrder _ r.id) })) ?_
    (.of_map (fun _ b => { b with mark := dropAfter r.id b.mark, savedCmds := b.savedCmds.map (State.releasedTile _ r.id) })
      (fun _ _ => rfl) rfl)
  refine .trans ?_ (.modGroup _ r.blk r.grp (ackOrder_keeps _ r.id))
  exact .of_blocks (s.acked_blocks r)

theorem State.discardLoads_keepsLanes (s : State) (b g l : Nat) : KeepsLanes s (s.discardLoads b g l) :=
  .foldl State.complete_keepsLanes _ s

theorem HasPath.of_keepsLanes {s t : State} {f : Focus} (h : HasPath s f) (k : KeepsLanes s t) : HasPath t f :=
  ⟨(k.some _).trans h.block, (k.groups _).symm ▸ h.group, fun i hi => (k.length _ _).symm ▸ h.lanes i hi⟩

/-! ## Lanes that exit (R116) -/

theorem Group.lt_length_of_live {g : Group} {i : Nat} (h : (g.lane i).st ≠ .exited) : i < g.lanes.length :=
  List.mem_range.mp (List.mem_filter.mp (Group.mem_live.mpr h)).1

theorem settleTrap_lanes (g : Group) : (settleTrap g).lanes = g.lanes := by
  unfold settleTrap
  split <;> rfl

theorem settleBlock_groups (b : Block) : (settleBlock b).groups = b.groups := by
  unfold settleBlock
  split <;> rfl

theorem freeSlices_length (drained : Bool) (b : Block) (g : Nat) : (freeSlices drained b g).groups.length = b.groups.length :=
  Block.modGroup_length b g _

/-- What becomes of the block of a path some lanes of which have exited keeps the lanes of the path's group. -/
theorem settled_group_lanes (drained : Bool) (b : Block) {g : Nat} (hg : g < b.groups.length) :
    ((settleBlock ((freeSlices drained b g).modGroup g settleTrap)).group g).lanes = (b.group g).lanes := by
  have hset : (settleBlock ((freeSlices drained b g).modGroup g settleTrap)).group g =
      ((freeSlices drained b g).modGroup g settleTrap).group g := by
    simp only [Block.group, settleBlock_groups]
  have hfree : ((freeSlices drained b g).group g).lanes = (b.group g).lanes := by
    show ((b.modGroup g _).group g).lanes = _
    rw [Block.group_modGroup_same b g _ hg]
  rw [hset, Block.group_modGroup_same _ g settleTrap (lt_of_lt_of_eq hg (freeSlices_length ..).symm), settleTrap_lanes, hfree]

theorem settled_length (drained : Bool) (b : Block) (g : Nat) :
    (settleBlock ((freeSlices drained b g).modGroup g settleTrap)).groups.length = b.groups.length := by
  rw [settleBlock_groups, Block.modGroup_length, freeSlices_length]

/-- The lanes that retire have exited, and every other lane of the group is where it was. -/
theorem retireLanes_lanes {s : State} {f : Focus} (h : HasPath s f) {ls : List Nat} (hs : ls ⊆ f.lanes) (hn : ls.Nodup) :
    HasPath (retireLanes s f ls) f ∧ (∀ i ∈ ls, ((retireLanes s f ls).flane f i).st = .exited) ∧
      ∀ i, i ∉ ls → (retireLanes s f ls).flane f i = { s.flane f i with order := ((retireLanes s f ls).flane f i).order } := by
  by_cases hnil : ls = []
  · subst hnil
    exact ⟨h, by simp, fun i _ => rfl⟩
  let s1 := ls.foldl (fun s l => s.discardLoads f.blk f.grp l) s
  let s2 := s1.onLanes f ls (fun _ l => l.exit)
  let settled : Block → Block := fun b => settleBlock ((freeSlices (!s2.hasTile f.blk) b f.grp).modGroup f.grp settleTrap)
  have hr : retireLanes s f ls = s2.modBlock f.blk settled := by simp [retireLanes, hnil, s1, s2, settled]
  have k1 : KeepsLanes s s1 := .foldl (fun t l => t.discardLoads_keepsLanes f.blk f.grp l) ls s
  have h1 : HasPath s1 f := h.of_keepsLanes k1
  have h2 : HasPath s2 f := h1.of_onLanes ls _
  have hblock : (s2.modBlock f.blk settled).block f.blk = settled (s2.block f.blk) := s2.block_modBlock_same f.blk settled h2.block
  have hlanes : ((s2.modBlock f.blk settled).fgroup f).lanes = (s2.fgroup f).lanes := by
    simp only [State.fgroup, State.group, hblock]
    exact settled_group_lanes _ _ h2.group
  have hlane : ∀ i, (s2.modBlock f.blk settled).flane f i = s2.flane f i := fun i => by
    show Group.lane ((s2.modBlock f.blk settled).fgroup f) i = Group.lane (s2.fgroup f) i
    simp only [Group.lane, hlanes]
  rw [hr]
  refine ⟨⟨(s2.modBlock_isSome ..).trans h2.block, ?_, fun i hi => hlanes ▸ h2.lanes i hi⟩, fun i hi => ?_, fun i hi => ?_⟩
  · simp only [State.fblock, hblock]
    exact lt_of_lt_of_eq h2.group (settled_length ..).symm
  · rw [hlane, h1.onLanes_lane ls _ i (hs hi) hn, if_pos hi]
    rfl
  · have h21 : s2.flane f i = s1.flane f i := s1.onLanes_others f ls _ f.blk f.grp i (.inr (.inr hi))
    rw [hlane, h21]
    exact k1.lane f.blk f.grp i

/-- What a word leaves that ends the lanes in which it acts, and sends the others of its path to the next word. -/
structure Exits (s t : State) (f : Focus) (g : Guard) : Prop where
  mem : t.mem = s.mem
  gone : ∀ i ∈ s.acting f g, (t.flane f i).st = .exited
  idle : ∀ i ∈ f.lanes, Acts s f g i = false → (t.flane f i).pc = (s.flane f i).landing (f.pc + 1) ∧ (t.flane f i).st = .ready ∧
    (t.flane f i).v = (s.flane f i).v
  others : ∀ i, i ∉ f.lanes → (t.flane f i).pc = (s.flane f i).pc ∧ (t.flane f i).st = (s.flane f i).st ∧
    (t.flane f i).v = (s.flane f i).v

theorem runWord_exits {s : State} {f : Focus} {use : List Nat} (h : Issues s f use) {g : Guard} {act : State → Focus → Eff}
    (ha : act s f = .ok (retireLanes s f (s.acting f g)) ((s.acting f g).map (fun i => (i, .stay))))
    (hin : ∀ i ∈ f.lanes, Acts s f g i = false → (s.flane f i).landing (f.pc + 1) < (s.fkern f).size) :
    ∃ t, runWord s use act = .next t ∧ Exits s t f g := by
  let u := retireLanes s f (s.acting f g)
  let nx := (s.acting f g).map (fun i => (i, Next.stay))
  obtain ⟨hp, hgone, hkept⟩ : HasPath u f ∧ _ :=
    retireLanes_lanes h.toHasPath (fun i hi => (acting_sub s f g i hi).1) (h.once.filter _)
  have hidle : ∀ i ∈ f.lanes, Acts s f g i = false → i ∉ s.acting f g := fun i hi ha hm => by
    simp [(acts_iff_mem_acting g hi).mpr hm] at ha
  have hout : outside u f (s.fkern f).size nx = [] := by
    simp only [outside, List.filter_eq_nil_iff, nx, nextOf_map f _ (fun _ => Next.stay)]
    intro i hi
    by_cases hm : i ∈ s.acting f g
    · simp [hm]
    · have ha : Acts s f g i = false := by simpa using fun ht => hm ((acts_iff_mem_acting g hi).mp ht)
      have hl : (u.flane f i).landing (f.pc + 1) = (s.flane f i).landing (f.pc + 1) := by rw [hkept i hm]; rfl
      simpa [hm, hl] using hin i hi ha
  have hlane : ∀ i ∈ f.lanes, (u.onLanes f f.lanes (placeLane f nx)).flane f i =
      if i ∈ s.acting f g then u.flane f i else (u.flane f i).advance (f.pc + 1) := fun i hi => by
    rw [hp.placed h.once nx i hi, placeLane_map]
    rfl
  refine ⟨_, runWord_ok h ha hout, ?_, fun i hi => ?_, fun i hi ha => ?_, fun i hi => ?_⟩
  · simp [State.onLanes]
  · rw [hlane i (acting_sub s f g i hi).1, if_pos hi]
    exact hgone i hi
  · rw [hlane i hi, if_neg (hidle i hi ha), hkept i (hidle i hi ha)]
    exact ⟨rfl, rfl, rfl⟩
  · have hm : i ∉ s.acting f g := fun hm => hi (acting_sub s f g i hm).1
    have hu : (u.onLanes f f.lanes (placeLane f nx)).flane f i = u.flane f i :=
      u.onLanes_others f f.lanes _ f.blk f.grp i (.inr (.inr hi))
    rw [hu, hkept i hm]
    exact ⟨rfl, rfl, rfl⟩

/-- A group that such a word leaves with no lane, or with one that no rejoin wait holds, is in no deadlock. -/
theorem Exits.not_deadlocked {s t : State} {f : Focus} {g : Guard} (h : OnPath s f) (he : Exits s t f g)
    (hl : (∀ k, ¬(k < (s.fgroup f).lanes.length ∧ k ∉ s.acting f g ∧ (s.flane f k).st ≠ .exited)) ∨
      ∃ k, (k < (s.fgroup f).lanes.length ∧ k ∉ s.acting f g ∧ (s.flane f k).st ≠ .exited) ∧ ∀ j, (s.flane f k).st ≠ .held j) :
    (t.fgroup f).deadlocked = false := by
  have hst : ∀ k, k ∉ s.acting f g → (t.flane f k).st = (s.flane f k).st := fun k hk => by
    by_cases hm : k ∈ f.lanes
    · have ha : Acts s f g k = false := by simpa using fun ht => hk ((acts_iff_mem_acting g hm).mp ht)
      rw [(he.idle k hm ha).2.1, h.ready k hm]
    · exact (he.others k hm).2.1
  rcases hl with hnone | ⟨k, ⟨-, hk, hlive⟩, hfree⟩
  · refine Group.not_deadlocked_of_none (fun k => ?_)
    show (t.flane f k).st = .exited
    by_cases hk : k ∈ s.acting f g
    · exact he.gone k hk
    · rw [hst k hk]
      by_contra hlive
      exact hnone k ⟨Group.lt_length_of_live hlive, hk, hlive⟩
  · have hk' : ((t.fgroup f).lane k).st = (s.flane f k).st := hst k hk
    exact Group.not_deadlocked_of_free (by rw [hk']; exact hlive) (fun j => by rw [hk']; exact hfree j)

section
variable {s : State} {f : Focus} (x : FForm) (h : Issues s f [])
  (hin : ∀ i ∈ f.lanes, Acts s f x.g i = false → (s.flane f i).landing (f.pc + 1) < (s.fkern f).size)
  (hl : (∀ k, ¬(k < (s.fgroup f).lanes.length ∧ k ∉ s.acting f x.g ∧ (s.flane f k).st ≠ .exited)) ∨
    ∃ k, (k < (s.fgroup f).lanes.length ∧ k ∉ s.acting f x.g ∧ (s.flane f k).st ≠ .exited) ∧ ∀ j, (s.flane f k).st ≠ .held j)
include h hin hl

theorem exit_exits : ∃ t, exec (.exit x) s = .next t ∧ Exits s t f x.g :=
  thenDeadlock_ends h.focus (runWord_exits h rfl hin) (fun _ ht => ht.not_deadlocked h.toOnPath hl)

/-- R119: with nothing on the stack and nothing spilled a return is an exit. -/
theorem ret_exits (hs : ∀ i ∈ s.acting f x.g, (s.flane f i).stack = [] ∧ (s.flane f i).depth = 0) :
    ∃ t, exec (.ret x) s = .next t ∧ Exits s t f x.g := by
  refine thenDeadlock_ends h.focus (runWord_exits h ?_ hin) (fun _ ht => ht.not_deadlocked h.toOnPath hl)
  have hchk : ∀ i ∈ s.acting f x.g, popCheck s f i = .const 0 := fun i hi => by
    obtain ⟨hstack, hdepth⟩ := hs i hi
    simp [popCheck, Lane.refills, hstack, hdepth]
  have hpop := stackWord_const h.toOnPath (go := popLane) hchk (k := fun _ l => l) (n := fun _ => .stay) (fun i hi t ht => by
    simp only [popLane, ht, (hs i hi).1, List.getLast?_nil]
    exact congrArg (·, some Next.stay) (t.onLanes_self f [i]).symm)
  have hdone : (s.acting f x.g).filter (fun i => (s.flane f i).stack.isEmpty && (s.flane f i).depth == 0) = s.acting f x.g :=
    List.filter_eq_self.mpr fun i hi => by simp [hs i hi]
  have hunder : belowIdem s f (s.acting f x.g) = [] := by
    unfold belowIdem
    split
    · rfl
    · exact List.filter_eq_nil_iff.mpr fun i hi => by simp [hs i hi]
  simp only [hunder, hpop, portStop_const hchk, hdone, State.onLanes_self, List.isEmpty_nil, Bool.not_true, Bool.false_eq_true, if_false]

end

/-- Settles O9: calls and returns with room touch their lanes' stacks alone, and lanes that exit leave the others where they were. -/
theorem callsReturnsAndExitsComplete : Obligations.CallsReturnsAndExitsComplete := by
  refine ⟨fun l s f h hroom hin => ?_, fun x s f h hroom hin => ?_, fun x s f h hr hs hin => ret_pops x h hr hs hin,
    fun x s f h hin => ?_⟩
  · exact runWord_call h l.g (fun _ f _ => relTarget f.pc l.lit) hroom hin
  · exact runWord_call h x.g (fun s f i => ((s.view f i).src x.a).toNat) hroom hin
  · intro left hl ends
    have happens : ∀ w : Instr, (∃ t, exec w s = .next t ∧ Exits s t f x.g) → ends w := by
      rintro w ⟨t, ht, he⟩
      exact ⟨t, ht, he.mem, he.gone, he.idle, he.others⟩
    exact ⟨happens _ (exit_exits x h hin hl), fun hs => happens _ (ret_exits x h hin hl hs)⟩

end Machine
end Sys2Proof

/-!
# Register shares (O12)

A request for register units is left at its core, and the grant gives the block's share its units. What a share's new size makes of the
groups that draw on it is said once (`setShare_group`, `setShare_lane`); the units that a core has free depend on its blocks but for their
groups (`freeUnits_congr`), so that the request changes none of them.
-/

namespace Sys2Proof

/-- What a change of one entry leaves alone in it, it leaves alone in the table. -/
theorem Tbl.map_upd {α β : Type} (t : Tbl α) (n : Nat) (f : α → α) (F : Nat × α → β) (h : ∀ x, F (n, f x) = F (n, x)) :
    (Tbl.upd t n f).map F = t.map F := by
  have hput : ∀ (t : Tbl α) x, Tbl.at t n = some x → (Tbl.put t n (f x)).map F = t.map F := by
    intro t
    induction t with
    | nil => intro x hx; cases hx
    | cons e t ih =>
      obtain ⟨k, y⟩ := e
      intro x hx
      simp only [Tbl.at] at hx
      simp only [Tbl.put]
      split at hx
      · cases hx
      · next hlt =>
        rw [if_neg hlt]
        split at hx
        · next he =>
          obtain rfl : y = x := by simpa using hx
          subst he
          simp [h]
        · next hne => rw [if_neg hne, List.map_cons, List.map_cons, ih x hx]
  unfold Tbl.upd
  split
  · next x hx => exact hput t x hx
  · rfl

namespace Machine

open Sys2Proof.Claims

/-! ## Free units -/

/-- An entry of the block table without the block's groups. -/
def ungrouped (e : Nat × Block) : Nat × Block := (e.1, { e.2 with groups := [] })

section
variable (s : State) (c : Nat)

theorem State.residents_ungrouped : ({ s with blocks := s.blocks.map ungrouped } : State).residents c = (s.residents c).map ungrouped := by
  simp only [State.residents, List.filter_map]
  rfl

theorem State.clusterScratch_ungrouped : ({ s with blocks := s.blocks.map ungrouped } : State).clusterScratch c = s.clusterScratch c := by
  simp only [State.clusterScratch, List.filter_map, List.any_map, List.map_map]
  rfl

theorem State.heldFor_ungrouped (unit : Option (Nat × Bool)) :
    ({ s with blocks := s.blocks.map ungrouped } : State).heldFor c unit = s.heldFor c unit := by
  simp only [State.heldFor, State.residents_ungrouped, List.any_map]
  rfl

/-- A core's free units do not depend on the groups of its blocks. -/
theorem State.freeUnits_ungrouped : ({ s with blocks := s.blocks.map ungrouped } : State).freeUnits c = s.freeUnits c := by
  simp only [State.freeUnits, State.residents_ungrouped, State.clusterScratch_ungrouped, State.heldFor_ungrouped, List.map_map]
  rfl

end

theorem State.freeUnits_congr {s t : State} (hb : t.blocks.map ungrouped = s.blocks.map ungrouped) (hd : t.dies = s.dies)
    (hc : t.ctxs = s.ctxs) (hi : t.insts = s.insts) (c : Nat) : t.freeUnits c = s.freeUnits c := by
  rw [← s.freeUnits_ungrouped, ← t.freeUnits_ungrouped, hb]
  cases s
  cases t
  dsimp only at hd hc hi
  subst hd hc hi
  rfl

theorem State.modGroup_ungrouped (s : State) (b g : Nat) (k : Group → Group) :
    (s.modGroup b g k).blocks.map ungrouped = s.blocks.map ungrouped :=
  Tbl.map_upd _ _ _ _ (fun _ => rfl)

/-! ## Register deadlocks (R126) -/

theorem OnlyGroup.block_isSome {s t : State} {f : Focus} (o : OnlyGroup s t f) (h : HasPath s f) : (t.block? f.blk).isSome = true := by
  by_contra hn
  have hnil : t.fblock f = {} := by simp [State.fblock, State.block, Option.not_isSome_iff_eq_none.mp hn]
  have hl := o.groups
  rw [hnil] at hl
  exact absurd h.group (by rw [← hl]; exact Nat.not_lt_zero _)

theorem State.mem_residents {s : State} {b : Nat} (hb : (s.block? b).isSome = true) (hs : (s.block b).st = .resident) :
    (b, s.block b) ∈ s.residents (s.block b).core := by
  obtain ⟨x, hx⟩ := Option.isSome_iff_exists.mp hb
  have h : s.block b = x := by simp [State.block, hx]
  rw [h] at hs ⊢
  simpa [State.residents, hs] using Tbl.mem_of_at hx

/-- A resident block without a request of its own keeps its core from a deadlock. -/
theorem State.regDeadlock_of_other {s : State} {b : Nat} (hb : (s.block? b).isSome = true) (hs : (s.block b).st = .resident)
    (hg : ∀ g ∈ (s.core (s.block b).core).grows, g.blk ≠ b) : s.regDeadlock (s.block b).core = s := by
  have hall : (s.residents (s.block b).core).all
      (fun e => e.2.st == .resident && (s.core (s.block b).core).grows.any (fun g => g.blk == e.1)) = false :=
    List.all_eq_false.mpr ⟨_, State.mem_residents hb hs, by simpa [hs] using hg⟩
  simp [State.regDeadlock, hall]

/-- So does a lone request that the free units can meet. -/
theorem State.regDeadlock_of_room {s : State} {core : Nat} {r : GrowReq} (hg : (s.core core).grows = [r])
    (hr : r.units ≤ s.freeUnits core) : s.regDeadlock core = s := by
  simp [State.regDeadlock, hg, firstGrows, Nat.not_lt.mpr hr]

theorem State.regDeadlock_of_none {s : State} {core : Nat} (hg : (s.core core).grows = []) : s.regDeadlock core = s := by
  unfold State.regDeadlock
  cases hb : s.residents core with
  | nil => simp
  | cons e es => simp [hg]

theorem thenRegDeadlock_ends {s : State} {f : Focus} (hf : s.focus = some f) {o : Host.Outcome State Fault Refusal} {P : State → Prop}
    (ho : ∃ t, o = .next t ∧ P t) (hd : ∀ t, P t → t.regDeadlock (s.fblock f).core = t) :
    ∃ t, thenRegDeadlock s o = .next t ∧ P t := by
  obtain ⟨t, rfl, ht⟩ := ho
  refine ⟨t, ?_, ht⟩
  simp only [thenRegDeadlock, hf, hd t ht]

/-! ## The size of a share (R98, R124) -/

section
variable {s : State} {blk : Nat} (k : Kern) (share a : Nat)

theorem State.setShare_block (hb : (s.block? blk).isSome = true) : (s.setShare k blk share a).block blk =
    { s.block blk with regUnits := (s.block blk).regUnits.set share a, groups := ((s.setShare k blk share a).block blk).groups } := by
  rw [State.setShare, State.block_modBlock_same s blk _ hb]
  rfl

theorem State.setShare_getElem? (hb : (s.block? blk).isSome = true) {g : Nat} (hg : g < (s.block blk).groups.length)
    (hs : shareOf k (s.group blk g) = share) :
    ((s.setShare k blk share a).block blk).groups[g]? = some { s.group blk g with
      nregs := shareCount k (s.block blk) share a
      lanes := (s.group blk g).lanes.zipIdx.map (fun l =>
        let x := l.1.trimRegs (s.group blk g).nregs (shareCount k (s.block blk) share a)
        if l.1.pend.isEmpty then x else { x with pend := s.pendOf blk g l.2 (shareCount k (s.block blk) share a) }) } := by
  have hx : (s.block blk).groups[g]? = some (s.group blk g) := by
    rw [List.getElem?_eq_getElem hg, State.group, Block.group, List.getD_eq_getElem _ _ hg]
  rw [State.setShare, State.block_modBlock_same s blk _ hb]
  simp only [Block.setShare, List.getElem?_map, List.getElem?_zipIdx, hx, hs, Option.map_some, beq_self_eq_true, if_true]
  simp [List.zipIdx_map, Function.comp_def, Lane.trimRegs]

theorem State.setShare_group (hb : (s.block? blk).isSome = true) {g : Nat} (hg : g < (s.block blk).groups.length)
    (hs : shareOf k (s.group blk g) = share) : (s.setShare k blk share a).group blk g = { s.group blk g with
      nregs := shareCount k (s.block blk) share a, lanes := ((s.setShare k blk share a).group blk g).lanes } := by
  have h := State.setShare_getElem? k share a hb hg hs
  rw [State.group, Block.group, List.getD_eq_getElem?_getD, h]
  rfl

theorem State.setShare_length (hb : (s.block? blk).isSome = true) {g : Nat} (hg : g < (s.block blk).groups.length)
    (hs : shareOf k (s.group blk g) = share) :
    ((s.setShare k blk share a).group blk g).lanes.length = (s.group blk g).lanes.length := by
  have h := State.setShare_getElem? k share a hb hg hs
  rw [State.group, Block.group, List.getD_eq_getElem?_getD, h]
  simp

/-- A new size of the share takes registers from a lane, and says anew which of them are to come. -/
theorem State.setShare_lane (hb : (s.block? blk).isSome = true) {g : Nat} (hg : g < (s.block blk).groups.length)
    (hs : shareOf k (s.group blk g) = share) (i : Nat) : (s.setShare k blk share a).lane blk g i = { s.lane blk g i with
      v := ((s.setShare k blk share a).lane blk g i).v, tags := ((s.setShare k blk share a).lane blk g i).tags
      pend := ((s.setShare k blk share a).lane blk g i).pend } := by
  have h := State.setShare_getElem? k share a hb hg hs
  have hl : (s.setShare k blk share a).lane blk g i = ((((s.group blk g).lanes[i]?).map (fun l =>
      let x := l.trimRegs (s.group blk g).nregs (shareCount k (s.block blk) share a)
      if l.pend.isEmpty then x else { x with pend := s.pendOf blk g i (shareCount k (s.block blk) share a) })).getD { st := .exited }) := by
    rw [State.lane, State.group, Block.group, List.getD_eq_getElem?_getD, h, Group.lane, List.getD_eq_getElem?_getD]
    simp [List.getElem?_zipIdx, Option.map_map, Function.comp_def]
  have hs : s.lane blk g i = ((s.group blk g).lanes[i]?).getD { st := .exited } := by
    rw [State.lane, Group.lane, List.getD_eq_getElem?_getD]
  rw [hl, hs]
  cases (s.group blk g).lanes[i]? with
  | none => rfl
  | some l =>
    simp only [Option.map_some, Option.getD_some]
    split <;> rfl

theorem State.setShare_groups_length (hb : (s.block? blk).isSome = true) :
    ((s.setShare k blk share a).block blk).groups.length = (s.block blk).groups.length := by
  rw [State.setShare, State.block_modBlock_same s blk _ hb]
  simp [Block.setShare]

end

/-! ## The grant (R124) -/

/-- The request that its core grants next gives its share the units, its group the new register count and its scalar that count, and the
lanes that wait for it go on. -/
theorem rgrowGrant_grants {s : State} {core : Nat} {r : GrowReq} (hg : (s.core core).grows = [r]) (hn : s.nextGrow core = some r)
    (hb : (s.block? r.blk).isSome = true) (hgrp : r.grp < (s.block r.blk).groups.length) :
    let k := s.shareKern (s.block r.blk)
    let share := shareOf k (s.group r.blk r.grp)
    let a := (s.block r.blk).regUnits.getD share 0 + r.units
    ∃ u, exec (.rgrowGrant core) s = .next u ∧ (u.core core).grows = [] ∧
      (u.block r.blk).regUnits = (s.block r.blk).regUnits.set share a ∧
      (u.group r.blk r.grp).nregs = shareCount k (s.block r.blk) share a ∧
      (u.group r.blk r.grp).s = Cells.set (s.group r.blk r.grp).s r.sreg (BitVec.ofNat 32 (u.group r.blk r.grp).nregs) ∧
      ∀ i ∈ r.lanes, r.lanes.Nodup → i < (s.group r.blk r.grp).lanes.length → (s.lane r.blk r.grp i).st = .waiting (.rgrow r.id) →
        (u.lane r.blk r.grp i).st = .ready ∧
        (u.lane r.blk r.grp i).pc = (s.lane r.blk r.grp i).landing ((s.lane r.blk r.grp i).pc + 1) := by
  intro k share a
  let s1 := s.setShare k r.blk share a
  let grant : Group → Group := fun g =>
    (g.setS r.sreg (BitVec.ofNat 32 g.nregs)).modLanes (r.lanes.filter (fun i => (g.lane i).st == .waiting (.rgrow r.id)))
      (fun _ l => l.advance (l.pc + 1))
  let u := (s1.modGroup r.blk r.grp grant).modCore core (fun c => { c with grows := c.grows.filter (fun g => g.id != r.id) })
  have hgrows : (u.core core).grows = [] := by
    rw [State.core_modCore_same]
    show ((s.core core).grows.filter _) = []
    simp [hg]
  have hexec : exec (.rgrowGrant core) s = .next u := by
    show execRgrowGrant core s = .next u
    simp only [execRgrowGrant, hn]
    exact congrArg Host.Outcome.next (State.regDeadlock_of_none hgrows)
  have hb1 : (s1.block? r.blk).isSome = true := (s.modBlock_isSome ..).trans hb
  have hgrp1 : r.grp < (s1.block r.blk).groups.length := lt_of_lt_of_eq hgrp (State.setShare_groups_length k share a hb).symm
  have hgroup : u.group r.blk r.grp = grant (s1.group r.blk r.grp) := s1.group_modGroup_same _ _ grant hb1 hgrp1
  have hrest : grant (s1.group r.blk r.grp) = { s1.group r.blk r.grp with
      s := Cells.set (s1.group r.blk r.grp).s r.sreg (BitVec.ofNat 32 (s1.group r.blk r.grp).nregs)
      lanes := (grant (s1.group r.blk r.grp)).lanes } := Group.modLanes_rest _ _ _
  have hs1 := State.setShare_group k share a hb hgrp rfl
  refine ⟨u, hexec, hgrows, ?_, ?_, ?_, fun i hi hnodup hlen hst => ?_⟩
  · have hblock : u.block r.blk = (s1.block r.blk).modGroup r.grp grant := s1.block_modBlock_same r.blk _ hb1
    rw [hblock]
    exact congrArg Block.regUnits (State.setShare_block k share a hb)
  · rw [hgroup, hrest]
    exact congrArg Group.nregs hs1
  · rw [hgroup, hrest]
    show Cells.set (s1.group r.blk r.grp).s _ _ = Cells.set (s.group r.blk r.grp).s _ _
    rw [show (s1.group r.blk r.grp).s = (s.group r.blk r.grp).s from (congrArg Group.s hs1).trans rfl]
  · have hl1 := State.setShare_lane k share a hb hgrp rfl i
    have hm : i ∈ r.lanes.filter (fun i => ((s1.group r.blk r.grp).lane i).st == .waiting (.rgrow r.id)) := by
      have hst1 : (s1.lane r.blk r.grp i).st = .waiting (.rgrow r.id) := (congrArg Lane.st hl1).trans hst
      exact List.mem_filter.mpr ⟨hi, beq_iff_eq.mpr hst1⟩
    have hlane : u.lane r.blk r.grp i = (s1.lane r.blk r.grp i).advance ((s1.lane r.blk r.grp i).pc + 1) := by
      rw [State.lane, hgroup]
      exact Group.lane_modLanes_same _ _ _ i hm (hnodup.filter _)
        (lt_of_lt_of_eq hlen (State.setShare_length k share a hb hgrp rfl).symm)
    rw [hlane, hl1]
    exact ⟨rfl, rfl⟩

/-! ## rgrow -/

/-- The request that `rgrow` leaves at its core. -/
def growReq (s : State) (f : Focus) (x : FForm) (n : Nat) : GrowReq :=
  { id := s.nextId, blk := f.blk, grp := f.grp, lanes := s.acting f x.g, sreg := x.d.toNat, units := n }

/-- What `rgrow` leaves where its request stands at the core: the lanes in which it acts wait for it. -/
structure Asks (s t : State) (f : Focus) (x : FForm) (n : Nat) : Prop extends OnlyGroup s t f where
  path : HasPath t f
  rest : t = { s with blocks := t.blocks, cores := t.cores, nextId := t.nextId }
  same : t.fgroup f = { s.fgroup f with lanes := (t.fgroup f).lanes }
  grows : (t.core (s.fblock f).core).grows = [growReq s f x n]
  free : t.freeUnits (s.fblock f).core = s.freeUnits (s.fblock f).core
  waits : ∀ j ∈ s.acting f x.g, t.flane f j = { s.flane f j with st := .waiting (.rgrow s.nextId) }

section
variable {s : State} {f : Focus} (x : FForm) {i n : Nat} (h : Ready s f (srcUse false x.a)) (hi : (s.acting f x.g).head? = some i)
  (hn : ((s.view f i).src x.a).toNat = n)
include h hi hn

theorem rgrow_asks (hpos : 0 < n) (hmax : n ≤ 64) (hpool : (s.fblock f).units + n ≤ 192) (hfree : n ≤ s.freeUnits (s.fblock f).core)
    (hg : (s.core (s.fblock f).core).grows = []) : ∃ t, exec (.rgrow x) s = .next t ∧ Asks s t f x n := by
  let asked : State :=
    { s.modCore (s.fblock f).core (fun c => { c with grows := c.grows ++ [growReq s f x n] }) with nextId := s.nextId + 1 }
  let nx := (s.acting f x.g).map (fun l => (l, Next.wait (.rgrow s.nextId)))
  have hp : HasPath asked f := h.toHasPath.of_blocks rfl
  have hout : outside asked f (s.fkern f).size nx = [] := by
    refine outside_nil_of_stop (fun j hj => ?_)
    rw [nextOf_map f _ (fun _ => .wait (.rgrow s.nextId))]
    split <;> exact h.inside j hj
  show ∃ t, execRgrow x s = .next t ∧ _
  refine thenRegDeadlock_ends h.focus ⟨asked.onLanes f f.lanes (placeLane f nx), runWord_ok h.toIssues ?_ hout, ?_⟩ (fun t ht => ?_)
  · have hmeets : (decide (n = 0) || decide (64 < n) || decide (192 < (s.fblock f).units + n)) = false := by
      simp only [Bool.or_eq_false_iff, decide_eq_false_iff_not]
      omega
    simp only [lowestActing, hi, hn, hmeets, Bool.false_eq_true, if_false]
    rfl
  · refine ⟨.trans (t := asked) (.of_blocks rfl) (hp.onlyGroup _), hp.of_onLanes _ _, rfl, hp.onLanes_group _ _, ?_, ?_, fun j hj => ?_⟩
    · show (asked.core (s.fblock f).core).grows = _
      show ((s.modCore (s.fblock f).core (fun c => { c with grows := c.grows ++ [growReq s f x n] })).core (s.fblock f).core).grows = _
      rw [State.core_modCore_same, hg]
      rfl
    · exact State.freeUnits_congr (asked.modGroup_ungrouped f.blk f.grp _) rfl rfl rfl _
    · have hl := (acting_sub s f x.g j hj).1
      rw [hp.placed h.once nx j hl, placeLane_map, if_pos hj]
      rfl
  · exact State.regDeadlock_of_room ht.grows (ht.free ▸ hfree)

/-- A request for no unit, or one that no core could ever meet, leaves the register count as it stands. -/
theorem rgrow_of_unmeetable (hu : n = 0 ∨ 64 < n ∨ 192 < (s.fblock f).units + n) (hst : (s.fblock f).st = .resident)
    (hg : ∀ g ∈ (s.core (s.fblock f).core).grows, g.blk ≠ f.blk) :
    ∃ t, exec (.rgrow x) s = .next t ∧
      PathResult s t f (writeScalar false x.d (BitVec.ofNat 64 (s.fgroup f).nregs)) (goOn f) := by
  show ∃ t, execRgrow x s = .next t ∧ _
  refine thenRegDeadlock_ends h.focus (runWord_group h _ ?_ (fun _ => rfl)) (fun t ht => ?_)
  · have hmeets : (decide (n = 0) || decide (64 < n) || decide (192 < (s.fblock f).units + n)) = true := by simpa [or_assoc] using hu
    simp only [lowestActing, hi, hn, hmeets, if_true]
    refine congrArg (Eff.ok · []) (h.toHasPath.onGroup_congr ?_)
    simp [writeScalar, Group.setS]
  · have hb : t.fblock f = { s.fblock f with groups := (t.fblock f).groups } := ht.block
    have hcore : (t.fblock f).core = (s.fblock f).core := (congrArg Block.core hb).trans rfl
    have hcores : t.cores = s.cores := by rw [ht.rest]
    rw [← hcore]
    refine State.regDeadlock_of_other (ht.toOnlyGroup.block_isSome h.toHasPath) ((congrArg Block.st hb).trans (Eq.trans rfl hst)) ?_
    show ∀ g ∈ (t.core (t.fblock f).core).grows, g.blk ≠ f.blk
    rw [hcore, State.core, hcores]
    exact hg

/-! ## rshrink (R125) -/

theorem rshrink_shrinks :
    let k := s.shareKern (s.fblock f)
    let share := shareOf k (s.fgroup f)
    let a := max ((s.fblock f).baseUnits.getD share 0) ((s.fblock f).regUnits.getD share 0 - n)
    ∃ t, exec (.rshrink x) s = .next t ∧ OnlyBlock s t f.blk ∧
      (t.fblock f).regUnits = (s.fblock f).regUnits.set share a ∧ (t.fgroup f).nregs = shareCount k (s.fblock f) share a ∧
      (t.fgroup f).s = Cells.set (s.fgroup f).s x.d.toNat (BitVec.ofNat 32 (t.fgroup f).nregs) ∧
      ∀ j ∈ f.lanes, (t.flane f j).st = .ready ∧ (t.flane f j).pc = (s.flane f j).landing (f.pc + 1) := by
  intro k share a
  let s1 := s.setShare k f.blk share a
  let u := s1.onGroup f (fun g => g.setS x.d.toNat (BitVec.ofNat 32 g.nregs))
  let t := u.onLanes f f.lanes (placeLane f [])
  have hlen : (s1.fgroup f).lanes.length = (s.fgroup f).lanes.length := State.setShare_length k share a h.block h.group rfl
  have hp1 : HasPath s1 f := ⟨(s.modBlock_isSome ..).trans h.block,
    lt_of_lt_of_eq h.group (State.setShare_groups_length k share a h.block).symm, fun j hj => hlen ▸ h.lanes j hj⟩
  have hp : HasPath u f := hp1.of_onGroup _ (fun _ => rfl)
  have hugroup : u.fgroup f = (s1.fgroup f).setS x.d.toNat (BitVec.ofNat 32 (s1.fgroup f).nregs) := hp1.group_eq _
  have hulane : ∀ j, u.flane f j = s1.flane f j := fun j => (congrArg (fun g => Group.lane g j) hugroup).trans rfl
  have hlane : ∀ j, s1.flane f j = _ := State.setShare_lane k share a h.block h.group rfl
  have hland : ∀ j b, (u.flane f j).landing b = (s.flane f j).landing b := fun j b => by rw [hulane, hlane]; rfl
  have hout : outside u f (s.fkern f).size [] = [] := outside_nil (fun j hj => by rw [hland]; exact h.inside j hj)
  have hblock : (t.fblock f).regUnits = (s1.fblock f).regUnits := by
    rw [show t.fblock f = _ from hp.block_onGroup _, show u.fblock f = _ from hp1.block_onGroup _]
    rfl
  have htgroup : t.fgroup f = { u.fgroup f with lanes := (t.fgroup f).lanes } := hp.onLanes_group _ _
  have hs1 := State.setShare_group k share a h.block h.group rfl
  refine ⟨t, ?_, ⟨rfl, fun c hc => ?_⟩, hblock.trans ?_, ?_, ?_, fun j hj => ?_⟩
  · show execRshrink x s = .next t
    refine runWord_ok h.toIssues ?_ hout
    simp only [lowestActing, hi, hn]
    rfl
  · rw [show t.block? c = u.block? c from State.block?_modBlock_ne _ _ hc, show u.block? c = s1.block? c from State.block?_modBlock_ne _ _ hc]
    exact State.block?_modBlock_ne _ _ hc
  · exact congrArg Block.regUnits (State.setShare_block k share a h.block)
  · rw [htgroup, hugroup]
    exact congrArg Group.nregs hs1
  · rw [htgroup, hugroup]
    show Cells.set (s1.fgroup f).s _ _ = Cells.set (s.fgroup f).s _ _
    rw [show (s1.fgroup f).s = (s.fgroup f).s from (congrArg Group.s hs1).trans rfl]
    rfl
  · rw [hp.placed h.once [] j hj]
    exact ⟨rfl, hland j (f.pc + 1)⟩

end

theorem State.nextGrow_of_lone {s : State} {core : Nat} {r : GrowReq} (hg : (s.core core).grows = [r])
    (hr : r.units ≤ s.freeUnits core) (hst : (s.block r.blk).st = .resident) : s.nextGrow core = some r := by
  simp [State.nextGrow, hg, firstGrows, hr, hst]

theorem State.shareKern_congr {s t : State} (hc : t.ctxs = s.ctxs) (hi : t.insts = s.insts) (b : Block) :
    t.shareKern b = s.shareKern b := by
  simp only [State.shareKern, State.blockKern, State.kern, State.ctx, State.ctx?, State.inst, State.inst?, hc, hi]

/-- Settles O12: the request takes no free unit, so that the core grants it at once, and a share's new size moves no lane. -/
theorem registerShareWordsComplete : Obligations.RegisterShareWordsComplete := by
  intro x i n s f h hi hn hst core k share units
  refine ⟨fun hpos hmax hpool hfree hg => ?_, fun hu hg => rgrow_of_unmeetable x h hi hn hu hst hg, rshrink_shrinks x h hi hn⟩
  obtain ⟨t, ht, asks⟩ := rgrow_asks x h hi hn hpos hmax hpool hfree hg
  have hblock : t.block f.blk = { s.fblock f with groups := (t.fblock f).groups } := asks.block
  have hgroup : t.group f.blk f.grp = { s.fgroup f with lanes := (t.fgroup f).lanes } := asks.same
  have hk : t.shareKern (t.block f.blk) = k := by
    rw [State.shareKern_congr (by rw [asks.rest]) (by rw [asks.rest]), hblock]
    rfl
  have hshare : shareOf k (t.group f.blk f.grp) = share := by rw [hgroup]; rfl
  have hnext : t.nextGrow core = some (growReq s f x n) :=
    State.nextGrow_of_lone asks.grows (asks.free ▸ hfree) ((congrArg Block.st hblock).trans (Eq.trans rfl hst))
  obtain ⟨u, hu, hgrows, hunits, hregs, hscalar, hlanes⟩ := rgrowGrant_grants asks.grows hnext asks.path.block asks.path.group
  simp only [growReq, hk, hshare] at hunits hregs hscalar hlanes
  refine ⟨t, u, ht, asks.grows, asks.waits, hu, hgrows, ?_, ?_, ?_, fun j hj => ?_⟩
  · rw [hblock] at hunits
    exact hunits
  · rw [hblock] at hregs
    exact hregs
  · rw [hgroup] at hscalar
    exact hscalar
  · have hw : t.lane f.blk f.grp j = { s.flane f j with st := .waiting (.rgrow s.nextId) } := asks.waits j hj
    have hl := hlanes j hj (h.once.filter _) (asks.path.lanes j (acting_sub s f x.g j hj).1) (congrArg Lane.st hw)
    rw [hw] at hl
    exact hl

end Machine
end Sys2Proof

/-!
# Cycles end and slots fill (O41)
-/

namespace Sys2Proof.Machine

open Sys2Proof.Claims

/-! ## The pick (R104) -/

theorem Choice.before_iff (b a : Choice) : b.before a = true ↔ PickedBefore false b a := by
  unfold Choice.before PickedBefore
  split_ifs with hlanes hage hnum <;> simp at * <;> omega

theorem Choice.agedBefore_iff (b a : Choice) : b.agedBefore a = true ↔ PickedBefore true b a := by
  unfold Choice.agedBefore
  split
  · next hpassed => simp [PickedBefore] at hpassed ⊢; omega
  · next hpassed => rw [Choice.before_iff]; simp [PickedBefore] at hpassed ⊢; omega

theorem pickedBefore_irrefl (aged : Bool) (a : Choice) : ¬PickedBefore aged a a := by
  unfold PickedBefore
  omega

theorem pickedBefore_trans {aged : Bool} {a b c : Choice} (h : PickedBefore aged c b) (k : PickedBefore aged b a) :
    PickedBefore aged c a := by
  unfold PickedBefore at *
  cases aged <;> simp at h k ⊢ <;> omega

/-- The first by an order is an element before which no other comes. -/
theorem firstBy_first {α : Type} {lt : α → α → Bool} {R : α → α → Prop} (hlt : ∀ b a, lt b a = true ↔ R b a) (hirr : ∀ a, ¬R a a)
    (htrans : ∀ a b c, R c b → R b a → R c a) {xs : List α} {x : α} (h : firstBy lt xs = some x) : x ∈ xs ∧ ∀ b ∈ xs, ¬R b x := by
  cases xs with
  | nil => cases h
  | cons y ys =>
    have hfold : ∀ (ys seen : List α) (y : α), y ∈ seen → (∀ b ∈ seen, ¬R b y) →
        (ys.foldl (fun a b => if lt b a then b else a) y ∈ seen ++ ys ∧
          ∀ b ∈ seen ++ ys, ¬R b (ys.foldl (fun a b => if lt b a then b else a) y)) := by
      intro ys
      induction ys with
      | nil => exact fun seen y hy hseen => by simpa using ⟨hy, hseen⟩
      | cons z zs ih =>
        intro seen y hy hseen
        rw [List.foldl_cons, List.append_cons]
        split
        · next hz =>
          refine ih _ z (by simp) (fun b hb hr => ?_)
          rcases List.mem_append.mp hb with hb | hb
          · exact hseen b hb (htrans _ _ _ hr ((hlt _ _).mp hz))
          · exact hirr z (by rwa [List.mem_singleton.mp hb] at hr)
        · next hz =>
          refine ih _ y (by simp [hy]) (fun b hb hr => ?_)
          rcases List.mem_append.mp hb with hb | hb
          · exact hseen b hb hr
          · exact hz ((hlt _ _).mpr (by rwa [List.mem_singleton.mp hb] at hr))
    obtain rfl : ys.foldl (fun a b => if lt b a then b else a) y = x := by simpa [firstBy] using h
    exact hfold ys [y] y (by simp) (by simpa using hirr y)

theorem firstBy_eq_none {α : Type} {lt : α → α → Bool} {xs : List α} : firstBy lt xs = none ↔ xs = [] := by
  cases xs <;> simp [firstBy]

theorem pickOne_eq_none {cs : List Choice} : pickOne cs = none ↔ cs = [] := by
  simp only [pickOne, List.isEmpty_iff]
  split
  · exact firstBy_eq_none
  · next h => simpa [firstBy_eq_none, h] using fun hn => h (by simp [hn])

theorem picked_of_pickOne {cs : List Choice} {a : Choice} (h : pickOne cs = some a) : Picked cs a := by
  simp only [pickOne, List.isEmpty_iff] at h
  split at h
  · next hn =>
    have hyoung : ∀ b ∈ cs, b.aged = false := by simpa using hn
    obtain ⟨ha, hfirst⟩ := firstBy_first Choice.before_iff (pickedBefore_irrefl false) (fun _ _ _ => pickedBefore_trans) h
    exact ⟨ha, fun ⟨b, hb, hold⟩ => by simp [hyoung b hb] at hold, fun b hb _ => by rw [hyoung a ha]; exact hfirst b hb⟩
  · obtain ⟨ha, hfirst⟩ := firstBy_first Choice.agedBefore_iff (pickedBefore_irrefl true) (fun _ _ _ => pickedBefore_trans) h
    obtain ⟨hmem, hold⟩ := List.mem_filter.mp ha
    exact ⟨hmem, fun _ => hold, fun b hb hb' => by rw [hold]; exact hfirst b (List.mem_filter.mpr ⟨hb, hb' hold⟩)⟩

/-- R104: what the two slots take. -/
theorem pickTwo_picks {cs : List Choice} (h : cs ≠ []) : ∃ a rest, pickTwo cs = a :: rest ∧ Picked cs a ∧
    (let others := cs.filter (fun b => b.c != a.c && b.phys.all (fun p => !a.phys.contains p))
     (others = [] ∧ rest = []) ∨ ∃ b, rest = [b] ∧ Picked others b) := by
  cases ha : pickOne cs with
  | none => exact absurd (pickOne_eq_none.mp ha) h
  | some a =>
    cases hb : pickOne (cs.filter (fun b => b.c != a.c && b.phys.all (fun p => !a.phys.contains p))) with
    | none => exact ⟨a, [], by simp only [pickTwo, ha, hb], picked_of_pickOne ha, .inl ⟨pickOne_eq_none.mp hb, rfl⟩⟩
    | some b => exact ⟨a, [b], by simp only [pickTwo, ha, hb], picked_of_pickOne ha, .inr ⟨b, rfl, picked_of_pickOne hb⟩⟩

/-! ## The picks of a cycle (R106) -/

theorem holdGroup_agenda (s : State) (blk gi : Nat) : (holdGroup s blk gi).agenda = s.agenda := by
  refine foldl_keeps (fun t : State => t.agenda = s.agenda) _ (fun t x ht => ?_) _ _ rfl
  exact ht

@[simp] theorem State.holdLanes_agenda (s : State) : s.holdLanes.agenda = s.agenda := by
  refine foldl_keeps (fun t : State => t.agenda = s.agenda) _ (fun t e ht => ?_) _ _ rfl
  split
  · refine foldl_keeps (fun t : State => t.agenda = s.agenda) _ (fun t g ht => ?_) _ _ ht
    split
    · rw [holdGroup_agenda, ht]
    · exact ht
  · exact ht

theorem pickIssues_agenda (s : State) : (pickIssues s).agenda = s.holdLanes.busyCores.flatMap (fun c => [0, 1, 2, 3].flatMap (fun k =>
    (pickTwo (s.holdLanes.choices c k)).zipIdx.map (fun x => Item.issue { x.1.c with second := x.2 == 1 }))) ++ s.agenda := by
  simp only [pickIssues, List.map_flatMap, State.holdLanes_agenda]
  rfl

theorem step_of_pick {s : State} {rest : List Item} (h : s.tripped = false) (ha : s.agenda = .pick :: rest) :
    step s = .next (pickIssues (itemTaken s rest)) := by
  rw [step, if_neg (by simp [h]), ha]
  rfl

/-! ## Rejoin waits that close (R112) -/

theorem Group.live_nodup (g : Group) : g.live.Nodup := List.nodup_range.filter _

theorem Group.mem_heldAt {g : Group} {j i : Nat} : i ∈ g.heldAt j ↔ (g.lane i).st = .held j := by
  simp only [Group.heldAt, List.mem_filter, Group.mem_live, beq_iff_eq, and_iff_right_iff_imp]
  intro h
  simp [h]

theorem Group.lane_release {g : Group} {j i : Nat} (hi : i < g.lanes.length) :
    (g.release (g.heldAt j)).lane i = if (g.lane i).st = .held j then (g.lane i).advance ((g.lane i).pc + 1) else g.lane i := by
  unfold Group.release
  split
  · next h => exact Group.lane_modLanes_same _ _ _ i (Group.mem_heldAt.mpr h) (g.live_nodup.filter _) hi
  · next h => exact Group.lane_modLanes_ne _ _ _ i (fun hm => h (Group.mem_heldAt.mp hm))

/-- One wait of a group closes. -/
def Group.closeWait (g : Group) (w : JWait) : Group :=
  { g.release (g.heldAt w.j) with waits := g.waits.filter (fun x => x.j != w.j) }

theorem Group.closeWaits_eq (g : Group) : g.closeWaits = (g.waits.filter g.allArrived).foldl Group.closeWait g := rfl

theorem Group.closeWait_length (g : Group) (w : JWait) : (g.closeWait w).lanes.length = g.lanes.length := Group.modLanes_length _ _ _

theorem Group.lane_closeWait {g : Group} (w : JWait) {i : Nat} (hi : i < g.lanes.length) :
    (g.closeWait w).lane i = if (g.lane i).st = .held w.j then (g.lane i).advance ((g.lane i).pc + 1) else g.lane i :=
  Group.lane_release hi

/-- Waits that close take themselves away and let their held lanes go on, each of which is held once. -/
theorem Group.foldl_closeWait (ws : List JWait) (g : Group) :
    (∀ x, x ∈ (ws.foldl Group.closeWait g).waits ↔ x ∈ g.waits ∧ ∀ w ∈ ws, x.j ≠ w.j) ∧
    ∀ i, i < g.lanes.length → ((∃ w ∈ ws, (g.lane i).st = .held w.j) →
        (ws.foldl Group.closeWait g).lane i = (g.lane i).advance ((g.lane i).pc + 1)) ∧
      ((∀ w ∈ ws, (g.lane i).st ≠ .held w.j) → (ws.foldl Group.closeWait g).lane i = g.lane i) := by
  induction ws generalizing g with
  | nil => simp
  | cons w ws ih =>
    obtain ⟨hwaits, hlanes⟩ := ih (g.closeWait w)
    rw [List.foldl_cons]
    refine ⟨fun x => ?_, fun i hi => ?_⟩
    · rw [hwaits x]
      simp [Group.closeWait, and_assoc]
    · obtain ⟨hmet, hfree⟩ := hlanes i (lt_of_lt_of_eq hi (g.closeWait_length w).symm)
      rw [Group.lane_closeWait w hi] at hmet hfree
      by_cases hw : (g.lane i).st = .held w.j
      · rw [if_pos hw] at hmet hfree
        exact ⟨fun _ => hfree (fun v _ => by simp), fun hn => absurd hw (hn w List.mem_cons_self)⟩
      · rw [if_neg hw] at hmet hfree
        refine ⟨fun ⟨v, hv, hst⟩ => ?_, fun hn => hfree (fun v hv => hn v (List.mem_cons_of_mem _ hv))⟩
        rcases List.mem_cons.mp hv with rfl | hv
        · exact absurd hst hw
        · exact hmet ⟨v, hv, hst⟩

theorem Group.allArrived_iff (g : Group) (w : JWait) : g.allArrived w = true ↔
    ∀ i, i < g.lanes.length → (Cells.get g.j w.j).getLsbD i = true →
      (g.lane i).st = .held w.j ∨ (g.lane i).st = .exited ∨ i ∈ w.timed := by
  simp only [Group.allArrived, List.all_eq_true, List.mem_range, bitAt, Bool.or_eq_true, Bool.not_eq_true', beq_iff_eq,
    List.contains_iff_mem, or_assoc]
  exact forall₂_congr fun i _ => by cases (Cells.get g.j w.j).getLsbD i <;> simp

theorem Group.closeWaits_closes (g : Group) (hn : (g.waits.map JWait.j).Nodup) :
    (∀ w, w ∈ g.closeWaits.waits ↔ w ∈ g.waits ∧ ¬g.allArrived w = true) ∧
    ∀ i, i < g.lanes.length →
      ((∃ w ∈ g.waits, g.allArrived w = true ∧ (g.lane i).st = .held w.j) →
        g.closeWaits.lane i = (g.lane i).advance ((g.lane i).pc + 1)) ∧
      ((∀ w ∈ g.waits, g.allArrived w = true → (g.lane i).st ≠ .held w.j) → g.closeWaits.lane i = g.lane i) := by
  obtain ⟨hwaits, hlanes⟩ := Group.foldl_closeWait (g.waits.filter g.allArrived) g
  rw [Group.closeWaits_eq]
  refine ⟨fun w => ?_, fun i hi => ⟨fun ⟨w, hw, hmet, hst⟩ => ?_, fun h => ?_⟩⟩
  · rw [hwaits w]
    refine and_congr_right fun hw => ⟨fun h hmet => h w (List.mem_filter.mpr ⟨hw, hmet⟩) rfl, fun h v hv he => ?_⟩
    obtain ⟨hv, hmet⟩ := List.mem_filter.mp hv
    exact h (List.inj_on_of_nodup_map hn hw hv he ▸ hmet)
  · exact (hlanes i hi).1 ⟨w, List.mem_filter.mpr ⟨hw, hmet⟩, hst⟩
  · exact (hlanes i hi).2 (fun w hw => h w (List.mem_filter.mp hw).1 (List.mem_filter.mp hw).2)

/-! ## Executions that complete (R156) -/

theorem Execution.result_landing (x : Execution) (n : Nat) (m : Member) (l : Lane) (a : Nat) :
    (x.result n m l).landing a = l.landing a := by
  unfold Execution.result
  split
  · rfl
  · exact Lane.setPred_landing _ _ _ _
  · rfl
  · dsimp only
    split
    · exact Lane.setTagged_landing _ _ _ _ _ _
    · rfl
  · rfl

/-- What a complete execution makes of a lane of one of its members. -/
def Execution.finishLane (x : Execution) (n : Nat) (m : Member) (l : Lane) : Lane :=
  if l.st != .waiting .member then l else (if m.acts then x.result n m l else l).advance (x.pc + 1)

theorem Execution.finishLane_waiting (x : Execution) (n : Nat) (m : Member) {l : Lane} (h : l.st = .waiting .member) :
    (x.finishLane n m l).pc = l.landing (x.pc + 1) ∧ (x.finishLane n m l).st = .ready := by
  unfold Execution.finishLane
  rw [if_neg (by simp [h])]
  refine ⟨?_, rfl⟩
  rw [Lane.advance_pc]
  split
  · exact x.result_landing n m l _
  · rfl

theorem Execution.finishLane_other (x : Execution) (n : Nat) (m : Member) {l : Lane} (h : l.st ≠ .waiting .member) :
    x.finishLane n m l = l := by
  unfold Execution.finishLane
  rw [if_pos (by simpa using h)]

theorem Group.lane_modLane_fix (g : Group) (i : Nat) {k : Lane → Lane} (h : k (g.lane i) = g.lane i) :
    (g.modLane i k).lane i = g.lane i := by
  by_cases hi : i < g.lanes.length
  · rw [Group.lane_modLane_same g i k hi, h]
  · rw [Group.modLane, List.modify_eq_self (Nat.le_of_not_lt hi)]

/-- The members of an execution go on, one after the other. -/
theorem foldl_finishLane (x : Execution) (ms : List Member) (g : Group) (i : Nat) :
    let t := ms.foldl (fun g m => g.modLane m.lane (x.finishLane g.nregs m)) g
    ((i ∉ ms.map Member.lane ∨ (g.lane i).st ≠ .waiting .member) → t.lane i = g.lane i) ∧
    (i < g.lanes.length → i ∈ ms.map Member.lane → (g.lane i).st = .waiting .member →
      (t.lane i).pc = (g.lane i).landing (x.pc + 1) ∧ (t.lane i).st = .ready) := by
  induction ms generalizing g with
  | nil => simp
  | cons m ms ih =>
    intro t
    obtain ⟨hkeep, hgo⟩ := ih (g.modLane m.lane (x.finishLane g.nregs m))
    by_cases hm : i = m.lane
    · subst hm
      refine ⟨fun h => ?_, fun hi _ hst => ?_⟩
      · have hst : (g.lane m.lane).st ≠ .waiting .member := by simpa using h
        have hlane := Group.lane_modLane_fix g m.lane (x.finishLane_other g.nregs m hst)
        rw [hlane] at hkeep
        exact hkeep (.inr hst)
      · have hlane := Group.lane_modLane_same g m.lane (x.finishLane g.nregs m) hi
        obtain ⟨hpc, hready⟩ := x.finishLane_waiting g.nregs m hst
        have ht : t.lane m.lane = x.finishLane g.nregs m (g.lane m.lane) := by
          rw [← hlane]
          exact hkeep (.inr (by rw [hlane, hready]; simp))
        exact ⟨ht ▸ hpc, ht ▸ hready⟩
    · have hlane := Group.lane_modLane_ne g (x.finishLane g.nregs m) hm
      rw [hlane] at hkeep hgo
      refine ⟨fun h => hkeep (h.imp_left fun hn hm' => hn (List.mem_cons_of_mem _ hm')), fun hi hmem hst => ?_⟩
      exact hgo (by simpa using hi) (by simpa [hm] using hmem) hst

theorem Execution.isSome_member? (x : Execution) (l : Nat) : (x.member? l).isSome = true ↔ l ∈ x.issued.map Member.lane := by
  simp [Execution.member?]

theorem Execution.complete_iff (x : Execution) (g : Group) : x.complete g = true ↔
    ∀ l ∈ x.members, l ∈ x.issued.map Member.lane ∨ (g.lane l).st = .exited := by
  simp only [Execution.complete, List.all_eq_true, Bool.or_eq_true, x.isSome_member?, beq_iff_eq]

theorem finishExec_eq (g : Group) (x : Execution) : finishExec g x =
    x.issued.foldl (fun g m => g.modLane m.lane (x.finishLane g.nregs m))
      { g with execs := g.execs.filter (fun y => !(y.kern == x.kern && y.pc == x.pc)) } := rfl

theorem finishExec_execs (g : Group) (x : Execution) :
    (finishExec g x).execs = g.execs.filter (fun y => !(y.kern == x.kern && y.pc == x.pc)) := by
  rw [finishExec_eq]
  refine foldl_keeps (fun t : Group => t.execs = g.execs.filter (fun y => !(y.kern == x.kern && y.pc == x.pc))) _ (fun t m ht => ?_) _ _ rfl
  exact ht

/-- R156: the one execution of a group, at the end of a cycle. -/
theorem finishExecs_of_lone {g : Group} {x : Execution} (hx : g.execs = [x]) :
    (¬x.complete g = true → finishExecs g = g) ∧ (x.complete g = true → finishExecs g = finishExec g x) := by
  refine ⟨fun h => ?_, fun h => ?_⟩ <;> simp [finishExecs, hx, h]

/-! ## The end of a cycle -/

/-- No lane of a block waits at a call that is not posted yet. -/
def State.NoCalls (s : State) : Prop :=
  ∀ e ∈ s.blocks, ∀ h ∈ e.2.groups, ∀ l ∈ h.lanes, ∀ n x, l.st ≠ .waiting (.sys n x)

theorem State.lane_cases (s : State) (b g i : Nat) :
    (s.lane b g i).st = .exited ∨ ∃ e ∈ s.blocks, ∃ h ∈ e.2.groups, s.lane b g i ∈ h.lanes := by
  cases hl : (s.group b g).lanes[i]? with
  | none => exact .inl (by simp [State.lane, Group.lane, hl])
  | some l =>
    refine .inr ?_
    have hlane : s.lane b g i = l := by simp [State.lane, Group.lane, hl]
    have hmem := List.mem_of_getElem? hl
    cases hb : s.block? b with
    | none => simp [State.group, State.block, hb, Block.group] at hmem
    | some y =>
      cases hg : y.groups[g]? with
      | none => simp [State.group, State.block, hb, Block.group, hg] at hmem
      | some h =>
        have hgroup : s.group b g = h := by simp [State.group, State.block, hb, Block.group, hg]
        exact ⟨(b, y), Tbl.mem_of_at hb, h, List.mem_of_getElem? hg, by rwa [hlane, ← hgroup]⟩

theorem State.NoCalls.unposted {s : State} (h : s.NoCalls) (b g i : Nat) : unposted (s.lane b g i).st = none := by
  unfold Machine.unposted
  split
  · next n x hst =>
    rcases s.lane_cases b g i with hexit | ⟨e, he, k, hk, hl⟩
    · rw [hexit] at hst
      cases hst
    · exact absurd hst (h e he k hk _ hl _ _)
  · rfl

theorem State.NoCalls.atSys {s : State} (h : s.NoCalls) (b : Nat) (ls : List (Nat × Nat)) : s.atSys b ls = false := by
  cases ls <;> simp [State.atSys, h.unposted]

theorem State.NoCalls.postSys {s : State} (h : s.NoCalls) (b : Nat) : s.postSys b = s := by
  simp only [State.postSys, h.atSys, Bool.false_eq_true, if_false]
  split_ifs
  · rfl
  · rfl
  · refine foldl_keeps (fun t : State => t = s) _ (fun t g ht => ?_) _ _ rfl
    subst ht
    simp [h.atSys]

/-- Two states that differ in instances and dies alone. -/
def QueuesOnly (s t : State) : Prop := t = { s with insts := t.insts, dies := t.dies }

theorem QueuesOnly.trans {s t u : State} (h : QueuesOnly s t) (k : QueuesOnly t u) : QueuesOnly s u := by
  unfold QueuesOnly at *
  rw [k, h]

theorem State.freeEndedQueues_queuesOnly (s : State) (c : Nat) : QueuesOnly s (s.freeEndedQueues c) := by
  unfold State.freeEndedQueues
  split
  · rfl
  · rfl

theorem State.startInsts_queuesOnly (s : State) : QueuesOnly s s.startInsts := by
  refine foldl_keeps (QueuesOnly s) _ (fun t d ht => ?_) _ _ rfl
  refine foldl_keeps (QueuesOnly s) _ (fun t q ht => ?_) _ _ ht
  refine foldl_keeps (QueuesOnly s) _ (fun t i ht => ?_) _ _ ht
  dsimp only
  split
  · exact ht.trans rfl
  · exact ht

theorem State.group_map (s : State) (f : Nat → Block → Block) (b g : Nat) (hb : (s.block? b).isSome = true) :
    ({ s with blocks := s.blocks.map (fun e => (e.1, f e.1 e.2)) } : State).group b g = (f b (s.block b)).group g := by
  obtain ⟨x, hx⟩ := Option.isSome_iff_exists.mp hb
  have hx' : Tbl.at s.blocks b = some x := hx
  simp [State.group, State.block, State.block?, Tbl.at_map, hx']

theorem State.onRunning_group {s : State} (f : Group → Group) {b g : Nat} (h : HasGroup s b g) (hr : s.runs (s.block b) = true) :
    (s.onRunning f).group b g = f (s.group b g) := by
  obtain ⟨hb, hg⟩ := h
  refine (s.group_map (fun _ x => if s.runs x then { x with groups := x.groups.map f } else x) b g hb).trans ?_
  rw [if_pos hr]
  simp [State.group, Block.group, List.getD_eq_getElem?_getD, hg]

/-- A block with the time since when its unit waits. -/
def State.markWait (s : State) (n : Nat) (x : Block) : Block :=
  if s.unitWaits n then
    let now := (s.ctx x.ctx).parkThreshold.toNat
    (if x.waitSince.isSome then (if now = 0 then x else { x with waitThreshold := now })
     else { x with waitSince := some s.ns, waitThreshold := now })
  else { x with waitSince := none }

theorem State.markWait_groups (s : State) (n : Nat) (x : Block) : (s.markWait n x).groups = x.groups := by
  unfold State.markWait
  dsimp only
  split_ifs <;> rfl

theorem State.markWaits_eq (s : State) : s.markWaits = { s with blocks := s.blocks.map (fun e => (e.1, s.markWait e.1 e.2)) } := rfl

theorem State.markWaits_group (s : State) (b g : Nat) : s.markWaits.group b g = s.group b g := by
  rw [State.markWaits_eq]
  simp only [State.group, State.block, State.block?, Tbl.at_map]
  cases Tbl.at s.blocks b with
  | none => rfl
  | some x => simp [Block.group, State.markWait_groups]

/-- R126: where no core has a request for registers, there is no register deadlock. -/
theorem foldl_regDeadlock_of_none {s : State} (h : ∀ c, (s.core c).grows = []) (cs : List Nat) : cs.foldl State.regDeadlock s = s := by
  induction cs with
  | nil => rfl
  | cons c cs ih => rw [List.foldl_cons, State.regDeadlock_of_none (h c), ih]

/-- Queues that are freed and instances that start, once the groups have gone on, change no more than instances and dies. -/
theorem State.queuesOnly_of_noCores {s : State} (h : s.cores = []) :
    let v := s.ctxs.foldl (fun s e => if e.2.ended then s.freeEndedQueues e.1 else s) s
    QueuesOnly s (v.busyCores.foldl State.regDeadlock v).startInsts := by
  intro v
  have hv : QueuesOnly s v := by
    refine foldl_keeps (QueuesOnly s) _ (fun t e ht => ?_) _ _ rfl
    split
    · exact ht.trans (t.freeEndedQueues_queuesOnly e.1)
    · exact ht
  have hcores : v.cores = [] := (congrArg State.cores hv).trans h
  rw [foldl_regDeadlock_of_none (fun c => by simp [State.core, hcores, Tbl.at])]
  exact hv.trans v.startInsts_queuesOnly

/-- A cycle's end, of a state with no core's state, no request and no call: the groups of its running blocks go on, and queues, contexts
and the waits of units follow. -/
theorem State.settle_eq_of_quiet {s : State} (hcores : s.cores = []) (hreqs : s.reqs = []) (hcalls : s.NoCalls) :
    ∃ t, QueuesOnly (s.dropFailed.onRunning (fun g => (finishExecs g).countExecs.closeWaits)) t ∧ s.settle = t.completeCtxs.markWaits := by
  have hlaunch : s.launchWaiting = s := by simp [State.launchWaiting, hreqs]
  have hpost : ∀ es : Tbl Block, es.foldl (fun s e => s.postSys e.1) s.dropFailed = s.dropFailed := fun es => by
    induction es with
    | nil => rfl
    | cons e es ih => rw [List.foldl_cons, State.NoCalls.postSys (s := s.dropFailed) hcalls e.1, ih]
  refine ⟨_, State.queuesOnly_of_noCores hcores, ?_⟩
  simp only [State.settle, hlaunch, hcores, List.filter_nil, List.foldl_nil, hpost]

/-- What `State.settle_eq_of_quiet` leaves. -/
theorem State.settle_of_quiet {s : State} (hcores : s.cores = []) (hreqs : s.reqs = []) (hcalls : s.NoCalls) :
    s.settle.mem = s.mem ∧ s.settle.clock = s.clock ∧
      ∀ b g, s.settle.group b g = (s.onRunning (fun g => (finishExecs g).countExecs.closeWaits)).group b g := by
  obtain ⟨t, hqueues, hsettle⟩ := State.settle_eq_of_quiet hcores hreqs hcalls
  have hmem : t.mem = s.mem := (congrArg State.mem hqueues).trans rfl
  have hclock : t.clock = s.clock := (congrArg State.clock hqueues).trans rfl
  have hblocks : t.blocks = (s.onRunning (fun g => (finishExecs g).countExecs.closeWaits)).blocks := (congrArg State.blocks hqueues).trans rfl
  rw [hsettle]
  refine ⟨hmem, hclock, fun b g => ?_⟩
  rw [State.markWaits_group]
  exact congrArg (fun bs : Tbl Block => ((Tbl.at bs b).getD {}).group g) hblocks

theorem endCycle_mem (s : State) : (endCycle s).mem = s.settle.mem := by simp only [endCycle, State.tick]

theorem endCycle_clock (s : State) : (endCycle s).clock = s.settle.clock + 1 := by simp only [endCycle, State.tick]

theorem endCycle_group (s : State) (b g : Nat) : (endCycle s).group b g = s.settle.group b g := by
  simp only [State.group, State.block, State.block?, endCycle, State.tick]

/-- Settles O41: each clause by the lemma above on what it speaks of. -/
theorem cyclesEndAndSlotsFill : Obligations.CyclesEndAndSlotsFill := by
  refine ⟨fun cs => ⟨fun h => by subst h; rfl, pickTwo_picks⟩, fun rest s htrip hagenda => ?_, fun g hn => ?_, fun g x hx => ?_,
    fun b g s htrip hagenda hcores hreqs hgroup hruns hcalls => ?_⟩
  · exact ⟨_, step_of_pick htrip hagenda, by simp [itemTaken], pickIssues_agenda _⟩
  · simp only [← Group.allArrived_iff]
    exact g.closeWaits_closes hn
  · simp only [← Execution.complete_iff]
    obtain ⟨hopen, hdone⟩ := finishExecs_of_lone hx
    refine ⟨hopen, fun hmet => ?_⟩
    rw [hdone hmet]
    refine ⟨by simp [finishExec_execs, hx], fun i hi => ?_⟩
    obtain ⟨hkeep, hgo⟩ := foldl_finishLane x x.issued { g with execs := g.execs.filter (fun y => !(y.kern == x.kern && y.pc == x.pc)) } i
    exact ⟨hgo hi, fun hn => hkeep (.inl hn)⟩
  · obtain ⟨hmem, hclock, hgroups⟩ := State.settle_of_quiet (s := { s with focus := none }) hcores hreqs hcalls
    refine ⟨endCycle { s with focus := none }, by rw [step, if_neg (by simp [htrip]), hagenda], ?_, ?_, ?_⟩
    · rw [endCycle_mem, hmem]
    · rw [endCycle_clock, hclock]
    · rw [endCycle_group, hgroups b g]
      exact State.onRunning_group (s := { s with focus := none }) _ hgroup hruns

end Sys2Proof.Machine

/-!
# Events that end a wait in a group (O42)
-/

namespace Sys2Proof.Machine

open Sys2Proof.Claims

theorem State.lane_modLane_same {s : State} {b g i : Nat} (h : HasLane s b g i) (k : Lane → Lane) :
    (s.modLane b g i k).lane b g i = k (s.lane b g i) := by
  obtain ⟨⟨hb, hg⟩, hi⟩ := h
  show ((s.modGroup b g (fun x => x.modLane i k)).group b g).lane i = k ((s.group b g).lane i)
  rw [State.group_modGroup_same _ _ _ _ hb hg, Group.lane_modLane_same _ _ _ hi]

theorem event_happens {i : Instr} {s t : State} {ok : Bool} {P : State → Prop} (he : exec i s = event s ok t) (hok : ok = true) (ht : P t) :
    Happens i s P :=
  ⟨t, by rw [he, hok]; rfl, ht⟩

/-! ## Ageing (R104) -/

theorem Group.mem_aged_of_passed {g : Group} {k n : Nat} (h : (k, n) ∈ g.passed) (hn : 32 ≤ n) : k ∈ g.aged ++ g.agesAt (k % 2 ^ 32) := by
  by_cases hk : k ∈ g.aged
  · exact List.mem_append_left _ hk
  · refine List.mem_append_right _ (List.mem_map.mpr ⟨(k, n), List.mem_filter.mpr ⟨h, ?_⟩, rfl⟩)
    simp [hn, hk]

theorem candidateAged_happens {b g pc k n : Nat} {s : State} (h : HasGroup s b g) (hp : (k, n) ∈ (s.group b g).passed)
    (hk : k % 2 ^ 32 = pc) (hn : 32 ≤ n) : Happens (.candidateAged b g pc) s (fun t => BlocksOnly s t ∧ k ∈ (t.group b g).aged) := by
  refine ⟨_, rfl, rfl, ?_⟩
  rw [State.group_modGroup_same _ _ _ _ h.1 h.2, ← hk]
  exact Group.mem_aged_of_passed hp hn

/-! ## Lanes whose wait is over (R101, R350) -/

theorem arriveLane_next {l : Lane} {w : Wait} (hst : l.st = .waiting w) (vc : VecD) {id : Nat} (hw : w = .lead id ∨ w = .cnget id) :
    arriveLane vc l = l.advance (l.pc + 1) := by
  rcases hw with rfl | rfl <;> simp only [arriveLane, hst]

theorem arriveLane_barrier {l : Lane} {rsp acq : Bool} {a : Nat} {p : BitVec 32} (hst : l.st = .waiting (.barrier rsp a p acq)) (vc : VecD) :
    arriveLane vc l = l.passRec vc acq := by
  simp only [arriveLane, hst]

theorem arriveLane_again {l : Lane} {w : Wait} (hst : l.st = .waiting w) (vc : VecD) (hnext : ∀ id, w ≠ .lead id ∧ w ≠ .cnget id)
    (hbar : ∀ rsp a p acq, w ≠ .barrier rsp a p acq) : arriveLane vc l = { l with st := .ready } := by
  unfold arriveLane
  split
  · next id h => exact absurd (LaneSt.waiting.inj (hst.symm.trans h)) (hnext id).1
  · next id h => exact absurd (LaneSt.waiting.inj (hst.symm.trans h)) (hnext id).2
  · next h => exact absurd (LaneSt.waiting.inj (hst.symm.trans h)) (hbar _ _ _ _)
  · rfl

theorem laneResultArrival_happens {b g i : Nat} {w : Wait} {s : State} (h : HasLane s b g i) (hst : (s.lane b g i).st = .waiting w)
    (hover : s.waitOver b g i w = true) :
    Happens (.laneResultArrival b g i) s (fun t => BlocksOnly s t ∧
      (∀ id, w = .lead id ∨ w = .cnget id → t.lane b g i = (s.lane b g i).advance ((s.lane b g i).pc + 1)) ∧
      (∀ rsp a p acq r, w = .barrier rsp a p acq → s.recordAt b rsp a = some r →
        t.lane b g i = (s.lane b g i).passRec (s.hiddenAt r).vc acq) ∧
      ((∀ id, w ≠ .lead id ∧ w ≠ .cnget id) → (∀ rsp a p acq, w ≠ .barrier rsp a p acq) →
        t.lane b g i = { s.lane b g i with st := .ready })) := by
  have hlane := State.lane_modLane_same h (arriveLane (s.waitVec b g i))
  refine event_happens rfl (by simp only [State.laneDue, hst, hover]) ⟨rfl, fun id hw => ?_, fun rsp a p acq r hw hr => ?_, fun hnext hbar => ?_⟩
  · rw [hlane, arriveLane_next hst _ hw]
  · subst hw
    have hvec : s.waitVec b g i = (s.hiddenAt r).vc := by simp only [State.waitVec, hst, hr]
    rw [hlane, arriveLane_barrier hst, hvec]
  · rw [hlane, arriveLane_again hst _ hnext hbar]

/-! ## The bound of a rejoin wait (R113) -/

theorem Group.bounded_isSome {g : Group} {w : JWait} {clock n : Nat} (hw : w ∈ g.waits) (hn : w.bound = some n) (hlt : n < clock)
    (hopen : g.allArrived w = false) : (g.bounded clock w.j).isSome = true :=
  List.find?_isSome.mpr ⟨w, hw, by simp [hn, hlt, hopen]⟩

theorem jwaitTimeout_happens {b g i j n : Nat} {w : JWait} {s : State} (h : HasLane s b g i) (hres : (s.block b).st = .resident)
    (hw : w ∈ (s.group b g).waits) (hj : w.j = j) (hn : w.bound = some n) (hlt : n < s.clock) (hopen : (s.group b g).allArrived w = false)
    (hst : (s.lane b g i).st = .held j) :
    Happens (.jwaitTimeout b g j) s (fun t => BlocksOnly s t ∧ t.lane b g i = (s.lane b g i).advance ((s.lane b g i).pc + 1)) := by
  subst hj
  obtain ⟨⟨hb, hg⟩, hi⟩ := h
  refine event_happens rfl (by simp [hres, Group.bounded_isSome hw hn hlt hopen]) ⟨rfl, ?_⟩
  have hlane := (Group.lane_release hi).trans (if_pos hst)
  rw [State.lane, State.group_modGroup_same _ _ _ _ hb hg]
  exact hlane

/-! ## Executions that stay open (R156) -/

theorem Group.modLanes_execs (g : Group) (ls : List Nat) (f : Nat → Lane → Lane) : (g.modLanes ls f).execs = g.execs :=
  (congrArg Group.execs (Group.modLanes_rest g ls f)).trans rfl

/-- A trap of named lanes, outside a handler and with a vector, leaves its record in the group. -/
theorem takeTrap_group {s : State} {f : Focus} {t : Trap} {v : Nat × Nat} (hcause : t.cause ≠ 4) (hlanes : t.lanes ≠ [])
    (hout : (s.fgroup f).trap = none) (hv : (s.ctx (s.fctx f)).vector = some v) (hb : (s.block? f.blk).isSome = true)
    (hg : f.grp < (s.block f.blk).groups.length) :
    ((takeTrap s f t).fgroup f).trap = some ⟨t, f.word, f.pc, f.kern, t.lanes⟩ ∧
      ((takeTrap s f t).fgroup f).execs = (s.fgroup f).execs := by
  have htaken : takeTrap s f t = s.onGroup f (fun g =>
      { (g.modLanes f.lanes (fun _ l => { l with gran := none, res := none })).modLanes t.lanes
        (fun _ l => { l with pc := v.1, kern := v.2, st := .ready, gran := none, res := none })
        with trap := some ⟨t, f.word, f.pc, f.kern, t.lanes⟩ }) := by
    unfold takeTrap
    simp only [beq_iff_eq, hcause, if_false, List.isEmpty_iff, hlanes, hout, Option.isSome_none, Bool.false_eq_true, hv]
  rw [htaken, State.fgroup, State.onGroup, State.group_modGroup_same _ _ _ _ hb hg]
  exact ⟨rfl, (Group.modLanes_execs ..).trans (Group.modLanes_execs ..)⟩

theorem membershipTimeout_happens {b g : Nat} {x : Execution} {v : Nat × Nat} {s : State} (h : HasGroup s b g)
    (hx : (s.group b g).execs = [x]) (hlong : 4096 ≤ x.cycles) (hopen : x.complete (s.group b g) = false)
    (hout : (s.group b g).trap = none) (hv : (s.ctx (s.block b).ctx).vector = some v) (hissued : x.issued ≠ []) :
    Happens (.membershipTimeout b g x.pc) s (fun t => (t.group b g).execs = [] ∧
      ∃ r, (t.group b g).trap = some r ∧ r.trap.cause = 9 ∧ r.trap.lanes = x.issued.map Member.lane) := by
  obtain ⟨hb, hg⟩ := h
  let s1 := s.modGroup b g (fun g => { g with execs := g.execs.filter (fun y => !(y.kern == x.kern && y.pc == x.pc)) })
  let f : Focus := { blk := b, grp := g, kern := x.kern, pc := x.pc, lanes := x.issued.map Member.lane, word := x.word }
  have hfind : (s.group b g).execs.find? (fun y => y.pc == x.pc && decide (4096 ≤ y.cycles) && !y.complete (s.group b g) &&
      (s.group b g).trap.isNone) = some x := by simp [hx, hlong, hopen, hout]
  have hgroup : s1.group b g = { s.group b g with execs := [] } := by
    rw [State.group_modGroup_same _ _ _ _ hb hg]
    simp [hx]
  have hctx : (s1.block b).ctx = (s.block b).ctx := (congrArg Block.ctx (s.block_modBlock_same b _ hb)).trans rfl
  have hb1 : (s1.block? b).isSome = true := (s.modBlock_isSome ..).trans hb
  have hg1 : g < (s1.block b).groups.length := lt_of_lt_of_eq hg (s.modGroup_groups_length b g _ b).symm
  obtain ⟨htrap, hexecs⟩ := takeTrap_group (s := s1) (f := f) (t := { cause := 9, lanes := x.issued.map Member.lane }) (by simp)
    (by simpa using hissued) ((congrArg Group.trap hgroup).trans hout) (hctx ▸ hv) hb1 hg1
  refine ⟨takeTrap s1 f { cause := 9, lanes := x.issued.map Member.lane }, ?_, hexecs.trans (congrArg Group.execs hgroup), _, htrap, rfl, rfl⟩
  show execMembershipTimeout b g x.pc s = _
  rw [State.group] at hfind
  simp only [execMembershipTimeout, hfind]
  rfl

/-! ## Yields, marks and leads (R120, R373, R354) -/

theorem yieldExpiry_happens {b g i n : Nat} {s : State} (h : HasLane s b g i) (hst : (s.lane b g i).st = .waiting (.yielded n))
    (hn : n < s.clock) :
    Happens (.yieldExpiry b g i) s (fun t => BlocksOnly s t ∧ t.lane b g i = { s.lane b g i with st := .ready }) := by
  refine ⟨s.modLane b g i (fun l => { l with st := .ready }), ?_, rfl, State.lane_modLane_same h _⟩
  show execYieldExpiry b g i s = _
  simp only [execYieldExpiry, hst, if_pos hn]

theorem ktrigReleaseComplete_happens {b : Nat} {ls : List (Nat × Nat)} {s : State} (hb : (s.block? b).isSome = true)
    (hm : (s.block b).mark = .releasing [] ls) :
    Happens (.ktrigReleaseComplete b) s (fun t => BlocksOnly s t ∧
      (t.block b).mark = .done (ls.foldl (fun (d : VecD) x => d.max (s.lane b x.1 x.2).known) {})) := by
  refine ⟨s.modBlock b (fun b =>
    { b with mark := .done (ls.foldl (fun (d : VecD) x => d.max ((b.group x.1).lane x.2).known) {}) }), ?_, rfl, ?_⟩
  · show execKtrigReleaseComplete b s = _
    simp only [execKtrigReleaseComplete, hm]
  · rw [State.block_modBlock_same _ _ _ hb]
    rfl

theorem leadCountUpdate_happens {b nb : Nat} {s : State} (hb : (s.block? b).isSome = true) (hn : nb ∈ s.leadNeighbours b) :
    Happens (.leadCountUpdate b nb) s (fun t => BlocksOnly s t ∧ Tbl.at (t.block b).seen nb = some (s.block nb).advance) := by
  refine event_happens rfl (by simpa using hn) ⟨rfl, ?_⟩
  rw [State.block_modBlock_same _ _ _ hb]
  exact Tbl.at_put_same _ _ _

/-- R124: `rgrowGrant_grants` for one lane of the request. -/
theorem rgrowGrant_happens {core i : Nat} {r : GrowReq} {s : State} (hg : (s.core core).grows = [r]) (hn : s.nextGrow core = some r)
    (h : HasLane s r.blk r.grp i) (hi : i ∈ r.lanes) (hnodup : r.lanes.Nodup) (hst : (s.lane r.blk r.grp i).st = .waiting (.rgrow r.id)) :
    Happens (.rgrowGrant core) s (fun t => (t.core core).grows = [] ∧ (t.lane r.blk r.grp i).st = .ready ∧
      (t.lane r.blk r.grp i).pc = (s.lane r.blk r.grp i).landing ((s.lane r.blk r.grp i).pc + 1)) := by
  obtain ⟨⟨hb, hgrp⟩, hlen⟩ := h
  obtain ⟨t, hexec, hgrows, -, -, -, hlanes⟩ := rgrowGrant_grants hg hn hb hgrp
  exact ⟨t, hexec, hgrows, hlanes i hi hnodup hlen hst⟩

end Sys2Proof.Machine

/-!
# Events of the queue manager (O42)
-/

namespace Sys2Proof.Machine

open Sys2Proof.Claims

theorem State.block?_of_blocks {s t : State} (h : t.blocks = s.blocks) (b : Nat) : t.block? b = s.block? b := by
  simp only [State.block?, h]

theorem State.block_of_blocks {s t : State} (h : t.blocks = s.blocks) (b : Nat) : t.block b = s.block b := by
  simp only [State.block, State.block?, h]

theorem State.inst_of_insts {s t : State} (h : t.insts = s.insts) (i : Nat) : t.inst i = s.inst i := by
  simp only [State.inst, State.inst?, h]

theorem State.core_of_cores {s t : State} (h : t.cores = s.cores) (c : Nat) : t.core c = s.core c := by
  simp only [State.core, h]

/-- A block that is changed in a state with the blocks of another. -/
theorem State.block_modBlock_of_blocks {s u : State} (h : u.blocks = s.blocks) {b : Nat} (hb : (s.block? b).isSome = true)
    (k : Block → Block) : (u.modBlock b k).block b = k (s.block b) := by
  rw [State.block_modBlock_same u b k (by rwa [State.block?_of_blocks h]), State.block_of_blocks h]

/-! ## Retirement (R362, R364) -/

theorem QueuesOnly.blocks {s t : State} (h : QueuesOnly s t) : t.blocks = s.blocks := (congrArg State.blocks h).trans rfl

theorem QueuesOnly.cores {s t : State} (h : QueuesOnly s t) : t.cores = s.cores := (congrArg State.cores h).trans rfl

/-- R362: of a block whose instance still stands, retirement frees the lines and stacks, and then the queues of a context that has ended. -/
theorem retireBlock_queuesOnly {s : State} {b : Nat} (hi : (s.inst? (s.block b).inst).isSome = true) :
    QueuesOnly ((freeBlockStacks ((s.noteHold b).modCore (s.block b).core (fun k => k.freeLines b)) (s.block b)).modBlock b
      (fun x => { x with st := .retired, tiles := [], vtiles := [], halting := false })) (retireBlock s b) := by
  have hinst : ((freeBlockStacks ((s.noteHold b).modCore (s.block b).core (fun k => k.freeLines b)) (s.block b)).inst?
    (s.block b).inst).isSome = true := hi
  unfold retireBlock
  simp only [if_pos hinst]
  exact State.freeEndedQueues_queuesOnly _ _

theorem blockRetire_happens {b : Nat} {s : State} (hb : (s.block? b).isSome = true) (hr : s.mayRetire b = true)
    (hi : (s.inst? (s.block b).inst).isSome = true) :
    Happens (.blockRetire b) s (fun t => (t.block b).st = .retired ∧ t.mem = s.mem ∧ ∀ e ∈ (t.core (s.block b).core).owner, e.2 ≠ b) := by
  have hqueues := retireBlock_queuesOnly hi
  refine event_happens rfl hr ⟨?_, retireBlock_mem s b, ?_⟩
  · rw [State.block_of_blocks hqueues.blocks, State.block_modBlock_of_blocks (s := s) ?_ hb]
    rfl
  · have hcore : (retireBlock s b).cores = ((s.noteHold b).modCore (s.block b).core (fun k => k.freeLines b)).cores := hqueues.cores
    rw [State.core_of_cores hcore, State.core_modCore_same]
    simp [Core.freeLines]

theorem instanceRetire_happens {i : Nat} {s : State} (hr : s.instMayRetire i = true) :
    Happens (.instanceRetire i) s (fun t => t.mem = s.mem ∧ (∀ e ∈ t.blocks, e.2.inst ≠ i) ∧
      ∀ e ∈ t.dies, ∀ q ∈ e.2.queues, i ∉ q.2.insts) := by
  refine event_happens rfl hr ⟨retireInst_mem s i, fun e he => ?_, fun e he q hq => ?_⟩
  · have hmem : e ∈ s.blocks.filter (fun e => e.2.inst != i) := he
    simpa using (List.mem_filter.mp hmem).2
  · obtain ⟨d, -, rfl⟩ := List.mem_map.mp (show e ∈ s.dies.map _ from he)
    obtain ⟨p, -, rfl⟩ := List.mem_map.mp hq
    dsimp only
    split
    · simp [without]
    · next h => simpa using h

/-! ## Placement (R385) -/

/-- R387: the block of an instance's next cluster, of one block, stands on its core, and the instance counts it. -/
theorem placeNew_one {s : State} {i core : Nat} (hi : (s.inst? i).isSome = true) :
    ((placeNew s i [core]).inst i).placed = (s.inst i).placed + 1 ∧ ∃ n b, Tbl.at (placeNew s i [core]).blocks n = some b ∧
      b.inst = i ∧ b.core = core ∧ b.index = (s.inst i).placed ∧ b.st = .resident := by
  let p := newBlock s i (s.inst i).placed core
  have hinsts : p.2.insts = s.insts := rfl
  refine ⟨?_, p.2.nextId, p.1, Tbl.at_put_same _ _ _, rfl, rfl, rfl, rfl⟩
  refine (congrArg Instance.placed (State.inst_modInst_same _ i _ ?_)).trans ?_
  · exact hi
  · exact congrArg (fun x : Instance => x.placed + 1) (State.inst_of_insts hinsts i)

theorem unitPlacement_happens {die i q core : Nat} {s : State} (hu : s.firstUnit die = some (.new i q))
    (hfit : s.fitUnit die [] (.new i q) = some [core]) (hi : (s.inst? i).isSome = true) :
    Happens (.unitPlacement die) s (fun t => (t.inst i).placed = (s.inst i).placed + 1 ∧ ∃ n b, Tbl.at t.blocks n = some b ∧
      b.inst = i ∧ b.core = core ∧ b.index = (s.inst i).placed ∧ b.st = .resident) := by
  have hexec : exec (.unitPlacement die) s = .next (placeUnit s die (.new i q) [core]) := by
    show execUnitPlacement die s = _
    simp only [execUnitPlacement, State.placeTurn, hu, hfit, Option.getD_some]
  refine ⟨_, hexec, ?_⟩
  unfold placeUnit
  generalize hd : s.modDie die _ = u
  have hinsts : u.insts = s.insts := hd ▸ rfl
  obtain ⟨hplaced, hblock⟩ := placeNew_one (s := u) (i := i) (core := core) (by rwa [State.inst?, hinsts])
  rw [State.inst_of_insts hinsts] at hplaced hblock
  exact ⟨hplaced, hblock⟩

/-! ## Pre-emption (R378, R388, R389) -/

/-- Every block of a list is to halt. -/
theorem foldl_halting {v : Nat} (vs : List Nat) {s : State} (hb : (s.block? v).isSome = true) (hv : v ∈ vs ∨ (s.block v).halting = true) :
    ((vs.foldl (fun s v => s.modBlock v (fun b => { b with halting := true })) s).block v).halting = true := by
  induction vs generalizing s with
  | nil => simpa using hv
  | cons w vs ih =>
    refine ih ((s.modBlock_isSome ..).trans hb) ?_
    by_cases hw : v = w
    · subst hw
      exact .inr (by rw [State.block_modBlock_same _ _ _ hb])
    · rw [State.block_modBlock_ne _ _ hw]
      exact hv.imp_left (fun h => (List.mem_cons.mp h).resolve_left hw)

theorem preemptionGraceExpiry_happens {die v : Nat} {vs : List Nat} {s : State} (hvs : s.victims die = some vs) (hv : v ∈ vs)
    (hb : (s.block? v).isSome = true) :
    Happens (.preemptionGraceExpiry die) s (fun t => (t.block v).halting = true ∧ t.mem = s.mem) := by
  have hexec : exec (.preemptionGraceExpiry die) s = execPreemptionGraceExpiry die s := rfl
  simp only [execPreemptionGraceExpiry, hvs] at hexec
  refine ⟨_, hexec, foldl_halting vs hb (.inl hv), ?_⟩
  refine foldl_keeps (fun t : State => t.mem = s.mem) _ (fun t w ht => ?_) _ _ rfl
  exact ht

theorem State.haltBlock_block {s : State} {b : Nat} (hb : (s.block? b).isSome = true) (st : BlockSt) :
    ((s.haltBlock b st).block b).halting = false ∧ ((s.haltBlock b st).block b).st = st := by
  unfold State.haltBlock
  rw [State.block_modBlock_of_blocks (s := s) ?_ hb]
  · exact ⟨rfl, rfl⟩
  · rfl

theorem discardBlock_block {s : State} {b : Nat} (hb : (s.block? b).isSome = true) :
    ((discardBlock s b).block b).halting = false ∧ ((discardBlock s b).block b).st = .discarded := by
  let u := (s.reqs.filter (fun r => r.blk == b && r.kind == .load)).foldl State.complete (s.noteHold b)
  have hkept : KeepsLanes (s.noteHold b) u := KeepsLanes.foldl State.complete_keepsLanes _ _
  have hu : (u.block? b).isSome = true := (hkept.some b).trans hb
  unfold discardBlock
  rw [State.block_modBlock_of_blocks (s := u) ?_ hu]
  · exact ⟨rfl, rfl⟩
  · rfl

theorem haltVictim_block {s : State} {b : Nat} (hb : (s.block? b).isSome = true) :
    ((haltVictim s b).block b).halting = false ∧
      ((haltVictim s b).block b).st = (if (s.block b).discardable then .discarded else .saving) := by
  unfold haltVictim
  dsimp only
  split
  · exact discardBlock_block (s := s.modCtx _ _) hb
  · exact State.haltBlock_block (s := s.modCtx _ _) hb .saving

theorem preemptionHalt_happens {b : Nat} {s : State} (hb : (s.block? b).isSome = true) (hh : (s.block b).halting = true)
    (hst : (s.block b).st = .resident) :
    Happens (.preemptionHalt b) s (fun t => (t.block b).halting = false ∧
      (t.block b).st = (if (s.block b).discardable then .discarded else .saving)) := by
  refine event_happens rfl hh ?_
  rw [if_pos (by simp [hst])]
  exact haltVictim_block hb

/-! ## Saves (R389) -/

theorem State.queueRelaunch_relaunch {s : State} {u b d : Nat} (h : b ∈ (s.die d).relaunch) : b ∈ ((s.queueRelaunch u).die d).relaunch := by
  unfold State.queueRelaunch
  dsimp only
  split
  · exact h
  · by_cases hd : d = (s.inst (s.block u).inst).die
    · subst hd
      rw [State.die_modDie_same]
      exact List.mem_append_left _ h
    · rwa [State.die_modDie_ne _ _ hd]

theorem State.queueRelaunch_blocks (s : State) (u : Nat) : (s.queueRelaunch u).blocks = s.blocks := by
  unfold State.queueRelaunch
  dsimp only
  split <;> rfl

/-- What is queued with the parked blocks of a unit changes no block, and takes no block out of a relaunch order. -/
theorem State.queueParked_keeps (s : State) (u : Nat) : (s.queueParked u).blocks = s.blocks ∧
    ∀ b d, b ∈ (s.die d).relaunch → b ∈ ((s.queueParked u).die d).relaunch := by
  unfold State.queueParked
  split
  · exact ⟨s.queueRelaunch_blocks _, fun b d => State.queueRelaunch_relaunch⟩
  · exact ⟨rfl, fun _ _ h => h⟩

theorem State.readyAgain_relaunch (s : State) (b : Nat) : b ∈ ((s.readyAgain b).die (s.inst (s.block b).inst).die).relaunch := by
  rw [State.readyAgain, State.die_modDie_same]
  simp

theorem saveDone_saves {s : State} {b : Nat} (hb : (s.block? b).isSome = true) (hst : (s.block b).st = .saving) :
    ((saveDone s b).block b).st = .saved ∧ b ∈ ((saveDone s b).die (s.inst (s.block b).inst).die).relaunch := by
  unfold saveDone
  simp only [hst]
  generalize hu : State.modBlock _ b _ = u
  have hinsts : u.insts = s.insts := (congrArg State.insts hu.symm).trans rfl
  obtain ⟨hst', hinst⟩ : (u.block b).st = .saved ∧ (u.block b).inst = (s.block b).inst := by
    rw [← hu, State.block_modBlock_of_blocks (s := s) ?_ hb]
    · exact ⟨rfl, rfl⟩
    · rfl
  have hsaved : ((u.readyAgain b).block b).st = .saved := hst'
  have hready : b ∈ ((u.readyAgain b).die (s.inst (s.block b).inst).die).relaunch := by
    have h := u.readyAgain_relaunch b
    rwa [State.inst_of_insts hinsts, hinst] at h
  simp only [beq_self_eq_true, if_true]
  split
  · obtain ⟨hblocks, hrelaunch⟩ := (u.readyAgain b).queueParked_keeps b
    exact ⟨by rw [State.block_of_blocks hblocks, hsaved], hrelaunch _ _ hready⟩
  · exact ⟨hsaved, hready⟩

theorem blockSaveComplete_happens {b : Nat} {s : State} (hb : (s.block? b).isSome = true) (hst : (s.block b).st = .saving)
    (htile : s.hasTile b = false) :
    Happens (.blockSaveComplete b) s (fun t => (t.block b).st = .saved ∧ t.mem = s.mem ∧
      b ∈ (t.die (s.inst (s.block b).inst).die).relaunch) := by
  obtain ⟨hsaved, hready⟩ := saveDone_saves hb hst
  exact event_happens rfl (by simp [State.saveOver, hst, htile]) ⟨hsaved, saveDone_mem s b, hready⟩

/-! ## Parking (R355) -/

theorem State.unitOf_alone {s : State} {b : Nat} (hb : (s.block? b).isSome = true) (hk : (s.blockKern (s.block b)).cluster ≤ 1) :
    s.unitOf b = [b] := by
  obtain ⟨x, hx⟩ := Option.isSome_iff_exists.mp hb
  simp only [State.block, hx, Option.getD_some] at hk
  simp only [State.unitOf, hx, if_pos hk]

theorem State.parkUnit_alone {s : State} {b : Nat} (hb : (s.block? b).isSome = true) (hk : (s.blockKern (s.block b)).cluster ≤ 1)
    (hst : (s.block b).st = .resident) (signalled : Bool) : ((s.parkUnit b signalled).block b).st = .parking := by
  have hb' : ((s.haltBlock b .parking).block? b).isSome = true := (State.modBlock_isSome ..).trans hb
  simp only [State.parkUnit, State.unitOf_alone hb hk, List.foldl_cons, List.foldl_nil, hst, beq_self_eq_true, if_true]
  refine (congrArg Block.st (State.block_modBlock_same (s.haltBlock b .parking) b _ hb')).trans ?_
  exact (State.haltBlock_block hb .parking).2

theorem parkThresholdExpiry_happens {b : Nat} {s : State} (hb : (s.block? b).isSome = true) (hk : (s.blockKern (s.block b)).cluster ≤ 1)
    (hp : s.mayPark b = true) (hst : (s.block b).st = .resident) :
    Happens (.parkThresholdExpiry b) s (fun t => (t.block b).st = .parking ∧ t.mem = s.mem) := by
  refine event_happens rfl hp ⟨?_, parkNow_mem s b⟩
  unfold parkNow
  dsimp only
  generalize (s.unitOf b).flatMap s.ctrWaits = ws
  obtain ⟨ds, hds⟩ : ∃ ds, ws.foldl (fun s w => s.modDie w.1 (fun d => { d with waiters := d.waiters ++ [w.2] })) s = { s with dies := ds } :=
    foldl_keeps (fun t : State => ∃ ds, t = { s with dies := ds }) _ (fun t w ⟨ds, ht⟩ => by subst ht; exact ⟨_, rfl⟩) _ _ ⟨_, rfl⟩
  rw [hds]
  exact State.parkUnit_alone (s := { s with dies := ds }) hb hk hst false

/-! ## Spawn bins and prefetched code (R372, R390) -/

/-- R371: the block of a launched bin waits to be placed, and the cores are as they were. -/
theorem launchBin_forms (s : State) (core i target : Nat) (ts : List BinThread) : (launchBin s core i target ts).cores = s.cores ∧
    ∃ k b, Tbl.at (launchBin s core i target ts).blocks k = some b ∧ b.st = .formed ∧ b.spawned = true ∧ b.inst = i ∧ b.core = core :=
  ⟨rfl, _, (spawnedBlock s core i target ts).1, Tbl.at_put_same _ _ _, rfl, rfl, rfl, rfl⟩

theorem spawnTimerExpiry_happens {core n : Nat} {bin : SpawnBin} {s : State} (hbin : (s.core core).bins[n]? = some bin)
    (hdue : bin.since + ((s.ctx (s.inst bin.inst).ctx).spawnTimer).toNat ≤ s.ns) :
    Happens (.spawnTimerExpiry core n) s (fun t => (t.core core).bins = (s.core core).bins.eraseIdx n ∧ t.mem = s.mem ∧
      ∃ k b, Tbl.at t.blocks k = some b ∧ b.st = .formed ∧ b.spawned = true ∧ b.inst = bin.inst ∧ b.core = core) := by
  let u := s.modCore core (fun k => { k with bins := k.bins.eraseIdx n })
  obtain ⟨hcores, hforms⟩ := launchBin_forms u core bin.inst bin.target bin.threads
  refine ⟨launchBin u core bin.inst bin.target bin.threads, ?_, ?_, launchBin_mem .., hforms⟩
  · show execSpawnTimerExpiry core n s = _
    simp only [execSpawnTimerExpiry, hbin, if_pos hdue]
    rfl
  · rw [State.core_of_cores hcores, State.core_modCore_same]

theorem prefetchLine_prefetch (m : Memory) (lines : List Nat) (k : Core) (line : Nat) :
    (prefetchLine m lines k line).prefetch = k.prefetch := by
  unfold prefetchLine
  dsimp only
  split <;> rfl

theorem codePrefetch_happens {core i : Nat} {s : State} (hr : s.reserved core = some i) (hp : (s.core core).prefetch ≠ some i) :
    Happens (.codePrefetch core) s (fun t => (t.core core).prefetch = some i ∧ t.mem = s.mem) := by
  have hexec : exec (.codePrefetch core) s = execCodePrefetch core s := rfl
  simp only [execCodePrefetch, hr] at hexec
  refine event_happens hexec (by simpa using hp) ⟨?_, ?_⟩
  · rw [State.core_modCore_same]
    exact foldl_keeps (fun k : Core => k.prefetch = some i) _ (fun k l hk => (prefetchLine_prefetch ..).trans hk) _ _ rfl
  · rw [State.modCore_mem]
    exact foldl_keeps (fun t : State => t.mem = s.mem) _ (fun t l ht => (State.readLoss_mem ..).trans ht) _ _ rfl

/-- Settles O42: each event by its own lemma above. -/
theorem groupAndQueueEventsHappen : Obligations.GroupAndQueueEventsHappen :=
  ⟨⟨fun _ _ _ _ _ _ => candidateAged_happens, fun _ _ _ _ _ => laneResultArrival_happens, fun _ _ _ _ _ _ _ => jwaitTimeout_happens,
    fun _ _ _ _ _ => membershipTimeout_happens, fun _ _ _ _ _ => yieldExpiry_happens, fun _ _ _ _ => rgrowGrant_happens,
    fun _ _ _ => ktrigReleaseComplete_happens, fun _ _ _ => leadCountUpdate_happens⟩,
   fun _ _ => blockRetire_happens, fun _ _ => instanceRetire_happens, fun _ _ _ _ _ => unitPlacement_happens,
   fun _ _ _ _ => preemptionGraceExpiry_happens, fun _ _ => preemptionHalt_happens, fun _ _ => blockSaveComplete_happens,
   fun _ _ => parkThresholdExpiry_happens, fun _ _ _ _ => spawnTimerExpiry_happens, fun _ _ _ => codePrefetch_happens⟩

end Sys2Proof.Machine

/-!
# Register words that work lane by lane (O1 to O3)
-/

namespace Sys2Proof.Machine

open Sys2Proof.Claims

/-! ## Integers modulo their width (R70, R136) -/

theorem intOf_modEq (sg : Bool) (w x : Nat) : intOf sg w x ≡ x [ZMOD ((2 ^ w : Nat) : Int)] := by
  have hx : ((x % 2 ^ w : Nat) : Int) ≡ x [ZMOD ((2 ^ w : Nat) : Int)] := by
    rw [Int.natCast_mod]
    exact Int.mod_modEq _ _
  unfold intOf
  dsimp only
  split
  · exact (Int.sub_modulus_modEq_iff).mpr hx
  · exact hx

theorem wrapTo_eq_of_modEq {w x : Nat} {z : Int} (h : z ≡ x [ZMOD ((2 ^ w : Nat) : Int)]) : wrapTo w z = x % 2 ^ w := by
  rw [wrapTo, h, ← Int.natCast_mod, Int.toNat_natCast]

theorem wrapTo_intOf (sg : Bool) (w x : Nat) : wrapTo w (intOf sg w x) = x % 2 ^ w :=
  wrapTo_eq_of_modEq (intOf_modEq sg w x)

theorem wrapTo_intOf_add (sg : Bool) (w x y : Nat) : wrapTo w (intOf sg w x + intOf sg w y) = (x + y) % 2 ^ w :=
  wrapTo_eq_of_modEq (by push_cast; exact_mod_cast (intOf_modEq sg w x).add (intOf_modEq sg w y))

theorem wrapTo_intOf_mul (sg : Bool) (w x y : Nat) : wrapTo w (intOf sg w x * intOf sg w y) = x * y % 2 ^ w :=
  wrapTo_eq_of_modEq (by exact_mod_cast (intOf_modEq sg w x).mul (intOf_modEq sg w y))

/-- R70: a difference wraps as the sum with the complement does. -/
theorem wrapTo_intOf_sub (sg : Bool) {w y : Nat} (x : Nat) (hy : y ≤ 2 ^ w) :
    wrapTo w (intOf sg w x - intOf sg w y) = (x + (2 ^ w - y)) % 2 ^ w := by
  refine wrapTo_eq_of_modEq (((intOf_modEq sg w x).sub (intOf_modEq sg w y)).trans ?_)
  rw [Nat.cast_add, Nat.cast_sub hy, show (x : Int) + (((2 ^ w : Nat) : Int) - y) = x - y + ((2 ^ w : Nat) : Int) by ring]
  exact (Int.add_modulus_modEq_iff.mpr rfl).symm

theorem intOf_false_of_lt {w x : Nat} (hx : x < 2 ^ w) : intOf false w x = x := by
  simp [intOf, Nat.mod_eq_of_lt hx]

theorem wrapTo_natCast {w x : Nat} (hx : x < 2 ^ w) : wrapTo w x = x := by
  rw [wrapTo_eq_of_modEq rfl, Nat.mod_eq_of_lt hx]

/-! ## The meaning of an instruction that is a lane word -/

/-- The instruction runs the word in its lanes, and the word opens and closes no loop (R122). -/
structure Means (i : Instr) (w : LaneWord) : Prop where
  runs : ∀ s, exec i s = runLanes w.g w.use s w.lane
  landing : ∀ v n a, (w.lane v n).1.landing a = v.l.landing a

theorem Means.completes {i : Instr} {w : LaneWord} (h : Means i w) {s : State} {f : Focus} (hr : Ready s f w.use) :
    ∃ t, exec i s = .next t ∧ LaneResult s t f w.g w.lane := by
  rw [h.runs]
  exact runLanes_result hr (fun _ _ => h.landing _ _)

theorem intLane_landing (f : FForm) (m : AMods) (b32 : Bool) (third : BitVec 9) (op : Nat → Nat → Nat → Nat × Events) (v : View)
    (n a : Nat) : (intLane f m b32 third op v n).1.landing a = v.l.landing a := by
  unfold intLane
  dsimp only
  split <;> exact View.put_landing ..

theorem Means.of_intLane {i : Instr} {g : Guard} {use : List Nat} {f : FForm} {m : AMods} {b32 : Bool} {third : BitVec 9}
    {op : Nat → Nat → Nat → Nat × Events} (h : ∀ s, exec i s = runLanes g use s (intLane f m b32 third op)) :
    Means i ⟨g, use, intLane f m b32 third op⟩ :=
  ⟨h, intLane_landing f m b32 third op⟩

/-- A word on exact results, which the model's operation may write in another way. -/
theorem Means.of_exact {i : Instr} {f : FForm} {m : AMods} {third : BitVec 9} {use : List Nat} {k k' : Int → Int → Int → Int}
    (h : ∀ s, exec i s = runLanes f.g use s (intLane f m false third (exactOp m k'))) (hk : ∀ a b c, k' a b c = k a b c) :
    Means i (Claims.exact f m third use k) := by
  obtain rfl : k' = k := funext fun a => funext fun b => funext fun c => hk a b c
  exact .of_intLane h

theorem Means.of_long {i : Instr} {l : LForm} {m : AMods} {k : Nat → Nat → Nat}
    (h : ∀ s, exec i s = runLanes l.g (regUse m.ty.wide l.d) s (longLane l m (fun a b _ => (k a b, [])))) :
    Means i (Claims.long l m k) :=
  ⟨h, fun _ _ _ => View.put_landing ..⟩

/-! ## Majors 1 and 2 (R135 to R140) -/

/-- R72: the case of a zero divisor, the one quotient that does not fit, and the others. -/
theorem divOp_eq (m : AMods) (rem : Bool) (a b c : Nat) : divOp m rem a b c = divide m rem a b := by
  have hwrap := wrapTo_intOf m.ty.signed m.width a
  unfold divOp divRem divide
  dsimp only
  generalize m.ty.signed = sg at *
  generalize intOf sg m.width a = x at *
  generalize intOf sg m.width b = y
  by_cases hz : y = 0
  · rw [if_pos hz, if_pos hz, ← hwrap]
    cases sg
    · cases rem <;> rfl
    · by_cases hn : x < 0
      · simp [hn, Int.not_le.mpr hn, apply_ite]
      · simp [hn, Int.not_lt.mp hn, apply_ite]
  · rw [if_neg hz, if_neg hz]
    by_cases ho : sg = true ∧ x = intMin true m.width ∧ y = -1
    · obtain ⟨rfl, rfl, rfl⟩ := ho
      cases rem <;> simp [wrapTo]
    · have hx : (sg && x == intMin sg m.width && y == -1) = false := by cases sg <;> simp_all
      have hy : (sg && decide (x = intMin true m.width) && decide (y = -1)) = false := by cases sg <;> simp_all
      rw [hx, hy]
      cases rem <;> rfl

/-- R73, R139: the arithmetic shift divides the value and rounds down. -/
theorem sraBits_eq (w a b : Nat) : sraBits w a b = wrapTo w (intOf true w a / (2 : Int) ^ (b % w)) := by
  unfold sraBits
  push_cast
  rfl

theorem mulmodOp_eq (d a q : Nat) : mulmodOp d a q =
    let bad := decide (q = 0) || decide (2 ^ 62 ≤ q)
    (if bad then 2 ^ 64 - 1 else d * a % q, if bad then [arithEvent] else []) := by
  unfold mulmodOp
  dsimp only
  split <;> rfl

/-- The words of majors 1 and 2; the quotients, the arithmetic shift and `mulmod` by the equations above. -/
theorem integerWord_means {i : Instr} {w : LaneWord} (h : integerWord i = some w) : Means i w := by
  cases i
  case add | sub | mul | mad | neg | andB | orB | xorB | notB | shl | shr | rol | clz | popc | brev | bfe | bfi =>
    cases h; exact .of_intLane fun _ => rfl
  case addL | mulL | andL | orL | xorL => cases h; exact .of_long fun _ => rfl
  case mulh f m => cases h; exact .of_exact (fun _ => rfl) (fun a b _ => by push_cast; rfl)
  case min f m => cases h; exact .of_exact (fun _ => rfl) (fun a b _ => (min_def a b).symm)
  case max f m => cases h; exact .of_exact (fun _ => rfl) (fun a b _ => (max_def a b).symm)
  case abs f m =>
    cases h
    refine .of_exact (fun _ => rfl) (fun a _ _ => ?_)
    split
    · next hn => exact (abs_of_neg hn).symm
    · next hn => exact (abs_of_nonneg (not_lt.mp hn)).symm
  case div f m | rem f m =>
    cases h
    refine .of_intLane fun s => ?_
    simp only [← divOp_eq m _ _ _ 0]
    rfl
  case sra f m =>
    cases h
    refine .of_intLane fun s => ?_
    simp only [← sraBits_eq]
    rfl
  case mulmod f m =>
    cases h
    refine ⟨fun s => ?_, fun _ _ _ => Lane.setPair_landing ..⟩
    show execMulmod f m s = _
    simp only [execMulmod, mulmodOp_eq]
    rfl
  all_goals cases h

/-- Settles O1: each of these words means its lane word. -/
theorem integerWordsComplete : Obligations.IntegerWordsComplete :=
  fun _ _ _ _ h hr => (integerWord_means h).completes hr

/-! ## Majors 4 to 7 (R141, R144 to R154) -/

theorem Means.of_flt {i : Instr} {f : FForm} {m : BMods} {third : BitVec 9} {use : List Nat} {k : Nat → Nat → Nat → Nat × Events}
    (h : ∀ s, exec i s = runLanes f.g use s (fltLane f m third k)) : Means i (Claims.flt f m third use k) :=
  ⟨h, fun _ _ _ => View.put_landing ..⟩

theorem floatWord_means {i : Instr} {w : LaneWord} (h : floatWord i = some w) : Means i w := by
  cases i
  case fadd | fsub | fmul | fdiv | ffma | fmin | fmax | fabs | fneg | frcp | frsq | fsqrt | fexp2 | flog2 | fsin | fcos | frnd =>
    cases h; exact .of_flt fun _ => rfl
  case faddL | fmulL => cases h; exact ⟨fun _ => rfl, fun _ _ _ => View.put_landing ..⟩
  case fclass => cases h; exact ⟨fun _ => rfl, fun _ _ _ => View.put_landing ..⟩
  case fcmp => cases h; exact ⟨fun _ => rfl, fun _ _ _ => Lane.setPred_landing ..⟩
  all_goals cases h

theorem View.putNum_landing (v : View) (ty : Ty) (d : BitVec 9) (x a : Nat) : (v.putNum ty d x).landing a = v.l.landing a := by
  unfold View.putNum
  split <;> exact View.put_landing ..

theorem convertWord_means {i : Instr} {w : LaneWord} (h : convertWord i = some w) : Means i w := by
  cases i
  case cvt | unpack => cases h; exact ⟨fun _ => rfl, fun _ _ _ => View.putNum_landing ..⟩
  case pack | lcvt | ldot => cases h; exact ⟨fun _ => rfl, fun _ _ _ => View.put_landing ..⟩
  case lmul f m fmt pk =>
    cases h
    refine ⟨fun _ => rfl, fun v n a => ?_⟩
    dsimp only
    split <;> exact View.put_landing ..
  all_goals cases h

/-- Settles O2: the meanings of these words are their lane words, operation by operation. -/
theorem floatAndConversionWordsComplete : Obligations.FloatAndConversionWordsComplete :=
  ⟨fun _ _ _ _ h hr => (floatWord_means h).completes hr, fun _ _ _ _ h hr => (convertWord_means h).completes hr⟩

/-! ## Major 3 and the pointer adds (R142, R189) -/

theorem moveWord_means {i : Instr} {w : LaneWord} (h : moveWord i = some w) : Means i w := by
  cases i
  case cmp => cases h; exact ⟨fun _ => rfl, fun _ _ _ => Lane.setPred_landing ..⟩
  case sel => cases h; exact ⟨fun _ => rfl, fun _ _ _ => View.copy_landing ..⟩
  case padd | psub => cases h; exact ⟨fun _ => rfl, fun _ _ _ => Lane.setTagged_landing ..⟩
  case mov f ty toScalar =>
    cases toScalar
    · cases h; exact ⟨fun _ => rfl, fun _ _ _ => View.copy_landing ..⟩
    · cases h
  case movl l ty toScalar =>
    cases toScalar
    · cases h; exact ⟨fun _ => rfl, fun _ _ _ => View.put_landing ..⟩
    · cases h
  all_goals cases h

/-! ## Pair words (R60 to R62) -/

/-- R61: the function of a half, on the patterns of its registers. -/
theorem halfFn_eq_value (op : HalfOp) {d s : Nat} (hd : d < 2 ^ 32) (hs : s < 2 ^ 32) :
    (halfFn op).map (fun k => k d s) = halfValue op d s := by
  have result : ∀ {x y : Nat}, x = y → some (x, ([] : Events)) = some (y, []) := fun h => by rw [h]
  cases op
  case nop | and | or | xor | shl | shr | mov | fadd | fsub | fmul | fmin | fmax => rfl
  case add => exact result (wrapTo_intOf_add true 32 d s)
  case sub => exact result (wrapTo_intOf_sub true d hs.le)
  case mul => exact result (wrapTo_intOf_mul true 32 d s)
  case sra => exact result (sraBits_eq 32 d s)
  case minI => exact result (congrArg (wrapTo 32) (min_def _ _).symm)
  case maxI => exact result (congrArg (wrapTo 32) (max_def _ _).symm)
  case minN =>
    refine result ((congrArg (wrapTo 32) (min_def _ _).symm).trans ?_)
    rw [intOf_false_of_lt hd, intOf_false_of_lt hs, ← Nat.cast_min, wrapTo_natCast (min_lt_of_left_lt hd)]
  case maxN =>
    refine result ((congrArg (wrapTo 32) (max_def _ _).symm).trans ?_)
    rw [intOf_false_of_lt hd, intOf_false_of_lt hs, ← Nat.cast_max, wrapTo_natCast (max_lt hd hs)]

theorem View.halfSrc_lt (v : View) (x : BitVec 9) : v.halfSrc x < 2 ^ 32 := by
  unfold View.halfSrc
  split
  · exact Nat.two_pow_pos 32
  · exact BitVec.isLt _

theorem halfOut_eq_result (op : HalfOp) (h : HArgs) (v : View) : halfOut (halfFn op) h v = halfResult op h v := by
  have hval := halfFn_eq_value op (v.l.reg v.g.nregs h.d.toNat).isLt (v.halfSrc_lt h.s)
  unfold halfResult
  rw [← View.halfSrc, ← hval]
  unfold halfOut
  cases halfFn op with
  | none => simp
  | some k => rfl

theorem halfUse_eq_regs (op : HalfOp) (h : HArgs) : halfUse (halfFn op) h = halfRegs op h := by
  cases op <;> rfl

theorem halfPut_eq_write (n : Nat) (h : HArgs) (r : Option (Nat × Events)) : halfPut n h r = writeHalf n h r := by
  cases r <;> rfl

theorem writeHalf_landing (n : Nat) (h : HArgs) (r : Option (Nat × Events)) (l : Lane) (a : Nat) :
    (writeHalf n h r l).landing a = l.landing a := by
  cases r <;> rfl

theorem exec_eq_runPair {i : Instr} {op : HalfOp} {h : HArgs} {y : Half} (hi : firstHalf i = some (op, h, y)) (s : State) :
    exec i s = runPair (halfFn op) h y s := by
  cases i
  case nopHalf | addHalf | subHalf | mulHalf | andHalf | orHalf | xorHalf | shlHalf | shrHalf | sraHalf | minI32Half | maxI32Half |
      minN32Half | maxN32Half | movHalf | faddHalf | fsubHalf | fmulHalf | fminHalf | fmaxHalf => cases hi; rfl
  all_goals cases hi

theorem pairWord_means {i : Instr} {w : LaneWord} (h : pairWord i = some w) : Means i w := by
  obtain ⟨⟨op, h, y⟩, hi, rfl⟩ := Option.map_eq_some_iff.mp h
  refine ⟨fun s => ?_, fun v n a => ?_⟩
  · rw [exec_eq_runPair hi, runPair, halfUse_eq_regs, halfUse_eq_regs]
    unfold pairLane
    simp only [halfOut_eq_result, halfPut_eq_write]
  · exact (writeHalf_landing ..).trans (writeHalf_landing ..)

/-- Settles O3: a pair word is one lane word, whose halves are read before either writes. -/
theorem moveAndPairWordsComplete : Obligations.MoveAndPairWordsComplete :=
  ⟨fun _ _ _ _ h hr => (moveWord_means h).completes hr, fun _ _ _ _ h hr => (pairWord_means h).completes hr⟩

end Sys2Proof.Machine

/-!
# Special registers and scalar destinations (O5)
-/

namespace Sys2Proof.Machine

open Sys2Proof.Claims

/-- R143: each special register, in a lane of the path. -/
theorem specialReg_eq {n : Nat} (hn : n ≤ 8) (s : State) (f : Focus) (i : Nat) :
    specialReg s f n (s.view f i) i = special s f n i := by
  interval_cases n <;> rfl

theorem setScalar_eq_write (wide : Bool) (d : BitVec 9) (x : DWord) :
    (fun g : Group => if wide then g.setSPair d.toNat x else g.setS d.toNat (x.setWidth 32)) = writeScalar wide d x := by
  cases wide <;> rfl

theorem writeScalar_lanes (wide : Bool) (d : BitVec 9) (x : DWord) (g : Group) : (writeScalar wide d x g).lanes = g.lanes := by
  cases wide <;> rfl

section
variable {s : State} {f : Focus} {use : List Nat} {g : Guard} {wide : Bool} {d : BitVec 9}
  {val : State → Focus → View → Nat → DWord}

/-- What a word with a scalar destination does: it writes the value of the lowest acting lane, if there is one (R132). -/
def scalarEff (g : Guard) (wide : Bool) (d : BitVec 9) (val : State → Focus → View → Nat → DWord) (s : State) (f : Focus) : Eff :=
  match lowestActing s f g with
  | none => .ok s []
  | some i =>
    let x := val s f (s.view f i) i
    .ok (s.onGroup f (fun g => if wide then g.setSPair d.toNat x else g.setS d.toNat (x.setWidth 32))) []

theorem runWord_scalar {i : Nat} (h : Ready s f use) (hi : (s.acting f g).head? = some i) :
    ∃ t, runWord s use (scalarEff g wide d val) = .next t ∧
      PathResult s t f (writeScalar wide d (val s f (s.view f i) i)) (goOn f) :=
  runWord_group h _ (by simp only [scalarEff, lowestActing, hi, setScalar_eq_write]) (writeScalar_lanes wide d _)

theorem runWord_scalar_of_none (h : Ready s f use) (hn : s.acting f g = []) :
    ∃ t, runWord s use (scalarEff g wide d val) = .next t ∧ PathResult s t f id (goOn f) :=
  runWord_idle h (by simp only [scalarEff, lowestActing, hn, List.head?_nil])

end

theorem runScalar_eq (g : Guard) (use : List Nat) (s : State) (wide : Bool) (d : BitVec 9) (val : State → View → Nat → DWord) :
    runScalar g use s wide d val = runWord s use (scalarEff g wide d (fun s _ => val s)) := rfl

theorem rdsr_eq_scalar (x : FForm) (ty : Ty) (s : State) : exec (.rdsr x ty true) s =
    runWord s [] (scalarEff x.g ty.wide x.d (fun s f => specialReg s f (specialNum x.a))) := rfl

theorem eachLane_congr {g : Guard} {k k' : View → Nat → Lane × Events} {s : State} {f : Focus}
    (h : ∀ i, k (s.view f i) i = k' (s.view f i) i) : eachLane g k s f = eachLane g k' s f := by
  unfold eachLane
  simp only [h]

theorem rdsr_writes_lanes {x : FForm} {ty : Ty} {s : State} {f : Focus} {n : BitVec 9} (hx : x.a = .v n) (hn : n.toNat ≤ 8)
    (h : Ready s f (regUse ty.wide x.d)) : ∃ t, exec (.rdsr x ty false) s = .next t ∧
      LaneResult s t f x.g (fun v i => (v.put ty.wide x.d (special s f n.toNat i).toNat, [])) := by
  have he : exec (.rdsr x ty false) s = runWord s (regUse ty.wide x.d) (fun s f =>
    eachLane x.g (fun v i => (v.put ty.wide x.d (specialReg s f (specialNum x.a) v i).toNat, [])) s f) := rfl
  rw [he, hx]
  refine runWord_lanes h (eachLane_congr fun i => ?_) (fun i _ a => View.put_landing (s.view f i) ..)
  rw [← specialReg_eq hn]
  rfl

/-- Settles O5: `mov`, `movl` and `rdsr` to a scalar have one effect, `scalarEff`, with different values. -/
theorem specialRegistersAndScalarDestinations : Obligations.SpecialRegistersAndScalarDestinations := by
  refine ⟨fun x ty n s f => rdsr_writes_lanes, fun x l ty s f => ⟨fun h => ?_, fun h => ?_⟩⟩
  · have he : exec (.mov x ty true) s = runScalar x.g (srcUse ty.wide x.a) s ty.wide x.d (fun _ v _ => v.wideSrc ty.wide x.a) := rfl
    rw [he, runScalar_eq]
    exact ⟨fun i hi => runWord_scalar h hi, runWord_scalar_of_none h⟩
  · have he : exec (.movl l ty true) s = runScalar l.g [] s ty.wide l.d (fun _ _ _ => litL64 ty.signed l.lit) := rfl
    rw [he, runScalar_eq, rdsr_eq_scalar]
    refine ⟨fun hn => ?_, runWord_scalar_of_none h, fun n i hx hn hi => ?_, runWord_scalar_of_none h⟩
    · exact runWord_scalar h (List.head?_eq_some_head hn)
    · rw [hx, ← specialReg_eq hn]
      exact runWord_scalar h hi

end Sys2Proof.Machine

/-!
# Cross-lane words (O13 to O15)
-/

namespace Sys2Proof.Machine

open Sys2Proof.Claims

/-! ## Opening and joining an execution (R156) -/

/-- The lanes that a shuffle's acting members name besides those of the path. -/
def sourceLanes (shuffle : Bool) (ms : List Member) : List Nat :=
  if shuffle then (ms.filter Member.acts).map (fun m => m.b.toNat) else []

theorem joinExec_eq (s : State) (f : Focus) (i : Instr) (ms : List Member) (named : List Nat) (shuffle : Bool) :
    joinExec s f i ms named shuffle =
      .ok (s.onGroup f (joinsExecution f i ms named (sourceLanes shuffle ms))) (f.lanes.map (fun l => (l, .wait .member))) := by
  refine congrArg (fun k => Eff.ok (s.onGroup f k) _) (funext fun g => ?_)
  unfold joinsExecution
  cases g.execAt f.kern f.pc <;> rfl

theorem joinsExecution_lanes (f : Focus) (i : Instr) (ms : List Member) (named more : List Nat) (g : Group) :
    (joinsExecution f i ms named more g).lanes = g.lanes := by
  unfold joinsExecution
  dsimp only
  split <;> rfl

/-- A word that opens or joins its execution stops every lane of its path. -/
theorem runWord_joins {s : State} {f : Focus} {use : List Nat} (h : Ready s f use) (i : Instr) (ms : State → Focus → List Member)
    (named : State → Focus → List Nat) (shuffle : Bool) :
    ∃ t, runWord s use (fun s f => joinExec s f i (ms s f) (named s f) shuffle) = .next t ∧
      PathResult s t f (joinsExecution f i (ms s f) (named s f) (sourceLanes shuffle (ms s f))) waitsAsMember :=
  PathResult.exists_congr
    (runWord_stops h _ f.lanes (.wait .member) (joinExec_eq s f i (ms s f) (named s f) shuffle) rfl (joinsExecution_lanes f i _ _ _))
    (fun i hi => by rw [if_pos hi]; rfl)

/-- Settles O13: the three words differ in their members and in the lanes they name. -/
theorem memberWordsOpenTheirExecution : Obligations.MemberWordsOpenTheirExecution := by
  refine fun x ty op k s f => ⟨fun h => ?_, fun h => ?_, fun h => ?_⟩
  · exact runWord_joins h (.vote x ty op) (fun s f => membersOf s f x.g ty.wide x.a (fun _ _ => 0)) (fun s f => maskLanes s f x.b) false
  · exact runWord_joins h (.matchK x ty) (fun s f => membersOf s f x.g ty.wide x.a (fun _ _ => 0)) (fun s f => maskLanes s f x.b) false
  · exact runWord_joins h (.shfl x ty k) (fun s f => membersOf s f x.g ty.wide x.a
      (fun v i => BitVec.ofNat 64 (shflSource k (s.fgroup f).width i (v.src x.b).toNat))) (fun _ _ => []) true

/-! ## Executions that complete (R157, R159, R160) -/

theorem shflSource_lt (op : ShflOp) {w l : Nat} (b : Nat) (hl : l < w) : shflSource op w l b < w := by
  have inside : ∀ s, (if s < w then s else l) < w := fun s => by split <;> assumption
  cases op with
  | idx => exact Nat.mod_lt b (Nat.zero_lt_of_lt hl)
  | up =>
    show (if b ≤ l then l - b else l) < w
    split <;> omega
  | down => exact inside (l + b)
  | xor => exact inside (l ^^^ b)

theorem getLsbD_foldl_mask (ls : List Nat) (m : DWord) {k : Nat} (hk : k < 64) :
    (ls.foldl (fun m l => m ||| (1#64 <<< l)) m).getLsbD k = (m.getLsbD k || decide (k ∈ ls)) := by
  induction ls generalizing m with
  | nil => simp
  | cons l ls ih =>
    have hbit : (1#64 <<< l).getLsbD k = decide (k = l) := by
      simp only [BitVec.getLsbD_shiftLeft, BitVec.getLsbD_one, hk]
      by_cases h : k = l
      · simp [h]
      · simp [h]; omega
    rw [List.foldl_cons, ih, BitVec.getLsbD_or, hbit, Bool.or_assoc]
    simp

theorem getLsbD_maskOf (ls : List Nat) {k : Nat} (hk : k < 64) : (maskOf ls).getLsbD k = decide (k ∈ ls) := by
  rw [maskOf, getLsbD_foldl_mask ls 0 hk]
  simp

theorem Execution.member?_of_mem {x : Execution} (hn : (x.issued.map Member.lane).Nodup) {m : Member} (hm : m ∈ x.issued) :
    x.member? m.lane = some m := by
  obtain ⟨k, hk⟩ := Option.isSome_iff_exists.mp ((x.isSome_member? m.lane).mpr (List.mem_map_of_mem hm))
  have hlane : k.lane = m.lane := by simpa using List.find?_some hk
  rw [hk, List.inj_on_of_nodup_map hn (List.mem_of_find?_eq_some hk) hm hlane]

theorem Execution.member?_of_not_mem {x : Execution} {l : Nat} (h : l ∉ x.issued.map Member.lane) : x.member? l = none := by
  rw [← Option.not_isSome_iff_eq_none, x.isSome_member?]
  exact h

/-- R157: what the members supply, in other words. -/
theorem Execution.voteOf_eq {x : Execution} {val : Nat → DWord} (hn : (x.issued.map Member.lane).Nodup)
    (hin : ∀ k ∈ x.issued, val k.lane = if k.acts then k.a else 0) (hout : ∀ l, l ∉ x.issued.map Member.lane → val l = 0) :
    x.voteOf = val := by
  funext l
  unfold Execution.voteOf
  by_cases hl : l ∈ x.issued.map Member.lane
  · obtain ⟨m, hm, rfl⟩ := List.mem_map.mp hl
    rw [Execution.member?_of_mem hn hm, hin m hm]
  · rw [Execution.member?_of_not_mem hl, hout l hl]

/-! ### Votes -/

theorem flag_ne_zero (b : Bool) : ((if b then 1#64 else 0#64) != 0) = b := by cases b <;> rfl

theorem voteResult_any (x : Execution) : (voteResult .any x != 0) = decide (∃ k ∈ x.members, x.voteOf k ≠ 0) := by
  refine (flag_ne_zero _).trans ?_
  rw [Bool.eq_iff_iff]
  simp

theorem voteResult_all (x : Execution) : (voteResult .all x != 0) = decide (∀ k ∈ x.members, x.voteOf k ≠ 0) := by
  refine (flag_ne_zero _).trans ?_
  rw [Bool.eq_iff_iff]
  simp

theorem voteResult_uni (x : Execution) :
    (voteResult .uni x != 0) = decide (∀ j ∈ x.members, ∀ k ∈ x.members, x.voteOf j = x.voteOf k) := by
  refine (flag_ne_zero _).trans ?_
  cases x.members with
  | nil => rfl
  | cons l ls =>
    have hpairs : (∀ k ∈ l :: ls, x.voteOf k = x.voteOf l) ↔ ∀ j ∈ l :: ls, ∀ k ∈ l :: ls, x.voteOf j = x.voteOf k :=
      ⟨fun h j hj k hk => (h j hj).trans (h k hk).symm, fun h k hk => h k hk l List.mem_cons_self⟩
    simp only [← hpairs]
    rw [Bool.eq_iff_iff]
    simp

theorem getLsbD_ballot (x : Execution) {k : Nat} (hk : k < 64) :
    (voteResult .ballot x).getLsbD k = true ↔ k ∈ x.members ∧ x.voteOf k ≠ 0 := by
  unfold voteResult
  simp [getLsbD_maskOf _ hk]

theorem getLsbD_matchMask (x : Execution) (key : DWord) {k : Nat} (hk : k < 64) :
    (matchMask x key).getLsbD k = true ↔ ∃ j ∈ x.issued, j.lane = k ∧ j.a = key := by
  unfold matchMask
  simp [getLsbD_maskOf _ hk, and_comm, and_left_comm]

/-! ### The lanes of the members -/

theorem foldl_finishLane_member (x : Execution) (ms : List Member) (g : Group) {m : Member} (hm : m ∈ ms)
    (hn : (ms.map Member.lane).Nodup) (hl : m.lane < g.lanes.length) :
    (ms.foldl (fun g m => g.modLane m.lane (x.finishLane g.nregs m)) g).lane m.lane = x.finishLane g.nregs m (g.lane m.lane) := by
  induction ms generalizing g with
  | nil => cases hm
  | cons k ms ih =>
    obtain ⟨hk, hn⟩ := List.nodup_cons.mp hn
    rcases List.mem_cons.mp hm with rfl | hm
    · exact ((foldl_finishLane x ms _ m.lane).1 (.inl hk)).trans (Group.lane_modLane_same g _ _ hl)
    · have hne : m.lane ≠ k.lane := fun h => hk (h ▸ List.mem_map_of_mem hm)
      rw [List.foldl_cons, ih _ hm hn (by simpa using hl), Group.lane_modLane_ne g _ hne]
      rfl

theorem finishExec_member {g : Group} {x : Execution} {m : Member} (hm : m ∈ x.issued) (hn : (x.issued.map Member.lane).Nodup)
    (hl : m.lane < g.lanes.length) (hst : (g.lane m.lane).st = .waiting .member) :
    (finishExec g x).lane m.lane = (if m.acts then x.result g.nregs m (g.lane m.lane) else g.lane m.lane).advance (x.pc + 1) := by
  rw [finishExec_eq, foldl_finishLane_member x x.issued _ hm hn]
  · exact if_neg (fun h => bne_iff_ne.mp h hst)
  · exact hl

/-- Settles O14: a member's lane is finished once, with its result of the execution as it stood. -/
theorem crossLaneResults : Obligations.CrossLaneResults := by
  refine ⟨fun w l b _ hl => ⟨rfl, rfl, rfl, rfl, fun op => shflSource_lt op b hl⟩,
    fun g x m val hm hn hl hst hin hout => ?_⟩
  obtain rfl := Execution.voteOf_eq hn hin hout
  have hlane := finishExec_member hm hn hl hst
  refine ⟨fun ha => by rw [hlane, if_neg (by simp [ha])], fun f ty ha => ?_⟩
  rw [if_pos ha] at hlane
  have gives : ∀ {y : Lane}, x.result g.nregs m (g.lane m.lane) = y → (finishExec g x).lane m.lane = y.advance (x.pc + 1) :=
    fun h => h ▸ hlane
  refine ⟨fun hi => gives ?_, fun hi => gives ?_, fun hi => gives ?_,
    fun hi => ⟨voteResult .ballot x, gives ?_, fun k => getLsbD_ballot x⟩,
    fun hi => ⟨matchMask x m.a, gives ?_, fun k => getLsbD_matchMask x m.a⟩,
    fun op hi => ⟨fun k hk hkl => gives ?_, fun hnot => gives ?_⟩⟩
  · simp only [Execution.result, hi, voteResult_any]
  · simp only [Execution.result, hi, voteResult_all]
  · simp only [Execution.result, hi, voteResult_uni]
  · simp only [Execution.result, hi]
  · simp only [Execution.result, hi]
  · simp only [Execution.result, hi, ← hkl, Execution.member?_of_mem hn hk]
  · simp only [Execution.result, hi, Execution.member?_of_not_mem hnot]

/-! ## Reductions and scans (R161) -/

theorem lookup_map_eq_ite {α : Type} (ls : List Nat) (k : Nat → α) (i : Nat) :
    (ls.map (fun j => (j, k j))).lookup i = if i ∈ ls then some (k i) else none := by
  by_cases hi : i ∈ ls
  · rw [if_pos hi, lookup_map_self ls k i hi]
  · rw [if_neg hi, List.lookup_eq_none_iff]
    simp only [List.mem_map, bne_iff_ne, forall_exists_index, and_imp]
    rintro _ j hj rfl rfl
    exact hi hj

/-- What the first of a list's elements alone brings. -/
theorem flatMap_head {α : Type} {ls : List Nat} (hn : ls.Nodup) (h : ls ≠ []) (es : List α) :
    ls.flatMap (fun i => if ls.head? = some i then es else []) = es := by
  obtain ⟨a, t, rfl⟩ := List.exists_cons_of_ne_nil h
  have hrest : t.flatMap (fun i => if (a :: t).head? = some i then es else []) = [] := by
    refine List.flatMap_eq_nil_iff.mpr fun i hi => if_neg fun he => ?_
    exact (List.nodup_cons.mp hn).1 (Option.some.inj he ▸ hi)
  rw [List.flatMap_cons, hrest, List.head?_cons, if_pos rfl, List.append_nil]

section
variable (scan excl : Bool) (x : FForm) (m : CMods) (op : RedOp) (pk : Pack) (s : State) (f : Focus)

/-- The width of the values that one tree combines (R161). -/
def redWidth : Nat := if pk = .none then m.ty.bits else 16

/-- The trees of a reduction: one, or one for each half. -/
def redTrees : List ((Nat → Nat) × Events) :=
  (List.range (if pk = .none then 1 else 2)).map (fun j =>
    redTree scan excl op m ((List.range (s.fgroup f).width).map (fun k =>
      if (s.acting f x.g).contains k then subEl (redWidth m pk) ((s.view f k).redSrc m pk x.a) j
      else redIdentity op m.ty)) (s.acting f x.g))

/-- A lane with its values of the trees in its destination. -/
def putTrees (trees : List ((Nat → Nat) × Events)) (v : View) (i : Nat) : Lane :=
  v.putRed m pk x.d (joinEls (redWidth m pk) (trees.map (fun t => t.1 i)))

theorem reducedLane_eq (v : View) (i : Nat) : reducedLane s f scan excl x m op pk v i =
    (putTrees x m pk (redTrees scan excl x m op pk s f) v i,
      if (s.acting f x.g).head? = some i then (redTrees scan excl x m op pk s f).flatMap Prod.snd else []) := rfl

theorem View.putRed_landing (v : View) (d : BitVec 9) (y a : Nat) : (v.putRed m pk d y).landing a = v.l.landing a := by
  unfold View.putRed
  split
  · split <;> exact View.put_landing ..
  · exact View.put_landing ..

/-- What a reduction does with its trees: each lane in which it acts has its values of them. -/
def spreadTrees (trees : List ((Nat → Nat) × Events)) : Eff :=
  let out := (s.acting f x.g).map (fun i => (i, putTrees x m pk trees (s.view f i) i))
  .ok ((s.onLanes f (s.acting f x.g) (fun i l => (out.lookup i).getD l)).tally f (trees.flatMap Prod.snd)) []

variable {scan excl x m op pk s f}

theorem spreadTrees_eq_eachLane (h : OnPath s f) (hacts : s.acting f x.g ≠ []) :
    spreadTrees x m pk s f (redTrees scan excl x m op pk s f) = eachLane x.g (reducedLane s f scan excl x m op pk) s f := by
  have hnodup : (s.acting f x.g).Nodup := h.once.filter _
  rw [eachLane_eq]
  simp only [reducedLane_eq]
  rw [flatMap_head hnodup hacts]
  refine congrArg (fun k => Eff.ok ((s.onLanes f (s.acting f x.g) k).tally f _) []) (funext fun i => funext fun l => ?_)
  rw [lookup_map_eq_ite, lookup_map_eq_ite]
  split <;> rfl

theorem reduceWord_completes (h : Ready s f (srcUse m.ty.wide x.a ++ regUse m.ty.wide x.d)) :
    ∃ t, reduceWord scan excl x m op pk s = .next t ∧ LaneResult s t f x.g (reducedLane s f scan excl x m op pk) := by
  unfold reduceWord
  refine runWord_lanes h ?_ (fun i _ a => View.putRed_landing m pk (s.view f i) ..)
  by_cases hnil : s.acting f x.g = []
  · simp only [hnil, List.isEmpty_nil, if_true, eachLane, List.map_nil, List.flatMap_nil]
    exact congrArg (Eff.ok · []) (State.modLanes_nil s f.blk f.grp _).symm
  · rw [if_neg (by simpa using hnil), ← spreadTrees_eq_eachLane h.toOnPath hnil]
    refine congrArg (spreadTrees x m pk s f) (List.map_congr_left fun j _ =>
      congrArg (fun row => redTree scan excl op m row (s.acting f x.g)) (List.map_congr_left fun k _ => ?_))
    rw [lookup_map_eq_ite]
    by_cases hk : k ∈ s.acting f x.g <;> simp [hk, redWidth]

end

/-! ## Trees of integer sums (R93, R94) -/

section
variable {k : Nat → Nat → Nat × Events} {M : Nat} (hk : ∀ a b, (k a b).1 = (a + b) % M)
include hk

theorem pairUp_sum (hM : 0 < M) (n : Nat) (row : List Nat) (hl : row.length = 2 * n) :
    (pairUp k row).1.length = n ∧ (pairUp k row).1.sum % M = row.sum % M ∧ ∀ y ∈ (pairUp k row).1, y < M := by
  induction n generalizing row with
  | zero =>
    obtain rfl := List.length_eq_zero_iff.mp hl
    simp [pairUp]
  | succ n ih =>
    match row, hl with
    | a :: b :: xs, hl =>
      obtain ⟨hlen, hsum, hlt⟩ := ih xs (by simpa [Nat.mul_succ] using hl)
      simp only [pairUp, List.length_cons, List.sum_cons, List.mem_cons, hk]
      refine ⟨by rw [hlen], ?_, ?_⟩
      · rw [Nat.mod_add_mod, Nat.add_mod, hsum, ← Nat.add_mod, Nat.add_assoc]
      · rintro y (rfl | hy)
        · exact Nat.mod_lt _ hM
        · exact hlt y hy

/-- The root of the tree over a row of `2 ^ n` values. -/
theorem treeLevels_root (hM : 0 < M) (n fuel : Nat) (row : List Nat) (hl : row.length = 2 ^ n) (hf : n ≤ fuel)
    (hlt : ∀ a ∈ row, a < M) : (treeLevels k fuel row).1.getLast?.bind List.head? = some (row.sum % M) := by
  induction n generalizing fuel row with
  | zero =>
    obtain ⟨a, rfl⟩ := List.length_eq_one_iff.mp hl
    have hrow : (treeLevels k fuel [a]).1 = [[a]] := by cases fuel <;> rfl
    simp [hrow, Nat.mod_eq_of_lt (hlt a (by simp))]
  | succ n ih =>
    obtain ⟨fuel, rfl⟩ : ∃ e, fuel = e + 1 := ⟨fuel - 1, by omega⟩
    obtain ⟨hlen, hsum, hup⟩ := pairUp_sum hk hM (2 ^ n) row (by rw [hl, Nat.pow_succ'])
    have hroot := ih fuel _ hlen (by omega) hup
    obtain ⟨e, he⟩ : ∃ e, row.length = e + 2 := ⟨row.length - 2, by have := Nat.two_pow_pos n; omega⟩
    match row, he with
    | a :: b :: xs, _ =>
      obtain ⟨l, hlast, hhead⟩ := Option.bind_eq_some_iff.mp hroot
      simp only [treeLevels, List.getLast?_cons, hlast, Option.getD_some, Option.bind_some, hhead, hsum]

end

theorem redCombine_add {m : CMods} (hn : Machine.Num.of m.ty = .int m.ty.signed m.ty.bits) (hs : m.sat = false) (a b : Nat) :
    (redCombine .add m a b).1 = (a + b) % 2 ^ m.ty.bits := by
  unfold redCombine
  rw [hn]
  simp only [deliver, hs]
  exact wrapTo_intOf_add ..

theorem redTree_sum {m : CMods} (hn : Machine.Num.of m.ty = .int m.ty.signed m.ty.bits) (hs : m.sat = false) {row : List Nat}
    (hl : row.length = 16 ∨ row.length = 32 ∨ row.length = 64) (hlt : ∀ a ∈ row, a < 2 ^ m.ty.bits) (ls : List Nat) (i : Nat) :
    (redTree false false .add m row ls).1 i = row.sum % 2 ^ m.ty.bits := by
  have hroot : ∀ n ≤ 7, row.length = 2 ^ n → (redTree false false .add m row ls).1 i = row.sum % 2 ^ m.ty.bits := fun n hn7 hl => by
    have h := treeLevels_root (redCombine_add hn hs) (Nat.two_pow_pos _) n 7 row hl hn7 hlt
    exact congrArg (fun o : Option Nat => o.getD (redIdentity .add m.ty)) h
  rcases hl with hl | hl | hl
  · exact hroot 4 (by decide) hl
  · exact hroot 5 (by decide) hl
  · exact hroot 6 (by decide) hl

/-- Settles O15: a reduction is a word that works lane by lane, and each level of its tree keeps the sum of the level below. -/
theorem reductionsComplete : Obligations.ReductionsComplete :=
  ⟨fun _ _ _ _ _ _ _ h => ⟨reduceWord_completes h, reduceWord_completes h⟩,
   fun _ _ ls i hn hs hl hlt => redTree_sum hn hs hl hlt ls i⟩

end Sys2Proof.Machine

/-!
# Accesses that fail a check (O17)
-/

namespace Sys2Proof.Machine

open Sys2Proof.Claims

/-! ## Memory words of one lane -/

theorem Solo.acting {s : State} {f : Focus} {i : Nat} {g : Guard} {use : List Nat} (h : Solo s f i g use) : s.acting f g = [i] := by
  simp [State.acting, h.one, h.acts]

section
variable {s : State} {f : Focus} {i : Nat} {g : Guard} {ext : Bool} {gate : State → Focus → Nat → Option Wait}
  {chk : State → Focus → Nat → Chk} {go : Focus → State → Nat → Chk → State × Option Next}

/-- R377: an external effect inside an idempotent region traps before every other check. -/
theorem memWord_idem (hacts : s.acting f g = [i]) (hext : ext = true) (hr : (s.fgroup f).region.isSome = true) :
    memWord g ext gate chk go s f = .trap (idemTrap [i]) := by
  simp [memWord, hacts, hext, hr]

/-- R245: the failed check of the one lane is the word's trap. -/
theorem memWord_bad (hacts : s.acting f g = [i]) (hext : (ext && (s.fgroup f).region.isSome) = false) (hgate : gate s f i = none)
    {r : Nat} {t : Trap} (hchk : chk s f i = .bad r t) : memWord g ext gate chk go s f = .trap { t with lanes := [i] } := by
  have hbad : firstBad [(i, Chk.bad r t)] = some { t with lanes := [i] } := by simp [firstBad]
  simp [memWord, hacts, hext, hgate, hchk, hbad]

/-- The one lane's access leaves. -/
theorem memWord_ok (hacts : s.acting f g = [i]) (hext : (ext && (s.fgroup f).region.isSome) = false) (hgate : gate s f i = none)
    {p : Place} {seen : Seen} (hchk : chk s f i = .ok p seen) (hroom : s.windowRoom p = true) {u : State} {n : Option Next}
    (hgo : go f (s.see (s.fblock f).core (s.fctx f) seen) i (.ok p seen) = (u, n)) :
    memWord g ext gate chk go s f = .ok u (n.map (fun n => (i, n))).toList := by
  have hbad : firstBad [(i, Chk.ok p seen)] = none := by simp [firstBad]
  simp [memWord, hacts, hext, hgate, hchk, hbad, hroom, hgo]
  cases n <;> rfl

end

/-! ## The checks of an access (R245) -/

/-- Every load, store and atomic word runs its checks in the frame of a memory word. -/
theorem accessOf_runs {w : Instr} {a : AccessWord} (h : accessOf w = some a) :
    ∃ go, ∀ s, exec w s = runWord s (baseUse a.m.base ++ a.use)
      (memWord a.m.g (a.writes && externalSpace a.m.space)
        (fun s f i => s.gate f i a.reads a.writes (a.writes && isRel a.m.ord) a.m.space)
        (checkM a.m a.off a.size a.needs a.kind a.writes) go) := by
  unfold accessOf at h
  split at h <;> cases h
  case h_9 m op src comb nr => exact ⟨atomLane m op src comb nr, fun s => by rw [← List.append_assoc]; rfl⟩
  case h_10 m src => exact ⟨casLane m src, fun s => by rw [← List.append_assoc]; rfl⟩
  all_goals exact ⟨_, fun s => rfl⟩

theorem accessOf_touches {w : Instr} {a : AccessWord} (h : accessOf w = some a) : a.needs ≠ [] := by
  unfold accessOf at h
  split at h <;> cases h <;> exact nofun

theorem lacks_iff (a : AccessWord) (r w x : Bool) : a.lacks r w ↔ ∃ n ∈ a.needs, granted r w x n = false := by
  unfold AccessWord.lacks AccessWord.needs
  cases a.reads <;> cases a.writes <;> simp [granted]

/-- R221: a registered range is met when the table of the core's ranges says so. -/
theorem lockHit_of_rangeHit {s : State} {f : Focus} {lo len : Nat} {writes : Bool} (h : RangeHit s f lo len writes) :
    s.lockHit (s.fblock f).core (s.fctx f) none lo len writes = true := by
  obtain ⟨k, hk, hsp, hctx, hkind, hlo, hhi⟩ := h
  refine List.any_eq_true.mpr ⟨k, hk, ?_⟩
  simp [hsp, hctx, hkind, hlo, hhi]

section
variable {s : State} {core ctx va : Nat} {needs : List Need} {kind : AccKind} {addr : DWord}

/-- R200: an address that translates for no need faults. -/
theorem checkPage_fault (hne : needs ≠ []) {sub : Nat}
    (h : ∀ n, translate s.mem (s.core core).tlb ctx (s.ctx ctx) va n = .fault sub) :
    checkPage s core ctx va needs kind addr = .bad rankTranslate { cause := 8, sub := sub, kind := kind, addr := addr } := by
  obtain ⟨n, ns, rfl⟩ := List.exists_cons_of_ne_nil hne
  simp [checkPage, h]

theorem checkPage_cons_ok {n : Need} {p q : Place} {t : TlbEntry} {seen : Seen}
    (h : translate s.mem (s.core core).tlb ctx (s.ctx ctx) va n = .at p (some t))
    (hrest : checkPage s core ctx va needs kind addr = .ok q seen) :
    checkPage s core ctx va (n :: needs) kind addr = .ok p (.page t) := by
  simp only [checkPage, List.foldr_cons, h] at hrest ⊢
  simp only [hrest]

theorem checkPage_cons_bad {n : Need} {p : Place} {t : TlbEntry} {r : Nat} {b : Trap}
    (h : translate s.mem (s.core core).tlb ctx (s.ctx ctx) va n = .at p (some t))
    (hrest : checkPage s core ctx va needs kind addr = .bad r b) :
    checkPage s core ctx va (n :: needs) kind addr = .bad r b := by
  simp only [checkPage, List.foldr_cons, h] at hrest ⊢
  simp only [hrest]

section
variable {e : Pte} {base : Nat} {t : TlbEntry}
  (h : ∀ n, translate s.mem (s.core core).tlb ctx (s.ctx ctx) va n = answerOf e base va n t)
include h

/-- R199: the rights of the page's entry are enough. -/
theorem checkPage_granted (hg : ∀ n ∈ needs, granted e.r e.w e.x n = true) :
    ∃ p seen, checkPage s core ctx va needs kind addr = .ok p seen := by
  induction needs with
  | nil => exact ⟨_, _, rfl⟩
  | cons n ns ih =>
    obtain ⟨p, seen, hok⟩ := ih (fun k hk => hg k (List.mem_cons_of_mem _ hk))
    exact ⟨_, _, checkPage_cons_ok ((h n).trans (if_pos (hg n List.mem_cons_self))) hok⟩

/-- R199: a right that the access needs is not among those of the page's entry. -/
theorem checkPage_lacking (hg : ∃ n ∈ needs, granted e.r e.w e.x n = false) :
    checkPage s core ctx va needs kind addr = .bad rankTranslate { cause := 8, sub := 2, kind := kind, addr := addr } := by
  induction needs with
  | nil => simp at hg
  | cons n ns ih =>
    by_cases hn : granted e.r e.w e.x n = true
    · exact checkPage_cons_bad ((h n).trans (if_pos hn)) (ih (by simpa [hn] using hg))
    · simp [checkPage, h, answerOf, hn]

end
end

/-! ### Translation (R194 to R200) -/

section
variable {m : Memory} {tlb : List TlbEntry} {c va : Nat} {x : Context} {n : Need}

theorem translate_not_canonical (h : canonical va = false) : translate m tlb c x va n = .fault 3 := by
  simp [translate, h]

variable (hva : canonical va = true)
include hva

theorem translate_cached {t : TlbEntry} (h : cached tlb c va = some t) :
    translate m tlb c x va n = answerOf (pteOf t.entry) t.base va n t := by
  simp [translate, hva, h]

variable (hnone : cached tlb c va = none)
include hnone

theorem translate_no_region (hr : x.region va = none) : translate m tlb c x va n = .fault 1 := by
  simp [translate, hva, hnone, hr]

variable {g : Region} (hr : x.region va = some g) (hk : g.kind ≠ .sram)
include hr hk

theorem translate_malformed (hw : walk m x.ptRoot va = .malformed) : translate m tlb c x va n = .fault 4 := by
  simp [translate, hva, hnone, hr, hk, hw]

theorem translate_leaf {l : Nat} {e : Pte} {bits : DWord} (hw : walk m x.ptRoot va = .leaf l e bits) :
    translate m tlb c x va n = answerOf e (va - va % leafSize l) va n ⟨c, va - va % leafSize l, leafSize l, bits⟩ := by
  simp [translate, hva, hnone, hr, hk, hw]

end

/-! ### Spaces -/

theorem toNat_addrBits {x : Int} (h0 : 0 ≤ x) (h : x < 2 ^ 64) : (addrBits x).toNat = x.toNat := by
  simp only [addrBits, BitVec.toNat_ofInt]
  omega

/-- R217: in every space an access that is not aligned fails the first check. -/
theorem checkM_misaligned {m : MForm} {off : Int} {size : Nat} {needs : List Need} {kind : AccKind} {stLike : Bool} {s : State}
    {f : Focus} {i : Nat} (h : (addrBits ((((s.view f i).base m.base).val.toNat : Int) + off)).toNat % size ≠ 0) :
    checkM m off size needs kind stLike s f i =
      .bad rankAlign { cause := 11, kind := kind, addr := addrBits ((((s.view f i).base m.base).val.toNat : Int) + off) } := by
  unfold checkM
  cases m.space <;> simp [checkGl, checkSp, checkRsp, checkConst, h]

/-- R213: an address outside the block's scratchpad. -/
theorem checkSp_outside {s : State} {blk : Nat} {x : Int} {align size : Nat} {kind : AccKind} {stLike : Bool}
    (ha : (addrBits x).toNat % align = 0) (hx : x < 0 ∨ ((s.block blk).scratch * 16384 : Nat) ≤ x) :
    checkSp s blk x align size kind stLike = .bad rankBounds { cause := 5, kind := kind, addr := addrBits x } := by
  have hout : x < 0 ∨ 2 ^ 32 ≤ x ∨ (s.block blk).scratch * 16384 ≤ (addrBits x).toNat := by
    rcases hx with hx | hx
    · exact .inl hx
    · by_cases hbig : 2 ^ 32 ≤ x
      · exact .inr (.inl hbig)
      · rw [toNat_addrBits (by omega) (by omega)]
        omega
  simp only [checkSp, ha, bne_self_eq_false, Bool.false_eq_true, if_false]
  rw [if_pos]
  simpa [or_assoc] using hout


/-! ### Windows (R173) -/

section
variable {c : Context} {b : BaseVal} {off : Int} {len : Nat} {needs : List Need} {kind : AccKind} {addr : DWord}

theorem checkWindow_untagged (h : b.tag = false) :
    checkWindow c b off len needs kind addr =
      .bad rankTag { cause := 3, sub := 3, kind := kind, named := b.named, addr := addr } := by
  simp [checkWindow, h]

variable (htag : b.tag = true)
include htag

theorem checkWindow_stale
    (h : ptrColour b.val ≠ (c.slot (ptrSlot b.val)).colour ∨ (c.slot (ptrSlot b.val)).state = 6) :
    checkWindow c b off len needs kind addr =
      .bad rankStale { cause := 4, kind := kind, named := b.named, addr := addr } := by
  simp only [checkWindow, htag, Bool.not_true, Bool.false_eq_true, if_false]
  rw [if_pos (by simpa using h)]

variable (hnow : ¬(ptrColour b.val ≠ (c.slot (ptrSlot b.val)).colour ∨ (c.slot (ptrSlot b.val)).state = 6))
include hnow

theorem checkWindow_outside
    (h : (ptrOffset b.val : Int) + off < 0 ∨ ((c.slot (ptrSlot b.val)).size : Int) < (ptrOffset b.val : Int) + off + len) :
    checkWindow c b off len needs kind addr =
      .bad rankWindowBounds { cause := 5, kind := kind, named := b.named, addr := addr } := by
  simp only [checkWindow, htag, Bool.not_true, Bool.false_eq_true, if_false]
  rw [if_neg (by simpa using hnow), if_pos (by simpa using h)]

variable (hin : ¬((ptrOffset b.val : Int) + off < 0 ∨
  ((c.slot (ptrSlot b.val)).size : Int) < (ptrOffset b.val : Int) + off + len))
include hin

theorem checkWindow_lacking
    (h : ∃ n ∈ needs, granted (c.slot (ptrSlot b.val)).r (c.slot (ptrSlot b.val)).w (c.slot (ptrSlot b.val)).x n = false) :
    checkWindow c b off len needs kind addr =
      .bad rankRight { cause := 3, sub := 5, kind := kind, named := b.named, addr := addr } := by
  simp only [checkWindow, htag, Bool.not_true, Bool.false_eq_true, if_false]
  rw [if_neg (by simpa using hnow), if_neg (by simpa using hin), if_pos (by simpa using h)]

theorem checkWindow_granted
    (h : ¬∃ n ∈ needs, granted (c.slot (ptrSlot b.val)).r (c.slot (ptrSlot b.val)).w (c.slot (ptrSlot b.val)).x n = false) :
    ∃ p seen, checkWindow c b off len needs kind addr = .ok p seen := by
  simp only [checkWindow, htag, Bool.not_true, Bool.false_eq_true, if_false]
  rw [if_neg (by simpa using hnow), if_neg (by simpa using hin), if_neg (by simpa using h)]
  exact ⟨_, _, rfl⟩

end

/-! ### Device space -/

section
variable {s : State} {core ctx : Nat} {b : BaseVal} {off : Int} {align size : Nat} {needs : List Need} {kind : AccKind} {stLike : Bool}

theorem withLocks_bad (spBlk : Option Nat) (lo len : Nat) (addr : DWord) (r : Nat) (t : Trap) :
    withLocks s core ctx spBlk lo len stLike kind addr (.bad r t) = .bad r t := rfl

theorem withLocks_hit {spBlk : Option Nat} {lo len : Nat} (h : s.lockHit core ctx spBlk lo len stLike = true) (addr : DWord) (p : Place)
    (seen : Seen) : withLocks s core ctx spBlk lo len stLike kind addr (.ok p seen) = .bad rankLock (rangeTrap kind addr) := by
  simp [withLocks, h]

variable (ha : (addrBits ((b.val.toNat : Int) + off)).toNat % align = 0)
include ha

theorem checkGl_windowed (hw : windowed b off = true) :
    checkGl s core ctx b off align size needs kind stLike =
      withLocks s core ctx none (addrBits ((b.val.toNat : Int) + off)).toNat size stLike kind (addrBits ((b.val.toNat : Int) + off))
        (checkWindow (s.ctx ctx) b off size needs kind (addrBits ((b.val.toNat : Int) + off))) := by
  simp [checkGl, ha, hw]

variable (hw : windowed b off = false)
include hw

theorem checkGl_paged (h0 : 0 ≤ (b.val.toNat : Int) + off) (h : (b.val.toNat : Int) + off < 2 ^ 64) :
    checkGl s core ctx b off align size needs kind stLike =
      withLocks s core ctx none (addrBits ((b.val.toNat : Int) + off)).toNat size stLike kind (addrBits ((b.val.toNat : Int) + off))
        (checkPage s core ctx (addrBits ((b.val.toNat : Int) + off)).toNat needs kind (addrBits ((b.val.toNat : Int) + off))) := by
  simp only [checkGl, ha, hw, bne_self_eq_false, Bool.false_eq_true, if_false]
  rw [if_neg (by simp; omega)]

/-- R194, R200: an address that is not canonical. -/
theorem checkGl_not_canonical (hne : needs ≠ []) (hx : (b.val.toNat : Int) + off < 0 ∨ 2 ^ 57 ≤ (b.val.toNat : Int) + off) :
    checkGl s core ctx b off align size needs kind stLike =
      .bad rankTranslate { cause := 8, sub := 3, kind := kind, addr := addrBits ((b.val.toNat : Int) + off) } := by
  by_cases hfar : (b.val.toNat : Int) + off < 0 ∨ 2 ^ 64 ≤ (b.val.toNat : Int) + off
  · simp only [checkGl, ha, hw, bne_self_eq_false, Bool.false_eq_true, if_false]
    rw [if_pos (by simpa using hfar)]
    rfl
  · have hva : canonical (addrBits ((b.val.toNat : Int) + off)).toNat = false := by
      rw [toNat_addrBits (by omega) (by omega)]
      exact decide_eq_false (by omega)
    rw [checkGl_paged ha hw (by omega) (by omega), checkPage_fault hne (fun _ => translate_not_canonical hva), withLocks_bad]

end

theorem checkM_gl {m : MForm} (h : m.space = .gl) (off : Int) (size : Nat) (needs : List Need) (kind : AccKind) (stLike : Bool)
    (s : State) (f : Focus) (i : Nat) :
    checkM m off size needs kind stLike s f i =
      checkGl s (s.fblock f).core (s.fctx f) ((s.view f i).base m.base) off size size needs kind stLike := by
  simp only [checkM, h]
  rfl

theorem checkM_sp {m : MForm} (h : m.space = .sp) (off : Int) (size : Nat) (needs : List Need) (kind : AccKind) (stLike : Bool)
    (s : State) (f : Focus) (i : Nat) :
    checkM m off size needs kind stLike s f i =
      checkSp s f.blk ((((s.view f i).base m.base).val.toNat : Int) + off) size size kind stLike := by
  simp only [checkM, h]

/-! ### The words trap -/

section
variable {w : Instr} {a : AccessWord} {s : State} {f : Focus} {i : Nat} (hword : accessOf w = some a)
  (hs : Solo s f i a.m.g (baseUse a.m.base ++ a.use))
include hword hs

/-- R377: an access that writes outside the scratchpad in an idempotent region. -/
theorem access_idem (hr : (s.fgroup f).region.isSome = true) (hwr : a.writes = true) (hsp : a.m.space = .gl ∨ a.m.space = .rsp) :
    exec w s = .next (takeTrap s f (idemTrap [i])) := by
  obtain ⟨go, hgo⟩ := accessOf_runs hword
  rw [hgo]
  refine runWord_trap hs.toReady (memWord_idem hs.acting ?_ hr)
  rcases hsp with hsp | hsp <;> simp [hwr, hsp, externalSpace]

/-- R245: an access that fails a check takes its trap. -/
theorem access_traps (hfree : (s.fgroup f).region = none ∨ a.writes = false ∨ a.m.space = .sp)
    (hgate : s.gate f i a.reads a.writes (a.writes && isRel a.m.ord) a.m.space = none) {r : Nat} {t : Trap}
    (hchk : checkM a.m a.off a.size a.needs a.kind a.writes s f i = .bad r t) :
    exec w s = .next (takeTrap s f { t with lanes := [i] }) := by
  obtain ⟨go, hgo⟩ := accessOf_runs hword
  rw [hgo]
  refine runWord_trap hs.toReady (memWord_bad hs.acting ?_ hgate hchk)
  rcases hfree with h | h | h <;> simp [h, externalSpace]

end

/-- Settles O17: each failed check of the one lane is the word's trap, by `access_traps`. -/
theorem badAddressesTrap : Obligations.BadAddressesTrap := by
  intro w a s f i hword hs b x va c traps
  refine ⟨access_idem hword hs, fun hfree hgate => ?_⟩
  have fails : ∀ {r : Nat} {t : Trap}, checkM a.m a.off a.size a.needs a.kind a.writes s f i = .bad r t →
      exec w s = .next (takeTrap s f { t with lanes := [i] }) := access_traps hword hs hfree hgate
  refine ⟨fun hmis => fails (checkM_misaligned hmis), fun hsp hal hx => fails ((checkM_sp hsp ..).trans (checkSp_outside hal ?_)),
    fun hgl hal => ?_⟩
  · exact hx.imp_right (fun h => by exact_mod_cast h)
  have judged : ∀ {inner : Chk}, checkGl s (s.fblock f).core (s.fctx f) b a.off a.size a.size a.needs a.kind a.writes =
        withLocks s (s.fblock f).core (s.fctx f) none va a.size a.writes a.kind (addrBits x) inner →
      (∀ {r t}, inner = .bad r t → exec w s = .next (takeTrap s f { t with lanes := [i] })) ∧
      (∀ {p seen}, inner = .ok p seen → RangeHit s f va a.size a.writes → traps { cause := 6 }) := by
    refine fun h => ⟨fun hbad => fails ((checkM_gl hgl ..).trans (h.trans ((congrArg _ hbad).trans (withLocks_bad ..)))),
      fun hok hhit => fails (t := rangeTrap a.kind (addrBits x))
        ((checkM_gl hgl ..).trans (h.trans ((congrArg _ hok).trans (withLocks_hit (lockHit_of_rangeHit hhit) ..))))⟩
  intro y o
  refine ⟨fun hwin => ?_, fun hb hva => ?_⟩
  · obtain ⟨bad, locked⟩ := judged (checkGl_windowed hal ((Bool.or_eq_true ..).mpr hwin))
    refine ⟨fun ht => bad (checkWindow_untagged ht), fun ht hst => bad (checkWindow_stale ht hst),
      fun ht hst hout => bad (checkWindow_outside ht hst hout),
      fun ht hst hin hl => bad (checkWindow_lacking ht hst hin ((lacks_iff a ..).mp hl)), fun ht hst hin hl => ?_⟩
    obtain ⟨p, seen, hok⟩ := checkWindow_granted ht hst hin (mt (lacks_iff a ..).mpr hl)
    exact locked hok
  · have hwin : windowed b a.off = false := Bool.or_eq_false_iff.mpr ⟨hb, hva⟩
    have hne := accessOf_touches hword
    refine ⟨fun hx => fails ((checkM_gl hgl ..).trans (checkGl_not_canonical hal hwin hne hx)), fun h0 hx => ?_⟩
    obtain ⟨bad, locked⟩ := judged (checkGl_paged hal hwin h0 (lt_trans hx (by norm_num)))
    have hcan : canonical va = true := decide_eq_true (by
      show (addrBits x).toNat < _
      rw [toNat_addrBits h0 (by omega)]
      omega)
    have maps : ∀ {e : Pte} {base : Nat} {t : TlbEntry},
        (∀ n, translate s.mem (s.core (s.fblock f).core).tlb (s.fctx f) c va n = answerOf e base va n t) →
        (a.lacks e.r e.w → traps { cause := 8, sub := 2 }) ∧
          (¬a.lacks e.r e.w → RangeHit s f va a.size a.writes → traps { cause := 6 }) := by
      refine fun {e _ _} h => ⟨fun hl => bad (checkPage_lacking h ((lacks_iff a ..).mp hl)), fun hl => ?_⟩
      obtain ⟨p, seen, hok⟩ := checkPage_granted h (fun n hn => by
        simpa using fun hg => hl ((lacks_iff a _ _ e.x).mpr ⟨n, hn, hg⟩))
      exact locked hok
    exact ⟨fun t ht => maps (fun n => translate_cached hcan ht), fun hnone =>
      ⟨fun hr => bad (checkPage_fault hne (fun n => translate_no_region hcan hnone hr)),
       fun g hr hk hw => bad (checkPage_fault hne (fun n => translate_malformed hcan hnone hr hk hw)),
       fun g l e bits hr hk hw => maps (fun n => translate_leaf hcan hnone hr hk hw)⟩⟩

end Sys2Proof.Machine

/-!
# Pointer words (O24)
-/

namespace Sys2Proof.Machine

open Sys2Proof.Claims

/-! ## Words of a path of one lane -/

theorem HasPath.hasLane {s : State} {f : Focus} (h : HasPath s f) {i : Nat} (hi : i ∈ f.lanes) : HasLane s f.blk f.grp i :=
  ⟨⟨h.block, h.group⟩, h.lanes i hi⟩

theorem HasPath.of_modLane {s : State} {f : Focus} (h : HasPath s f) (i : Nat) (k : Lane → Lane) :
    HasPath (s.modLane f.blk f.grp i k) f :=
  h.of_onLanes [i] (fun _ => k)

section
variable {s : State} {f : Focus} {use : List Nat} {i : Nat} (h : Ready s f use) (hone : f.lanes = [i])
include h hone

/-- A word that leaves its one lane's loops alone: the lane goes where the word sends it, and the word's effect stands besides. -/
theorem runWord_one {act : State → Focus → Eff} {u : State} {nx : List (Nat × Next)} (ha : act s f = .ok u nx) (hp : HasPath u f)
    (hl : ∀ a, (u.flane f i).landing a = (s.flane f i).landing a) (hn : (nextOf f nx i).stop f = f.pc + 1) :
    ∃ t, runWord s use act = .next t ∧ t.flane f i = (nextOf f nx i).placed (u.flane f i) ∧ t = { u with blocks := t.blocks } ∧
      ∀ b, b ≠ f.blk → t.block? b = u.block? b := by
  have hi : i ∈ f.lanes := by simp [hone]
  have hout : outside u f (s.fkern f).size nx = [] := by
    refine outside_nil_of_stop fun j hj => ?_
    obtain rfl : j = i := by simpa [hone] using hj
    rw [hn, hl]
    exact h.inside j hj
  refine ⟨_, runWord_ok h.toIssues ha hout, ?_, rfl, (hp.onlyGroup _).blocks⟩
  rw [hp.placed h.once nx i hi, placeLane_eq]

/-- A word that changes its one lane and nothing else. -/
theorem runWord_lane {act : State → Focus → Eff} {k : Lane → Lane} (ha : act s f = .ok (s.modLane f.blk f.grp i k) [])
    (hl : ∀ a, (k (s.flane f i)).landing a = (s.flane f i).landing a) :
    ∃ t, runWord s use act = .next t ∧ OnlyBlock s t f.blk ∧ t.flane f i = (k (s.flane f i)).advance (f.pc + 1) := by
  have hp := h.toHasPath
  have hlane : (s.modLane f.blk f.grp i k).flane f i = k (s.flane f i) := State.lane_modLane_same (hp.hasLane (by simp [hone])) _
  obtain ⟨t, ht, hflane, hrest, hblocks⟩ := runWord_one h hone ha (hp.of_modLane i _) (fun a => by rw [hlane, hl]) rfl
  refine ⟨t, ht, ⟨hrest, fun b hb => ?_⟩, hflane.trans (by rw [hlane]; rfl)⟩
  rw [hblocks b hb]
  exact s.block?_modBlock_ne _ hb

end

/-! ## Pointer words (R188 to R192) -/

theorem Lane.setRegs_landing (l : Lane) (n i : Nat) (xs : List Word) (a : Nat) : (l.setRegs n i xs).landing a = l.landing a := by
  induction xs generalizing l i with
  | nil => rfl
  | cons x xs ih => exact (ih ..).trans (l.setReg_landing ..)

/-- A word over operands of which none faults, in one lane. -/
theorem desWord_one {s : State} {f : Focus} {g : Guard} {i : Nat} {ops : List Src} {k : View → List Des → Lane}
    (hacts : s.acting f g = [i]) (hd : ∀ a ∈ ops, ∀ sub, (s.view f i).designates (s.ctx (s.fctx f)) a ≠ .fault sub) :
    desWord g ops k s f = .ok (s.modLane f.blk f.grp i
      (fun _ => k (s.view f i) (ops.map ((s.view f i).designates (s.ctx (s.fctx f)))))) [] := by
  simp only [desWord, hacts, List.map_cons, List.map_nil]
  rw [List.filterMap_eq_nil_iff.mpr]
  · simp only [List.foldl_cons, List.foldl_nil, List.map_map, Function.comp_def]
  · intro d hd'
    rw [List.mem_singleton.mp hd', Option.map_eq_none_iff, List.findSome?_eq_none_iff]
    intro e he
    obtain ⟨a, ha, rfl⟩ := List.mem_map.mp he
    cases hda : (s.view f i).designates (s.ctx (s.fctx f)) a with
    | fault sub => exact absurd hda (hd a ha sub)
    | null => rfl
    | slot y p => rfl

/-- The one lane of a word receives its value. -/
theorem deliverWants_value {s : State} {f : Focus} (d : BitVec 9) {clear : Bool} {i : Nat} {w : Want} {x : DWord} {t : Bool}
    (hw : w.settle (s.flane f i).res = .value x t) {u : State}
    (hu : u = if clear then clearHint s (s.fctx f) (s.flane f i).res else s) :
    deliverWants d clear s f [(i, w)] =
      .ok (u.modLane f.blk f.grp i (fun l => l.setTagged (u.fgroup f).nregs d.toNat x t)) [] := by
  subst hu
  simp [deliverWants, hw, wantTrap]

theorem swizzle_of_kept {c : Context} (named : Nat) {p : DWord} {tag : Bool}
    (h : tag = false ∨ (ptrColour p = (c.slot (ptrSlot p)).colour ∧ (c.slot (ptrSlot p)).state ≠ 5 ∧ (c.slot (ptrSlot p)).state ≠ 6)) :
    swizzle c named p tag = .value p tag := by
  cases tag with
  | false => rfl
  | true =>
    obtain ⟨hcolour, hfive, hsix⟩ := h.resolve_left nofun
    simp [swizzle, hcolour, hfive, hsix]

/-- A pointer word over operands of which none faults gives its one lane what it makes of them. -/
theorem runWord_desWord {s : State} {f : Focus} {use : List Nat} {i : Nat} (h : Ready s f use) (hone : f.lanes = [i]) {g : Guard}
    (hacts : s.acting f g = [i]) {ops : List Src} (hd : ∀ a ∈ ops, ∀ sub, (s.view f i).designates (s.ctx (s.fctx f)) a ≠ .fault sub)
    {k : View → List Des → Lane} {l : Lane} (hk : k (s.view f i) (ops.map ((s.view f i).designates (s.ctx (s.fctx f)))) = l)
    (hl : ∀ a, l.landing a = (s.flane f i).landing a) :
    ∃ t, runWord s use (desWord g ops k) = .next t ∧ OnlyBlock s t f.blk ∧ t.flane f i = l.advance (f.pc + 1) :=
  runWord_lane h hone (k := fun _ => l) (hk ▸ desWord_one hacts hd) hl

/-- Settles O24: each word gives its one lane what `desWord` or `deliverWants` makes of its operands. -/
theorem pointerWordsComplete : Obligations.PointerWordsComplete := by
  refine ⟨fun x s f i a b hacts hone ha hga => ⟨fun h hb hgb => ?_, fun h => ?_, fun h => ?_⟩, fun x s f i h hkept => ?_⟩
  · refine runWord_desWord h hone hacts (by simp [ha, hb, hga, hgb]) ?_ (fun _ => Lane.setPred_landing ..)
    simp only [List.map_cons, List.map_nil, ha, hb]
    cases a <;> cases b <;> rfl
  · refine runWord_desWord h hone hacts (by simp [ha, hga]) ?_ (fun _ => Lane.setPair_landing ..)
    simp only [List.map_cons, List.map_nil, ha]
    cases a <;> rfl
  · refine runWord_desWord h hone hacts (by simp [ha, hga]) ?_ (fun _ => Lane.setRegs_landing ..)
    simp only [List.map_cons, List.map_nil, ha]
    cases a <;> rfl
  · show ∃ t, execPswz x s = .next t ∧ _
    refine runWord_lane h.toReady h.one (k := fun l => l.setTagged (s.fgroup f).nregs x.d.toNat _ _) ?_
      (fun _ => Lane.setTagged_landing ..)
    simp only [h.acting, List.map_cons, List.map_nil, swizzle_of_kept _ hkept]
    exact deliverWants_value x.d rfl rfl

end Sys2Proof.Machine

/-!
# Name accesses (O23)
-/

namespace Sys2Proof.Machine

open Sys2Proof.Claims

/-! ## Requests that leave (R228, R257) -/

theorem State.see_eq (s : State) (core ctx : Nat) (t : Seen) : s.see core ctx t = { s with cores := (s.see core ctx t).cores } := by
  unfold State.see
  split <;> rfl

@[simp] theorem State.drawVia_nextId (s : State) (dst : Nat) : (s.drawVia dst).2.nextId = s.nextId := rfl

@[simp] theorem State.chooseVia_nextId (s : State) (dst : Nat) : (s.chooseVia dst).2.nextId = s.nextId := by
  have h := s.drawVia_nextId dst
  unfold State.chooseVia
  split
  · rfl
  · split <;> next hd => simpa [hd] using h

@[simp] theorem State.chooseVia_reqs (s : State) (dst : Nat) : (s.chooseVia dst).2.reqs = s.reqs := by
  have h : (s.drawVia dst).2.reqs = s.reqs := rfl
  unfold State.chooseVia
  split
  · rfl
  · split <;> next hd => simpa [hd] using h

theorem State.takeSeq_eq (s : State) (dst world : Nat) :
    (s.takeSeq dst world).2 = { s with flows := (s.takeSeq dst world).2.flows } := by
  unfold State.takeSeq
  split <;> rfl

theorem State.ontoLink_eq (s : State) (p : Packet) : s.ontoLink p = { s with links := (s.ontoLink p).links } := by
  unfold State.ontoLink
  split <;> rfl

theorem State.addPacket_nextId (s : State) (p : Packet) : (s.addPacket p).nextId = s.nextId + 1 := by
  simp only [State.addPacket]
  rw [State.ontoLink_eq, State.takeSeq_eq]
  simp

theorem State.addPacket_reqs (s : State) (p : Packet) : (s.addPacket p).reqs = s.reqs := by
  simp only [State.addPacket]
  rw [State.ontoLink_eq, State.takeSeq_eq]
  simp

/-- A request that leaves the device stays in flight, and is lost at once where its host link is not healthy. -/
theorem State.launchReq_keeps (s : State) (r : Req) : (s.launchReq r).blocks = s.blocks ∧ s.nextId ≤ (s.launchReq r).nextId ∧
    (r ∈ s.reqs → ∃ q ∈ (s.launchReq r).reqs, q = { r with performed := q.performed, lost := q.lost }) := by
  have same : r ∈ s.reqs → ∃ q ∈ s.reqs, q = { r with performed := q.performed, lost := q.lost } := fun hr => ⟨r, hr, rfl⟩
  have lost : r ∈ s.reqs →
      ∃ q ∈ s.reqs.map (fun (q : Req) => if q.id == r.id then { q with performed := true, lost := true } else q),
        q = { r with performed := q.performed, lost := q.lost } := fun hr =>
    ⟨{ r with performed := true, lost := true }, List.mem_map.mpr ⟨r, hr, by simp⟩, rfl⟩
  unfold State.launchReq
  dsimp only
  split
  · rw [State.addPacket_reqs, State.addPacket_nextId]
    exact ⟨State.addPacket_blocks .., Nat.le_succ _, same⟩
  · split
    · exact ⟨rfl, le_rfl, same⟩
    · exact ⟨rfl, le_rfl, lost⟩
  · split
    · exact ⟨rfl, le_rfl, same⟩
    · exact ⟨rfl, le_rfl, lost⟩
  · exact ⟨rfl, le_rfl, same⟩

/-- What the registers and the later accesses of a lane await once a request of it has left. -/
def awaits (n : Nat) (r : Req) (l : Lane) : Lane :=
  { l with
    pend := (r.dest.named.map (regIx n)).foldl (fun p x => insertNat x p) l.pend
    order := if isAcq r.ord then { l.order with all := l.order.all ++ [r.id], cover := true } else l.order }

theorem State.send_eq (s : State) (f : Focus) (r : Req) :
    ∃ u : State, s.send f r = u.modLane f.blk f.grp r.lane (awaits (s.fgroup f).nregs r) ∧
      u.blocks = s.blocks ∧ s.nextId < u.nextId ∧ ∃ q ∈ u.reqs, q = { r with performed := q.performed, lost := q.lost } := by
  let t : State := { s with reqs := s.reqs ++ [r], nextId := s.nextId + 1 }
  obtain ⟨hblocks, hnext, hreq⟩ := t.launchReq_keeps r
  refine ⟨if t.mayLaunch r then t.launchReq r else t, rfl, ?_⟩
  split
  · exact ⟨hblocks, hnext, hreq (by simp [t])⟩
  · exact ⟨rfl, Nat.lt_succ_self _, r, by simp [t], rfl⟩

/-- An access of a lane of the path has left: its request is in flight, no byte has changed, and of the lane nothing else differs but
what it waits for. -/
structure HasLeft (s u : State) (f : Focus) (i : Nat) (r : Req) : Prop where
  path : HasPath u f
  landing : ∀ a, (u.flane f i).landing a = (s.flane f i).landing a
  mem : u.mem = s.mem
  nextId : s.nextId < u.nextId
  request : ∃ q ∈ u.reqs, q = { r with performed := q.performed, lost := q.lost }

/-- A lane passes its gate, and its request is sent. -/
theorem HasPath.send {s : State} {f : Focus} (h : HasPath s f) {i : Nat} (hi : i ∈ f.lanes) (ld : Bool) {r : Req} (hr : r.lane = i) :
    HasLeft s ((s.modLane f.blk f.grp i (fun l => l.passGate ld)).send f r) f i r := by
  let t := s.modLane f.blk f.grp i (fun l => l.passGate ld)
  obtain ⟨u, hu, hblocks, hnext, hreq⟩ := t.send_eq f r
  have hmem : (t.send f r).mem = s.mem := by simp [t]
  have hpath : HasPath u f := (h.of_modLane i _).of_blocks hblocks
  have hgate : u.flane f i = (s.flane f i).passGate ld :=
    (State.lane_of_blocks hblocks ..).trans (State.lane_modLane_same (h.hasLane hi) _)
  have hlane : (u.modLane f.blk f.grp i (awaits (t.fgroup f).nregs r)).flane f i =
      awaits (t.fgroup f).nregs r ((s.flane f i).passGate ld) :=
    (State.lane_modLane_same (hpath.hasLane hi) _).trans (congrArg _ hgate)
  subst hr
  rw [hu] at hmem ⊢
  exact ⟨hpath.of_modLane _ _, fun a => by rw [hlane]; rfl, hmem, hnext, hreq⟩

/-- The one lane's access leaves by a request: what the core caches of its translation changes no request. -/
theorem memWord_sends {s : State} {f : Focus} {i : Nat} {g : Guard} {ext : Bool} {gate : State → Focus → Nat → Option Wait}
    {chk : State → Focus → Nat → Chk} {go : Focus → State → Nat → Chk → State × Option Next} {use : List Nat} (h : Solo s f i g use)
    (hext : (ext && (s.fgroup f).region.isSome) = false) {p : Place} (hl : Leaves s i (gate s f i) (chk s f i) p) {ld : Bool} {r : Req}
    {n : Option Next} (hr : r.lane = i)
    (hgo : ∀ k seen, go f { s with cores := k } i (.ok p seen) =
      ((State.modLane { s with cores := k } f.blk f.grp i (fun l => l.passGate ld)).send f r, n)) :
    ∃ u, memWord g ext gate chk go s f = .ok u (n.map (fun n => (i, n))).toList ∧ HasLeft s u f i r := by
  obtain ⟨hgate, ⟨seen, hchk⟩, hroom⟩ := hl
  have hsee := s.see_eq (s.fblock f).core (s.fctx f) seen
  generalize (s.see (s.fblock f).core (s.fctx f) seen).cores = k at hsee
  have hpath : HasPath { s with cores := k } f := h.toHasPath.of_blocks rfl
  have hleft := hpath.send (i := i) (by simp [h.one]) ld hr
  exact ⟨_, memWord_ok h.acting hext hgate hchk hroom (by rw [hsee, hgo]), hleft.path, hleft.landing, hleft.mem, hleft.nextId,
    hleft.request⟩

/-! ## `stn` (R185) -/

/-- The request of a lane's `stn`. -/
def stnReq (m : MForm) (s : State) (f : Focus) (i : Nat) (p : Place) : Req :=
  { (s.modLane f.blk f.grp i (fun l => l.passGate false)).blankReq f i .stn p 16 .n64 with
    scope := m.scope, ord := m.ord,
    data := (((s.ctx (s.fctx f)).slot (ptrSlot ((s.flane f i).pair (s.fgroup f).nregs m.data.toNat))).name
      (ptrOffset ((s.flane f i).pair (s.fgroup f).nregs m.data.toNat))).setWidth 512
    after := (s.modLane f.blk f.grp i (fun l => l.passGate false)).before f i (isRel m.ord) }

theorem stn_sends (m : MForm) (off : BitVec 14) {s : State} {f : Focus} {i : Nat} {p : Place}
    (h : Solo s f i m.g (baseUse m.base ++ regUse true m.data)) (hr : (s.fgroup f).region = none)
    (hl : Leaves s i (s.gate f i false true (isRel m.ord) .gl) (stnCheck m off s f i) p) :
    ∃ t, exec (.stn m off) s = .next t ∧ Asked s t f i (fun r => r.kind = .stn ∧ r.place = p ∧ r.size = 16 ∧
      r.data = (((s.ctx (s.fctx f)).slot (ptrSlot ((s.flane f i).pair (s.fgroup f).nregs m.data.toNat))).name
        (ptrOffset ((s.flane f i).pair (s.fgroup f).nregs m.data.toNat))).setWidth 512) := by
  obtain ⟨u, hu, hleft⟩ := memWord_sends (ext := true) (gate := fun s f i => s.gate f i false true (isRel m.ord) .gl)
    (chk := stnCheck m off) (go := stnLane m) (r := stnReq m s f i p) (ld := false) (n := none) h (by simp [hr]) hl rfl (fun _ _ => rfl)
  obtain ⟨t, ht, hlane, hrest, -⟩ := runWord_one h.toReady h.one hu hleft.path hleft.landing rfl
  obtain ⟨q, hq, heq⟩ := hleft.request
  refine ⟨t, ht, ⟨q, by rw [hrest]; exact hq, ?_⟩, ?_, ?_⟩
  · rw [heq]
    exact ⟨rfl, rfl, rfl, rfl, ⟨rfl, rfl, rfl, rfl⟩, nofun⟩
  · rw [hlane]
    exact hleft.landing _
  · rw [hrest]
    exact hleft.mem

/-! ## `ldn` (R184) -/

/-- The request of a lane's `ldn`. -/
def ldnReq (m : MForm) (s : State) (f : Focus) (i : Nat) (p : Place) : Req :=
  { (s.modLane f.blk f.grp i (fun l => l.passGate true)).blankReq f i .load p 16 .n64 with
    scope := m.scope, ord := m.ord, atHome := atHomeHint m.hint, dest := .granule, isLd := true }

section
variable (m : MForm) (off : BitVec 14) {s : State} {f : Focus} {i : Nat} (h : Solo s f i m.g (baseUse m.base ++ regUse true m.data))
include h

/-- `ldn` of one lane: what the lanes `ls`, which have their granules, receive comes after what the others ask for. -/
theorem ldn_ends {ls : List Nat} (hls : (s.acting f m.g).filter (fun i => (s.flane f i).gran.isSome) = ls) {t : State}
    {nx : List (Nat × Next)}
    (hasks : memWord m.g false (fun s f i => s.gate f i true false false .gl) (checkM m (scaled off 16) 16 [.read] .load false)
      (ldnLane m) s { f with lanes := f.lanes.filter (fun i => !ls.contains i) } = .ok t nx) {u : State}
    (hwants : deliverWants m.data true t f (ls.filterMap (fun i =>
      (s.flane f i).gran.map (fun g => (i, granuleWant (granuleAddr m off (s.view f i)) g)))) = .ok u [])
    (hp : HasPath u f) (hl : ∀ a, (u.flane f i).landing a = (s.flane f i).landing a)
    (hn : (nextOf f (waitTogether s.nextId t.nextId nx) i).stop f = f.pc + 1) :
    ∃ v, exec (.ldn m off) s = .next v ∧ v.flane f i = (nextOf f (waitTogether s.nextId t.nextId nx) i).placed (u.flane f i) ∧
      v = { u with blocks := v.blocks } ∧ ∀ b, b ≠ f.blk → v.block? b = u.block? b := by
  show ∃ v, execLdn m off s = .next v ∧ _
  refine runWord_one h.toReady h.one ?_ hp hl hn
  simp only [hls, hasks, hwants, List.append_nil]

theorem ldn_asks {p : Place} (hgran : (s.flane f i).gran = none)
    (hleaves : Leaves s i (s.gate f i true false false .gl) (checkM m (scaled off 16) 16 [.read] .load false s f i) p) :
    ∃ t ids, exec (.ldn m off) s = .next t ∧ t.mem = s.mem ∧ (t.flane f i).st = .waiting (.reqs ids) ∧ s.nextId ∈ ids ∧
      ∃ r ∈ t.reqs, r.id = s.nextId ∧ r.kind = .load ∧ r.place = p ∧ r.size = 16 ∧ r.dest = .granule := by
  obtain ⟨u, hu, hleft⟩ := memWord_sends (ext := false) (gate := fun s f i => s.gate f i true false false .gl)
    (chk := checkM m (scaled off 16) 16 [.read] .load false) (go := ldnLane m) (r := ldnReq m s f i p) (ld := true)
    (n := some (.wait (.reqs [s.nextId]))) h rfl hleaves rfl (fun _ _ => rfl)
  have hls : (s.acting f m.g).filter (fun i => (s.flane f i).gran.isSome) = [] := by simp [h.acting, hgran]
  have hall : { f with lanes := f.lanes.filter (fun i => !([] : List Nat).contains i) } = f := by simp
  let ids := (List.range (u.nextId - s.nextId)).map (fun k => s.nextId + k)
  have hnext : nextOf f (waitTogether s.nextId u.nextId [(i, .wait (.reqs [s.nextId]))]) i = .wait (.reqs ids) := by
    simp [waitTogether, nextOf, ids]
  obtain ⟨t, ht, hlane, hrest, -⟩ := ldn_ends m off h hls (by rw [hall]; exact hu) rfl hleft.path hleft.landing
    (congrArg (Next.stop f) hnext)
  obtain ⟨q, hq, heq⟩ := hleft.request
  refine ⟨t, ids, ht, ?_, ?_, List.mem_map.mpr ⟨0, List.mem_range.mpr (Nat.sub_pos_of_lt hleft.nextId), rfl⟩, q, ?_, ?_⟩
  · rw [hrest]
    exact hleft.mem
  · rw [hlane]
    exact congrArg (fun n => (Next.placed _ n).st) hnext
  · rw [hrest]
    exact hq
  · rw [heq]
    exact ⟨rfl, rfl, rfl, rfl, rfl⟩

/-- A lane whose granule has come, and whose name is resolved where it holds one, receives its pointer. -/
theorem ldn_receives {g : Granule} (hgran : (s.flane f i).gran = some g) {x : DWord} {tag : Bool}
    (hw : (granuleWant (granuleAddr m off (s.view f i)) g).settle (s.flane f i).res = .value x tag) {u : State}
    (hu : u = clearHint s (s.fctx f) (s.flane f i).res) (hblocks : u.blocks = s.blocks) :
    ∃ t, exec (.ldn m off) s = .next t ∧
      t.flane f i = ((s.flane f i).setTagged (s.fgroup f).nregs m.data.toNat x tag).advance (f.pc + 1) ∧
      t = { u with blocks := t.blocks } ∧ ∀ b, b ≠ f.blk → t.block? b = s.block? b := by
  have hls : (s.acting f m.g).filter (fun i => (s.flane f i).gran.isSome) = [i] := by simp [h.acting, hgran]
  have hasks : memWord m.g false (fun s f i => s.gate f i true false false .gl) (checkM m (scaled off 16) 16 [.read] .load false)
      (ldnLane m) s { f with lanes := f.lanes.filter (fun j => !([i].contains j)) } = .ok s [] := by
    simp [memWord, State.acting, h.one]
  have hwants := deliverWants_value m.data (clear := true) hw hu
  have hpath : HasPath u f := h.toHasPath.of_blocks hblocks
  have hlane : (u.modLane f.blk f.grp i (fun l => l.setTagged (u.fgroup f).nregs m.data.toNat x tag)).flane f i =
      (s.flane f i).setTagged (s.fgroup f).nregs m.data.toNat x tag := by
    refine (State.lane_modLane_same (hpath.hasLane (by simp [h.one])) _).trans ?_
    rw [State.lane_of_blocks hblocks, State.fgroup, State.group, State.block_of_blocks hblocks]
    rfl
  obtain ⟨t, ht, hflane, hrest, hother⟩ := ldn_ends m off h hls hasks (by simpa [hgran] using hwants) (hpath.of_modLane _ _)
    (fun a => by rw [hlane, Lane.setTagged_landing]) rfl
  refine ⟨t, ht, hflane.trans (by rw [hlane]; rfl), hrest, fun b hb => ?_⟩
  rw [hother b hb, ← State.block?_of_blocks hblocks]
  exact u.block?_modBlock_ne _ hb

end

/-- Settles O23: a lane without its granule asks for it, and one that has it receives what the granule and its name give. -/
theorem nameAccessesComplete : Obligations.NameAccessesComplete := by
  refine ⟨fun m off s f i h => ⟨fun p => ldn_asks m off h, fun hgran hres => ?_, fun g n k c hgran hname hres => ?_⟩,
    fun m off s f i p => stn_sends m off⟩
  · obtain ⟨t, ht, hlane, hrest, hother⟩ := ldn_receives m off h hgran (x := 0) (tag := false) rfl rfl (by rw [hres]; rfl)
    refine ⟨t, ht, ⟨?_, hother⟩, by rw [hlane]; exact Lane.setTagged_landing .., by rw [hlane]; rfl⟩
    rwa [hres] at hrest
  · obtain ⟨t, ht, hlane, hrest, -⟩ := ldn_receives m off h hgran (x := pointerBits k c n.offset) (tag := true)
      (by simp [granuleWant, hname, hres, Want.settle]) rfl (by rw [hres]; rfl)
    refine ⟨t, ht, ?_, by rw [hlane]; exact Lane.setTagged_landing .., by rw [hlane]; rfl, by rw [hlane]; rfl⟩
    rw [hrest]
    exact clearHint_mem ..

end Sys2Proof.Machine

/-!
# Events of names and pages (O45)
-/

namespace Sys2Proof.Machine

open Sys2Proof.Claims

/-! ## Resolutions (R176, R177) -/

theorem HasLane.of_blocks {s t : State} {b g i : Nat} (h : HasLane s b g i) (hb : t.blocks = s.blocks) : HasLane t b g i := by
  simpa only [HasLane, HasGroup, State.group, State.block, State.block?, hb] using h

theorem State.giveRes_eq (s : State) (r : Resolution) (o : ResOut) : s.giveRes r o = { s with blocks := (s.giveRes r o).blocks } := by
  unfold State.giveRes
  split <;> rfl

/-- The lane that waits for a resolution is told its outcome. -/
theorem State.giveRes_lane {s : State} {r : Resolution} {l : Nat} (hr : r.lane = some l) (h : HasLane s r.blk r.grp l)
    (hst : (s.lane r.blk r.grp l).st = .waiting (.object r.id)) (o : ResOut) :
    (s.giveRes r o).lane r.blk r.grp l = { s.lane r.blk r.grp l with res := some o } := by
  simp only [State.giveRes, hr]
  rw [State.lane_modLane_same h, if_pos (by simp [hst])]

theorem Resolution.is_iff {r q : Resolution} : r.is q = true ↔ r.id = q.id ∧ r.lane = q.lane := by
  simp [Resolution.is]

theorem State.mem_dropRes {s : State} {r q : Resolution} : q ∈ (s.dropRes r).resolutions ↔ q ∈ s.resolutions ∧ q.is r = false := by
  simp [State.dropRes]

/-- A resolution that comes to an outcome is gone, and its lane is told. -/
theorem objectResolution_tells {n l : Nat} {r : Resolution} {s t : State} {o : ResOut}
    (hf : s.resolutions.find? (fun q => q.id == n && q.slot.isNone) = some r) (hr : r.lane = some l) (h : HasLane s r.blk r.grp l)
    (hst : (s.lane r.blk r.grp l).st = .waiting (.object r.id)) (ho : resolve s r.ctx r.home r.serial r.rights.toNat = .out t o)
    (hb : t.blocks = s.blocks) (hm : t.mem = s.mem) :
    Happens (.objectResolution n) s (fun t => t.mem = s.mem ∧ t.lane r.blk r.grp l = { s.lane r.blk r.grp l with res := some o } ∧
      ∀ q ∈ t.resolutions, ¬(q.id = r.id ∧ q.lane = r.lane)) := by
  refine ⟨(t.giveRes r o).dropRes r, ?_, by simp [hm], ?_, fun q hq hsame => ?_⟩
  · show execObjectResolution n s = _
    simp only [execObjectResolution, hf, Option.map_some, ho]
    rfl
  · have hlane := State.giveRes_lane hr (HasLane.of_blocks h hb) (by rw [State.lane_of_blocks hb, hst]) o
    rwa [State.lane_of_blocks hb] at hlane
  · exact absurd (Resolution.is_iff.mpr hsame) (by simp [(State.mem_dropRes.mp hq).2])

/-- A name whose slot stands is resolved to it. -/
theorem resolve_slot {s : State} {c home serial rights i : Nat} {x : Slot} (h : (s.ctx c).slotOf home serial rights = some (i, x))
    (hfetching : x.state ≠ 1) (hdeparted : x.state ≠ 5) : resolve s c home serial rights = .out (s.touchSlot c i) (.slot i x.colour) := by
  simp [resolve, h, hfetching, hdeparted]

/-- Log 61: that there is no such object is found out before anything else. -/
theorem resolve_absent {s : State} {c home serial rights : Nat} (h : (s.ctx c).slotOf home serial rights = none)
    (hnow : (s.ctx c).slotOf (s.homeOf (s.ctx c).world home serial) serial rights = none)
    (hbody : s.body? (s.ctx c).world (s.homeOf (s.ctx c).world home serial) serial = none) :
    resolve s c home serial rights = .out s (.fault 6) := by
  simp [resolve, h, hnow, hbody]

/-! ## Fetches (R176, R178, R179) -/

/-- Resolutions that are answered one after the other are gone; nothing but lanes and resolutions changes. -/
theorem foldl_answered (o : ResOut) (rs : List Resolution) (s : State) :
    (rs.foldl (fun s r => (s.giveRes r o).dropRes r) s).ctxs = s.ctxs ∧
      ∀ q ∈ (rs.foldl (fun s r => (s.giveRes r o).dropRes r) s).resolutions, q ∈ s.resolutions ∧ ∀ r ∈ rs, q.is r = false := by
  induction rs generalizing s with
  | nil => exact ⟨rfl, fun q hq => ⟨hq, nofun⟩⟩
  | cons r rs ih =>
    obtain ⟨hctxs, hres⟩ := ih ((s.giveRes r o).dropRes r)
    have hgive := s.giveRes_eq r o
    refine ⟨hctxs.trans ?_, fun q hq => ?_⟩
    · rw [State.dropRes, hgive]
    · obtain ⟨hin, hrest⟩ := hres q hq
      obtain ⟨hin, hr⟩ := State.mem_dropRes.mp hin
      rw [hgive] at hin
      exact ⟨hin, List.forall_mem_cons.mpr ⟨hr, hrest⟩⟩

theorem State.fetchOutcome_ctxs (s : State) (c n : Nat) (o : ResOut) : (s.fetchOutcome c n o).ctxs = s.ctxs :=
  (foldl_answered o _ s).1

/-- No resolution waits any more for a slot's fetch. -/
theorem State.fetchOutcome_resolutions (s : State) (c n : Nat) (o : ResOut) :
    ∀ q ∈ (s.fetchOutcome c n o).resolutions, ¬(q.ctx = c ∧ q.slot = some n) := by
  rintro q hq ⟨hc, hn⟩
  obtain ⟨hin, hgone⟩ := (foldl_answered o _ s).2 q hq
  have hself := hgone q (List.mem_filter.mpr ⟨hin, by simp [hc, hn]⟩)
  exact absurd (Resolution.is_iff.mpr ⟨rfl, rfl⟩ : q.is q = true) (by simp [hself])

theorem State.ctx_of_ctxs {s t : State} (h : t.ctxs = s.ctxs) (c : Nat) : t.ctx c = s.ctx c := by
  simp only [State.ctx, State.ctx?, h]

theorem State.ctx?_modCtx_isSome (s : State) (c : Nat) (k : Context → Context) : ((s.modCtx c k).ctx? c).isSome = (s.ctx? c).isSome := by
  rw [State.ctx?_modCtx_same, Option.isSome_map]

theorem State.ctx?_modSlot_isSome (s : State) (c n : Nat) (k : Slot → Slot) :
    ((s.modSlot c n k).ctx? c).isSome = (s.ctx? c).isSome :=
  State.ctx?_modCtx_isSome ..

section
variable {s : State} {c n : Nat} {x : Slot} (hc : (s.ctx? c).isSome = true) (hx : Tbl.at (s.ctx c).slots n = some x)
include hx

theorem Context.slot_of_at : (s.ctx c).slot n = x := by
  rw [Context.slot, hx, Option.getD_some]

include hc

theorem State.at_modSlot (k : Slot → Slot) : Tbl.at ((s.modSlot c n k).ctx c).slots n = some (k x) := by
  rw [State.modSlot, State.ctx_modCtx_same _ _ _ hc, Tbl.at_upd_same, hx, Option.map_some]

theorem State.slot_modSlot (k : Slot → Slot) : ((s.modSlot c n k).ctx c).slot n = k x :=
  Context.slot_of_at (s.at_modSlot hc hx k)

end

/-! ## Departures (R172, R176) -/

/-- A slot that has departed, not from the last colour. -/
def Slot.departed (x : Slot) (cause next : Nat) : Slot :=
  { x with colour := x.colour + 1, state := next, departures := Nat.min 255 (x.departures + 1),
           ring := (({ old := x.colour, new := x.colour + 1, cause := cause } : Departure) :: x.ring).take 64 }

theorem Slot.departed_ring (x : Slot) (cause next : Nat) :
    (x.departed cause next).ring.head? = some { old := x.colour, new := x.colour + 1, cause := cause } := rfl

section
variable {s : State} {c n : Nat} {x : Slot} (hc : (s.ctx? c).isSome = true) (hx : Tbl.at (s.ctx c).slots n = some x)
  (hcolour : x.colour ≠ 255) (cause next : Nat)

theorem State.depart_isSome : ((s.depart c n cause next).ctx? c).isSome = (s.ctx? c).isSome :=
  (State.ctx?_modCtx_isSome ..).trans (State.ctx?_modSlot_isSome ..)

include hc

theorem State.depart_lost : ((s.depart c n cause next).ctx c).n.lost = (s.ctx c).n.lost := by
  show ((State.modCtx (s.modSlot c n _) c _).ctx c).n.lost = _
  rw [State.ctx_modCtx_same _ _ _ ((State.ctx?_modSlot_isSome ..).trans hc), State.modSlot, State.ctx_modCtx_same _ _ _ hc]
  rfl

include hx hcolour

theorem State.depart_at : Tbl.at ((s.depart c n cause next).ctx c).slots n = some (x.departed cause next) := by
  show Tbl.at ((State.modCtx (s.modSlot c n _) c _).ctx c).slots n = _
  rw [State.ctx_modCtx_same _ _ _ ((State.ctx?_modSlot_isSome ..).trans hc)]
  refine (s.at_modSlot hc hx _).trans ?_
  simp only [Context.slot_of_at hx, hcolour, if_false]
  rfl

end

section
variable {s : State} {c n : Nat} {x : Slot} (hc : (s.ctx? c).isSome = true) (hx : Tbl.at (s.ctx c).slots n = some x)
include hc hx

theorem fetchComplete_happens (r : ReplicaObj) (hst : x.state = 1)
    (hr : s.replicasObj.find? (fun r => r.home == x.home && r.serial == x.serial && r.world == (s.ctx c).world &&
      s.replicaLive r) = some r) :
    Happens (.fetchComplete c n) s (fun t => t.mem = s.mem ∧ (t.ctx c).slot n = { x with state := 3, storage := r.storage } ∧
      ∀ q ∈ t.resolutions, ¬(q.ctx = c ∧ q.slot = some n)) := by
  let u := s.modSlot c n (fun y => { y with state := 3, storage := r.storage })
  refine ⟨u.fetchOutcome c n (.slot n x.colour), ?_, by simp [u, State.modSlot], ?_, State.fetchOutcome_resolutions _ c n _⟩
  · show eventOpt s (fetchDone s c n) = _
    simp [fetchDone, Context.slot_of_at hx, hst, hr, eventOpt, u]
  · rw [State.ctx_of_ctxs (State.fetchOutcome_ctxs ..)]
    exact s.slot_modSlot hc hx _

variable (hcolour : x.colour ≠ 255)
include hcolour

theorem fetchLost_happens (hst : x.state = 1) :
    Happens (.fetchLost c n) s (fun t => t.mem = s.mem ∧ (t.ctx c).slot n = x.departed 2 5 ∧ (t.ctx c).lossFlag = true ∧
      (t.ctx c).n.lost = sat32 ((s.ctx c).n.lost + 1) ∧ ∀ q ∈ t.resolutions, ¬(q.ctx = c ∧ q.slot = some n)) := by
  let u := s.depart c n 2 5
  have hu : (u.ctx? c).isSome = true := State.depart_isSome .. |>.trans hc
  have hctx : (fetchLost s c n).ctx c = { (u.ctx c).count (fun k =>
      { k with lost := sat32 (k.lost + 1), dataLoss := sat32 (k.dataLoss + 1) }) with lossFlag := true } := by
    refine (State.ctx_of_ctxs (State.fetchOutcome_ctxs ..) c).trans ?_
    rw [State.loseData, State.ctx_modCtx_same _ _ _ ((State.ctx?_modCtx_isSome ..).trans hu), State.ctx_modCtx_same _ _ _ hu]
    rfl
  refine event_happens rfl (by simp [Context.slot_of_at hx, hst]) ⟨by simp, ?_, ?_, ?_, State.fetchOutcome_resolutions _ c n _⟩
  · rw [hctx]
    exact Context.slot_of_at (State.depart_at hc hx hcolour 2 5)
  · rw [hctx]
  · rw [hctx, ← State.depart_lost hc]
    rfl

theorem slotEviction_happens (hst : x.state = 3) :
    Happens (.slotEviction c n) s (fun t => t.mem = s.mem ∧ (t.ctx c).slot n = x.departed 0 5) := by
  refine event_happens rfl (by simp [Context.slot_of_at hx, hst]) ⟨by simp, ?_⟩
  exact Context.slot_of_at (State.depart_at hc hx hcolour 0 5)

end

/-! ## Objects that move (R176) -/

theorem Place.plus_bodyPlace (home addr k : Nat) : (bodyPlace home addr).plus k = bodyPlace home (addr + k) := by
  unfold bodyPlace
  split <;> rfl

/-- A write at an object's place elsewhere changes no memory of this device, and no context. -/
theorem State.commitAt_bodyPlace (s : State) (home addr : Nat) (bytes : List Byte) (tagOn : Bool) (v : VecD) :
    (s.commitAt (bodyPlace home addr) bytes tagOn v).1.mem = s.mem ∧ (s.commitAt (bodyPlace home addr) bytes tagOn v).1.ctxs = s.ctxs := by
  unfold bodyPlace
  split <;> exact ⟨rfl, rfl⟩

theorem State.rehome_ctxs (s : State) (world : Nat) (x : Slot) (home addr : Nat) (tags : List Nat) :
    (s.rehome world x home addr tags).ctxs = s.ctxs := by
  unfold State.rehome
  dsimp only
  split <;> rfl

/-- Log 103: an object that its new home lists is there, and no byte moves. -/
theorem moveObject_listed {s : State} {world : Nat} {x : Slot} {home addr a : Nat} (h : s.listed world home x.serial = some a) :
    moveObject s world x home addr = some (a, s) := by
  simp [moveObject, h]

/-- R421, R424: an object moves to another home once both ends have room. -/
theorem moveObject_away {s : State} {world : Nat} {x : Slot} {home addr : Nat} (hhome : home ≠ s.devNum)
    (h : s.listed world home x.serial = none)
    (hroom : ∀ p ∈ [x.place 0, bodyPlace home addr], s.cutOff p = false ∧ s.unitRoom p (Nat.min 16384 ((x.size + 63) / 64)) = true) :
    ∃ t, moveObject s world x home addr = some (addr, t) ∧ t.mem = s.mem ∧ t.ctxs = s.ctxs := by
  obtain ⟨⟨hsrc, hsrcRoom⟩, ⟨hdst, hdstRoom⟩, -⟩ : (_ ∧ _) ∧ (_ ∧ _) ∧ True := by simpa using hroom
  refine ⟨_, by
    simp only [moveObject, h, hsrc, hsrcRoom, hdst, hdstRoom, hhome, Bool.not_false, Bool.and_self, Bool.not_true, Bool.or_true,
      Bool.or_self, Bool.false_eq_true, if_false, Option.map_some]
    rfl, ?_⟩
  refine foldl_keeps (fun t : State => t.mem = s.mem ∧ t.ctxs = s.ctxs) _ (fun t i ht => ?_) _ _
    ⟨State.rehome_mem .., State.rehome_ctxs ..⟩
  rw [Place.plus_bodyPlace]
  obtain ⟨hmem, hctxs⟩ := t.commitAt_bodyPlace home (addr + 16 * i) _ _ _
  exact ⟨hmem.trans ht.1, hctxs.trans ht.2⟩

section
variable {s : State} {c n : Nat} {x : Slot} (hc : (s.ctx? c).isSome = true) (hx : Tbl.at (s.ctx c).slots n = some x)
  (hcolour : x.colour ≠ 255)
include hc hx hcolour

theorem objectHomeMove_happens {home addr a : Nat} (hst : x.state = 2 ∨ x.state = 4) (hdomain : isDomain home = true)
    (hhome : home ≠ x.home) (haddr : addr % 16 = 0)
    (hmove : (home ≠ s.devNum ∧ s.listed (s.ctx c).world home x.serial = none ∧ a = addr ∧
         ∀ p ∈ [x.place 0, bodyPlace home addr], s.cutOff p = false ∧ s.unitRoom p (Nat.min 16384 ((x.size + 63) / 64)) = true) ∨
       s.listed (s.ctx c).world home x.serial = some a) :
    Happens (.objectHomeMove c n home addr) s (fun t => t.mem = s.mem ∧
      (t.ctx c).slot n = { x.departed 1 (if home = s.devNum then 2 else 4) with home := home, storage := a }) := by
  obtain ⟨u, hu, hmem, hctxs⟩ : ∃ u, moveObject s (s.ctx c).world x home addr = some (a, u) ∧ u.mem = s.mem ∧ u.ctxs = s.ctxs := by
    rcases hmove with ⟨hdev, hlisted, rfl, hroom⟩ | hlisted
    · exact moveObject_away hdev hlisted hroom
    · exact ⟨s, moveObject_listed hlisted, rfl, rfl⟩
  have hcu : (u.ctx? c).isSome = true := by rwa [State.ctx?, hctxs]
  have hxu : Tbl.at (u.ctx c).slots n = some x := by rwa [State.ctx_of_ctxs hctxs]
  have hdep := State.depart_at hcu hxu hcolour 1 (if home = s.devNum then 2 else 4)
  refine ⟨_, ?_, ?_, (State.slot_modSlot ((State.depart_isSome ..).trans hcu) hdep
    (fun y => if y.state = 6 then y else { y with home := home, storage := a })).trans (if_neg ?_)⟩
  · show eventOpt s _ = _
    have hmay : (((x.state == 2 || x.state == 4) && isDomain home && home != x.home && addr % 16 == 0) = true) := by
      simp [hst, hdomain, hhome, haddr]
    simp only [Context.slot_of_at hx, hmay, if_true, hu, Option.map_some]
    rfl
  · simp [State.modSlot, hmem]
  · show (if home = s.devNum then 2 else 4) ≠ 6
    split <;> decide

end

/-! ## Departures that a core acknowledges (R172) -/

theorem slotInvalidationAck_happens {c n core : Nat} {ids : List Nat} {d : Depart} {s : State} (hd : d ∈ s.departs) (hctx : d.ctx = c)
    (hslot : d.slot = n) (hcore : (core, ids) ∈ d.cores) (hover : ∀ i ∈ ids, s.accessOver i = true) :
    Happens (.slotInvalidationAck c n core) s (fun t => t.mem = s.mem ∧ ∀ e ∈ t.departs, e.ctx = c → e.slot = n →
      ∀ k ∈ e.cores, k.1 = core → ∃ i ∈ k.2, s.accessOver i = false) := by
  refine event_happens rfl (List.any_eq_true.mpr ⟨d, hd, ?_⟩) ⟨rfl, fun e he hec hes k hk hkc => ?_⟩
  · simp only [hctx, hslot, beq_self_eq_true, Bool.true_and, List.any_eq_true]
    exact ⟨_, hcore, by simpa using hover⟩
  · obtain ⟨y, -, rfl⟩ := List.mem_map.mp (List.mem_of_mem_filter (show e ∈ List.filter _ _ from he))
    split at hk
    · exact absurd hkc (by simpa using (List.mem_filter.mp hk).2)
    · next hnot =>
      rw [if_neg hnot] at hec hes
      by_contra hall
      refine hnot ?_
      simp only [hec, hes, beq_self_eq_true, Bool.true_and, List.any_eq_true]
      refine ⟨k, hk, ?_⟩
      simpa [hkc] using hall

/-! ## Page fills (R201 to R203) -/

theorem foldl_pageFills {α : Type} {f : State → α → State} (hf : ∀ t a, (f t a).pageFills = t.pageFills) (xs : List α) (s : State) :
    (xs.foldl f s).pageFills = s.pageFills :=
  foldl_keeps (fun t : State => t.pageFills = s.pageFills) f (fun t a ht => (hf t a).trans ht) xs s rfl

theorem State.queueRelaunch_pageFills (s : State) (b : Nat) : (s.queueRelaunch b).pageFills = s.pageFills := by
  unfold State.queueRelaunch
  dsimp only
  split <;> rfl

theorem State.queueParked_pageFills (s : State) (b : Nat) : (s.queueParked b).pageFills = s.pageFills := by
  unfold State.queueParked
  split
  · exact State.queueRelaunch_pageFills ..
  · rfl

theorem State.wakeUnit_pageFills (s : State) (b : Nat) : (s.wakeUnit b).pageFills = s.pageFills := by
  unfold State.wakeUnit
  split
  · rfl
  · dsimp only
    split
    · exact foldl_pageFills (f := fun s u => s.modBlock u _) (fun _ _ => rfl) _ _
    · split
      · exact State.queueParked_pageFills ..
      · rfl

theorem State.raised_pageFills (s : State) (d key old new : Nat) (vec : VecD) : (s.raised d key old new vec).pageFills = s.pageFills := by
  unfold State.raised
  split
  · rfl
  · dsimp only
    refine (foldl_pageFills (fun _ _ => State.wakeUnit_pageFills ..) _ _).trans ?_
    exact foldl_pageFills (f := fun t h => State.modCtx t _ _) (fun _ _ => rfl) _ _

theorem State.sendNotices_pageFills (s : State) (note : Notice) : (s.sendNotices note).pageFills = s.pageFills :=
  foldl_pageFills (fun t d => by split <;> rfl) _ _

theorem State.commitCells_pageFills (s : State) (cs : List (Nat × Byte)) (tagOn : Bool) (vec : VecD) :
    (s.commitCells cs tagOn vec).1.pageFills = s.pageFills := by
  unfold State.commitCells
  split
  · rfl
  · dsimp only
    rw [foldl_pageFills (fun _ _ => State.raised_pageFills ..), State.sendNotices_pageFills]
    rfl

theorem numberHeld_pageFills (s : State) (w : HeldWrite) : (numberHeld s w).pageFills = s.pageFills :=
  State.commitCells_pageFills ..

theorem State.writeBack_pageFills (s : State) (h : Held) : (s.writeBack h).pageFills = s.pageFills :=
  foldl_pageFills numberHeld_pageFills _ _

theorem State.freshRange_pageFills (s : State) (pa size : Nat) : (s.freshRange pa size).pageFills = s.pageFills :=
  foldl_pageFills State.writeBack_pageFills _ _

theorem State.takeFrame_pageFills {s u : State} {d world size align pa : Nat} (h : s.takeFrame d world size align = some (pa, u)) :
    u.pageFills = s.pageFills := by
  unfold State.takeFrame at h
  split at h
  · obtain ⟨-, rfl⟩ := Prod.mk.inj (Option.some.inj h)
    exact State.freshRange_pageFills ..
  · split at h
    · cases h
    · obtain ⟨-, rfl⟩ := Prod.mk.inj (Option.some.inj h)
      exact State.freshRange_pageFills ..

theorem mapFrom_pageFills (va leaf : Nat) (e : DWord) (fuel level table : Nat) (s : State) :
    (mapFrom va leaf e fuel level table s).pageFills = s.pageFills := by
  induction fuel generalizing level table s with
  | zero => rfl
  | succ fuel ih =>
    simp only [mapFrom]
    split
    · rfl
    · split
      · exact ih ..
      · split
        · rfl
        · exact ih ..

/-- The dies that a page fill may take its frame from (R202). -/
def PageFill.frameDies (p : PageFill) (s : State) : List Nat :=
  match p.die with
  | some d => [d]
  | none => s.diesOf (s.ctx p.ctx).world

theorem pageFillComplete_happens {c page pa : Nat} {p : PageFill} {g : Region} {u s : State} (hp : s.fillOf c page = some p)
    (hg : (s.ctx p.ctx).region p.page = some g)
    (hroom : ({ s with pageFills := s.pageFills.filter (fun q => !q.is p.ctx p.page) } : State).levainRoom 16384 4096 = true)
    (hframe : (p.frameDies s).findSome? (fun d =>
      ({ s with pageFills := s.pageFills.filter (fun q => !q.is p.ctx p.page) } : State).takeFrame d (s.ctx p.ctx).world p.size p.size) =
        some (pa, u)) :
    Happens (.pageFillComplete c page) s (fun t =>
      t = (u.zero pa p.size).mapPage p.ctx p.page p.size (regionPte g 0 pa 0) ∧ p ∉ t.pageFills) := by
  refine ⟨(u.zero pa p.size).mapPage p.ctx p.page p.size (regionPte g 0 pa 0), ?_, rfl, ?_⟩
  · show eventOpt s ((s.fillOf c page).bind (fillDone s)) = _
    simp only [hp, Option.bind_some, fillDone, hg, hroom, Bool.not_true, Bool.false_eq_true, if_false]
    exact congrArg (fun o : Option (Nat × State) => eventOpt s (o.map _)) hframe
  · obtain ⟨d, -, hd⟩ := List.exists_of_findSome?_eq_some hframe
    have hfills : ((u.zero pa p.size).mapPage p.ctx p.page p.size (regionPte g 0 pa 0)).pageFills =
        s.pageFills.filter (fun q => !q.is p.ctx p.page) := (mapFrom_pageFills ..).trans (State.takeFrame_pageFills hd)
    rw [hfills]
    simp [PageFill.is]

/-! ## Page fills that fail (R200, R201) -/

theorem takeTrap_pageFills (s : State) (f : Focus) (t : Trap) : (takeTrap s f t).pageFills = s.pageFills := by
  simp only [takeTrap, State.onGroup]
  by_cases h : (t.cause == 4) = true <;> simp only [h, if_true, Bool.false_eq_true, if_false]
  all_goals
    split
    · rfl
    · split <;> rfl

theorem trapPath_pageFills (s : State) (f : Focus) (t : Trap) : (trapPath s f t).pageFills = s.pageFills := by
  unfold trapPath
  split
  · exact takeTrap_pageFills ..
  · split
    · exact takeTrap_pageFills ..
    · rfl

theorem failWaiters_pageFills (c page : Nat) (s : State) (b g : Nat) : (failWaiters c page s b g).pageFills = s.pageFills := by
  unfold failWaiters
  dsimp only
  split
  · rfl
  · split
    · rfl
    · exact trapPath_pageFills ..

theorem pageWait_of_waits {c page : Nat} {l : Lane} {kind : AccKind} {a : DWord} (h : l.st = .waiting (.page c page kind a)) :
    pageWait c page l = some { cause := 8, sub := 5, kind := kind, addr := a } := by
  simp [pageWait, h]

theorem pageWait_none {c page : Nat} {l : Lane} (h : ∀ k d, l.st ≠ .waiting (.page c page k d)) : pageWait c page l = none := by
  unfold pageWait
  split
  · next c' p' k d hst =>
    refine if_neg ?_
    rintro ⟨rfl, rfl⟩
    exact h k d hst
  · rfl

/-- The paths of a group that wait for a page: the lowest of their lanes stands first. -/
theorem filter_range_of_least {p : Nat → Bool} {i n : Nat} (hi : i < n) (hp : p i = true) (hleast : ∀ j, j < i → p j = false) :
    ∃ rest, (List.range n).filter p = i :: rest := by
  have hhead : ((List.range n).filter p).head? = some i := by
    rw [List.head?_filter, List.find?_range_eq_some]
    exact ⟨hp, List.mem_range.mpr hi, fun j hj => by simp [hleast j hj]⟩
  exact ⟨_, (List.cons_head?_tail hhead).symm⟩

theorem failWaiters_of_least {c page b g i : Nat} {kind : AccKind} {a : DWord} {s : State} (hi : i < (s.group b g).lanes.length)
    (hst : (s.lane b g i).st = .waiting (.page c page kind a))
    (hleast : ∀ j, j < i → ∀ k d, (s.lane b g j).st ≠ .waiting (.page c page k d)) :
    ∃ (f : Focus) (ls : List Nat), f.blk = b ∧ f.grp = g ∧ ls ≠ [] ∧
      failWaiters c page s b g = trapPath s f { cause := 8, sub := 5, kind := kind, addr := a, lanes := ls } := by
  have hwait : pageWait c page (((s.block b).group g).lane i) = some { cause := 8, sub := 5, kind := kind, addr := a } :=
    pageWait_of_waits hst
  have hbelow : ∀ j, j < i → pageWait c page (((s.block b).group g).lane j) = none := fun j hj => pageWait_none (hleast j hj)
  obtain ⟨rest, hrest⟩ := filter_range_of_least (p := fun i => (pageWait c page (((s.block b).group g).lane i)).isSome)
    (show i < ((s.block b).group g).lanes.length from hi) (by simp [hwait]) (fun j hj => by simp [hbelow j hj])
  unfold failWaiters
  simp only [hrest, hwait]
  exact ⟨_, _, rfl, rfl, by simp, rfl⟩

/-- A path of a group that has not trapped, with a vector, leaves its record in the group. -/
theorem trapPath_group {s : State} {f : Focus} {t : Trap} {v : Nat × Nat} (hcause : t.cause ≠ 4) (hlanes : t.lanes ≠ [])
    (hout : (s.fgroup f).trap = none) (hv : (s.ctx (s.fctx f)).vector = some v) (hb : (s.block? f.blk).isSome = true)
    (hg : f.grp < (s.block f.blk).groups.length) :
    ((trapPath s f t).fgroup f).trap = some ⟨t, f.word, f.pc, f.kern, t.lanes⟩ := by
  simp only [trapPath, hout]
  exact (takeTrap_group hcause hlanes hout hv hb hg).1

theorem failWaiters_traps {c page b g i : Nat} {kind : AccKind} {a : DWord} {v : Nat × Nat} {s : State} (h : HasLane s b g i)
    (hst : (s.lane b g i).st = .waiting (.page c page kind a))
    (hleast : ∀ j, j < i → ∀ k d, (s.lane b g j).st ≠ .waiting (.page c page k d))
    (hout : (s.group b g).trap = none) (hv : (s.ctx (s.block b).ctx).vector = some v) :
    ∃ r, ((failWaiters c page s b g).group b g).trap = some r ∧ r.trap.cause = 8 ∧ r.trap.sub = 5 ∧ r.trap.kind = kind ∧
      r.trap.addr = a := by
  obtain ⟨⟨hb, hg⟩, hi⟩ := h
  obtain ⟨f, ls, rfl, rfl, hls, heq⟩ := failWaiters_of_least hi hst hleast
  rw [heq]
  exact ⟨_, trapPath_group (by simp) hls hout hv hb hg, rfl, rfl, rfl, rfl⟩

/-- The fill of the page has failed, and who waits for it has not met that yet. -/
def State.failFills (s : State) (c page : Nat) : State :=
  { s with pageFills := s.pageFills.map (fun (p : PageFill) => if p.is c page then { p with failed := some s.clock } else p) }

theorem State.failed_of_mem_failFills {s : State} {c page : Nat} {q : PageFill} (hq : q ∈ (s.failFills c page).pageFills)
    (hc : q.ctx = c) (hp : q.page = page) : q.failed = some s.clock := by
  obtain ⟨y, -, rfl⟩ := List.mem_map.mp hq
  split
  · rfl
  · next hy =>
    rw [if_neg hy] at hc hp
    exact absurd (by simp [PageFill.is, hc, hp]) hy

theorem pageFillFail_ends {c page : Nat} {p : PageFill} {s : State} (hp : s.fillOf c page = some p) (hfail : fillDone s p = none) :
    exec (.pageFillFail c page) s = .next ((s.groupIds c).foldl (fun s k => failWaiters c page s k.1 k.2) (s.failFills c page)) := by
  show execPageFillFail c page s = _
  simp only [execPageFillFail, hp, Option.any_some, hfail, Option.isNone_none]
  rfl

theorem pageFillFail_happens {c page : Nat} {p : PageFill} {s : State} (hp : s.fillOf c page = some p) (hfail : fillDone s p = none)
    (b g i : Nat) (kind : AccKind) (a : DWord) (v : Nat × Nat) :
    Happens (.pageFillFail c page) s (fun t =>
      (∀ q ∈ t.pageFills, q.ctx = c → q.page = page → q.failed = some s.clock) ∧
      (s.groupIds c = [(b, g)] → HasLane s b g i → (s.lane b g i).st = .waiting (.page c page kind a) →
        (∀ j, j < i → ∀ k d, (s.lane b g j).st ≠ .waiting (.page c page k d)) → (s.group b g).trap = none →
        (s.ctx (s.block b).ctx).vector = some v →
        ∃ r, (t.group b g).trap = some r ∧ r.trap.cause = 8 ∧ r.trap.sub = 5 ∧ r.trap.kind = kind ∧ r.trap.addr = a)) := by
  have hfills : ((s.groupIds c).foldl (fun s k => failWaiters c page s k.1 k.2) (s.failFills c page)).pageFills =
      (s.failFills c page).pageFills :=
    foldl_pageFills (α := Nat × Nat) (fun u k => failWaiters_pageFills c page u k.1 k.2) _ _
  refine ⟨_, pageFillFail_ends hp hfail, fun q hq hc hpage => ?_, fun hids h hst hleast hout hv => ?_⟩
  · exact State.failed_of_mem_failFills (hfills ▸ hq) hc hpage
  · rw [hids]
    exact failWaiters_traps (s := s.failFills c page) h hst hleast hout hv

/-! ## Invalidations (R205) -/

theorem getD_upd {α : Type} {t : Tbl α} {n : Nat} {f : α → α} {z : α} {P : α → Prop} (hf : ∀ x, P (f x)) (hz : P z) :
    P ((Tbl.at (Tbl.upd t n f) n).getD z) := by
  rw [Tbl.at_upd_same]
  cases Tbl.at t n with
  | none => exact hz
  | some x => exact hf x

theorem not_meets_of_mem_filter {v : Inval} {tlb : List TlbEntry} : ∀ e ∈ tlb.filter (fun t => !v.meets t), v.meets e = false :=
  fun e he => by simpa using (List.mem_filter.mp he).2

theorem dropCached_core {s : State} {v : Inval} {agent : Nat} (h : agent < 256) :
    ∀ e ∈ ((dropCached s v agent).core agent).tlb, v.meets e = false := by
  simp only [dropCached, h, if_true, State.core]
  exact getD_upd (P := fun k : Core => ∀ e ∈ k.tlb, v.meets e = false) (fun _ => not_meets_of_mem_filter) (fun _ he => nomatch he)

theorem dropCached_proofer {s : State} {v : Inval} {agent : Nat} (h : 256 ≤ agent) (h' : agent < 260) :
    ∀ e ∈ ((dropCached s v agent).die (agent - 256)).prooferTlb, v.meets e = false := by
  simp only [dropCached, Nat.not_lt.mpr h, h', if_true, if_false, State.die]
  exact getD_upd (P := fun d : Die => ∀ e ∈ d.prooferTlb, v.meets e = false) (fun _ => not_meets_of_mem_filter) (fun _ he => nomatch he)

theorem dropCached_engine {s : State} {v : Inval} {agent : Nat} (h : 260 ≤ agent) :
    ∀ e ∈ ((dropCached s v agent).die (agent - 260)).engineTlb, v.meets e = false := by
  simp only [dropCached, Nat.not_lt.mpr h, Nat.not_lt.mpr (Nat.le_trans (by decide : 256 ≤ 260) h), if_false, State.die]
  exact getD_upd (P := fun d : Die => ∀ e ∈ d.engineTlb, v.meets e = false) (fun _ => not_meets_of_mem_filter) (fun _ he => nomatch he)

theorem invalidationReceipt_happens {n agent : Nat} {v : Inval} {s : State}
    (hv : s.invals.find? (fun v => v.id == n && v.toReceive.contains agent) = some v) :
    Happens (.invalidationReceipt n agent) s (fun t => t.mem = s.mem ∧ (∀ w ∈ t.invals, w.id = n → agent ∉ w.toReceive) ∧
      (agent < 256 → ∀ e ∈ (t.core agent).tlb, v.meets e = false) ∧
      (256 ≤ agent → agent < 260 → ∀ e ∈ (t.die (agent - 256)).prooferTlb, v.meets e = false) ∧
      (260 ≤ agent → ∀ e ∈ (t.die (agent - 260)).engineTlb, v.meets e = false)) := by
  refine ⟨_, (congrArg (fun o : Option Inval => eventOpt s (o.map _)) hv).trans rfl, dropCached_mem .., fun w hw hwn hin => ?_,
    dropCached_core, dropCached_proofer, dropCached_engine⟩
  obtain ⟨y, -, rfl⟩ := List.mem_map.mp hw
  split at hin
  · simp [without] at hin
  · next hy =>
    rw [if_neg hy] at hwn
    simp [hwn] at hy

theorem invalidationAck_happens {n agent : Nat} {ids : List Nat} {v : Inval} {s : State} (hv : v ∈ s.invals) (hn : v.id = n)
    (hids : (agent, ids) ∈ v.waiting) (hdone : ∀ i ∈ ids, ∀ q, s.req? i = some q → q.performed = true) :
    Happens (.invalidationAck n agent) s (fun t => t.mem = s.mem ∧
      (∀ w ∈ t.invals, w.id = n → ∀ k ∈ w.waiting, k.1 = agent → ∃ i ∈ k.2, ∃ q, s.req? i = some q ∧ q.performed = false) ∧
      (v.toReceive = [] → v.waiting = [(agent, ids)] → (∀ w ∈ s.invals, w.id = n → w = v) → ∀ w ∈ t.invals, w.id ≠ n)) := by
  have hall : ids.all (fun i => (s.req? i).all Req.performed) = true := by
    simpa [Option.all_eq_true] using hdone
  refine event_happens rfl (List.any_eq_true.mpr ⟨v, hv, ?_⟩) ⟨rfl, fun w hw hwn k hk hka => ?_, fun hrecv hwaits honly w hw hwn => ?_⟩
  · simp only [hn, beq_self_eq_true, Bool.true_and, List.any_eq_true]
    exact ⟨_, hids, by simpa using hall⟩
  · obtain ⟨y, -, rfl⟩ := List.mem_map.mp (List.mem_of_mem_filter hw)
    split at hk
    · have hopen := (List.mem_filter.mp hk).2
      simpa [hka, Option.all_eq_true] using hopen
    · next hy =>
      rw [if_neg hy] at hwn
      simp [hwn] at hy
  · obtain ⟨hw, hleft⟩ := List.mem_filter.mp hw
    obtain ⟨y, hy, rfl⟩ := List.mem_map.mp hw
    have hyn : y.id = n := by
      split at hwn <;> exact hwn
    obtain rfl := honly y hy hyn
    obtain ⟨i, hi, hopen⟩ : ∃ i ∈ ids, (s.req? i).all Req.performed = false := by simpa [hyn, hrecv, hwaits] using hleft
    exact absurd (List.all_eq_true.mp hall i hi) (by simp [hopen])

/-! ## The events of names and pages (O45) -/

/-- A slot that departs has another state and colour, and its departure stands first in its ring. -/
theorem Slot.departs_of_departed {y x : Slot} {cause next : Nat} (h : y = x.departed cause next) :
    y.state = next ∧ y.colour = x.colour + 1 ∧ y.ring.head? = some { old := x.colour, new := x.colour + 1, cause := cause } :=
  h ▸ ⟨rfl, rfl, Slot.departed_ring ..⟩

/-- Settles O45: each event takes place under its conditions, and what it does is read off the operation it names: a resolution's
answer, a fetch's end, a departure with its record, a frame filled or failed, an invalidation received and acknowledged. -/
theorem nameAndPageEventsHappen : Obligations.NameAndPageEventsHappen := by
  refine ⟨⟨fun n l r s hf hr h hst => ⟨fun i x hslot hfetching hdeparted => ?_, fun hslot hnow hbody => ?_⟩,
      fun c n x s hc hx hcolour => ⟨fun r hst hr => fetchComplete_happens hc hx r hst hr, fun hst => ?_, fun hst => ?_,
        fun home addr a hst hdomain hhome haddr hmove => ?_⟩,
      fun c n core ids d s => slotInvalidationAck_happens⟩,
    fun c page pa p g u s => pageFillComplete_happens,
    fun c page b g i addr kind a v p s hp hfail => pageFillFail_happens hp hfail b g i kind a v,
    fun n agent v s => invalidationReceipt_happens, fun n agent ids v s => invalidationAck_happens⟩
  · exact objectResolution_tells hf hr h hst (resolve_slot hslot hfetching hdeparted) rfl (State.modCtx_mem ..)
  · exact objectResolution_tells hf hr h hst (resolve_absent hslot hnow hbody) rfl rfl
  · obtain ⟨t, ht, hmem, hslot, hrest⟩ := fetchLost_happens hc hx hcolour hst
    exact ⟨t, ht, hmem, Slot.departs_of_departed hslot, hrest⟩
  · obtain ⟨t, ht, hmem, hslot⟩ := slotEviction_happens hc hx hcolour hst
    exact ⟨t, ht, hmem, Slot.departs_of_departed hslot⟩
  · obtain ⟨t, ht, hmem, hslot⟩ := objectHomeMove_happens hc hx hcolour hst hdomain hhome haddr hmove
    refine ⟨t, ht, hmem, ?_⟩
    dsimp only
    rw [hslot]
    exact ⟨⟨rfl, rfl, Slot.departed_ring x 1 (if home = s.devNum then 2 else 4)⟩, rfl, rfl⟩

end Sys2Proof.Machine

/-!
# Requests of one lane's memory word (O18, O19, O20)
-/

namespace Sys2Proof.Machine

open Sys2Proof.Claims

/-! ## What a lane awaits (R101) -/

theorem mem_insertNat {x y : Nat} (l : List Nat) : y ∈ insertNat x l ↔ y = x ∨ y ∈ l := by
  induction l with
  | nil => simp [insertNat]
  | cons z l ih =>
    simp only [insertNat]
    split
    · simp
    · split
      · next h => simp [h]
      · simp only [List.mem_cons, ih]
        tauto

theorem mem_foldl_insertNat {y : Nat} (xs l : List Nat) : y ∈ xs.foldl (fun p x => insertNat x p) l ↔ y ∈ xs ∨ y ∈ l := by
  induction xs generalizing l with
  | nil => simp
  | cons x xs ih =>
    simp only [List.foldl_cons, ih, mem_insertNat, List.mem_cons]
    tauto

/-- The registers that a request's reply fills await it. -/
theorem awaits_pend (n : Nat) (r : Req) (l : Lane) : ∀ x ∈ r.dest.named, (awaits n r l).pend.contains (regIx n x) = true := by
  intro x hx
  rw [List.contains_iff_mem]
  exact (mem_foldl_insertNat ..).mpr (.inl (List.mem_map_of_mem hx))

theorem HasPath.send_flane {s : State} {f : Focus} (h : HasPath s f) {i : Nat} (hi : i ∈ f.lanes) (ld : Bool) {r : Req} (hr : r.lane = i) :
    ((s.modLane f.blk f.grp i (fun l => l.passGate ld)).send f r).flane f i =
      awaits (s.fgroup f).nregs r ((s.flane f i).passGate ld) := by
  subst hr
  let t := s.modLane f.blk f.grp r.lane (fun l => l.passGate ld)
  obtain ⟨u, hu, hblocks, -, -⟩ := t.send_eq f r
  have hregs : (t.fgroup f).nregs = (s.fgroup f).nregs := (congrArg Group.nregs (h.onLanes_group [r.lane] (fun _ l => l.passGate ld)) :)
  rw [hu, hregs]
  refine (State.lane_modLane_same (((h.of_modLane _ _).of_blocks hblocks).hasLane hi) _).trans (congrArg _ ?_)
  exact (State.lane_of_blocks hblocks ..).trans (State.lane_modLane_same (h.hasLane hi) _)

/-- What a lane stands at once its word has made its request: at the next word, and there it waits for `w` where the word says so. -/
def Lane.asked (l : Lane) (a : Nat) (w : Option Wait) : Lane := { l.advance a with st := w.elim .ready .waiting }

theorem Lane.asked_v (n : Nat) (r : Req) (l : Lane) (ld : Bool) (a : Nat) (w : Option Wait) :
    ((awaits n r (l.passGate ld)).asked a w).v = l.v := rfl

section
variable {s : State} {f : Focus} {i : Nat} {g : Guard} {ext : Bool} {gate : State → Focus → Nat → Option Wait}
  {chk : State → Focus → Nat → Chk} {go : Focus → State → Nat → Chk → State × Option Next} {use : List Nat} (h : Solo s f i g use)
  (hext : (ext && (s.fgroup f).region.isSome) = false) {p : Place} (hl : Leaves s i (gate s f i) (chk s f i) p) {ld : Bool} {r : Req}
  {w : Option Wait} (hr : r.id = s.nextId ∧ r.blk = f.blk ∧ r.grp = f.grp ∧ r.lane = i)
  (hgo : ∀ k seen, go f { s with cores := k } i (.ok p seen) =
    ((State.modLane { s with cores := k } f.blk f.grp i (fun l => l.passGate ld)).send f r, w.map (Next.goWait (f.pc + 1))))
  {P : Req → Prop} (hP : ∀ b c, P { r with performed := b, lost := c })
include h hext hl hr hgo hP

/-- A memory word of one lane whose access leaves by the request `r`. -/
theorem Solo.asks_lane :
    ∃ t, runWord s use (memWord g ext gate chk go) = .next t ∧ Asked s t f i P ∧
      t.flane f i = (awaits (s.fgroup f).nregs r ((s.flane f i).passGate ld)).asked (f.pc + 1) w := by
  obtain ⟨hid, hblk, hgrp, hlane⟩ := hr
  obtain ⟨hgate, ⟨seen, hchk⟩, hroom⟩ := hl
  have hi : i ∈ f.lanes := by simp [h.one]
  have hsee := s.see_eq (s.fblock f).core (s.fctx f) seen
  generalize (s.see (s.fblock f).core (s.fctx f) seen).cores = k at hsee
  have hpath : HasPath { s with cores := k } f := h.toHasPath.of_blocks rfl
  have hleft := hpath.send hi ld hlane
  have hsent := hpath.send_flane hi ld hlane
  have hword := memWord_ok h.acting hext hgate hchk hroom ((congrArg (fun t => go f t i (.ok p seen)) hsee).trans (hgo k seen))
  have hnext : nextOf f ((w.map (Next.goWait (f.pc + 1))).map (fun n => (i, n))).toList i =
      (w.map (Next.goWait (f.pc + 1))).getD (.go (f.pc + 1)) := by
    cases w <;> simp [nextOf]
  obtain ⟨t, ht, hplaced, hrest, -⟩ := runWord_one h.toReady h.one hword hleft.path hleft.landing (by
    rw [hnext]
    cases w <;> rfl)
  have hflane : t.flane f i = (awaits (s.fgroup f).nregs r ((s.flane f i).passGate ld)).asked (f.pc + 1) w := by
    rw [hplaced, hnext, hsent]
    cases w <;> rfl
  obtain ⟨q, hq, heq⟩ := hleft.request
  refine ⟨t, ht, ⟨⟨q, by rw [hrest]; exact hq, ?_⟩, by rw [hflane]; rfl, by rw [hrest]; exact hleft.mem⟩, hflane⟩
  rw [heq]
  exact ⟨hid, hblk, hgrp, hlane, hP .., fun x hx => by rw [hflane]; exact awaits_pend _ _ _ x hx⟩

theorem Solo.asks : ∃ t, runWord s use (memWord g ext gate chk go) = .next t ∧ Asked s t f i P := by
  obtain ⟨t, ht, hasked, -⟩ := h.asks_lane hext hl hr hgo hP
  exact ⟨t, ht, hasked⟩

end

theorem State.before_passGate {s : State} {f : Focus} (h : HasPath s f) {i : Nat} (hi : i ∈ f.lanes) (ld rel : Bool) :
    (s.modLane f.blk f.grp i (fun l => l.passGate ld)).before f i rel = s.before f i rel := by
  unfold State.before
  rw [show (s.modLane f.blk f.grp i _).flane f i = _ from State.lane_modLane_same (h.hasLane hi) _]
  rfl

/-! ## Atomics (R232, R233) -/

/-- The request of a lane's `atom` outside the scratchpad. -/
def atomReq (m : MForm) (op : AtomOp) (src : BitVec 9) (comb nr : Bool) (s : State) (f : Focus) (i : Nat) (p : Place) : Req :=
  let t := s.modLane f.blk f.grp i (fun l => l.passGate true)
  { t.blankReq f i (.atomic op comb) p (tySize m.ty) m.ty with
    scope := m.scope, ord := m.ord, data := BitVec.ofNat 512 ((s.view f i).operand m.ty src % 2 ^ (8 * tySize m.ty)),
    dest := if nr then .none else .reg m.data.toNat m.ty, isLd := !nr, after := t.before f i (isRel m.ord),
    stage := if combinable op m.ty m.scope comb p then 0 else 2 }

/-- The request of a lane's `cas` outside the scratchpad. -/
def casReq (m : MForm) (src : BitVec 9) (s : State) (f : Focus) (i : Nat) (p : Place) : Req :=
  let t := s.modLane f.blk f.grp i (fun l => l.passGate true)
  { t.blankReq f i .cas p (tySize m.ty) m.ty with
    scope := m.scope, ord := m.ord, data := BitVec.ofNat 512 ((s.view f i).operand m.ty src),
    cmp := BitVec.ofNat 512 ((s.view f i).operand m.ty m.data), dest := .reg m.data.toNat m.ty, isLd := true,
    after := t.before f i (isRel m.ord) }

theorem Space.beq_sp_of_external {x : Space} (h : x = .gl ∨ x = .rsp) : (x == .sp) = false := by
  rcases h with rfl | rfl <;> rfl

/-- Settles O18: what each of the two words does in its one lane is to send its request. -/
theorem atomicsAskTheirPlace : Obligations.AtomicsAskTheirPlace := by
  intro m op src comb nr s f i p hsp hregion hl
  have hnot := Space.beq_sp_of_external hsp
  have hext : (externalSpace m.space && (s.fgroup f).region.isSome) = false := by simp [hregion]
  refine ⟨fun h => ?_, fun h => ?_⟩
  · exact h.asks hext hl (go := atomLane m op src comb nr) (r := atomReq m op src comb nr s f i p) (w := none) ⟨rfl, rfl, rfl, rfl⟩
      (fun _ _ => by simp only [atomLane, hnot]; rfl) (fun _ _ => ⟨rfl, rfl, rfl, rfl, rfl, rfl⟩)
  · exact h.asks hext hl (go := casLane m src) (r := casReq m src s f i p) (w := none) ⟨rfl, rfl, rfl, rfl⟩
      (fun _ _ => by simp only [casLane, hnot]; rfl) (fun _ _ => ⟨rfl, rfl, rfl, rfl, rfl, rfl⟩)

/-! ## Kneader commands (R237 to R241) -/

/-- The packet of a lane's Kneader command. -/
def kneaderReq (m : MForm) (kind : ReqKind) (size data cmp : Nat) (dest : Dest) (s : State) (f : Focus) (i : Nat) (p : Place) : Req :=
  let t := s.modLane f.blk f.grp i (fun l => l.passGate true)
  { t.blankReq f i kind p size .n64 with
    scope := m.scope, ord := m.ord, data := BitVec.ofNat 512 data, cmp := BitVec.ofNat 512 cmp, dest := dest, isLd := true,
    after := t.before f i (isRel m.ord) }

/-- A command of one lane leaves, and its lane waits for the reply at the next word. -/
theorem Solo.kneads {s : State} {f : Focus} {i : Nat} {m : MForm} {use : List Nat} (h : Solo s f i m.g use)
    (hregion : (s.fgroup f).region = none) {chk : State → Focus → Nat → Chk} {p : Place} (hl : Leaves s i (kGate m s f i) (chk s f i) p)
    {kind : ReqKind} {size : Nat} {data cmp : View → Nat} {dest : Dest} {P : Req → Prop}
    (hP : ∀ b c, P { kneaderReq m kind size (data (s.view f i)) (cmp (s.view f i)) dest s f i p with performed := b, lost := c }) :
    ∃ t, runWord s use (memWord m.g true (kGate m) chk (fun f s i c =>
        sendK m kind size (data (s.view f i)) (cmp (s.view f i)) dest f s i c)) = .next t ∧
      (t.flane f i).st = .waiting (.reqs [s.nextId]) ∧ Asked s t f i P := by
  obtain ⟨t, ht, hasked, hlane⟩ := h.asks_lane (ext := true) (gate := kGate m) (chk := chk)
    (go := fun f s i c => sendK m kind size (data (s.view f i)) (cmp (s.view f i)) dest f s i c)
    (r := kneaderReq m kind size (data (s.view f i)) (cmp (s.view f i)) dest s f i p) (ld := true) (w := some (.reqs [s.nextId]))
    (by simp [hregion]) hl ⟨rfl, rfl, rfl, rfl⟩ (fun _ _ => rfl) hP
  exact ⟨t, ht, by rw [hlane]; rfl, hasked⟩

/-- Settles O20: each command by `Solo.kneads`. -/
theorem kneaderCommandsLeaveAndWait : Obligations.KneaderCommandsLeaveAndWait := by
  intro m src n steps key s f i p hregion k v waits
  refine ⟨fun h hl => ?_, fun h hl => ?_, fun h hl => ?_, fun h hl => ?_⟩
  · exact h.kneads hregion hl (data := fun v => v.wideRegs src (2 * k)) (cmp := fun v => v.wideRegs m.data (2 * k))
      (fun _ _ => ⟨rfl, rfl, rfl, rfl, rfl⟩)
  · exact h.kneads hregion hl (data := fun v => v.wideRegs src 2) (cmp := fun _ => 0) (fun _ _ => ⟨rfl, rfl, rfl, rfl⟩)
  · exact h.kneads hregion hl (data := fun _ => 0) (cmp := fun _ => 0) (fun _ _ => ⟨rfl, rfl, rfl⟩)
  · exact h.kneads hregion hl (data := fun v => v.wideRegs src 2) (cmp := fun v => (v.base m.base).val.toNat)
      (fun _ _ => ⟨rfl, rfl, rfl, rfl, rfl⟩)

end Sys2Proof.Machine

/-!
# Fences and counts (O22)
-/

namespace Sys2Proof.Machine

open Sys2Proof.Claims

/-! ## Fences (R236) -/

/-- A fence changes what its lane's later accesses wait for, and there it adds the requests that its order names. -/
theorem fenceLane_eq (m : MForm) (f : Focus) (s : State) (i : Nat) :
    ∃ k : Lane → Lane, fenceLane m f s i = s.modLane f.blk f.grp i k ∧ ∀ l, k l = { l with order := (k l).order } ∧
      (isAcq m.ord = true → ∀ r ∈ s.laneReqs f.blk f.grp i, r.isLd = true → r.id ∈ (k l).order.all) ∧
      (isRel m.ord = true → ∀ r ∈ s.laneReqs f.blk f.grp i, r.id ∈ (k l).order.writes) := by
  refine ⟨_, rfl, fun l => ⟨rfl, fun hacq r hr hld => ?_, fun hrel r hr => ?_⟩⟩
  · have hread : r.id ∈ ((s.laneReqs f.blk f.grp i).filter (fun r => r.dest != .none || r.isLd)).map Req.id :=
      List.mem_map_of_mem (List.mem_filter.mpr ⟨hr, by simp [hld]⟩)
    simp only [hacq, if_true]
    repeat' split
    all_goals exact List.mem_append_right _ hread
  · have hall : r.id ∈ (s.laneReqs f.blk f.grp i).map Req.id := List.mem_map_of_mem hr
    simp only [hrel, if_true]
    repeat' split
    all_goals exact List.mem_append_right _ hall

theorem fence_completes (m : MForm) {s : State} {f : Focus} {i : Nat} (h : Solo s f i m.g []) :
    ∃ t, exec (.fence m) s = .next t ∧ OnlyBlock s t f.blk ∧ (t.flane f i).pc = (s.flane f i).landing (f.pc + 1) ∧
      (t.flane f i).v = (s.flane f i).v ∧
      (isAcq m.ord = true → ∀ r ∈ s.laneReqs f.blk f.grp i, r.isLd = true → r.id ∈ (t.flane f i).order.all) ∧
      (isRel m.ord = true → ∀ r ∈ s.laneReqs f.blk f.grp i, r.id ∈ (t.flane f i).order.writes) := by
  obtain ⟨k, hk, hlane⟩ := fenceLane_eq m f s i
  obtain ⟨hrest, hacq, hrel⟩ := hlane (s.flane f i)
  obtain ⟨t, ht, honly, hflane⟩ : ∃ t, execFence m s = .next t ∧ OnlyBlock s t f.blk ∧
      t.flane f i = (k (s.flane f i)).advance (f.pc + 1) := by
    unfold execFence
    refine runWord_lane h.toReady h.one ?_ (fun a => by rw [hrest]; rfl)
    simp only [h.acting, List.foldl_cons, List.foldl_nil, hk]
  refine ⟨t, ht, honly, ?_⟩
  rw [hflane]
  exact ⟨by rw [hrest]; rfl, by rw [hrest]; rfl, hacq, hrel⟩

/-! ## Counts (R242 to R244) -/

theorem wcnt_within {x : FForm} {ld st cp tl : BitVec 3} {s : State} {f : Focus} (h : Ready s f []) (hacts : s.acting f x.g ≠ [])
    (hok : s.countsOk f.blk f.grp ld.toNat st.toNat cp.toNat tl.toNat = true) :
    ∃ t, exec (.wcnt x ld st cp tl) s = .next t ∧ OnlyBlock s t f.blk ∧
      ∀ i ∈ f.lanes, (t.flane f i).pc = (s.flane f i).landing (f.pc + 1) ∧ (t.flane f i).st = .ready ∧
        (t.flane f i).v = (s.flane f i).v := by
  let k : Nat → Lane → Lane := fun _ l => wcntDone ld.toNat st.toNat cp.toNat tl.toNat (s.fgroup f) l
  have hp := h.toHasPath
  have hlane : ∀ i ∈ f.lanes, ((s.fgroup f).modLanes f.lanes k).lane i = k i (s.flane f i) := fun i hi =>
    Group.lane_modLanes_same _ _ k i hi h.once (hp.lanes i hi)
  obtain ⟨t, ht, hr⟩ : ∃ t, execWcnt x ld st cp tl s = .next t ∧ PathResult s t f (fun g => g.modLanes f.lanes k)
      (fun i _ => placeLane f [] i (((s.fgroup f).modLanes f.lanes k).lane i)) := by
    unfold execWcnt
    refine runWord_path h.toIssues (fun g => g.modLanes f.lanes k) ?_ (fun g => Group.modLanes_length g _ k)
      (fun i hi => Group.lane_modLanes_ne _ _ k i hi) (outside_nil fun i hi => ?_)
    · simp only [List.isEmpty_iff, hacts, hok, if_true, if_false]
      rfl
    · rw [show (s.onGroup f _).flane f i = _ from congrArg (Group.lane · i) (hp.group_eq _), hlane i hi]
      exact h.inside i hi
  refine ⟨t, ht, ⟨hr.rest, hr.blocks⟩, fun i hi => ?_⟩
  rw [hr.lanes i hi, hlane i hi]
  exact ⟨rfl, rfl, rfl⟩

theorem wcnt_beyond {x : FForm} {ld st cp tl : BitVec 3} {s : State} {f : Focus} (h : Ready s f []) (hacts : s.acting f x.g ≠ [])
    (hnot : s.countsOk f.blk f.grp ld.toNat st.toNat cp.toNat tl.toNat = false) :
    ∃ t, exec (.wcnt x ld st cp tl) s = .next t ∧
      PathResult s t f id (fun _ l => { l with st := .waiting (.counts ld.toNat st.toNat cp.toNat tl.toNat) }) := by
  show ∃ t, execWcnt x ld st cp tl s = .next t ∧ _
  unfold execWcnt
  refine PathResult.exists_congr (runWord_stops h id f.lanes (.wait (.counts ld.toNat st.toNat cp.toNat tl.toNat)) ?_ rfl (fun _ => rfl))
    (fun i hi => if_pos hi)
  simp only [List.isEmpty_iff, hacts, hnot, if_false, Bool.false_eq_true, State.onGroup_id]

/-- Settles O22: a fence by what it adds to its lane's order, and `wcnt` by whether the counts are within its bounds. -/
theorem fencesAndCountsOrder : Obligations.FencesAndCountsOrder :=
  ⟨fun m _ _ _ h => fence_completes m h, fun _ _ _ _ _ _ _ h hacts => ⟨wcnt_within h hacts, wcnt_beyond h hacts⟩⟩

end Sys2Proof.Machine

/-!
# Lines and hints (O21)
-/

namespace Sys2Proof.Machine

open Sys2Proof.Claims

/-! ## Words that leave every block alone -/

theorem State.readLoss_eq (s : State) (c : Nat) (p : Place) (n : Nat) : s.readLoss c p n = { s with ctxs := (s.readLoss c p n).ctxs } := by
  unfold State.readLoss
  split
  · split <;> rfl
  · rfl

/-- A word of one lane that touches no block: its lane goes on. -/
theorem runWord_beside {s : State} {f : Focus} {use : List Nat} {i : Nat} (h : Ready s f use) (hone : f.lanes = [i])
    {act : State → Focus → Eff} {u : State} (ha : act s f = .ok u []) (hb : u.blocks = s.blocks) :
    ∃ t, runWord s use act = .next t ∧ t = { u with blocks := t.blocks } ∧ t.flane f i = (s.flane f i).advance (f.pc + 1) := by
  have hlane : u.flane f i = s.flane f i := State.lane_of_blocks hb ..
  obtain ⟨t, ht, hflane, hrest, -⟩ := runWord_one h hone ha (h.toHasPath.of_blocks hb) (fun a => by rw [hlane]) rfl
  exact ⟨t, ht, hrest, hflane.trans (by rw [hlane]; rfl)⟩

/-! ## Prefetches and pointer hints (R186, R187, R229) -/

theorem State.startFill_blocks (s : State) (c d line : Nat) : (s.startFill c d line).blocks = s.blocks := by
  unfold State.startFill
  dsimp only
  split
  · rfl
  · rw [State.readLoss_eq]
    rfl

theorem prefetchLane_blocks (m : MForm) (off : BitVec 14) (f : Focus) (s : State) (i : Nat) :
    (prefetchLane m off f s i).blocks = s.blocks := by
  unfold prefetchLane
  dsimp only
  split
  · split
    · rfl
    · exact State.startFill_blocks ..
  · rfl

theorem pfetchLane_blocks (m : MForm) (off : BitVec 14) (f : Focus) (s : State) (i : Nat) :
    (pfetchLane m off f s i).blocks = s.blocks := by
  unfold pfetchLane
  split
  · split
    · rfl
    · rw [State.readLoss_eq]
      dsimp only
      split
      · rfl
      · split <;> rfl
  · rfl

theorem prelLane_blocks (m : MForm) (f : Focus) (s : State) (i : Nat) : (prelLane m f s i).blocks = s.blocks := by
  unfold prelLane
  dsimp only
  split <;> rfl

section
variable {m : MForm} (off : BitVec 14) {s : State} {f : Focus} {i : Nat} (h : Solo s f i m.g (baseUse m.base))
include h

theorem prf_completes (hlock : ∀ t, prefetchCheck m off s f i ≠ .bad rankLock t) :
    ∃ t, exec (.prf m off) s = .next t ∧ t.mem = s.mem ∧ t.flane f i = (s.flane f i).advance (f.pc + 1) := by
  obtain ⟨t, ht, hrest, hlane⟩ : ∃ t, execPrf m off s = .next t ∧ t = { prefetchLane m off f s i with blocks := t.blocks } ∧
      t.flane f i = (s.flane f i).advance (f.pc + 1) := by
    unfold execPrf
    refine runWord_beside h.toReady h.one ?_ (prefetchLane_blocks ..)
    simp only [h.acting, List.filterMap_cons, List.filterMap_nil, List.foldl_cons, List.foldl_nil]
    cases hchk : prefetchCheck m off s f i with
    | bad r t => simp only [if_neg (fun hr : r = rankLock => hlock t (hr ▸ hchk))]
    | ok | const | fill => rfl
  exact ⟨t, ht, by rw [hrest]; exact prefetchLane_mem .., hlane⟩

theorem pfetch_completes :
    ∃ t, exec (.pfetch m off) s = .next t ∧ t.mem = s.mem ∧ t.flane f i = (s.flane f i).advance (f.pc + 1) := by
  obtain ⟨t, ht, hrest, hlane⟩ : ∃ t, execPfetch m off s = .next t ∧ t = { pfetchLane m off f s i with blocks := t.blocks } ∧
      t.flane f i = (s.flane f i).advance (f.pc + 1) := by
    unfold execPfetch
    refine runWord_beside h.toReady h.one ?_ (pfetchLane_blocks ..)
    rw [h.acting, List.foldl_cons, List.foldl_nil]
  exact ⟨t, ht, by rw [hrest]; exact pfetchLane_mem .., hlane⟩

omit off in
theorem prel_ends : ∃ t, exec (.prel m) s = .next t ∧ t = { prelLane m f s i with blocks := t.blocks } ∧
    t.flane f i = (s.flane f i).advance (f.pc + 1) := by
  show ∃ t, execPrel m s = .next t ∧ _
  unfold execPrel
  refine runWord_beside h.toReady h.one ?_ (prelLane_blocks ..)
  rw [h.acting, List.foldl_cons, List.foldl_nil]

/-! ## Invalidation of code (R231) -/

theorem cinv_ends (hgate : cinvGate s f i = none) : ∃ t, exec (.cinv m off) s = .next t ∧
    t = { cinvLane m off f s i with blocks := t.blocks } ∧ t.flane f i = (s.flane f i).advance (f.pc + 1) := by
  show ∃ t, execCinv m off s = .next t ∧ _
  unfold execCinv
  refine runWord_beside h.toReady h.one ?_ ?_
  · simp [h.acting, hgate]
  · unfold cinvLane
    split <;> rfl

end

/-- Where a `cinv` finds its line: an address below 2^57 is in no window, and neither is a base from which 8 KiB reach it. -/
theorem cinvAt_of_physOf {m : MForm} {off : BitVec 14} {s : State} {f : Focus} {i pa : Nat} :
    (let a : Int := (((s.view f i).base m.base).val.toNat : Int) + scaled off 1
     0 ≤ a ∧ canonical a.toNat = true ∧ s.physOf (s.fblock f).core (s.fctx f) a.toNat = some pa) → cinvAt m off s f i = some pa := by
  rintro ⟨h0, hcan, hphys⟩
  have hlow : (((s.view f i).base m.base).val.toNat : Int) + scaled off 1 < 2 ^ 57 := by
    have := of_decide_eq_true hcan
    omega
  have hoff : -(2 ^ 13 : Int) ≤ scaled off 1 := by
    have := off.le_two_mul_toInt
    simp only [scaled]
    omega
  have hbase : inWindow ((s.view f i).base m.base).val.toNat = false := by
    simp only [inWindow, beq_eq_false_iff_ne]
    omega
  have haddr : inWindow (addrBits ((((s.view f i).base m.base).val.toNat : Int) + scaled off 1)).toNat = false := by
    rw [toNat_addrBits h0 (by omega)]
    simp only [inWindow, beq_eq_false_iff_ne]
    omega
  simp only [cinvAt, windowed, hbase, haddr, Bool.or_self, Bool.false_eq_true, if_false]
  rw [if_neg (by simp [hcan, h0])]
  exact hphys

theorem Tbl.at_filter_none {α : Type} {t : Tbl α} {n : Nat} {p : Nat × α → Bool} (h : ∀ x, p (n, x) = false) :
    Tbl.at (t.filter p) n = none := by
  cases hx : Tbl.at (t.filter p) n with
  | none => rfl
  | some x =>
    have hp := (List.mem_filter.mp (Tbl.mem_of_at hx)).2
    rw [h x] at hp
    exact absurd hp Bool.false_ne_true

/-- A core whose loop buffer and instruction cache have lost a line does not have it. -/
theorem Core.codeLine_dropped (k : Core) (line : Nat) :
    ({ k with icache := k.icache.filter (fun x => x.2.line != line),
              loopBuf := k.loopBuf.filter (fun x => x.1 != line) } : Core).codeLine line = none := by
  simp only [Core.codeLine, Tbl.at_filter_none (p := fun x : Nat × List DWord => x.1 != line) (n := line) (fun x => by simp)]
  refine List.findSome?_eq_none_iff.mpr fun w _ => ?_
  dsimp only
  split
  · next x hx =>
    have hne := (List.mem_filter.mp (Tbl.mem_of_at hx)).2
    exact if_neg (by simpa using hne)
  · rfl

theorem State.dropCode_codeLine (s : State) {cores : List Nat} {c : Nat} (hc : c ∈ cores) (line : Nat) :
    ((s.dropCode cores line).core c).codeLine line = none := by
  have hcore : Tbl.at (s.dropCode cores line).cores c = (Tbl.at s.cores c).map (fun k =>
      { k with icache := k.icache.filter (fun x => x.2.line != line), loopBuf := k.loopBuf.filter (fun x => x.1 != line) }) := by
    have hmap : (s.dropCode cores line).cores = s.cores.map (fun e => (e.1, if cores.contains e.1 then
        { e.2 with icache := e.2.icache.filter (fun x => x.2.line != line), loopBuf := e.2.loopBuf.filter (fun x => x.1 != line) }
        else e.2)) := List.map_congr_left fun e _ => by split <;> rfl
    rw [hmap, Tbl.at_map s.cores (fun n (k : Core) => if cores.contains n then
        { k with icache := k.icache.filter (fun x => x.2.line != line), loopBuf := k.loopBuf.filter (fun x => x.1 != line) } else k)]
    simp [hc]
  unfold State.core
  rw [hcore]
  cases Tbl.at s.cores c with
  | none => exact Core.codeLine_dropped {} line
  | some k => exact Core.codeLine_dropped k line

/-! ## Write-back (R230) -/

/-- The request of a lane's `cwb`. -/
def cwbReq (s : State) (f : Focus) (i : Nat) (p : Place) : Req :=
  let t := s.modLane f.blk f.grp i (fun l => l.passGate false)
  { t.blankReq f i .cwb p 1 .n8 with after := t.before f i false }

theorem cwb_asks (m : MForm) (off : BitVec 14) {s : State} {f : Focus} {i : Nat} {p : Place} (h : Solo s f i m.g (baseUse m.base))
    (hregion : (s.fgroup f).region = none)
    (hl : Leaves s i (s.gate f i false true false .gl) (checkLine m off .write .store s f i) p) :
    ∃ t, exec (.cwb m off) s = .next t ∧ (t.flane f i).v = (s.flane f i).v ∧
      Asked s t f i (fun r => r.kind = .cwb ∧ r.place = p ∧ r.after = s.before f i false) := by
  obtain ⟨t, ht, hasked, hlane⟩ := h.asks_lane (ext := true) (gate := fun s f i => s.gate f i false true false .gl)
    (chk := checkLine m off .write .store) (go := cwbLane m) (r := cwbReq s f i p) (ld := false) (w := none)
    (P := fun r => r.kind = .cwb ∧ r.place = p ∧ r.after = s.before f i false)
    (by simp [hregion]) hl ⟨rfl, rfl, rfl, rfl⟩ (fun _ _ => rfl)
    (fun _ _ => ⟨rfl, rfl, State.before_passGate h.toHasPath (by simp [h.one]) false false⟩)
  exact ⟨t, ht, (congrArg Lane.v hlane).trans (Lane.asked_v ..), hasked⟩

/-- Settles O21: the hints touch tables beside the blocks, `cinv` drops the line at the address it finds, and `cwb` sends a request. -/
theorem lineAndHintWordsComplete : Obligations.LineAndHintWordsComplete := by
  refine ⟨fun m off s f i h => ⟨fun j hj => ?_, fun t pa hgate ht hphys c hc => ?_, fun t ht hb hctx hslot => ?_⟩,
    fun m off s f i p => cwb_asks m off⟩
  · rcases hj with ⟨rfl, hlock⟩ | ⟨rfl, hgate⟩ | rfl | rfl
    · exact prf_completes off h hlock
    · obtain ⟨t, ht, hrest, hlane⟩ := cinv_ends off h hgate
      exact ⟨t, ht, by rw [hrest]; exact cinvLane_mem .., hlane⟩
    · exact pfetch_completes off h
    · obtain ⟨t, ht, hrest, hlane⟩ := prel_ends h
      exact ⟨t, ht, by rw [hrest]; exact prelLane_mem .., hlane⟩
  · obtain ⟨u, hu, hrest, -⟩ := cinv_ends off h hgate
    obtain rfl : u = t := by simpa [hu] using ht
    rw [hrest, cinvLane, cinvAt_of_physOf hphys]
    exact s.dropCode_codeLine hc _
  · obtain ⟨u, hu, hrest, -⟩ := prel_ends h
    obtain rfl : u = t := by simpa [hu] using ht
    obtain ⟨x, hx⟩ := Option.isSome_iff_exists.mp hslot
    rw [hrest, prelLane, if_pos (by simpa using hb)]
    exact congrArg Slot.hint (State.slot_modSlot hctx hx _)

end Sys2Proof.Machine

/-!
# Scratchpads and stores (O19)
-/

namespace Sys2Proof

/-! ## Bytes and cells -/

theorem bytesOfNat_length (x n : Nat) : (bytesOfNat x n).length = n := by
  induction n generalizing x with
  | zero => rfl
  | succ n ih => simp [bytesOfNat, ih]

theorem bytesOfNat_natOfBytes (bs : List Byte) : bytesOfNat (natOfBytes bs) bs.length = bs := by
  induction bs with
  | nil => rfl
  | cons b bs ih =>
    have hlow : BitVec.ofNat 8 (b.toNat + 256 * natOfBytes bs) = b := by
      apply BitVec.eq_of_toNat_eq
      have := b.isLt
      simp only [BitVec.toNat_ofNat]
      omega
    have hrest : (b.toNat + 256 * natOfBytes bs) / 256 = natOfBytes bs := by
      have := b.isLt
      omega
    simp only [natOfBytes, List.length_cons, bytesOfNat, hlow, hrest, ih]

/-- A run of cells written one after the other. -/
theorem Cells.setRun {w : Nat} (t : Cells w) (h : Cells.wf t = true) (off : Nat) (k : Nat → BitVec w) (n : Nat) :
    Cells.wf ((List.range n).foldl (fun c i => Cells.set c (off + i) (k i)) t) = true ∧
    ∀ a, Cells.get ((List.range n).foldl (fun c i => Cells.set c (off + i) (k i)) t) a =
      if off ≤ a ∧ a < off + n then k (a - off) else Cells.get t a := by
  induction n with
  | zero => exact ⟨h, fun a => (if_neg (by omega)).symm⟩
  | succ n ih =>
    obtain ⟨hwf, hget⟩ := ih
    rw [List.range_succ, List.foldl_append, List.foldl_cons, List.foldl_nil]
    refine ⟨Cells.wf_set _ _ _ hwf, fun a => ?_⟩
    by_cases ha : a = off + n
    · subst ha
      rw [Cells.get_set_same _ _ _ hwf, if_pos (by omega), Nat.add_sub_cancel_left]
    · rw [Cells.get_set_ne _ _ hwf ha, hget]
      congr 1
      rw [eq_iff_iff]
      omega

namespace Machine

open Sys2Proof.Claims

/-! ## Words of one lane that end well -/

/-- A word of one lane after which nothing but its group differs from the state that its effect leaves. -/
theorem runWord_one_group {s u : State} {f : Focus} {use : List Nat} {i : Nat} (h : Ready s f use) (hone : f.lanes = [i])
    {act : State → Focus → Eff} (ha : act s f = .ok u []) (hp : HasPath u f)
    (hl : ∀ a, (u.flane f i).landing a = (s.flane f i).landing a) :
    ∃ t, runWord s use act = .next t ∧ OnlyGroup u t f ∧ t = { u with blocks := t.blocks } ∧
      t.flane f i = (u.flane f i).advance (f.pc + 1) := by
  have hi : i ∈ f.lanes := by simp [hone]
  refine ⟨_, runWord_ok h.toIssues ha (outside_nil fun j hj => ?_), hp.onlyGroup _, rfl, hp.placed h.once [] i hi⟩
  obtain rfl : j = i := by simpa [hone] using hj
  rw [hl]
  exact h.inside j hj

theorem OnlyGroup.spad {s t : State} {f : Focus} (h : OnlyGroup s t f) : (t.fblock f).spad = (s.fblock f).spad :=
  (congrArg Block.spad h.block).trans rfl

theorem State.bytesAt_of_spad {s t : State} {b : Nat} (h : (t.block b).spad = (s.block b).spad) (a n : Nat) :
    t.bytesAt (.rsp b a) n = s.bytesAt (.rsp b a) n := by
  simp only [State.bytesAt, Place.plus, State.byteAt, h]

theorem State.natAt_of_spad {s t : State} {b : Nat} (h : (t.block b).spad = (s.block b).spad) (a n : Nat) :
    t.natAt (.rsp b a) n = s.natAt (.rsp b a) n := by
  rw [State.natAt, State.bytesAt_of_spad h, State.natAt]

theorem State.bytesAt_length (s : State) (p : Place) (n : Nat) : (s.bytesAt p n).length = n := by
  simp [State.bytesAt]

/-! ## Scratchpad writes (R213) -/

/-- Of the scratchpads only that of the path's block differs, and of that only the bytes at `a`, which are those given. -/
structure PadWritten (s t : State) (f : Focus) (a : Nat) (bytes : List Byte) : Prop where
  others : ∀ b, b ≠ f.blk → t.block? b = s.block? b
  written : t.bytesAt (.rsp f.blk a) bytes.length = bytes
  outside : ∀ c, c < a ∨ a + bytes.length ≤ c → Cells.get (t.fblock f).spad c = Cells.get (s.fblock f).spad c

/-- Where nothing but the path's group differs, the bytes of its block's scratchpad are those it had. -/
theorem PadWritten.of_onlyGroup {s t : State} {f : Focus} (h : OnlyGroup s t f) (a n : Nat) :
    PadWritten s t f a (bytesOfNat (s.natAt (.rsp f.blk a) n) n) := by
  have hbytes : bytesOfNat (s.natAt (.rsp f.blk a) n) n = s.bytesAt (.rsp f.blk a) n := by
    have := bytesOfNat_natOfBytes (s.bytesAt (.rsp f.blk a) n)
    rwa [State.bytesAt_length] at this
  rw [hbytes]
  refine ⟨h.blocks, ?_, fun c _ => by rw [h.spad]⟩
  rw [State.bytesAt_length]
  exact State.bytesAt_of_spad h.spad a n

section
variable {s s1 t : State} {f : Focus} (h : HasPath s1 f) (a : Nat) (bytes : List Byte) (v : VecD)
include h

/-- A write to the scratchpad of the path's block keeps the path, and its group. -/
theorem HasPath.of_setSpad : HasPath (s1.modBlock f.blk (fun x => setSpad x a bytes v)) f ∧
    (s1.modBlock f.blk (fun x => setSpad x a bytes v)).fgroup f = s1.fgroup f := by
  have hblock : (s1.modBlock f.blk (fun x => setSpad x a bytes v)).fblock f = setSpad (s1.fblock f) a bytes v :=
    State.block_modBlock_same s1 f.blk _ h.block
  have hgroup : (s1.modBlock f.blk (fun x => setSpad x a bytes v)).fgroup f = s1.fgroup f :=
    (congrArg (fun x : Block => x.group f.grp) hblock).trans rfl
  refine ⟨⟨(s1.modBlock_isSome ..).trans h.block, ?_, ?_⟩, hgroup⟩
  · rw [hblock]
    exact h.group
  · rw [hgroup]
    exact h.lanes

/-- What a word leaves that writes to its block's scratchpad and changes nothing else but its own group. -/
theorem PadWritten.of_setSpad (hwf : Cells.wf (s.fblock f).spad = true) (hbefore : OnlyGroup s s1 f)
    (hafter : OnlyGroup (s1.modBlock f.blk (fun x => setSpad x a bytes v)) t f) : PadWritten s t f a bytes := by
  obtain ⟨-, hget⟩ := Cells.setRun (s.fblock f).spad hwf a (fun i => bytes.getD i 0) bytes.length
  have hspad : (t.fblock f).spad = (List.range bytes.length).foldl (fun c i => Cells.set c (a + i) (bytes.getD i 0)) (s.fblock f).spad := by
    rw [hafter.spad, ← hbefore.spad]
    exact congrArg Block.spad (State.block_modBlock_same s1 f.blk _ h.block)
  refine ⟨fun b hb => ?_, ?_, fun c hc => ?_⟩
  · rw [hafter.blocks b hb, State.block?_modBlock_ne s1 _ hb, hbefore.blocks b hb]
  · refine List.ext_getElem (State.bytesAt_length ..) fun n hn hlt => ?_
    have hcell : Cells.get (t.fblock f).spad (a + n) = bytes[n] := by
      rw [hspad, hget, if_pos (by omega), Nat.add_sub_cancel_left, List.getD_eq_getElem _ _ hlt]
    simp only [State.bytesAt, List.getElem_map, List.getElem_range, Place.plus, State.byteAt]
    exact hcell
  · rw [hspad, hget, if_neg (by omega)]

end

/-! ## Values that come at once (R226) -/

/-- A lane whose registers take a value. -/
def Dest.fill (d : Dest) (n : Nat) (x : BitVec 512) (l : Lane) : Lane :=
  match d with
  | .reg d ty =>
    if ty.wide then l.setPair n d (BitVec.ofNat 64 (widen ty x.toNat)) else l.setReg n d (BitVec.ofNat 32 (widen ty x.toNat))
  | .regs d k => l.setRegs n d (regsOf x k)
  | _ => l

/-- A destination in the registers of a lane. -/
def Dest.vector : Dest → Bool
  | .reg _ _ | .regs _ _ => true
  | _ => false

theorem Dest.fill_landing (d : Dest) (n : Nat) (x : BitVec 512) (l : Lane) (a : Nat) : (d.fill n x l).landing a = l.landing a := by
  cases d with
  | reg d ty => simp only [Dest.fill]; split <;> rfl
  | regs d k => exact Lane.setRegs_landing ..
  | none | granule | hyper | scalar => rfl

theorem Lane.setRegs_v {l l' : Lane} (h : l.v = l'.v) (n i : Nat) (xs : List Word) : (l.setRegs n i xs).v = (l'.setRegs n i xs).v := by
  induction xs generalizing l l' i with
  | nil => exact h
  | cons x xs ih =>
    refine ih ?_ _
    simp only [Lane.setReg, h]

/-- What the registers hold once filled depends on nothing of the lane but what they held. -/
theorem Dest.fill_v {l l' : Lane} (h : l.v = l'.v) (d : Dest) (n : Nat) (x : BitVec 512) : (d.fill n x l).v = (d.fill n x l').v := by
  cases d with
  | reg d ty => simp only [Dest.fill]; split <;> simp only [Lane.setPair, Lane.setReg, h]
  | regs d k => exact Lane.setRegs_v h ..
  | none | granule | hyper | scalar => exact h

theorem Lane.setRegs_rest (l : Lane) (n i : Nat) (xs : List Word) :
    l.setRegs n i xs = { l with v := (l.setRegs n i xs).v, tags := (l.setRegs n i xs).tags } := by
  induction xs generalizing l i with
  | nil => rfl
  | cons x xs ih => exact (ih (l.setReg n i x) (i + 1)).trans rfl

theorem Dest.fill_rest (d : Dest) (n : Nat) (x : BitVec 512) (l : Lane) :
    d.fill n x l = { l with v := (d.fill n x l).v, tags := (d.fill n x l).tags } := by
  cases d with
  | reg d ty => simp only [Dest.fill]; split <;> rfl
  | regs d k => exact Lane.setRegs_rest ..
  | none | granule | hyper | scalar => rfl

/-- A lane that takes the value of a reply: its registers are filled, and await it no more. -/
def Req.filled (r : Req) (n : Nat) (x : BitVec 512) (l : Lane) : Lane :=
  { r.dest.fill n x l with pend := (r.dest.named.map (regIx n)).foldl (fun p y => without y p) l.pend }

theorem State.deliver_eq (s : State) (r : Req) (hd : r.dest.vector = true) (x : BitVec 512) (tag : Bool) :
    s.deliver r x tag = s.modGroup r.blk r.grp (fun g =>
      g.modLane r.lane (fun l => if l.st == .exited then l else r.filled g.nregs x l)) := by
  have hfill : ∀ n l, r.filled n x l =
      { r.dest.fill n x l with pend := (r.dest.named.map (regIx n)).foldl (fun p y => without y p) (r.dest.fill n x l).pend } := by
    intro n l
    rw [Req.filled, show (r.dest.fill n x l).pend = l.pend from (congrArg Lane.pend (Dest.fill_rest ..) :)]
  simp only [hfill]
  unfold State.deliver
  cases hr : r.dest with
  | reg | regs => rfl
  | none | granule | hyper | scalar => simp [hr, Dest.vector] at hd

theorem State.deliver_lane {s : State} {r : Req} (hd : r.dest.vector = true) (h : HasLane s r.blk r.grp r.lane)
    (hst : (s.lane r.blk r.grp r.lane).st ≠ .exited) (x : BitVec 512) (tag : Bool) :
    (s.deliver r x tag).lane r.blk r.grp r.lane = r.filled (s.group r.blk r.grp).nregs x (s.lane r.blk r.grp r.lane) := by
  obtain ⟨⟨hb, hg⟩, hi⟩ := h
  rw [State.deliver_eq s r hd, State.lane, State.group_modGroup_same _ _ _ _ hb hg, Group.lane_modLane_same _ _ _ hi]
  exact if_neg (fun he => hst (eq_of_beq he))

section
variable {s : State} {f : Focus} (h : HasPath s f) {i : Nat} (hi : i ∈ f.lanes)
include h hi

/-- A value that is there at once fills the registers of its lane, and changes nothing but that lane. -/
theorem HasPath.of_putNow {dest : Dest} (hd : dest.vector = true) (hst : (s.flane f i).st = .ready) (x : Nat) :
    HasPath (putNow s f i dest x) f ∧ OnlyGroup s (putNow s f i dest x) f ∧
    putNow s f i dest x = { s with blocks := (putNow s f i dest x).blocks } ∧
    ((putNow s f i dest x).flane f i).v = (dest.fill (s.fgroup f).nregs (BitVec.ofNat 512 x) (s.flane f i)).v ∧
    ∀ a, ((putNow s f i dest x).flane f i).landing a = (s.flane f i).landing a := by
  let r : Req := { s.blankReq f i .load (.mem 0) 0 .n32 with dest := dest }
  have heq : putNow s f i dest x = s.onGroup f _ := s.deliver_eq r hd (BitVec.ofNat 512 x) false
  have hlane : (putNow s f i dest x).flane f i = r.filled (s.fgroup f).nregs (BitVec.ofNat 512 x) (s.flane f i) :=
    State.deliver_lane (r := r) hd (h.hasLane hi) (by rw [show s.lane r.blk r.grp r.lane = s.flane f i from rfl, hst]; nofun) _ _
  refine ⟨?_, ?_, ?_, by rw [hlane]; rfl, fun a => ?_⟩
  · rw [heq]
    exact h.of_onGroup _ (fun g => Group.modLane_length ..)
  · rw [heq]
    exact h.onlyGroup _
  · rw [heq]
    rfl
  · rw [hlane]
    exact Dest.fill_landing dest _ _ _ a

end

end Machine
end Sys2Proof

namespace Sys2Proof.Machine

open Sys2Proof.Claims

/-! ## A lane that passes its gate (R228, R257) -/

/-- Nothing has changed but what a lane of the path has seen and what its later accesses wait for. -/
structure Gated (s u : State) (f : Focus) (i : Nat) : Prop where
  path : HasPath u f
  group : OnlyGroup s u f
  rest : u = { s with blocks := u.blocks }
  nregs : (u.fgroup f).nregs = (s.fgroup f).nregs
  lane : u.flane f i = { s.flane f i with D := (u.flane f i).D, spD := (u.flane f i).spD, order := (u.flane f i).order }

namespace Gated

variable {s u : State} {f : Focus} {i : Nat}

theorem refl (h : HasPath s f) (i : Nat) : Gated s s f i := ⟨h, .of_blocks rfl, rfl, rfl, rfl⟩

theorem modLane (h : Gated s u f i) (hi : i ∈ f.lanes) {k : Lane → Lane}
    (hk : ∀ l, k l = { l with D := (k l).D, spD := (k l).spD, order := (k l).order }) : Gated s (u.modLane f.blk f.grp i k) f i := by
  have hlane : (u.modLane f.blk f.grp i k).flane f i = k (u.flane f i) := State.lane_modLane_same (h.path.hasLane hi) k
  refine ⟨h.path.of_modLane i k, h.group.trans (h.path.onlyGroup _), ?_,
    (congrArg Group.nregs (h.path.onLanes_group [i] (fun _ => k)) :).trans h.nregs, ?_⟩
  · rw [State.modLane, State.modGroup, State.modBlock, h.rest]
  · rw [hlane, hk, h.lane]

variable (h : Gated s u f i)
include h

theorem mem : u.mem = s.mem := (congrArg State.mem h.rest).trans rfl

theorem v : (u.flane f i).v = (s.flane f i).v := (congrArg Lane.v h.lane).trans rfl

theorem st : (u.flane f i).st = (s.flane f i).st := (congrArg Lane.st h.lane).trans rfl

theorem landing (a : Nat) : (u.flane f i).landing a = (s.flane f i).landing a := (congrArg (fun l : Lane => l.landing a) h.lane).trans rfl

theorem natAt (a n : Nat) : u.natAt (.rsp f.blk a) n = s.natAt (.rsp f.blk a) n := State.natAt_of_spad h.group.spad a n

end Gated

theorem Solo.passes {s : State} {f : Focus} {i : Nat} {g : Guard} {use : List Nat} (h : Solo s f i g use) (ld : Bool) :
    Gated s (s.modLane f.blk f.grp i (fun l => l.passGate ld)) f i :=
  (Gated.refl h.toHasPath i).modLane (by simp [h.one]) (fun _ => rfl)

theorem Gated.spRead {s u : State} {f : Focus} {i : Nat} (h : Gated s u f i) (hi : i ∈ f.lanes) (m : MForm) (p : Place) (n : Nat) :
    Gated s (spRead m f u i p n) f i :=
  h.modLane hi (fun _ => rfl)

/-! ## Words at the scratchpad banks (R213, R218) -/

theorem checkSp_seen {s : State} {blk : Nat} {x : Int} {align size : Nat} {kind : AccKind} {stLike : Bool} {p : Place} {seen : Seen}
    (h : checkSp s blk x align size kind stLike = .ok p seen) : seen = .nothing := by
  simp only [checkSp, withLocks] at h
  split at h
  · cases h
  · split at h
    · cases h
    · split at h <;> cases h
      rfl

section
variable {s : State} {f : Focus} {i : Nat} {m : MForm} {use : List Nat} (h : Solo s f i m.g use)
include h

/-- A scratchpad access of one lane that passes its checks is what the lane's part of the word makes of it: nothing is cached. -/
theorem Solo.at_pad {ext : Bool} (hext : (ext && (s.fgroup f).region.isSome) = false) {off : Int} {size : Nat} {needs : List Need}
    {kind : AccKind} {stLike : Bool} (hsp : m.space = .sp) {gate : State → Focus → Nat → Option Wait} {a : Nat}
    (hl : Leaves s i (gate s f i) (checkM m off size needs kind stLike s f i) (.rsp f.blk a))
    {go : Focus → State → Nat → Chk → State × Option Next} {u : State} (hgo : go f s i (.ok (.rsp f.blk a) .nothing) = (u, none)) :
    memWord m.g ext gate (checkM m off size needs kind stLike) go s f = .ok u [] := by
  obtain ⟨hgate, ⟨seen, hchk⟩, hroom⟩ := hl
  obtain rfl := checkSp_seen ((checkM_sp hsp ..).symm.trans hchk)
  exact memWord_ok h.acting hext hgate hchk hroom hgo

/-- A word of one lane that gets the value `x` at once: `s2` is the state in which the lane has passed its gate and any bytes are
written. -/
theorem Solo.gets {act : State → Focus → Eff} {s1 s2 : State} {dest : Dest} {x : Nat} {es : Events}
    (hact : act s f = .ok ((putNow s2 f i dest x).tally f es) []) (hd : dest.vector = true) (hg : Gated s s1 f i)
    (hp : HasPath s2 f) (hgroup : s2.fgroup f = s1.fgroup f) (hmem : s2.mem = s1.mem) :
    ∃ t, runWord s use act = .next t ∧ OnlyGroup s2 t f ∧ t.mem = s.mem ∧ (es = [] → t = { s2 with blocks := t.blocks }) ∧
      (t.flane f i).pc = (s.flane f i).landing (f.pc + 1) ∧
      (t.flane f i).v = (dest.fill (s.fgroup f).nregs (BitVec.ofNat 512 x) (s.flane f i)).v := by
  have hlane2 : s2.flane f i = s1.flane f i := congrArg (fun g : Group => g.lane i) hgroup
  have hst : (s2.flane f i).st = .ready := by rw [hlane2, hg.st, h.ready i (by simp [h.one])]
  obtain ⟨hpput, hput, hrestput, hvput, hlput⟩ := hp.of_putNow (i := i) (by simp [h.one]) hd hst x
  have hblocks : ((putNow s2 f i dest x).tally f es).blocks = (putNow s2 f i dest x).blocks := countEvents_blocks ..
  have hlane : ((putNow s2 f i dest x).tally f es).flane f i = (putNow s2 f i dest x).flane f i := State.lane_of_blocks hblocks ..
  obtain ⟨t, ht, hafter, hrest, htl⟩ := runWord_one_group h.toReady h.one hact (hpput.of_blocks hblocks)
    (fun a => by rw [hlane, hlput, hlane2, hg.landing])
  refine ⟨t, ht, (hput.trans (.of_blocks hblocks)).trans hafter, ?_, ?_, ?_, ?_⟩
  · rw [hrest]
    simp [hmem, hg.mem]
  · rintro rfl
    rw [hrest]
    show { putNow s2 f i dest x with blocks := t.blocks } = _
    rw [hrestput]
  · rw [htl, hlane]
    exact (hlput _).trans (by rw [hlane2, hg.landing])
  · rw [htl, hlane]
    exact hvput.trans (by rw [hgroup, hg.nregs, hlane2, Dest.fill_v hg.v])

/-! ## Stores (R211, R227) -/

/-- The request of a lane's store outside the scratchpad. -/
def storeReq (m : MForm) (size : Nat) (s : State) (f : Focus) (i : Nat) (p : Place) : Req :=
  let t := s.modLane f.blk f.grp i (fun l => l.passGate false)
  { t.blankReq f i .store p size m.ty with
    scope := m.scope, ord := m.ord, data := BitVec.ofNat 512 (storeData (s.view f i) m.data size), after := t.before f i (isRel m.ord) }

theorem Solo.store_asks {off : Int} {size : Nat} {p : Place} (hsp : m.space = .gl ∨ m.space = .rsp) (hregion : (s.fgroup f).region = none)
    (hl : Leaves s i (s.gate f i false true (isRel m.ord) m.space) (checkM m off size [.write] .store true s f i) p) :
    ∃ t, runWord s use (memWord m.g (externalSpace m.space) (fun s f i => s.gate f i false true (isRel m.ord) m.space)
        (checkM m off size [.write] .store true) (storeLane m .store size)) = .next t ∧
      Asked s t f i (fun r => r.kind = .store ∧ r.place = p ∧ r.size = size ∧
        r.data = BitVec.ofNat 512 (storeData (s.view f i) m.data size) ∧ r.after = s.before f i (isRel m.ord)) := by
  have hnot := Space.beq_sp_of_external hsp
  exact h.asks (by simp [hregion]) hl (go := storeLane m .store size) (r := storeReq m size s f i p) (w := none) ⟨rfl, rfl, rfl, rfl⟩
    (fun _ _ => by simp only [storeLane, hnot]; rfl)
    (fun _ _ => ⟨rfl, rfl, rfl, rfl, State.before_passGate h.toHasPath (by simp [h.one]) false _⟩)

/-- A scratchpad store: the lane passes its gate, and the bytes are written at once. -/
theorem Solo.store_writes {off : Int} {size a : Nat} (hsp : m.space = .sp) (hwf : Cells.wf (s.fblock f).spad = true)
    (hl : Leaves s i (s.gate f i false true (isRel m.ord) .sp) (checkM m off size [.write] .store true s f i) (.rsp f.blk a)) :
    ∃ t, runWord s use (memWord m.g (externalSpace m.space) (fun s f i => s.gate f i false true (isRel m.ord) m.space)
        (checkM m off size [.write] .store true) (storeLane m .store size)) = .next t ∧
      BlocksOnly s t ∧ (t.flane f i).pc = (s.flane f i).landing (f.pc + 1) ∧
      PadWritten s t f a (bytesOfNat (storeData (s.view f i) m.data size) size) := by
  let s1 := s.modLane f.blk f.grp i (fun l => l.passGate false)
  let bytes := bytesOfNat (storeData (s.view f i) m.data size) size
  let s2 := s1.modBlock f.blk (fun x => setSpad x a bytes (s1.flane f i).D)
  have hg : Gated s s1 f i := h.passes false
  obtain ⟨hp2, hgroup⟩ := hg.path.of_setSpad a bytes (s1.flane f i).D
  have hland : ∀ a', (s2.flane f i).landing a' = (s.flane f i).landing a' := fun a' =>
    (congrArg (fun g : Group => (g.lane i).landing a') hgroup).trans (hg.landing a')
  obtain ⟨t, ht, hafter, hrest, hlane⟩ := runWord_one_group h.toReady h.one (h.at_pad (ext := externalSpace m.space) (by rw [hsp]; rfl)
    (gate := fun s f i => s.gate f i false true (isRel m.ord) m.space) (go := storeLane m .store size) (u := s2) hsp
    (by rw [hsp]; exact hl) (by simp only [storeLane, hsp]; rfl)) hp2 hland
  refine ⟨t, ht, hrest, ?_, .of_setSpad hg.path a bytes _ hwf hg.group hafter⟩
  rw [hlane]
  exact hland _

/-! ## Atomics at the scratchpad banks (R218, R233) -/

/-- What a scratchpad atomic of one lane leaves: its register has the old value, and of memory and the scratchpads nothing differs but
the bytes at its place. -/
def AtBanks (s t : State) (f : Focus) (i : Nat) (m : MForm) (a : Nat) (new : Nat) : Prop :=
  (t.flane f i).v = ((Dest.reg m.data.toNat m.ty).fill (s.fgroup f).nregs
    (BitVec.ofNat 512 (s.natAt (.rsp f.blk a) (tySize m.ty))) (s.flane f i)).v ∧
  t.mem = s.mem ∧ PadWritten s t f a (bytesOfNat new (tySize m.ty))

variable {a : Nat} (hsp : m.space = .sp) (hwf : Cells.wf (s.fblock f).spad = true)
  (hl : Leaves s i (s.gate f i true true (isRel m.ord) .sp) (checkM m 0 (tySize m.ty) [.read, .write] .atomic true s f i) (.rsp f.blk a))
include hsp hwf hl

theorem Solo.atom_at_banks (op : AtomOp) (src : BitVec 9) (comb : Bool) :
    ∃ t, runWord s use (memWord m.g (externalSpace m.space) (fun s f i => s.gate f i true true (isRel m.ord) m.space)
        (checkM m 0 (tySize m.ty) [.read, .write] .atomic true) (atomLane m op src comb false)) = .next t ∧
      AtBanks s t f i m a (atomNew op m.ty (s.natAt (.rsp f.blk a) (tySize m.ty))
        ((s.view f i).operand m.ty src % 2 ^ (8 * tySize m.ty))).1 := by
  have hg := h.passes true
  have hread := hg.spRead (by simp [h.one]) m (.rsp f.blk a) (tySize m.ty)
  rw [← hg.natAt]
  generalize hs1 : s.modLane f.blk f.grp i (fun l => l.passGate true) = s1 at hg hread
  let bytes := bytesOfNat (atomNew op m.ty (s1.natAt (.rsp f.blk a) (tySize m.ty))
    ((s.view f i).operand m.ty src % 2 ^ (8 * tySize m.ty))).1 (tySize m.ty)
  obtain ⟨hp2, hgroup⟩ := hread.path.of_setSpad a bytes (s1.flane f i).D
  obtain ⟨t, ht, hafter, hmem, -, -, hv⟩ := h.gets (h.at_pad (ext := externalSpace m.space) (by rw [hsp]; rfl)
    (gate := fun s f i => s.gate f i true true (isRel m.ord) m.space) (go := atomLane m op src comb false) hsp (by rw [hsp]; exact hl)
    (by simp only [atomLane, hsp, hs1]; rfl)) rfl hread hp2 hgroup rfl
  refine ⟨t, ht, ?_, hmem, .of_setSpad hread.path a bytes _ hwf hread.group hafter⟩
  rw [← hg.natAt]
  exact hv

theorem Solo.cas_at_banks (src : BitVec 9) :
    ∃ t, runWord s use (memWord m.g (externalSpace m.space) (fun s f i => s.gate f i true true (isRel m.ord) m.space)
        (checkM m 0 (tySize m.ty) [.read, .write] .atomic true) (casLane m src)) = .next t ∧
      AtBanks s t f i m a (if s.natAt (.rsp f.blk a) (tySize m.ty) = (s.view f i).operand m.ty m.data
        then (s.view f i).operand m.ty src else s.natAt (.rsp f.blk a) (tySize m.ty)) := by
  have hg := h.passes true
  have hread := hg.spRead (by simp [h.one]) m (.rsp f.blk a) (tySize m.ty)
  have hval := hg.natAt a (tySize m.ty)
  generalize hs1 : s.modLane f.blk f.grp i (fun l => l.passGate true) = s1 at hg hread hval
  by_cases hsame : s.natAt (.rsp f.blk a) (tySize m.ty) = (s.view f i).operand m.ty m.data
  · let bytes := bytesOfNat ((s.view f i).operand m.ty src) (tySize m.ty)
    obtain ⟨hp2, hgroup⟩ := hread.path.of_setSpad a bytes (s1.flane f i).D
    obtain ⟨t, ht, hafter, hmem, -, -, hv⟩ := h.gets (es := []) (dest := .reg m.data.toNat m.ty)
      (x := s.natAt (.rsp f.blk a) (tySize m.ty)) (h.at_pad (ext := externalSpace m.space) (by rw [hsp]; rfl)
      (gate := fun s f i => s.gate f i true true (isRel m.ord) m.space) (go := casLane m src) hsp (by rw [hsp]; exact hl)
      (by simp only [casLane, hsp, hs1, hval, if_pos hsame]; rfl)) rfl hread hp2 hgroup rfl
    rw [if_pos hsame]
    exact ⟨t, ht, hv, hmem, .of_setSpad hread.path a bytes _ hwf hread.group hafter⟩
  · obtain ⟨t, ht, hafter, hmem, -, -, hv⟩ := h.gets (es := []) (dest := .reg m.data.toNat m.ty)
      (x := s.natAt (.rsp f.blk a) (tySize m.ty)) (h.at_pad (ext := externalSpace m.space) (by rw [hsp]; rfl)
      (gate := fun s f i => s.gate f i true true (isRel m.ord) m.space) (go := casLane m src) hsp (by rw [hsp]; exact hl)
      (by simp only [casLane, hsp, hs1, hval, if_neg hsame]; rfl)) rfl hread hread.path rfl rfl
    rw [if_neg hsame]
    exact ⟨t, ht, hv, hmem, .of_onlyGroup (hread.group.trans hafter) a _⟩

end

/-- Settles O19: outside the scratchpad a store sends its request; there it writes at once, and an atomic besides gets the old value. -/
theorem storesWriteTheirBytes : Obligations.StoresWriteTheirBytes := by
  refine ⟨fun m off s f i p hsp hregion => ⟨fun h hl => h.store_asks hsp hregion hl, fun h hl => h.store_asks hsp hregion hl⟩,
    fun m off s f i a hsp hwf => ?_, fun m op src comb s f i a hsp hwf hl h => ?_⟩
  · have stores : ∀ {size : Nat} {use : List Nat}, Solo s f i m.g use →
        Leaves s i (s.gate f i false true (isRel m.ord) .sp) (checkM m (scaled off size) size [.write] .store true s f i) (.rsp f.blk a) →
        ∃ t, runWord s use (memWord m.g (externalSpace m.space) (fun s f i => s.gate f i false true (isRel m.ord) m.space)
            (checkM m (scaled off size) size [.write] .store true) (storeLane m .store size)) = .next t ∧
          BlocksOnly s t ∧ (∀ b, b ≠ f.blk → t.block? b = s.block? b) ∧ (t.flane f i).pc = (s.flane f i).landing (f.pc + 1) ∧
          t.bytesAt (.rsp f.blk a) size = bytesOfNat (storeData (s.view f i) m.data size) size ∧
          ∀ b, b < a ∨ a + size ≤ b → Cells.get (t.fblock f).spad b = Cells.get (s.fblock f).spad b := by
      intro size use h hl
      obtain ⟨t, ht, honly, hpc, hothers, hwritten, houtside⟩ := h.store_writes hsp hwf hl
      rw [bytesOfNat_length] at hwritten houtside
      exact ⟨t, ht, honly, hothers, hpc, hwritten, houtside⟩
    exact ⟨stores, stores⟩
  · have ends : ∀ {w : Instr} {new : Nat}, (∃ t, exec w s = .next t ∧ AtBanks s t f i m a new) → ∃ t, exec w s = .next t ∧
        (t.flane f i).v = ((Dest.reg m.data.toNat m.ty).fill (s.fgroup f).nregs
          (BitVec.ofNat 512 (s.natAt (.rsp f.blk a) (tySize m.ty))) (s.flane f i)).v ∧
        (t.mem = s.mem ∧ (∀ b, b ≠ f.blk → t.block? b = s.block? b) ∧
          ∀ b, b < a ∨ a + tySize m.ty ≤ b → Cells.get (t.fblock f).spad b = Cells.get (s.fblock f).spad b) ∧
        t.bytesAt (.rsp f.blk a) (tySize m.ty) = bytesOfNat new (tySize m.ty) := by
      rintro w new ⟨t, ht, hv, hmem, hothers, hwritten, houtside⟩
      rw [bytesOfNat_length] at hwritten houtside
      exact ⟨t, ht, hv, ⟨hmem, hothers, houtside⟩, hwritten⟩
    exact ⟨ends (h.atom_at_banks hsp hwf hl op src comb), ends (h.cas_at_banks hsp hwf hl src)⟩

end Sys2Proof.Machine

/-!
# Writes at a home (O43)
-/

namespace Sys2Proof

namespace Machine

open Sys2Proof.Claims

theorem foldl_reaches {α β : Type} (P : β → Prop) (f : β → α → β) (h : ∀ b a, P b → P (f b a)) {x : α} (hx : ∀ b, P (f b x))
    {xs : List α} (hmem : x ∈ xs) (b : β) : P (xs.foldl f b) := by
  obtain ⟨before, after, rfl⟩ := List.append_of_mem hmem
  rw [List.foldl_append, List.foldl_cons]
  exact foldl_keeps P f h after _ (hx _)

/-! ## What a counter's raise leaves alone (R317) -/

/-- Memory, the requests in flight and the held lines are the same, each home has its number, and no notice is lost. -/
structure HomesKept (s t : State) : Prop where
  mem : t.mem = s.mem
  reqs : t.reqs = s.reqs
  held : t.held = s.held
  seq : ∀ d, (t.die d).seq = (s.die d).seq
  notices : ∀ d, ∀ n ∈ (s.die d).notices, n ∈ (t.die d).notices

namespace HomesKept

variable {s t u : State}

theorem trans (h : HomesKept s t) (k : HomesKept t u) : HomesKept s u :=
  ⟨k.mem.trans h.mem, k.reqs.trans h.reqs, k.held.trans h.held, fun d => (k.seq d).trans (h.seq d),
   fun d n hn => k.notices d n (h.notices d n hn)⟩

theorem of_dies (hm : t.mem = s.mem) (hr : t.reqs = s.reqs) (hh : t.held = s.held) (hd : t.dies = s.dies) : HomesKept s t := by
  have hdie : ∀ d, t.die d = s.die d := fun d => by rw [State.die, hd, State.die]
  exact ⟨hm, hr, hh, fun d => by rw [hdie], fun d n hn => by rwa [hdie]⟩

theorem refl (s : State) : HomesKept s s := .of_dies rfl rfl rfl rfl

theorem foldl {α : Type} {f : State → α → State} (hf : ∀ t a, HomesKept t (f t a)) (xs : List α) (s : State) :
    HomesKept s (xs.foldl f s) :=
  foldl_keeps (HomesKept s) f (fun t a ht => ht.trans (hf t a)) xs s (.refl s)

theorem modDie (s : State) (d : Nat) {k : Die → Die} (hs : ∀ x, (k x).seq = x.seq) (hn : ∀ x, ∀ n ∈ x.notices, n ∈ (k x).notices) :
    HomesKept s (s.modDie d k) := by
  have hdie : ∀ e, (s.modDie d k).die e = k (s.die e) ∨ (s.modDie d k).die e = s.die e := fun e => by
    by_cases he : e = d
    · exact .inl (by rw [he, State.die_modDie_same])
    · exact .inr (State.die_modDie_ne s k he)
  refine ⟨rfl, rfl, rfl, fun e => ?_, fun e n h => ?_⟩
  · obtain h | h := hdie e <;> rw [h]
    exact hs _
  · obtain h' | h' := hdie e <;> rw [h']
    · exact hn _ n h
    · exact h

theorem mapDies (s : State) {k : Die → Die} (hd : k {} = {}) (hs : ∀ x, (k x).seq = x.seq) (hn : ∀ x, (k x).notices = x.notices) :
    HomesKept s { s with dies := s.dies.map (fun e => (e.1, k e.2)) } := by
  have hdie : ∀ e, State.die { s with dies := s.dies.map (fun e => (e.1, k e.2)) } e = k (s.die e) := fun e => by
    rw [State.die, State.die, Tbl.at_map s.dies (fun _ => k) e]
    cases Tbl.at s.dies e with
    | none => exact hd.symm
    | some x => rfl
  exact ⟨rfl, rfl, rfl, fun e => by rw [hdie, hs], fun e n h => by rwa [hdie, hn]⟩

end HomesKept

theorem State.queueRelaunch_homes (s : State) (b : Nat) : HomesKept s (s.queueRelaunch b) := by
  unfold State.queueRelaunch
  dsimp only
  split
  · exact .refl s
  · exact .modDie s _ (fun _ => rfl) (fun _ _ hn => hn)

theorem State.queueParked_homes (s : State) (b : Nat) : HomesKept s (s.queueParked b) := by
  unfold State.queueParked
  split
  · exact State.queueRelaunch_homes ..
  · exact .refl s

theorem State.wakeUnit_homes (s : State) (b : Nat) : HomesKept s (s.wakeUnit b) := by
  unfold State.wakeUnit
  split
  · exact .refl s
  · dsimp only
    have hfreed := HomesKept.mapDies s (k := fun x => { x with waiters := x.waiters.filter (fun w => !(s.unitOf b).contains w.blk) })
      rfl (fun _ => rfl) (fun _ => rfl)
    split
    · exact hfreed.trans (.foldl (f := fun s u => s.modBlock u _) (fun _ _ => .of_dies rfl rfl rfl rfl) _ _)
    · split
      · exact hfreed.trans (State.queueParked_homes ..)
      · exact .refl s

theorem State.raised_homes (s : State) (d key old new : Nat) (vec : VecD) : HomesKept s (s.raised d key old new vec) := by
  unfold State.raised
  split
  · exact .refl s
  · dsimp only
    refine .trans (.trans ?_ (.foldl (f := fun t h => State.modCtx t _ _) (fun _ _ => .of_dies rfl rfl rfl rfl) _ _))
      (.foldl (fun _ _ => State.wakeUnit_homes ..) _ _)
    exact .modDie s _ (fun _ => rfl) (fun _ _ hn => hn)

/-! ## Notices (R253) -/

theorem State.sendNotices_homes (s : State) (note : Notice) : HomesKept s (s.sendNotices note) := by
  refine .foldl (fun t d => ?_) _ s
  split
  · exact .refl t
  · exact .modDie t d (fun _ => rfl) (fun _ _ hn => List.mem_append_left _ hn)

theorem State.sendNotices_arrives (s : State) (note : Notice) {d : Nat} (hd : d < 4) (hne : d ≠ note.home) :
    ∃ n ∈ ((s.sendNotices note).die d).notices, n.home = note.home ∧ n.n = note.n ∧ n.cells = note.cells := by
  refine foldl_reaches (fun t : State => ∃ n ∈ (t.die d).notices, n.home = note.home ∧ n.n = note.n ∧ n.cells = note.cells) _
    (fun t e h => ?_) (x := d) (fun t => ?_) (by simp; omega) s
  · obtain ⟨n, hn, his⟩ := h
    refine ⟨n, ?_, his⟩
    split
    · exact hn
    · exact (HomesKept.modDie t e (k := fun x => { x with
          notices := x.notices ++ [{ note with due := t.clock + Config.noticeDelay note.home note.n e }] }) (fun _ => rfl)
          (fun _ _ hn => List.mem_append_left _ hn)).notices d n hn
  · rw [if_neg hne]
    exact ⟨{ note with due := t.clock + Config.noticeDelay note.home note.n d }, by simp, rfl, rfl, rfl⟩

/-! ## Writes (R251) -/

theorem runCells_cons (pa : Nat) (b : Byte) (bs : List Byte) : runCells pa (b :: bs) = (pa, b) :: runCells (pa + 1) bs := by
  simp only [runCells, List.length_cons, List.range_succ_eq_map, List.map_cons, List.map_map]
  refine congrArg₂ _ rfl (List.map_congr_left fun i _ => ?_)
  simp only [Function.comp, List.getD_cons_succ]
  congr 1
  omega

theorem Memory.write_cells (m : Memory) (pa : Nat) (bytes : List Byte) :
    (runCells pa bytes).foldl (fun m (c : Nat × Byte) => Memory.setByte m c.1 c.2) m = Memory.write m pa bytes := by
  induction bytes generalizing m pa with
  | nil => rfl
  | cons b bs ih => rw [runCells_cons, List.foldl_cons, ih, Memory.write]

/-- A write of some cells is a numbered step of their home, a notice to the other dies, and the raises of the counters it touches. -/
theorem State.commitCells_cons (s : State) (pa : Nat) (b : Byte) (cs : List (Nat × Byte)) (tagOn : Bool) (vec : VecD) :
    ∃ (u : State) (note : Notice), HomesKept (u.sendNotices note) (s.commitCells ((pa, b) :: cs) tagOn vec).1 ∧
      u.mem = ((pa, b) :: cs).foldl (fun m (c : Nat × Byte) => Memory.setByte m c.1 c.2) s.mem ∧ u.reqs = s.reqs ∧ u.held = s.held ∧
      (u.die (dieOfAddr pa)).seq = (s.die (dieOfAddr pa)).seq + 1 ∧ note.home = dieOfAddr pa ∧
      note.n = (s.die (dieOfAddr pa)).seq + 1 ∧ note.cells = (pa, b) :: cs := by
  refine ⟨_, _, HomesKept.foldl (f := fun t (o : Nat × Nat) => State.raised t _ o.1 o.2 _ _)
    (fun t o => State.raised_homes ..) _ _, ?_⟩
  exact ⟨rfl, rfl, rfl, by rw [State.die_modDie_same], rfl, rfl, rfl⟩

/-- A write at a home changes no request and no held line, and of memory its own bytes. -/
theorem State.commitMem_keeps (s : State) (pa : Nat) (bytes : List Byte) (tagOn : Bool) (vec : VecD) :
    (s.commitMem pa bytes tagOn vec).1.mem = Memory.write s.mem pa bytes ∧
    (s.commitMem pa bytes tagOn vec).1.reqs = s.reqs ∧ (s.commitMem pa bytes tagOn vec).1.held = s.held := by
  cases bytes with
  | nil => exact ⟨rfl, rfl, rfl⟩
  | cons b bs =>
    rw [← Memory.write_cells]
    simp only [State.commitMem, runCells_cons]
    obtain ⟨u, note, hkept, hmem, hreqs, hheld, -⟩ := s.commitCells_cons pa b (runCells (pa + 1) bs) tagOn vec
    have hall := (State.sendNotices_homes u note).trans hkept
    exact ⟨hall.mem.trans hmem, hall.reqs.trans hreqs, hall.held.trans hheld⟩

/-- A write of some bytes takes its home's next number and leaves a notice at each of the other dies. -/
theorem State.commitMem_numbers (s : State) (pa : Nat) {bytes : List Byte} (hb : bytes ≠ []) (tagOn : Bool) (vec : VecD) :
    ((s.commitMem pa bytes tagOn vec).1.die (dieOfAddr pa)).seq = (s.die (dieOfAddr pa)).seq + 1 ∧
    ∀ d, d < 4 → d ≠ dieOfAddr pa → ∃ n ∈ ((s.commitMem pa bytes tagOn vec).1.die d).notices,
      n.home = dieOfAddr pa ∧ n.n = (s.die (dieOfAddr pa)).seq + 1 ∧ n.cells = runCells pa bytes := by
  obtain ⟨b, bs, rfl⟩ := List.exists_cons_of_ne_nil hb
  simp only [State.commitMem, runCells_cons]
  obtain ⟨u, note, hkept, -, -, -, hseq, hhome, hn, hcells⟩ := s.commitCells_cons pa b (runCells (pa + 1) bs) tagOn vec
  have hall := (State.sendNotices_homes u note).trans hkept
  refine ⟨(hall.seq _).trans hseq, fun d hd hne => ?_⟩
  obtain ⟨n, hin, h1, h2, h3⟩ := State.sendNotices_arrives u note hd (hhome ▸ hne)
  exact ⟨n, hkept.notices d n hin, h1.trans hhome, h2.trans hn, h3.trans hcells⟩

end Machine
end Sys2Proof

/-!
# Requests at their ordering points, and what ends them (O43)
-/

namespace Sys2Proof.Machine

open Sys2Proof.Claims

/-! ## Requests in flight -/

theorem State.req_mem {s : State} {id : Nat} {r : Req} (h : s.req? id = some r) : r ∈ s.reqs := List.mem_of_find?_eq_some h

theorem countEvents_reqs_held (s : State) (c i : Nat) (es : Events) :
    (countEvents s c i es).reqs = s.reqs ∧ (countEvents s c i es).held = s.held :=
  foldl_keeps (fun t : State => t.reqs = s.reqs ∧ t.held = s.held) _ (fun t e h => by
    unfold bumpEvent
    split
    · exact h
    · unfold bumpFex
      dsimp only
      split <;> exact h) es s ⟨rfl, rfl⟩

theorem State.readLoss_keeps (s : State) (c : Nat) (p : Place) (n : Nat) :
    (s.readLoss c p n).reqs = s.reqs ∧ (s.readLoss c p n).held = s.held ∧ (s.readLoss c p n).clock = s.clock ∧
    (s.readLoss c p n).dies = s.dies ∧ (s.readLoss c p n).ns = s.ns := by
  rw [State.readLoss_eq]
  exact ⟨rfl, rfl, rfl, rfl, rfl⟩

theorem State.keepDup_keeps (s : State) (r : Req) (old : Nat) : (s.keepDup r old).reqs = s.reqs ∧ (s.keepDup r old).held = s.held ∧
    (s.keepDup r old).blocks = s.blocks := by
  unfold State.keepDup
  split
  · split <;> exact ⟨rfl, rfl, rfl⟩
  · exact ⟨rfl, rfl, rfl⟩

/-- A request once performed, with what it answers. -/
def Req.answered (r : Req) (reply : Nat) (tag : Bool) (raises : VecD) (due : Nat) : Req :=
  { r with performed := true, reply := BitVec.ofNat 512 reply, tag := tag, raises := raises, due := due }

theorem State.mem_markPerformed {s : State} {r : Req} (h : r ∈ s.reqs) (reply : Nat) (tag : Bool) (raises : VecD) :
    r.answered reply tag raises (s.clock + Config.replyDelay r.wordId) ∈ (s.markPerformed r.id reply tag raises).reqs :=
  List.mem_map.mpr ⟨r, h, by simp [Req.answered]⟩

theorem State.markPerformed_last {s : State} {r : Req} (h : s.reqs = [r]) (reply : Nat) (tag : Bool) (raises : VecD) :
    s.markPerformed r.id reply tag raises =
      { s with reqs := [r.answered reply tag raises (s.clock + Config.replyDelay r.wordId)] } := by
  simp [State.markPerformed, State.updReq, h, Req.answered]

/-! ## Homes (R251 to R253) -/

/-- A request that no home has answered before is performed at its place, and answered. -/
theorem State.performReq_eq {s : State} {r : Req} (h : ∀ d, s.dupOf d r.core r.id = none) :
    s.performReq r = ((performAt s r).s.markPerformed r.id (performAt s r).reply (performAt s r).tag (performAt s r).raises).keepDup r
      (performAt s r).reply := by
  have hbind : r.place.home?.bind (fun d => s.dupOf d r.core r.id) = none := by
    cases r.place.home? with
    | none => rfl
    | some d => exact h d
  unfold State.performReq
  rw [hbind]

theorem State.mem_performReq {s : State} {r : Req} (h : ∀ d, s.dupOf d r.core r.id = none) (hr : r ∈ (performAt s r).s.reqs) :
    r.answered (performAt s r).reply (performAt s r).tag (performAt s r).raises
      ((performAt s r).s.clock + Config.replyDelay r.wordId) ∈ (s.performReq r).reqs := by
  rw [State.performReq_eq h, (State.keepDup_keeps ..).1]
  exact State.mem_markPerformed hr ..

theorem State.performReq_mem {s : State} {r : Req} (h : ∀ d, s.dupOf d r.core r.id = none) :
    (s.performReq r).mem = (performAt s r).s.mem := by
  rw [State.performReq_eq h]
  simp

theorem homeSlice_performs {s : State} {r : Req} (h : AtHome s r) (hk : r.kind.kneads = false) (hu : s.atUnit r = false)
    (hrep : r.replicable = false) : exec (.homeSliceRequest r.id) s = .next (s.performReq r) := by
  obtain ⟨hknown, hopen, hpast, halone, hfree, hport, hheld, hhome, -⟩ := h
  obtain ⟨d, hd⟩ := Option.isSome_iff_exists.mp hhome
  have hslice : homeSlice s r = some (s.performReq r) := by
    simp [homeSlice, hd, hk, hopen, hpast, hu, halone, hfree, hport, State.readsReplica, hrep, hheld]
  show eventOpt s ((s.req? r.id).bind (homeSlice s)) = _
  rw [hknown]
  exact congrArg (eventOpt s) hslice

theorem Req.replicable_of_kind {r : Req} (h : r.kind ≠ .load) : r.replicable = false := by
  unfold Req.replicable
  split
  · simp [h]
  · rfl

theorem performAt_load {s : State} {r : Req} (h : r.kind = .load) :
    performAt s r = ⟨s.readLoss r.ctx r.place r.size, s.natAt r.place r.size, s.tagAt r.place, s.latestAt r.place r.size⟩ := by
  simp only [performAt, h]

theorem State.performReq_load {s : State} {r : Req} (h : ∀ d, s.dupOf d r.core r.id = none) (hk : r.kind = .load) :
    s.performReq r = (s.readLoss r.ctx r.place r.size).markPerformed r.id (s.natAt r.place r.size) (s.tagAt r.place)
      (s.latestAt r.place r.size) := by
  rw [State.performReq_eq h, performAt_load hk]
  simp only [State.keepDup, hk]

/-- A load that is alone in flight, once its home has performed it: nothing else differs but the counts of its context. -/
theorem State.performReq_last_load {s : State} {r : Req} (h : ∀ d, s.dupOf d r.core r.id = none) (hk : r.kind = .load)
    (hlast : s.reqs = [r]) : ∃ c, s.performReq r = { s with
      ctxs := c, reqs := [r.answered (s.natAt r.place r.size) (s.tagAt r.place) (s.latestAt r.place r.size)
        (s.clock + Config.replyDelay r.wordId)] } := by
  refine ⟨(s.readLoss r.ctx r.place r.size).ctxs, ?_⟩
  rw [State.performReq_load h hk, State.markPerformed_last ((s.readLoss_keeps ..).1.trans hlast), State.readLoss_eq]

theorem home_answers_load {s : State} {r : Req} (h : AtHome s r) (hk : r.kind = .load) (hrep : r.replicable = false) :
    Happens (.homeSliceRequest r.id) s (fun t => t.mem = s.mem ∧
      r.answered (s.natAt r.place r.size) (s.tagAt r.place) (s.latestAt r.place r.size) (s.clock + Config.replyDelay r.wordId) ∈ t.reqs) := by
  have hu : s.atUnit r = false := by simp [State.atUnit, hk]
  obtain ⟨hreqs, -, hclock, -⟩ := s.readLoss_keeps r.ctx r.place r.size
  refine ⟨_, homeSlice_performs h (by rw [hk]; rfl) hu hrep, ?_, ?_⟩ <;> rw [State.performReq_load h.fresh hk]
  · simp
  · have hin := State.mem_markPerformed (s := s.readLoss r.ctx r.place r.size) (hreqs ▸ State.req_mem h.known)
      (s.natAt r.place r.size) (s.tagAt r.place) (s.latestAt r.place r.size)
    rwa [hclock] at hin

theorem bytesOfNat_ne_nil {x n : Nat} (h : 0 < n) : bytesOfNat x n ≠ [] := fun he => by
  have := bytesOfNat_length x n
  rw [he] at this
  exact absurd this (by simp; omega)

theorem home_takes_store {s : State} {r : Req} {pa : Nat} (h : AtHome s r) (hk : r.kind = .store) (hp : r.place = .mem pa)
    (hsize : 0 < r.size) : Happens (.homeSliceRequest r.id) s (fun t =>
      let home := dieOfAddr pa
      t.mem = Memory.write s.mem pa (bytesOfNat r.data.toNat r.size) ∧ (t.die home).seq = (s.die home).seq + 1 ∧
      (∃ q ∈ t.reqs, q.id = r.id ∧ q.performed = true) ∧
      ∀ d, d < 4 → d ≠ home → ∃ n ∈ (t.die d).notices, n.home = home ∧ n.n = (s.die home).seq + 1 ∧
        n.cells = runCells pa (bytesOfNat r.data.toNat r.size)) := by
  have hu : s.atUnit r = false := by simp [State.atUnit, hk]
  have hat : (performAt s r).s = (s.commitMem pa (bytesOfNat r.data.toNat r.size) false r.vec).1 := by
    simp only [performAt, hk, hp, State.commitAt]
  obtain ⟨hmem, hreqs, -⟩ := s.commitMem_keeps pa (bytesOfNat r.data.toNat r.size) false r.vec
  obtain ⟨hseq, hnotices⟩ := s.commitMem_numbers pa (bytesOfNat_ne_nil (x := r.data.toNat) hsize) false r.vec
  have hdies : (s.performReq r).dies = (performAt s r).s.dies := by
    rw [State.performReq_eq h.fresh]
    simp [State.keepDup, hk, State.markPerformed, State.updReq]
  have hdie : ∀ d, (s.performReq r).die d = (performAt s r).s.die d := fun d => by rw [State.die, hdies, State.die]
  refine ⟨_, homeSlice_performs h (by rw [hk]; rfl) hu (Req.replicable_of_kind (by rw [hk]; nofun)), ?_, ?_, ?_, ?_⟩
  · rw [State.performReq_mem h.fresh, hat, hmem]
  · rw [hdie, hat, hseq]
  · exact ⟨_, State.mem_performReq h.fresh (by rw [hat, hreqs]; exact State.req_mem h.known), rfl, rfl⟩
  · intro d hd hne
    rw [hdie, hat]
    exact hnotices d hd hne

theorem home_combines {s : State} {r : Req} {pa : Nat} {op : AtomOp} {comb : Bool} (h : AtHome s r) (hk : r.kind = .atomic op comb)
    (hp : r.place = .mem pa) (hu : s.atUnit r = false) : Happens (.homeSliceRequest r.id) s (fun t =>
      t.mem = Memory.write s.mem pa (bytesOfNat (atomNew op r.ty (s.natAt r.place r.size) r.data.toNat).1 r.size) ∧
      ∃ q ∈ t.reqs, q.id = r.id ∧ q.performed = true ∧ q.reply = BitVec.ofNat 512 (s.natAt r.place r.size)) := by
  have hreply : (performAt s r).reply = s.natAt r.place r.size := by simp only [performAt, hk]
  have hat : (performAt s r).s = countEvents ((s.readLoss r.ctx r.place r.size).commitMem pa
      (bytesOfNat (atomNew op r.ty (s.natAt r.place r.size) r.data.toNat).1 r.size) false r.vec).1 r.ctx r.inst
      (atomNew op r.ty (s.natAt r.place r.size) r.data.toNat).2 := by
    simp only [performAt, hk, hp, State.commitAt]
  obtain ⟨hmem, hreqs, -⟩ := (s.readLoss r.ctx r.place r.size).commitMem_keeps pa
    (bytesOfNat (atomNew op r.ty (s.natAt r.place r.size) r.data.toNat).1 r.size) false r.vec
  refine ⟨_, homeSlice_performs h (by rw [hk]; rfl) hu (Req.replicable_of_kind (by rw [hk]; nofun)), ?_, ?_⟩
  · rw [State.performReq_mem h.fresh, hat, countEvents_mem, hmem, State.readLoss_mem]
  · refine ⟨_, State.mem_performReq h.fresh ?_, rfl, rfl, congrArg (BitVec.ofNat 512) hreply⟩
    rw [hat, (countEvents_reqs_held ..).1, hreqs, (s.readLoss_keeps ..).1]
    exact State.req_mem h.known

/-! ## Held lines (R219) -/

theorem State.heldLine_line {s : State} {line : Nat} {h : Held} (hh : s.heldLine line = some h) : h.line = line := by
  simpa using List.find?_some hh

/-- A held line's record changes where the line is that one, and no line changes hands. -/
theorem State.heldLine_map {s t : State} {line : Nat} {h : Held} (hh : s.heldLine line = some h) {k : Held → Held}
    (hk : ∀ x, (k x).line = x.line) (ht : t.held = s.held.map (fun x => if x.line == line then k x else x)) :
    t.heldLine line = some (k h) := by
  have hline := s.heldLine_line hh
  have hsame : ((fun x : Held => x.line == line) ∘ fun x => if x.line == line then k x else x) = fun x => x.line == line := by
    funext x
    simp only [Function.comp]
    split <;> simp [hk]
  rw [State.heldLine, ht, List.find?_map, hsame, show s.held.find? _ = some h from hh, Option.map_some, hline, beq_self_eq_true, if_pos rfl]

theorem State.beginWriteBack_heldLine {s : State} {line : Nat} {h : Held} (hh : s.heldLine line = some h) :
    (s.beginWriteBack line).heldLine line = some { h with writingBack := true } :=
  State.heldLine_map (k := fun x => { x with writingBack := true }) hh (fun _ => rfl) rfl

theorem home_frees_held_line {s : State} {r : Req} {pa : Nat} {h : Held} (hr : s.req? r.id = some r) (hfree : s.free r = true)
    (halone : s.inRecord r.id = false) (hk : r.kind = .load) (hp : r.place = .mem pa) (hport : s.port r.world r.place = .pass)
    (hh : s.heldLine (pa / 64) = some h) :
    Happens (.homeSliceRequest r.id) s (fun t => t.mem = s.mem ∧ t.heldLine (pa / 64) = some { h with writingBack := true }) := by
  have hu : s.atUnit r = false := by simp [State.atUnit, hk]
  have hheld : s.isHeld (.mem pa) = true := by simp [State.isHeld, Place.line?, hh]
  rw [hp] at hport
  have hslice : homeSlice s r = some (s.beginWriteBack (pa / 64)) := by
    have hstill := hfree
    simp only [State.free, Bool.and_eq_true, Bool.not_eq_true', beq_iff_eq] at hstill
    obtain ⟨⟨⟨hopen, -⟩, hstage⟩, -⟩ := hstill
    simp [homeSlice, hp, Place.home?, hk, ReqKind.kneads, hopen, hstage, hu, halone, hfree, hport, State.readsReplica, hheld, Place.line?]
  refine ⟨_, ?_, ?_, State.beginWriteBack_heldLine hh⟩
  · show eventOpt s ((s.req? r.id).bind (homeSlice s)) = _
    rw [hr]
    exact congrArg (eventOpt s) hslice
  · rfl

end Sys2Proof.Machine

namespace Sys2Proof.Machine

open Sys2Proof.Claims

/-! ## Cluster atomic units (R218, R219) -/

/-- An atomic at the holder of its line: memory has the new value, the request the old one, and the hold itself goes on as it was. -/
theorem performHeld_combines {s : State} {r : Req} {pa : Nat} {op : AtomOp} {comb : Bool} (hk : r.kind = .atomic op comb)
    (hr : r ∈ s.reqs) {h : Held} (hh : s.heldLine (pa / 64) = some h) :
    (s.performHeld r pa).mem =
      Memory.write s.mem pa (bytesOfNat (atomNew op r.ty (Memory.readNat s.mem pa r.size) r.data.toNat).1 r.size) ∧
    (∃ ws, (s.performHeld r pa).heldLine (pa / 64) = some { h with writes := ws }) ∧
    ∃ q ∈ (s.performHeld r pa).reqs, q.id = r.id ∧ q.performed = true ∧ q.reply = BitVec.ofNat 512 (Memory.readNat s.mem pa r.size) := by
  let new := bytesOfNat (atomNew op r.ty (Memory.readNat s.mem pa r.size) r.data.toNat).1 r.size
  let k := fun x : Held => { x with writes := x.writes ++ [(⟨r.id, pa, new, r.vec⟩ : HeldWrite)] }
  obtain ⟨hreqs, hheld, -⟩ := s.readLoss_keeps r.ctx (.mem pa) r.size
  unfold State.performHeld
  simp only [hk, countEvents_mem, State.markPerformed_mem, State.readLoss_mem, (countEvents_reqs_held ..).1]
  refine ⟨trivial, ⟨_, State.heldLine_map (k := k) hh (fun _ => rfl) ?_⟩, ?_⟩
  · rw [(countEvents_reqs_held ..).2]
    exact congrArg (List.map _) hheld
  · exact ⟨_, State.mem_markPerformed (hreqs ▸ hr) _ false {}, rfl, rfl, rfl⟩

theorem unit_takes_line {s : State} {r : Req} {pa : Nat} {op : AtomOp} {comb : Bool} (hr : s.req? r.id = some r) (hfree : s.free r = true)
    (hp : r.place = .mem pa) (hk : r.kind = .atomic op comb) (hu : s.atUnit r = true) (hport : s.port r.world r.place = .pass)
    (hh : s.heldLine (pa / 64) = none) : Happens (.clusterAtomicUnitRequest r.id) s (fun t =>
      t.mem = Memory.write s.mem pa (bytesOfNat (atomNew op r.ty (Memory.readNat s.mem pa r.size) r.data.toNat).1 r.size) ∧
      (∃ h, t.heldLine (pa / 64) = some h ∧ h.holder = dieOfCore r.core ∧ h.till = s.ns + 1000 ∧ h.writingBack = false) ∧
      ∃ q ∈ t.reqs, q.id = r.id ∧ q.performed = true ∧ q.reply = BitVec.ofNat 512 (Memory.readNat s.mem pa r.size)) := by
  let h : Held := { line := pa / 64, holder := dieOfCore r.core, till := s.ns + 1000, writingBack := false, writes := [] }
  have htaken : State.heldLine { s with held := s.held ++ [h] } (pa / 64) = some h := by
    rw [State.heldLine, List.find?_append, show s.held.find? _ = none from hh]
    simp [h]
  obtain ⟨hmem, ⟨ws, hheld⟩, hreq⟩ := performHeld_combines (s := { s with held := s.held ++ [h] }) hk (State.req_mem hr) htaken
  refine ⟨_, ?_, hmem, ⟨_, hheld, rfl, rfl, rfl⟩, hreq⟩
  show eventOpt s ((s.req? r.id).bind (clusterAtomic s)) = _
  rw [hr]
  rw [hp] at hport
  exact congrArg (eventOpt s) (show clusterAtomic s r = some (State.performHeld { s with held := s.held ++ [h] } r pa) by
    simp [clusterAtomic, hp, hu, hfree, hport, hh, h])

/-! ## A scratchpad's port (R214) -/

theorem pad_takes_store {s : State} {r : Req} {b a : Nat} (hr : s.req? r.id = some r) (hfree : s.free r = true)
    (hopen : r.performed = false) (hp : r.place = .rsp b a) (hk : r.kind = .store) :
    Happens (.remoteScratchpadRequest r.id) s (fun t => t.mem = s.mem ∧
      ((s.block? b).isSome = true → (t.block b).spad = (setSpad (s.block b) a (bytesOfNat r.data.toNat r.size) r.vec).spad) ∧
      ∃ q ∈ t.reqs, q.id = r.id ∧ q.performed = true) := by
  let t := s.modBlock b (fun x => setSpad x a (bytesOfNat r.data.toNat r.size) r.vec)
  have hdone : s.performReq r = t.markPerformed r.id 0 false {} := by
    simp only [State.performReq, hp, Place.home?, Option.bind_none, performAt, hk, State.commitAt, State.keepDup]
    rfl
  refine ⟨s.performReq r, ?_, ?_⟩
  · show eventOpt s ((s.req? r.id).bind (scratchpadRequest s)) = .next (s.performReq r)
    rw [hr]
    exact congrArg (eventOpt s) (show scratchpadRequest s r = some (s.performReq r) by simp [scratchpadRequest, hp, hopen, hfree])
  · rw [hdone]
    exact ⟨rfl, fun hb => congrArg Block.spad (State.block_modBlock_same s b _ hb),
      ⟨_, State.mem_markPerformed (s := t) (State.req_mem hr) 0 false {}, rfl, rfl⟩⟩

/-! ## Notices and replicas (R253, R254) -/

theorem Notice.next_of_applicable {x : Notice} {a : VecD} (h : x.applicable a = true) : x.n = a.get x.home + 1 := by
  simp only [Notice.applicable, Bool.and_eq_true, beq_iff_eq] at h
  exact h.1.symm

theorem notice_applied {die : Nat} {x : Notice} {s : State} (hx : x ∈ (s.die die).notices)
    (happ : x.applicable (s.die die).applied = true)
    (hone : ∀ y ∈ (s.die die).notices, y.home = x.home → y.n = x.n → y = x) :
    Happens (.noticeApply die x.home) s (fun t => t.mem = s.mem ∧ (t.die die).applied = (s.die die).applied.set x.home x.n ∧
      (∀ y ∈ (t.die die).notices, ¬(y.home = x.home ∧ y.n = x.n)) ∧
      ∀ n l, Tbl.at (s.die die).replica n = some l → Tbl.at (t.die die).replica n = some (patchLine n l x)) := by
  have hfind : (s.die die).notices.find? (fun y => y.home == x.home && y.applicable (s.die die).applied) = some x := by
    cases hf : (s.die die).notices.find? (fun y => y.home == x.home && y.applicable (s.die die).applied) with
    | none => exact absurd (List.find?_eq_none.mp hf x hx) (by simp [happ])
    | some y =>
      obtain ⟨hhome, hy⟩ : y.home = x.home ∧ y.applicable (s.die die).applied = true := by simpa using List.find?_some hf
      have hn : y.n = x.n := by rw [Notice.next_of_applicable hy, Notice.next_of_applicable happ, hhome]
      rw [hone y (List.mem_of_find?_eq_some hf) hhome hn]
  refine ⟨s.setDie die ((s.die die).apply x), ?_, rfl, ?_⟩
  · show eventOpt s (((s.die die).notices.find? _).map _) = _
    rw [hfind]
    rfl
  · rw [State.die_setDie_same]
    refine ⟨rfl, fun y hy => ?_, fun n l hl => ?_⟩
    · rintro ⟨h1, h2⟩
      simpa [h1, h2] using (List.mem_filter.mp hy).2
    · exact (Tbl.at_map (s.die die).replica (fun m z => patchLine m z x) n).trans (by rw [hl]; rfl)

theorem fill_installed {die : Nat} {y : Fill} {s : State} (hy : y ∈ (s.die die).fills) (hm : y.m ≤ (s.die die).applied.get y.home)
    (hone : ∀ z ∈ (s.die die).fills, z.line = y.line → z = y) :
    Happens (.replicaLineInstall die y.line) s (fun t => Tbl.at (t.die die).replica y.line = some y.data ∧
      (∀ z ∈ (t.die die).fills, z.line ≠ y.line) ∧ t.mem = s.mem) := by
  have hfind : (s.die die).fills.find? (fun z => z.line == y.line && decide (z.m ≤ (s.die die).applied.get z.home)) = some y := by
    cases hf : (s.die die).fills.find? (fun z => z.line == y.line && decide (z.m ≤ (s.die die).applied.get z.home)) with
    | none => exact absurd (List.find?_eq_none.mp hf y hy) (by simp [hm])
    | some z =>
      obtain ⟨hline, -⟩ : z.line = y.line ∧ z.m ≤ (s.die die).applied.get z.home := by simpa using List.find?_some hf
      rw [hone z (List.mem_of_find?_eq_some hf) hline]
  refine ⟨s.setDie die { s.die die with replica := Tbl.put (s.die die).replica y.line y.data
                                        fills := (s.die die).fills.filter (fun z => z.line != y.line) }, ?_, ?_⟩
  · show eventOpt s (((s.die die).fills.find? _).map _) = _
    rw [hfind]
    rfl
  · dsimp only
    rw [State.die_setDie_same]
    exact ⟨Tbl.at_put_same .., fun z hz => by simpa using (List.mem_filter.mp hz).2, rfl⟩

/-! ## Replies (R255, R258) -/

theorem State.mem_complete_reqs {s : State} {r : Req} : ∀ q ∈ (s.complete r).reqs, q.id ≠ r.id := by
  intro q hq
  obtain ⟨x, hx, rfl⟩ := List.mem_map.mp hq
  have hne : x.id ≠ r.id := by simpa using (List.mem_filter.mp hx).2
  split <;> exact hne

/-- The end of the last request of this device's leaves none in flight. -/
theorem State.complete_last {s : State} {r : Req} (hp : r.place.remote = false) (h : ∀ q ∈ s.reqs, q.id = r.id) :
    (s.complete r).reqs = [] := by
  refine List.eq_nil_iff_forall_not_mem.mpr fun q hq => ?_
  obtain ⟨x, hx, -⟩ := List.mem_map.mp hq
  obtain ⟨hin, hne⟩ := List.mem_filter.mp hx
  have hsame : s.acked r = s := by simp [State.acked, hp]
  rw [hsame] at hin
  simp [h x hin] at hne

theorem not_mem_foldl_without {x : Nat} {xs : List Nat} (h : x ∈ xs) (p : List Nat) :
    (xs.foldl (fun p y => without y p) p).contains x = false := by
  refine foldl_reaches (fun p : List Nat => p.contains x = false) _ (fun p y hp => ?_) (x := x) (fun p => ?_) h p
  · simp only [List.contains_eq_mem, decide_eq_false_iff_not] at hp ⊢
    exact fun hin => hp (List.mem_filter.mp hin).1
  · simp [without]

/-- What a reply raises D by: at `.sys`, and from a remote place, an acquire samples the homes too. -/
def State.raisedBy (s : State) (r : Req) : VecD :=
  if isAcq r.ord && (r.scope == .sys || r.place.remote) then r.raises.max s.seqs else r.raises

theorem State.raisedBy_of_not_acq (s : State) {r : Req} (h : isAcq r.ord = false) : s.raisedBy r = r.raises := by
  simp [State.raisedBy, h]

/-- A reply that is not lost: its value is delivered, D is raised, and the request is over. -/
theorem State.reply_eq {s : State} {r : Req} (hlost : r.lost = false) (hrsp : r.place.isRsp = false) :
    s.reply r = ((s.deliver r r.reply r.tag).modLane r.blk r.grp r.lane (fun l => { l with D := l.D.max (s.raisedBy r) })).complete r := by
  simp [State.reply, hlost, hrsp, State.raisedBy]

/-- A lane is there as before when each change of its group keeps the group's lanes. -/
theorem HasLane.modGroup {s : State} {b g i : Nat} (h : HasLane s b g i) {k : Group → Group} (hk : ∀ x, (k x).lanes.length = x.lanes.length) :
    HasLane (s.modGroup b g k) b g i := by
  obtain ⟨⟨hb, hg⟩, hi⟩ := h
  refine ⟨⟨(s.modBlock_isSome ..).trans hb, (s.modGroup_groups_length b g k b).symm ▸ hg⟩, ?_⟩
  rw [State.group_modGroup_same _ _ _ _ hb hg, hk]
  exact hi

/-- The lane of a reply has the value in its registers, which await it no more, and D raised. -/
theorem State.reply_lane {s : State} {r : Req} (hlost : r.lost = false) (hrsp : r.place.isRsp = false) (hd : r.dest.vector = true)
    (h : HasLane s r.blk r.grp r.lane) (hst : (s.lane r.blk r.grp r.lane).st ≠ .exited) :
    (s.reply r).lane r.blk r.grp r.lane = { r.filled (s.group r.blk r.grp).nregs r.reply (s.lane r.blk r.grp r.lane) with
      D := (s.lane r.blk r.grp r.lane).D.max (s.raisedBy r), order := ((s.reply r).lane r.blk r.grp r.lane).order } := by
  have hthere : HasLane (s.deliver r r.reply r.tag) r.blk r.grp r.lane := by
    rw [State.deliver_eq s r hd]
    exact HasLane.modGroup h (fun x => Group.modLane_length ..)
  have hD : (r.filled (s.group r.blk r.grp).nregs r.reply (s.lane r.blk r.grp r.lane)).D = (s.lane r.blk r.grp r.lane).D :=
    (congrArg Lane.D (Dest.fill_rest ..) :)
  rw [State.reply_eq hlost hrsp]
  refine ((State.complete_keepsLanes _ r).lane ..).trans ?_
  rw [State.lane_modLane_same hthere, State.deliver_lane hd h hst, hD]

section
variable {s : State} {r : Req} (hr : s.req? r.id = some r) (hdone : r.performed = true) (hnum : s.unnumbered r.id = false)
  (halone : s.inRecord r.id = false)
include hr hdone hnum halone

theorem loadReply_eq (hld : r.isLd = true) : exec (.loadReply r.id) s = .next (s.reply r) := by
  show eventOpt s ((s.req? r.id).bind _) = _
  rw [hr]
  simp [eventOpt, hld, State.replyIn, hdone, hnum, halone]

theorem storeAck_eq (hld : r.isLd = false) (hd : r.dest = .none) : exec (.storeAck r.id) s = .next (s.reply r) := by
  show eventOpt s ((s.req? r.id).bind _) = _
  rw [hr]
  simp [eventOpt, hld, hd, State.replyIn, hdone, hnum, halone]

end

theorem load_ends {s : State} {r : Req} {d : Nat} {ty : Ty} (hr : s.req? r.id = some r) (hdone : r.performed = true)
    (hnum : s.unnumbered r.id = false) (halone : s.inRecord r.id = false) (hld : r.isLd = true) (hdest : r.dest = .reg d ty)
    (hlost : r.lost = false) (hlane : HasLane s r.blk r.grp r.lane) (hst : (s.lane r.blk r.grp r.lane).st ≠ .exited)
    (hacq : isAcq r.ord = false) (hrsp : r.place.isRsp = false) :
    Happens (.loadReply r.id) s (fun t => t.mem = s.mem ∧ (∀ q ∈ t.reqs, q.id ≠ r.id) ∧
      (t.lane r.blk r.grp r.lane).v = (r.dest.fill (s.group r.blk r.grp).nregs r.reply (s.lane r.blk r.grp r.lane)).v ∧
      (t.lane r.blk r.grp r.lane).D = (s.lane r.blk r.grp r.lane).D.max r.raises ∧
      ∀ k ∈ r.dest.named, (t.lane r.blk r.grp r.lane).pend.contains (regIx (s.group r.blk r.grp).nregs k) = false) := by
  have hafter := State.reply_lane hlost hrsp (by rw [hdest]; rfl) hlane hst
  refine ⟨_, loadReply_eq hr hdone hnum halone hld, State.reply_mem .., State.mem_complete_reqs, ?_, ?_, fun k hk => ?_⟩
  · rw [hafter]
    rfl
  · rw [hafter, State.raisedBy_of_not_acq s hacq]
  · rw [hafter]
    exact not_mem_foldl_without (List.mem_map_of_mem hk) _

theorem store_ends {s : State} {r : Req} (hr : s.req? r.id = some r) (hdone : r.performed = true)
    (hnum : s.unnumbered r.id = false) (halone : s.inRecord r.id = false) (hld : r.isLd = false) (hdest : r.dest = .none)
    (hlost : r.lost = false) (hlane : HasLane s r.blk r.grp r.lane) (hacq : isAcq r.ord = false) (hrsp : r.place.isRsp = false) :
    Happens (.storeAck r.id) s (fun t => t.mem = s.mem ∧ (∀ q ∈ t.reqs, q.id ≠ r.id) ∧
      (t.lane r.blk r.grp r.lane).v = (s.lane r.blk r.grp r.lane).v ∧
      (t.lane r.blk r.grp r.lane).D = (s.lane r.blk r.grp r.lane).D.max r.raises) := by
  have hsame : s.deliver r r.reply r.tag = s := by simp only [State.deliver, hdest]
  obtain ⟨o, hafter⟩ : ∃ o, (s.reply r).lane r.blk r.grp r.lane =
      { s.lane r.blk r.grp r.lane with D := (s.lane r.blk r.grp r.lane).D.max r.raises, order := o } := by
    rw [State.reply_eq hlost hrsp, hsame, State.raisedBy_of_not_acq s hacq]
    exact ⟨_, ((State.complete_keepsLanes _ r).lane ..).trans (by rw [State.lane_modLane_same hlane])⟩
  refine ⟨_, storeAck_eq hr hdone hnum halone hld hdest, State.reply_mem .., State.mem_complete_reqs, ?_, ?_⟩ <;> rw [hafter]

/-! ## Leases and write-backs (R219) -/

theorem numberHeld_held (s : State) (w : HeldWrite) : (numberHeld s w).held = s.held :=
  (State.commitMem_keeps ..).2.2

theorem State.writeBack_held (s : State) (h : Held) : (s.writeBack h).held = s.held.filter (fun k => k.line != h.line) :=
  foldl_keeps (fun t : State => t.held = s.held.filter (fun k => k.line != h.line)) _ (fun t w ht => (numberHeld_held t w).trans ht) _ _ rfl

theorem lease_ends {s : State} {line : Nat} {h : Held} (hh : s.heldLine line = some h) (hback : h.writingBack = false) (htill : h.till ≤ s.ns) :
    Happens (.atomicLeaseExpiry line) s (fun t => t.mem = s.mem ∧ t.heldLine line = some { h with writingBack := true }) :=
  event_happens rfl (by simp [hh, hback, htill]) ⟨rfl, State.beginWriteBack_heldLine hh⟩

theorem writeBack_completes {s : State} {line : Nat} {h : Held} (hh : s.heldLine line = some h) (hback : h.writingBack = true) :
    Happens (.atomicWriteBackComplete line) s (fun t => t.heldLine line = none ∧ (h.writes = [] → t.mem = s.mem)) := by
  refine ⟨s.writeBack h, ?_, ?_, fun hw => by rw [State.writeBack, hw]; rfl⟩
  · show eventOpt s (((s.heldLine line).filter (fun h => h.writingBack)).map (fun h => s.writeBack h)) = _
    simp [hh, Option.filter, hback, eventOpt]
  · rw [State.heldLine, State.writeBack_held, ← s.heldLine_line hh, List.find?_eq_none]
    intro x hx
    simpa using (List.mem_filter.mp hx).2

/-- Settles O43: a request that nothing holds back is performed at its home, its unit or its port, and what was taken from there ends. -/
theorem requestsAreAnswered : Obligations.RequestsAreAnswered := by
  refine ⟨⟨fun r s h hk hrep => home_answers_load h hk hrep, fun r pa s h hk hp hsize => home_takes_store h hk hp hsize,
    fun r pa op comb s h hk hp hu => home_combines h hk hp hu,
    fun r pa x s hr hfree halone hk hp hport hh => home_frees_held_line hr hfree halone hk hp hport hh,
    fun r pa op comb s hr hfree hp hk hu hport hh => unit_takes_line hr hfree hp hk hu hport hh,
    fun r b a s hr hfree hopen hp hk => pad_takes_store hr hfree hopen hp hk⟩,
    fun die home x s hx hhome happ hone => ?_, fun die line y s hy hline hm hone => ?_,
    fun r d ty s hr hdone hnum halone hld hdest hlost hlane hst hacq hrsp => ?_,
    fun r s hr hdone hnum halone hld hdest hlost hlane hacq hrsp => store_ends hr hdone hnum halone hld hdest hlost hlane hacq hrsp,
    fun line x s hh => ⟨lease_ends hh, writeBack_completes hh⟩⟩
  · subst hhome
    exact notice_applied hx happ hone
  · subst hline
    exact fill_installed hy hm hone
  · obtain ⟨t, ht, hmem, hgone, hv, hD, hpend⟩ := load_ends hr hdone hnum halone hld hdest hlost hlane hst hacq hrsp
    rw [hdest] at hv
    exact ⟨t, ht, hmem, hgone, hv, hD, hpend⟩

end Sys2Proof.Machine

/-!
# Loads (O16)
-/

namespace Sys2Proof.Machine

open Sys2Proof.Claims

/-! ## The load words -/

/-- Where a load word brings its bytes. -/
def loadDest (m : MForm) (quad : Bool) : Dest := if quad then .regs m.data.toNat 4 else .reg m.data.toNat m.ty

theorem loadDest_vector (m : MForm) (quad : Bool) : (loadDest m quad).vector = true := by
  cases quad <;> rfl

theorem loadDest_fill (s : State) (f : Focus) (i : Nat) (m : MForm) (quad : Bool) (x : Nat) :
    (loadDest m quad).fill (s.fgroup f).nregs (BitVec.ofNat 512 x) (s.flane f i) = loadedRegs s f i m quad x := by
  cases quad <;> rfl

theorem loadOf_runs {w : Instr} {m : MForm} {off : BitVec 14} {quad : Bool} (h : loadOf w = some (m, off, quad)) (s : State) :
    exec w s = loadWord m off (loadSize m quad) (loadDest m quad) (if quad then quadUse m.data else regUse m.ty.wide m.data) s := by
  unfold loadOf at h
  split at h <;> cases h <;> rfl

/-- The one lane's access reads constant space. -/
theorem memWord_reads_const {s : State} {f : Focus} {i : Nat} {g : Guard} {ext : Bool} {gate : State → Focus → Nat → Option Wait}
    {chk : State → Focus → Nat → Chk} {go : Focus → State → Nat → Chk → State × Option Next} (hacts : s.acting f g = [i])
    (hext : (ext && (s.fgroup f).region.isSome) = false) (hgate : gate s f i = none) {a : Nat} (hchk : chk s f i = .const a)
    {u : State} (hgo : go f s i (.const a) = (u, none)) : memWord g ext gate chk go s f = .ok u [] := by
  have hbad : firstBad [(i, Chk.const a)] = none := by simp [firstBad]
  simp [memWord, hacts, hext, hgate, hchk, hbad, hgo]

theorem Gated.fkern {s u : State} {f : Focus} {i : Nat} (hg : Gated s u f i) : u.fkern f = s.fkern f := by
  have hctx : u.fctx f = s.fctx f := (congrArg Block.ctx hg.group.block).trans rfl
  have hctxs : u.ctxs = s.ctxs := (congrArg State.ctxs hg.rest).trans rfl
  simp only [State.fkern, State.kern, State.ctx, State.ctx?, hctx, hctxs]

/-- The request of a lane's load. -/
def loadReq (m : MForm) (size : Nat) (dest : Dest) (s : State) (f : Focus) (i : Nat) (p : Place) : Req :=
  let t := s.modLane f.blk f.grp i (fun l => l.passGate true)
  { t.blankReq f i .load p size m.ty with scope := m.scope, ord := m.ord, atHome := atHomeHint m.hint, dest := dest, isLd := true }

section
variable {s : State} {f : Focus} {i : Nat} {m : MForm} {use : List Nat} (h : Solo s f i m.g use) {dest : Dest} (hd : dest.vector = true)
  (hgate : s.gate f i true false false m.space = none) {off : Int} {size : Nat}
include h hgate

include hd in
theorem Solo.loads_const {a : Nat} (hchk : checkM m off size [.read] .load false s f i = .const a) :
    ∃ t, runWord s use (memWord m.g false (fun s f i => s.gate f i true false false m.space)
        (checkM m off size [.read] .load false) (loadLane m size dest)) = .next t ∧
      BlocksOnly s t ∧ OnlyGroup s t f ∧ (t.flane f i).pc = (s.flane f i).landing (f.pc + 1) ∧
      (t.flane f i).v = (dest.fill (s.fgroup f).nregs (BitVec.ofNat 512 (natOfBytes ((s.fkern f).constBytes a size))) (s.flane f i)).v := by
  have hg := h.passes true
  have hgo : loadLane m size dest f s i (.const a) =
      (putNow (s.modLane f.blk f.grp i (fun l => l.passGate true)) f i dest (natOfBytes ((s.fkern f).constBytes a size)), none) := by
    rw [← hg.fkern]
    rfl
  obtain ⟨t, ht, hafter, -, hrest, hpc, hv⟩ := h.gets (es := []) (memWord_reads_const h.acting (ext := false) rfl
    (gate := fun s f i => s.gate f i true false false m.space) hgate hchk hgo) hd hg hg.path rfl rfl
  refine ⟨t, ht, ?_, hg.group.trans hafter, hpc, hv⟩
  rw [BlocksOnly, hrest rfl, hg.rest]

include hd in
theorem Solo.loads_pad {a : Nat} {seen : Seen} (hsp : m.space = .sp)
    (hchk : checkM m off size [.read] .load false s f i = .ok (.rsp f.blk a) seen) :
    ∃ t, runWord s use (memWord m.g false (fun s f i => s.gate f i true false false m.space)
        (checkM m off size [.read] .load false) (loadLane m size dest)) = .next t ∧
      t.mem = s.mem ∧ OnlyGroup s t f ∧ (t.flane f i).pc = (s.flane f i).landing (f.pc + 1) ∧
      (t.flane f i).v = (dest.fill (s.fgroup f).nregs (BitVec.ofNat 512 (s.natAt (.rsp f.blk a) size)) (s.flane f i)).v := by
  have hg := h.passes true
  have hread := hg.spRead (by simp [h.one]) m (.rsp f.blk a) size
  have hval := hg.natAt a size
  generalize hs1 : s.modLane f.blk f.grp i (fun l => l.passGate true) = s1 at hg hread hval
  obtain ⟨t, ht, hafter, hmem, -, hpc, hv⟩ := h.gets (es := []) (dest := dest) (x := s.natAt (.rsp f.blk a) size)
    (h.at_pad (ext := false) rfl (gate := fun s f i => s.gate f i true false false m.space) (go := loadLane m size dest) hsp
      ⟨hgate, ⟨seen, hchk⟩, rfl⟩ (by simp only [loadLane, hsp, hs1, hval]; rfl)) hd hread hread.path rfl rfl
  exact ⟨t, ht, hmem, hread.group.trans hafter, hpc, hv⟩

theorem Solo.loads_ask {p : Place} {seen : Seen} (hext : m.space = .gl ∨ m.space = .rsp)
    (hchk : checkM m off size [.read] .load false s f i = .ok p seen) (hroom : s.windowRoom p = true) :
    ∃ t, runWord s use (memWord m.g false (fun s f i => s.gate f i true false false m.space)
        (checkM m off size [.read] .load false) (loadLane m size dest)) = .next t ∧
      Asked s t f i (fun r => r.kind = .load ∧ r.place = p ∧ r.size = size ∧ r.dest = dest ∧ r.scope = m.scope ∧ r.ord = m.ord) := by
  have hnot := Space.beq_sp_of_external hext
  exact h.asks rfl (gate := fun s f i => s.gate f i true false false m.space) ⟨hgate, ⟨seen, hchk⟩, hroom⟩ (go := loadLane m size dest)
    (r := loadReq m size dest s f i p) (w := none) (ld := true) ⟨rfl, rfl, rfl, rfl⟩ (fun _ _ => by simp only [loadLane, hnot]; rfl)
    (fun _ _ => ⟨rfl, rfl, rfl, rfl, rfl, rfl⟩)

end

/-! ## Loads from device memory (R211) -/

/-- A request of this device's leaves its lane for its place: it joins those in flight. -/
theorem State.send_near (s : State) (f : Focus) {r : Req} (h : r.place.remote = false) :
    s.send f r = State.modLane { s with reqs := s.reqs ++ [r], nextId := s.nextId + 1 } f.blk f.grp r.lane
      (awaits (s.fgroup f).nregs r) := by
  have hstays : State.mayLaunch { s with reqs := s.reqs ++ [r], nextId := s.nextId + 1 } r = false := by simp [State.mayLaunch, h]
  simp only [State.send, hstays]
  rfl

theorem HasPath.modLane_nregs {s : State} {f : Focus} (h : HasPath s f) (i : Nat) (k : Lane → Lane) :
    ((s.modLane f.blk f.grp i k).fgroup f).nregs = (s.fgroup f).nregs :=
  (congrArg Group.nregs (h.onLanes_group [i] (fun _ => k)) :)

/-- A lane has passed its gate, and its request for a place of this device joins those in flight. -/
theorem HasPath.sends_near {s : State} {f : Focus} (h : HasPath s f) (i : Nat) (ld : Bool) {r : Req} (hp : r.place.remote = false) :
    let u := (s.modLane f.blk f.grp i (fun l => l.passGate ld)).send f r
    u = { s with blocks := u.blocks, reqs := s.reqs ++ [r], nextId := s.nextId + 1 } ∧ (u.fgroup f).nregs = (s.fgroup f).nregs := by
  dsimp only
  rw [State.send_near _ f hp]
  exact ⟨rfl, (HasPath.modLane_nregs ((h.of_modLane i _).of_blocks rfl) _ _).trans (h.modLane_nregs i _)⟩

/-- The one lane's access of device memory has left: nothing differs but what the core has cached, the lane, and the request. -/
structure Loading (s t : State) (f : Focus) (i : Nat) (r : Req) : Prop where
  path : HasPath t f
  rest : t = { s with cores := t.cores, blocks := t.blocks, reqs := s.reqs ++ [r], nextId := s.nextId + 1 }
  nregs : (t.fgroup f).nregs = (s.fgroup f).nregs
  v : (t.flane f i).v = (s.flane f i).v
  pc : (t.flane f i).pc = (s.flane f i).landing (f.pc + 1)
  st : (t.flane f i).st = .ready

theorem Solo.loads_near {s : State} {f : Focus} {i : Nat} {m : MForm} {use : List Nat} (h : Solo s f i m.g use)
    (hgate : s.gate f i true false false m.space = none) {off : Int} {size pa : Nat} {seen : Seen} {dest : Dest} (hgl : m.space = .gl)
    (hchk : checkM m off size [.read] .load false s f i = .ok (.mem pa) seen) :
    ∃ t, runWord s use (memWord m.g false (fun s f i => s.gate f i true false false m.space)
        (checkM m off size [.read] .load false) (loadLane m size dest)) = .next t ∧
      Loading s t f i (loadReq m size dest s f i (.mem pa)) := by
  have hi : i ∈ f.lanes := by simp [h.one]
  have hsee := s.see_eq (s.fblock f).core (s.fctx f) seen
  generalize (s.see (s.fblock f).core (s.fctx f) seen).cores = k at hsee
  have hpath : HasPath { s with cores := k } f := h.toHasPath.of_blocks rfl
  let r := loadReq m size dest s f i (.mem pa)
  let u := (State.modLane { s with cores := k } f.blk f.grp i (fun l => l.passGate true)).send f r
  have hleft : HasLeft { s with cores := k } u f i r := hpath.send hi true rfl
  have hsent := hpath.send_flane (r := r) hi true rfl
  have hgo : loadLane m size dest f (s.see (s.fblock f).core (s.fctx f) seen) i (.ok (.mem pa) seen) = (u, none) := by
    rw [hsee]
    simp only [loadLane, hgl]
    rfl
  have hword : memWord m.g false (fun s f i => s.gate f i true false false m.space) (checkM m off size [.read] .load false)
      (loadLane m size dest) s f = .ok u [] := memWord_ok h.acting rfl hgate hchk rfl hgo
  obtain ⟨hrest, hnregs⟩ := hpath.sends_near i true (r := r) rfl
  have hout : outside u f (s.fkern f).size [] = [] := outside_nil fun j hj => by
    rw [show j = i by simpa [h.one] using hj, hleft.landing]
    exact h.inside i hi
  have hlane : (u.onLanes f f.lanes (placeLane f [])).flane f i = (u.flane f i).advance (f.pc + 1) := hleft.path.placed h.once [] i hi
  refine ⟨_, runWord_ok h.toIssues hword hout, hleft.path.of_onLanes _ _, ?_, ?_, ?_, ?_, ?_⟩
  · exact (congrArg (fun x : State => { x with blocks := (u.onLanes f f.lanes (placeLane f [])).blocks }) hrest :)
  · exact (congrArg Group.nregs (hleft.path.onLanes_group ..)).trans hnregs
  · rw [hlane, hsent]
    rfl
  · rw [hlane]
    exact hleft.landing _
  · rw [hlane]
    rfl


theorem State.natAt_of_mem {s t : State} (h : t.mem = s.mem) (pa n : Nat) : t.natAt (.mem pa) n = s.natAt (.mem pa) n := by
  simp only [State.natAt, State.bytesAt, Place.plus, State.byteAt, h]

/-- The reply of the last request in flight fills its lane's registers, and the lane goes on where it stands. -/
theorem loadReply_last {u : State} {q : Req} (hlast : u.reqs = [q]) (hheld : u.held = []) (halone : u.inRecord q.id = false)
    (hdone : q.performed = true) (hld : q.isLd = true) (hlost : q.lost = false) (hd : q.dest.vector = true)
    (hrsp : q.place.isRsp = false) (hnear : q.place.remote = false) (hlane : HasLane u q.blk q.grp q.lane)
    (hst : (u.lane q.blk q.grp q.lane).st ≠ .exited) :
    ∃ v, exec (.loadReply q.id) u = .next v ∧ v.mem = u.mem ∧ v.reqs = [] ∧
      (v.lane q.blk q.grp q.lane).pc = (u.lane q.blk q.grp q.lane).pc ∧
      (v.lane q.blk q.grp q.lane).v = (q.dest.fill (u.group q.blk q.grp).nregs q.reply (u.lane q.blk q.grp q.lane)).v := by
  have hfound : u.req? q.id = some q := by simp [State.req?, hlast]
  have hnum : u.unnumbered q.id = false := by
    rw [State.unnumbered, hheld]
    rfl
  have hafter := State.reply_lane hlost hrsp hd hlane hst
  refine ⟨u.reply q, loadReply_eq hfound hdone hnum halone hld, State.reply_mem .., ?_, ?_, (congrArg Lane.v hafter).trans rfl⟩
  · rw [State.reply_eq hlost hrsp]
    refine State.complete_last hnear fun x hx => ?_
    rw [State.deliver_eq u q hd, State.modLane_reqs, State.modGroup_reqs, hlast] at hx
    rw [List.mem_singleton.mp hx]
  · have hfill : (q.filled (u.group q.blk q.grp).nregs q.reply (u.lane q.blk q.grp q.lane)).pc = (u.lane q.blk q.grp q.lane).pc :=
      (congrArg Lane.pc (Dest.fill_rest ..) :)
    exact (congrArg Lane.pc hafter).trans hfill

section
variable {s t : State} {f : Focus} {i size pa : Nat} {m : MForm} {dest : Dest}
  (hg : Gated s (s.modLane f.blk f.grp i (fun l => l.passGate true)) f i)
include hg

theorem loadReq_core : (loadReq m size dest s f i (.mem pa)).core = (s.fblock f).core :=
  (congrArg Block.core hg.group.block :)

theorem loadReq_world : (loadReq m size dest s f i (.mem pa)).world = (s.ctx (s.fctx f)).world :=
  (congrArg (fun b : Block => (s.ctx b.ctx).world) hg.group.block :)

/-- A load whose hint sends it home, or whose home is its own die, reads no replica. -/
theorem loadReq_replicable (hnear : atHomeHint m.hint = true ∨ dieOfAddr pa = dieOfCore (s.fblock f).core) :
    (loadReq m size dest s f i (.mem pa)).replicable = false := by
  rw [← loadReq_core (m := m) (size := size) (dest := dest) (pa := pa) hg] at hnear
  have hhint : (loadReq m size dest s f i (.mem pa)).atHome = atHomeHint m.hint := rfl
  have hplace : (loadReq m size dest s f i (.mem pa)).place = .mem pa := rfl
  rcases hnear with hc | hc <;> simp [Req.replicable, hplace, hhint, hc]

variable (h : Loading s t f i (loadReq m size dest s f i (.mem pa))) (hhome : HomeAnswers s f pa)
include h hhome

omit hg in
theorem Loading.last : t.reqs = [loadReq m size dest s f i (.mem pa)] := by
  rw [h.rest, hhome.quiet]
  rfl

/-- A load of device memory that is alone in flight has come to its home, and nothing holds it back there. -/
theorem Loading.atHome : AtHome t (loadReq m size dest s f i (.mem pa)) := by
  have hlast := h.last hhome
  obtain ⟨-, hunheld, hport, halone, hfresh⟩ := hhome
  refine ⟨?_, rfl, rfl, ?_, ?_, ?_, ?_, rfl, fun d => ?_⟩
  · simp [State.req?, hlast]
  · rw [h.rest]
    exact halone
  · have hfollows : (loadReq m size dest s f i (.mem pa)).follows (loadReq m size dest s f i (.mem pa)) = false := by
      simp [Req.follows]
    simp only [State.free, hlast, List.any_cons, List.any_nil, hfollows]
    rfl
  · rw [loadReq_world hg, h.rest]
    exact hport
  · rw [h.rest]
    simp only [State.isHeld, State.heldLine, hunheld]
    rfl
  · rw [loadReq_core hg, h.rest]
    exact hfresh d

/-- A load that its home answers: its reply fills the registers, and nothing is in flight any more. -/
theorem Loading.answered (hd : dest.vector = true) (hi : i ∈ f.lanes)
    (hnear : atHomeHint m.hint = true ∨ dieOfAddr pa = dieOfCore (s.fblock f).core) :
    ∃ u v, exec (.homeSliceRequest s.nextId) t = .next u ∧ exec (.loadReply s.nextId) u = .next v ∧ v.mem = s.mem ∧ v.reqs = [] ∧
      (v.flane f i).pc = (s.flane f i).landing (f.pc + 1) ∧
      (v.flane f i).v = (dest.fill (s.fgroup f).nregs (BitVec.ofNat 512 (s.natAt (.mem pa) size)) (s.flane f i)).v := by
  have hat := h.atHome hg hhome
  have hdone := homeSlice_performs hat rfl rfl (loadReq_replicable hg hnear)
  obtain ⟨c, hrest⟩ := State.performReq_last_load hat.fresh rfl (h.last hhome)
  generalize t.performReq (loadReq m size dest s f i (.mem pa)) = u at hrest hdone
  have hblocks : u.blocks = t.blocks := (congrArg State.blocks hrest).trans rfl
  have hlane : u.flane f i = t.flane f i := State.lane_of_blocks hblocks ..
  have hgroup : u.fgroup f = t.fgroup f := by simp only [State.fgroup, State.group, State.block, State.block?, hblocks]
  have hmem : t.mem = s.mem := by rw [h.rest]
  have hst : (u.flane f i).st ≠ .exited := by
    rw [hlane, h.st]
    nofun
  obtain ⟨v, hv, hvmem, hreqs, hpc, hregs⟩ := loadReply_last (u := u) (congrArg State.reqs hrest)
    ((congrArg State.held hrest).trans (by rw [h.rest, hhome.unheld])) (by rw [hrest, h.rest]; exact hhome.alone) rfl rfl rfl hd rfl rfl
    ((h.path.of_blocks hblocks).hasLane hi) hst
  refine ⟨u, v, hdone, hv, ?_, hreqs, hpc.trans ?_, hregs.trans ?_⟩
  · rw [hvmem, hrest, hmem]
  · exact (congrArg Lane.pc hlane).trans h.pc
  · rw [← State.natAt_of_mem hmem, ← h.nregs, ← hgroup]
    exact Dest.fill_v ((congrArg Lane.v hlane).trans h.v) ..

end

/-- Settles O16: constant space and the scratchpad answer at once; elsewhere a request leaves, and its reply brings the bytes. -/
theorem loadsReadTheirBytes : Obligations.LoadsReadTheirBytes := by
  intro w m off quad s f i hw h hgate size check
  rw [loadOf_runs hw, loadWord]
  have hd := loadDest_vector m quad
  simp only [← loadDest_fill]
  refine ⟨fun a _ hchk => h.loads_const hd hgate hchk, fun a seen hsp hchk => h.loads_pad hd hgate hsp hchk,
    fun p seen hext hchk hroom => h.loads_ask hgate hext hchk hroom, fun pa seen hgl hchk hhome hnear => ?_⟩
  obtain ⟨t, ht, hleft⟩ := h.loads_near (dest := loadDest m quad) hgate hgl hchk
  obtain ⟨u, v, hu, hv, hafter⟩ := hleft.answered (h.passes true) hhome hd (by simp [h.one]) hnear
  exact ⟨t, u, v, ht, hu, hv, hafter⟩

end Sys2Proof.Machine

/-!
# A tile command and its lane's acquire (O25)

A command with a range, or with a counter, passes its lane's gate. An acquire before it joins there to the lane's D what the scratchpad
writes that the lane has read depend on (10_memory.md R228; log 99), and the command carries D as it stands then (13_ordering.md R259).
The statement asks that the command carries the D of before.
-/

namespace Sys2Proof.Machine

open Sys2Proof.Claims

/-- The path of `acquired`. -/
def acquiredPath : Focus := { blk := 0, grp := 0, kern := 0, pc := 0, lanes := [0], word := 0 }

/-- A lane that has read a scratchpad byte whose write depends on home 0's first write, and that has acquired since. Its die has applied
that write. -/
def acquired : State :=
  { State.reset with
    ctxs := [(0, placedCtx)]
    insts := [(0, placedInst)]
    blocks := [(0, { placedBlock with
      groups := [{ lanes := [{ spD := { h0 := 1 }, order := { cover := true } }] }], scratch := 1, acc := 1 })]
    dies := [(0, { applied := { h0 := 1 } })]
    focus := some acquiredPath }

/-- `tld` of tile register 0 from the first 16 KiB of the scratchpad. -/
def tileFromSpad : TForm :=
  { g := always, td := 0, ts := 0, p := 0, cnt := 0, x := 0, y := 0, ctr := 0, en := false, flags := 1 }

/-- The state after the command has been queued. -/
def afterTld : State :=
  match exec (.tld tileFromSpad) acquired with
  | .next t => t
  | _ => acquired

theorem exec_tld_acquired : exec (.tld tileFromSpad) acquired = .next afterTld := rfl

/-- The queued command covers home 0's first write; the lane's D did not. -/
theorem vec_tileQ_afterTld : ((afterTld.core 0).tileQ.map TileCmd.vec) = [{ h0 := 1 }] := by decide

theorem vec_tileCmdOf_acquired : (tileCmdOf acquired acquiredPath 0 .tld tileFromSpad).vec = {} := by decide

theorem ready_acquired : Ready acquired acquiredPath [] where
  block := by decide
  group := by decide
  lanes := by decide
  focus := rfl
  ready := by decide
  once := by decide
  some := by decide
  delivered := by decide
  inside := by decide

/-- The command passes its checks: 16 KiB of scratchpad and one tile register are there. -/
theorem worst_tileChecks_acquired :
    worst (tileChecks acquired acquiredPath (tileCmdOf acquired acquiredPath 0 .tld tileFromSpad)) = .ok (.rsp 0 0) .nothing := by decide

/-- Refutes O25: the command that `acquired` queues carries a D that the scratchpad's has been joined to. -/
theorem not_tileCommandsQueue : ¬ Obligations.TileCommandsQueue := by
  intro h
  obtain ⟨t, after, rel, ht, hq, -⟩ := h (.tld tileFromSpad) .tld tileFromSpad acquired acquiredPath 0 rfl ready_acquired rfl rfl
    (fun _ => by decide) (by decide) (fun n x hx => by rw [worst_tileChecks_acquired] at hx; cases hx)
    (fun p a b hx => by rw [worst_tileChecks_acquired] at hx; cases hx) (by decide) (by decide) (by decide)
  obtain rfl : afterTld = t := by simpa [exec_tld_acquired] using ht
  have hvec := congrArg (List.map TileCmd.vec) hq
  have hzero : (afterTld.core 0).tileQ.map TileCmd.vec = [{}] := hvec.trans (congrArg (fun v => [v]) vec_tileCmdOf_acquired)
  exact absurd (vec_tileQ_afterTld.symm.trans hzero) (by decide)

end Sys2Proof.Machine

/-!
# The tile engine's steps and a command's end (O26)

What a command writes to memory or to counter SRAM, and what a counter's raise sets off, leaves the cores' queues alone (`QueuesKept`). So
after a step the queue is the one of before, with the head's steps and vector changed (`performTile_queue`), and after the end of a command
the rest of it (`finishTile_queue`).
-/

namespace Sys2Proof

/-! ## Bytes -/

theorem natOfBytes_bytesOfNat (x n : Nat) : natOfBytes (bytesOfNat x n) = x % 256 ^ n := by
  induction n generalizing x with
  | zero => simp [bytesOfNat, natOfBytes, Nat.mod_one]
  | succ n ih => rw [bytesOfNat, natOfBytes, ih, BitVec.toNat_ofNat, show 2 ^ 8 = 256 from rfl, Nat.pow_succ', Nat.mod_mul]

/-- A list whose elements are `k` long each: element `k * n + i` of all of them is element `i` of the one at `n`. -/
theorem getD_flatMap {α β : Type} {g : α → List β} {k : Nat} (hg : ∀ a, (g a).length = k) (d : β) {xs : List α} {n i : Nat}
    (hn : n < xs.length) (hi : i < k) : (xs.flatMap g).getD (k * n + i) d = (g xs[n]).getD i d := by
  induction xs generalizing n with
  | nil => cases hn
  | cons x xs ih =>
    rw [List.flatMap_cons]
    cases n with
    | zero => rw [Nat.mul_zero, Nat.zero_add, List.getD_append _ _ _ _ (by rwa [hg])]; rfl
    | succ n =>
      rw [List.getD_append_right _ _ _ _ (by rw [hg, Nat.mul_succ]; omega), hg,
        show k * (n + 1) + i - k = k * n + i by rw [Nat.mul_succ]; omega]
      exact ih (Nat.lt_of_succ_lt_succ hn)

theorem length_flatMap_const {α β : Type} {g : α → List β} {k : Nat} (hg : ∀ a, (g a).length = k) (xs : List α) :
    (xs.flatMap g).length = k * xs.length := by
  simp [List.length_flatMap, hg, Nat.mul_comm]

theorem Memory.byte_write_inside (m : Memory) (a : Nat) (bs : List Byte) (h : Memory.wf m = true) {i : Nat} (hi : i < bs.length) :
    Memory.byte (Memory.write m a bs) (a + i) = bs.getD i 0 := by
  obtain ⟨-, hget⟩ := Cells.setRun (w := 8) m h a (fun i => bs.getD i 0) bs.length
  rw [← Machine.Memory.write_cells, Machine.runCells, List.foldl_map]
  refine (hget (a + i)).trans ?_
  rw [if_pos ⟨by omega, by omega⟩, Nat.add_sub_cancel_left]

theorem Tbl.at_filter_ne {α : Type} (p : Nat × α → Bool) (t : Tbl α) {n : Nat} {x : α} (h : p (n, x) = false) :
    Tbl.at (t.filter p) n ≠ some x := by
  intro hx
  have hp := List.of_mem_filter (Tbl.mem_of_at hx)
  rw [h] at hp
  cases hp

namespace Machine

open Sys2Proof.Claims

/-! ## What leaves the cores alone -/

theorem foldl_cores {α : Type} {f : State → α → State} (hf : ∀ t a, (f t a).cores = t.cores) (xs : List α) (s : State) :
    (xs.foldl f s).cores = s.cores :=
  foldl_keeps (fun t => t.cores = s.cores) f (fun t a ht => (hf t a).trans ht) xs s rfl

theorem countEvents_cores (s : State) (c i : Nat) (es : Events) : (countEvents s c i es).cores = s.cores :=
  foldl_cores (fun t e => by
    unfold bumpEvent bumpFex
    dsimp only
    repeat' split
    all_goals rfl) es s

theorem State.queueParked_cores (s : State) (b : Nat) : (s.queueParked b).cores = s.cores := by
  unfold State.queueParked
  split
  · unfold State.queueRelaunch
    dsimp only
    split <;> rfl
  · rfl

theorem State.wakeUnit_cores (s : State) (b : Nat) : (s.wakeUnit b).cores = s.cores := by
  unfold State.wakeUnit
  split
  · rfl
  · dsimp only
    split
    · exact foldl_cores (by intros; rfl) _ _
    · split
      · exact State.queueParked_cores ..
      · rfl

theorem State.raised_cores (s : State) (d key old new : Nat) (vec : VecD) : (s.raised d key old new vec).cores = s.cores := by
  unfold State.raised
  split
  · rfl
  · dsimp only
    exact (foldl_cores (fun _ _ => State.wakeUnit_cores ..) _ _).trans (foldl_cores (by intros; rfl) _ _)

theorem State.sendNotices_cores (s : State) (note : Notice) : (s.sendNotices note).cores = s.cores :=
  foldl_cores (fun t d => by split <;> rfl) _ s

theorem State.commitMem_cores (s : State) (pa : Nat) (bytes : List Byte) (tagOn : Bool) (vec : VecD) :
    (s.commitMem pa bytes tagOn vec).1.cores = s.cores := by
  unfold State.commitMem State.commitCells
  split
  · rfl
  · dsimp only
    exact (foldl_cores (fun _ _ => State.raised_cores ..) _ _).trans (State.sendNotices_cores ..)

theorem State.commitSram_cores (s : State) (d off : Nat) (bytes : List Byte) (vec : VecD) :
    (s.commitSram d off bytes vec).cores = s.cores :=
  foldl_cores (by intros; exact State.raised_cores ..) _ s

theorem State.commitAt_cores (s : State) (p : Place) (bytes : List Byte) (tagOn : Bool) (vec : VecD) :
    (s.commitAt p bytes tagOn vec).1.cores = s.cores := by
  unfold State.commitAt
  split
  · exact State.commitMem_cores ..
  · exact State.commitSram_cores ..
  · rfl
  · rfl

theorem State.writeBack_cores (s : State) (h : Held) : (s.writeBack h).cores = s.cores :=
  foldl_cores (by intros; exact State.commitMem_cores ..) _ _

theorem State.flush_cores (s : State) (p : Place) (n : Nat) : (s.flush p n).cores = s.cores := by
  unfold State.flush
  split
  · split
    · rfl
    · refine foldl_cores (fun t l => ?_) _ _
      split
      · exact State.writeBack_cores ..
      · rfl
  · rfl

theorem State.freezeCtx_cores (s : State) (c kind : Nat) : (s.freezeCtx c kind).cores = s.cores := by
  unfold State.freezeCtx State.freeEndedQueues
  dsimp only
  repeat' split
  all_goals rfl

theorem State.freeDrained_cores (s : State) (blk : Nat) : (s.freeDrained blk).cores = s.cores := by
  unfold State.freeDrained
  split <;> rfl

/-! ## Queues that an access keeps -/

/-- The tile queue of every core is as before. -/
structure QueuesKept (s t : State) : Prop where
  queue : ∀ c, (t.core c).tileQ = (s.core c).tileQ

namespace QueuesKept

theorem of_cores {s t : State} (h : t.cores = s.cores) : QueuesKept s t := ⟨fun c => by rw [State.core_of_cores h]⟩

theorem trans {s t u : State} (h : QueuesKept s t) (k : QueuesKept t u) : QueuesKept s u :=
  ⟨fun c => (k.queue c).trans (h.queue c)⟩

theorem modCore (s : State) (c : Nat) {k : Core → Core} (hk : (k (s.core c)).tileQ = (s.core c).tileQ) :
    QueuesKept s (s.modCore c k) := by
  refine ⟨fun d => ?_⟩
  by_cases hd : d = c
  · subst hd
    rw [State.core_modCore_same, hk]
  · rw [State.core_modCore_ne s k hd]

theorem violate (s : State) (core c kind : Nat) : QueuesKept s (s.violate core c kind) :=
  .trans (t := (s.countViolation (dieOfCore core)).modCore core (fun x => { x with frozenBy := insertNat c x.frozenBy }))
    (.trans (t := s.countViolation (dieOfCore core)) (.of_cores rfl) (.modCore _ core rfl)) (.of_cores (State.freezeCtx_cores ..))

theorem engineBreach (s : State) (w : Agent) (kind : Nat) : QueuesKept s (s.engineBreach w kind) := by
  unfold State.engineBreach
  split
  · exact .violate ..
  · exact .of_cores (State.freezeCtx_cores ..)

/-- An engine's access that goes on keeps what `go` does; one that is stopped freezes at most a core and a context. -/
theorem engineAt {α : Type} (P : State → α → Prop) (s : State) (w : Agent) (p : Place) {stop go : State → α}
    (hstop : ∀ t, QueuesKept s t → P s (stop t)) (hgo : P s (go s)) : P s (s.engineAt w p stop go) := by
  unfold State.engineAt
  split
  · exact hstop _ (.engineBreach ..)
  · exact hstop _ (.of_cores rfl)
  · split
    · exact hstop _ (.of_cores rfl)
    · exact hgo

theorem flushLoc (s : State) (w : Agent) (l : Loc) (len : Nat) : QueuesKept s (s.flushLoc w l len) := by
  refine foldl_keeps (QueuesKept s) _ (fun t x ht => ht.trans ?_) _ s (.of_cores rfl)
  split
  · exact engineAt QueuesKept t w _ (fun _ h => h) (.of_cores (by rw [readLoss_cores, State.flush_cores]))
  · exact .of_cores rfl

theorem writeLoc (s : State) (w : Agent) (l : Loc) (bytes : List Byte) (vec : VecD) : QueuesKept s (s.writeLoc w l bytes vec).1 := by
  refine foldl_keeps (fun u : State × VecD => QueuesKept s u.1) _ (fun u x hu => hu.trans ?_) _ (s, _) (.of_cores rfl)
  split
  · exact engineAt (fun t (v : State × VecD) => QueuesKept t v.1) u.1 w _ (fun _ h => h)
      (.of_cores (by rw [State.commitAt_cores, State.flush_cores]))
  · exact .of_cores rfl

theorem raiseCounter (s : State) (w : Agent) (ctr : Option Nat) (vec : VecD) : QueuesKept s (raiseCounter s w ctr vec).1 := by
  unfold Machine.raiseCounter
  split
  · exact .of_cores rfl
  · split
    · exact .of_cores rfl
    · exact engineAt (fun t (v : State × VecD) => QueuesKept t v.1) s w _ (fun _ h => h)
        (.of_cores (by rw [State.commitAt_cores, readLoss_cores, State.flush_cores]))

end QueuesKept

/-! ## Ranges whose pages are there (09_page.md R207) -/

theorem worst_mem (cs : List Chk) : worst cs = .const 0 ∨ worst cs ∈ cs := by
  have hfind : ∀ p : Chk → Bool, (cs.find? p).getD (.const 0) = .const 0 ∨ (cs.find? p).getD (.const 0) ∈ cs := fun p => by
    cases h : cs.find? p with
    | none => exact .inl rfl
    | some c => exact .inr (List.mem_of_find?_eq_some h)
  unfold worst
  split
  · exact hfind _
  · split
    · next h => exact .inr (List.mem_of_find?_eq_some h)
    · cases cs with
      | nil => exact .inl rfl
      | cons c cs => exact .inr List.mem_cons_self

theorem State.rangesThere_of_present {α : Type} {s : State} {w : Agent} {rs : List (Loc × Nat × Need)} (h : Present s w rs)
    (fill : State → α) (fault : Trap → State → α) (go : State → α) : s.rangesThere w rs fill fault go = some (go s) := by
  have hroom : rs.all (fun r => s.rangeRoom w r.1 r.2.1 r.2.2) = true := List.all_eq_true.mpr fun r hr => (h r hr).2.2
  unfold State.rangesThere
  rcases worst_mem (rs.map (fun r => s.rangeNow w r.1 r.2.1 r.2.2)) with hc | hc
  · rw [hc]
    simp [hroom]
  · obtain ⟨r, hr, he⟩ := List.mem_map.mp hc
    obtain ⟨hfill, hbad, -⟩ := h r hr
    rw [he] at hfill hbad
    split
    · next hx => exact absurd hx (hfill _ _ _)
    · next hx => exact absurd hx (hbad _ _)
    · simp [hroom]

/-! ## A step leaves the queue but for its head (R275) -/

section
variable {s : State} {core : Nat} {c : TileCmd} {q : List TileCmd} (hid : ∀ x ∈ q, x.id ≠ c.id)
include hid

/-- What is done to the commands of the head's identity is done to the head. -/
theorem map_head (k : TileCmd → TileCmd) (v : VecD) :
    ({ c with vec := v } :: q).map (fun x => if x.id == c.id then k x else x) = k { c with vec := v } :: q := by
  rw [List.map_cons]
  exact congrArg₂ _ (if_pos (by simp))
    ((List.map_congr_left fun x hx => if_neg (by simpa using hid x hx)).trans (List.map_id q))

variable (hq : (s.core core).tileQ = c :: q)
include hq

omit hid in
theorem QueuesKept.head {t : State} (h : QueuesKept s t) : ∃ v, (t.core core).tileQ = { c with vec := v } :: q :=
  ⟨c.vec, (h.queue core).trans hq⟩

/-- A write by the head raises its vector. -/
theorem QueuesKept.head_raised {u : State × VecD} (h : QueuesKept s u.1) :
    ∃ v, ((u.1.modCore core (fun k => { k with tileQ := k.tileQ.map (fun (x : TileCmd) =>
      if x.id == c.id then { x with vec := x.vec.max u.2 } else x) })).core core).tileQ = { c with vec := v } :: q := by
  refine ⟨c.vec.max u.2, ?_⟩
  rw [State.core_modCore_same, h.queue core, hq]
  exact map_head hid (fun x => { x with vec := x.vec.max u.2 }) c.vec

/-- A step's effect, before it is counted, changes of the head at most the vector. -/
theorem performTile_effect : ∃ t : State, (∃ v, (t.core core).tileQ = { c with vec := v } :: q) ∧
    performTile s core c = t.modCore core (fun k => { k with tileQ := k.tileQ.map (fun (x : TileCmd) =>
      if x.id == c.id then
        { x with done := if c.kind == .tmmod && !goodModulus c.x.toNat c.y.toNat then c.steps else c.done + 1 }
      else x) }) := by
  have counted : ∀ (b : Block) (es : Events), QueuesKept s (countEvents (s.modBlock c.blk (fun _ => b)) c.ctx c.inst es) :=
    fun b es => .of_cores (countEvents_cores ..)
  have written := fun bytes => QueuesKept.writeLoc s (c.who core) c.mem bytes c.vec
  refine ⟨_, ?_, rfl⟩
  generalize List.range 16384 = offsets
  split
  case h_1 => -- tld
    dsimp only
    exact QueuesKept.head hq (.trans (.flushLoc ..) (.of_cores rfl))
  case h_2 => -- tst
    dsimp only
    have h := written (offsets.map ((s.block c.blk).tileByte c.t.ts))
    generalize s.writeLoc (c.who core) c.mem (offsets.map ((s.block c.blk).tileByte c.t.ts)) c.vec = u at h ⊢
    exact QueuesKept.head_raised hid hq h
  case h_3 => -- tzero
    exact QueuesKept.head hq (.of_cores rfl)
  case h_4 => -- bsld
    exact QueuesKept.head hq (.trans (.flushLoc ..) (.modCore _ core rfl))
  case h_5 => -- bsinv
    exact QueuesKept.head hq (.modCore s core rfl)
  case h_8 => -- tred
    dsimp only
    have h := written ((redTile (s.block c.blk) c).flatMap (fun x => bytesOfNat x.1 4))
    generalize s.writeLoc (c.who core) c.mem ((redTile (s.block c.blk) c).flatMap (fun x => bytesOfNat x.1 4)) c.vec = u at h ⊢
    obtain ⟨v, hv⟩ := QueuesKept.head_raised hid hq h
    exact ⟨v, ((QueuesKept.of_cores (countEvents_cores ..)).queue core).trans hv⟩
  -- The others change a tile register and count events.
  all_goals exact QueuesKept.head hq (counted ..)

theorem performTile_queue (hsteps : c.done < c.steps) :
    ∃ d v, ((performTile s core c).core core).tileQ = { c with done := d, vec := v } :: q ∧ 0 < d := by
  obtain ⟨t, ⟨v, hv⟩, heq⟩ := performTile_effect hid hq
  rw [heq, State.core_modCore_same]
  refine ⟨_, v, (congrArg (List.map _) hv).trans (map_head hid _ v), ?_⟩
  split <;> omega

end

/-! ## Tile registers (R266 to R268) -/

theorem Block.tileByte_setTile {b : Block} (h : Cells.wf b.tiles = true) (n : BitVec 4) (bytes : List Byte) {off : Nat}
    (ho : off < bytes.length) : (b.setTile n bytes).tileByte n off = bytes.getD off 0 :=
  Memory.byte_write_inside b.tiles (16384 * n.toNat) bytes h ho

theorem eachCell_length (k : Nat → Nat → Nat × Events) : (eachCell k).length = 4096 := by simp [eachCell]

theorem eachCell_get (k : Nat → Nat → Nat × Events) {i j : Nat} (hj : j < 64) (h : 64 * i + j < (eachCell k).length) :
    (eachCell k)[64 * i + j] = k i j := by
  simp only [eachCell, List.getElem_map, List.getElem_range]
  rw [show (64 * i + j) / 64 = i by omega, show (64 * i + j) % 64 = j by omega]

/-- An element of a C layout that is written whole holds the low 32 bits of what it is given. -/
theorem Block.cell_putCells {b : Block} (h : Cells.wf b.tiles = true) (n : BitVec 4) (k : Nat → Nat → Nat × Events) {i j : Nat}
    (hi : i < 64) (hj : j < 64) : (putCells b n (eachCell k)).1.cell n i j = (k i j).1 % 2 ^ 32 := by
  have hbytes : ∀ x : Nat × Events, (bytesOfNat x.1 4).length = 4 := fun x => bytesOfNat_length ..
  have hcell : 64 * i + j < (eachCell k).length := by
    rw [eachCell_length]
    omega
  have hbyte : ∀ x < 4, (putCells b n (eachCell k)).1.tileByte n (256 * i + 4 * j + x) = (bytesOfNat (k i j).1 4).getD x 0 := by
    intro x hx
    rw [show 256 * i + 4 * j + x = 4 * (64 * i + j) + x by ring]
    refine (Block.tileByte_setTile h n _ ?_).trans ?_
    · rw [length_flatMap_const hbytes]
      omega
    · rw [getD_flatMap hbytes 0 hcell hx, eachCell_get k hj]
  calc (putCells b n (eachCell k)).1.cell n i j
    _ = natOfBytes ((List.range 4).map (fun x => (bytesOfNat (k i j).1 4).getD x 0)) :=
      congrArg natOfBytes (List.map_congr_left fun x hx => hbyte x (List.mem_range.mp hx))
    _ = natOfBytes (bytesOfNat (k i j).1 4) := rfl
    _ = (k i j).1 % 2 ^ 32 := natOfBytes_bytesOfNat ..

/-! ## What a step does -/

section
variable {s : State} {core : Nat} {c : TileCmd}

theorem performTile_mem_of_tzero (hk : c.kind = .tzero) : (performTile s core c).mem = s.mem := by
  unfold performTile
  rw [hk]
  rfl

theorem performTile_mem_of_bsinv (hk : c.kind = .bsinv) : (performTile s core c).mem = s.mem := by
  unfold performTile
  rw [hk]
  rfl

theorem performTile_owner_of_bsinv (hk : c.kind = .bsinv) : ((performTile s core c).core core).owner =
    (s.core core).owner.filter (fun o => !(c.lines.2.contains o.1 && o.2 == c.blk)) := by
  unfold performTile
  rw [hk]
  dsimp only
  rw [State.core_modCore_same, State.core_modCore_same, clearLines]

variable (hb : (s.block? c.blk).isSome = true)
include hb

theorem performTile_block_of_tzero (hk : c.kind = .tzero) :
    (performTile s core c).block c.blk = (s.block c.blk).setTile c.t.td (List.replicate 16384 0) := by
  unfold performTile
  rw [hk]
  exact State.block_modBlock_same s c.blk _ hb

theorem performTile_block_of_tmma (hk : c.kind = .tmma) : (performTile s core c).block c.blk =
    (putCells (s.block c.blk) c.t.td (eachCell (stepCell (s.block c.blk) (s.core core) c))).1 := by
  unfold performTile
  rw [hk]
  dsimp only
  generalize putCells (s.block c.blk) c.t.td (eachCell (stepCell (s.block c.blk) (s.core core) c)) = r
  exact (State.block_of_blocks (countEvents_blocks ..) c.blk).trans (State.block_modBlock_same s c.blk _ hb)

theorem performTile_tileByte_of_tzero (hk : c.kind = .tzero) (hwf : Cells.wf (s.block c.blk).tiles = true) {o : Nat} (ho : o < 16384) :
    ((performTile s core c).block c.blk).tileByte c.t.td o = 0 := by
  rw [performTile_block_of_tzero hb hk, Block.tileByte_setTile hwf _ _ (by rwa [List.length_replicate]), List.getD_replicate _ ho]

theorem performTile_cell_of_tmma (hk : c.kind = .tmma) (hwf : Cells.wf (s.block c.blk).tiles = true) {i j : Nat} (hi : i < 64)
    (hj : j < 64) : ((performTile s core c).block c.blk).cell c.t.td i j =
      (stepCell (s.block c.blk) (s.core core) c i j).1 % 2 ^ 32 := by
  rw [performTile_block_of_tmma hb hk]
  exact Block.cell_putCells hwf _ _ hi hj

end

/-- `bsinv` leaves its block no line that it names. -/
theorem performTile_frees_of_bsinv {s : State} {core : Nat} {c : TileCmd} (hk : c.kind = .bsinv) {l : Nat} (hl : l ∈ c.lines.2) :
    Tbl.at ((performTile s core c).core core).owner l ≠ some c.blk := by
  rw [performTile_owner_of_bsinv hk]
  exact Tbl.at_filter_ne _ _ (by simp [hl])

/-! ## The end of a command (R275) -/

/-- A command that leaves takes its entries of the queue and of the range locks with it. -/
theorem State.removeTile_core (s : State) (core : Nat) (c : TileCmd) (vec : VecD) : (s.removeTile core c vec).core core =
    { s.core core with tileQ := (s.core core).tileQ.filter (fun (x : TileCmd) => x.id != c.id)
                       locks := (s.core core).locks.filter (fun l => l.cmd != c.id) } := by
  unfold State.removeTile
  rw [State.core_of_cores ((State.freeDrained_cores ..).trans (State.modGroup_cores ..)), State.core_modCore_same]

section
variable {s : State} {core : Nat} {c : TileCmd}

theorem finishTile_queue {q : List TileCmd} (hq : (s.core core).tileQ = c :: q) (hid : ∀ x ∈ q, x.id ≠ c.id) :
    ((finishTile s core c).core core).tileQ = q := by
  unfold finishTile
  rw [State.removeTile_core]
  dsimp only
  rw [(QueuesKept.raiseCounter ..).queue core, hq, List.filter_cons_of_neg (by simp), List.filter_eq_self]
  intro x hx
  simpa using hid x hx

theorem finishTile_locks : ∀ x ∈ ((finishTile s core c).core core).locks, x.cmd ≠ c.id := by
  intro x hx
  rw [finishTile, State.removeTile_core] at hx
  simpa using List.of_mem_filter hx

end

/-! ## The two events -/

section
variable {s : State} {core : Nat} {c : TileCmd} {q : List TileCmd} (hq : (s.core core).tileQ = c :: q)
include hq

theorem exec_tileCommandComplete_of_present (hdone : c.steps ≤ c.done)
    (hp : Present s (c.who core) (c.ctr.toList.map (fun a => (.va a, 8, .write)))) :
    exec (.tileCommandComplete core) s = .next (finishTile s core c) := by
  have hhead : s.tileDone core = some c := by simp [State.tileDone, hq, hdone]
  show execTileCommandComplete core s = _
  unfold execTileCommandComplete
  rw [hhead, Option.bind_some, State.tileThere, State.rangesThere_of_present hp]
  rfl

theorem exec_tileCommandExecute_of_present (hsteps : c.done < c.steps) (hafter : c.after = [])
    (happlied : c.range = none ∨ (s.die (dieOfCore core)).applied.covers c.vec = true)
    (hp : Present s (c.who core) (c.range.toList.map (fun r => (c.mem, r.2.1, r.2.2)))) :
    exec (.tileCommandExecute core) s = .next (performTile s core c) := by
  have hready : s.tileReady core = some c := by
    rcases happlied with h | h <;> simp [State.tileReady, hq, hsteps, hafter, h]
  show execTileCommandExecute core s = _
  unfold execTileCommandExecute
  rw [hready, Option.bind_some, State.tileThere, State.rangesThere_of_present hp]
  rfl

end

/-- Settles O26: a command whose steps are done leaves by `finishTile`, and the first step of one that has steps left is `performTile`. -/
theorem tileEngineWorks : Obligations.TileEngineWorks := by
  intro core c q s _ hq hb hid
  refine ⟨fun hdone hp => ⟨_, exec_tileCommandComplete_of_present hq hdone hp, finishTile_queue hq hid, finishTile_locks⟩,
    fun hsteps _ hafter happlied hp => ⟨_, exec_tileCommandExecute_of_present hq hsteps hafter happlied hp,
      performTile_queue hid hq hsteps, fun hk => ?_, fun hk hwf i j hi hj => performTile_cell_of_tmma hb hk hwf hi hj, fun hk => ?_⟩⟩
  · exact ⟨performTile_mem_of_tzero hk, fun hwf o ho => performTile_tileByte_of_tzero hb hk hwf ho⟩
  · exact ⟨performTile_mem_of_bsinv hk, fun l hl => performTile_frees_of_bsinv hk hl⟩

end Machine
end Sys2Proof

/-!
# Bits of a hypervector (O27 to O29)

A hypervector, an accumulator and the vector of a seed are made of a list of equal digits, the first the lowest: bits, bytes and 64-bit
words. One lemma reads a digit back.
-/

namespace Sys2Proof

/-! ## Numbers from digits of `k` bits -/

theorem testBit_ofDigits {k : Nat} (ws : List (BitVec k)) (i : Nat) {j : Nat} (hj : j < k) :
    (Nat.ofDigits (2 ^ k) (ws.map BitVec.toNat)).testBit (k * i + j) = (ws.getD i 0).getLsbD j := by
  induction ws generalizing i with
  | nil => simp [Nat.ofDigits_nil]
  | cons w ws ih =>
    rw [List.map_cons, Nat.ofDigits_cons, Nat.add_comm, Nat.testBit_two_pow_mul_add _ w.isLt]
    cases i with
    | zero => simp [hj, BitVec.testBit_toNat]
    | succ i =>
      have hle : k ≤ k * (i + 1) + j := by rw [Nat.mul_succ]; omega
      have hsub : k * (i + 1) + j - k = k * i + j := by rw [Nat.mul_succ]; omega
      rw [if_neg (by omega), hsub, ih]
      rfl

theorem extractLsb'_ofDigits {k n : Nat} (ws : List (BitVec k)) {i : Nat} (hi : k * (i + 1) ≤ n) :
    (BitVec.ofNat n (Nat.ofDigits (2 ^ k) (ws.map BitVec.toNat))).extractLsb' (k * i) k = ws.getD i 0 := by
  ext j hj
  have hlt : k * i + j < n := by rw [Nat.mul_succ] at hi; omega
  rw [BitVec.getElem_extractLsb', BitVec.getLsbD_ofNat, testBit_ofDigits _ _ hj, BitVec.getLsbD_eq_getElem hj]
  simp [hlt]

theorem natOfBytes_eq_ofDigits (bs : List Byte) : natOfBytes bs = Nat.ofDigits (2 ^ 8) (bs.map BitVec.toNat) := by
  induction bs with
  | nil => rfl
  | cons b bs ih => rw [natOfBytes, ih, List.map_cons, Nat.ofDigits_cons]; rfl

namespace Machine

open Sys2Proof.Claims

theorem natOfWords_eq_ofDigits (ws : List DWord) : natOfWords ws = Nat.ofDigits (2 ^ 64) (ws.map BitVec.toNat) := by
  induction ws with
  | nil => rfl
  | cons w ws ih => rw [natOfWords, ih, List.map_cons, Nat.ofDigits_cons]

theorem testBit_natOfBits (bs : List Bool) (i : Nat) : (natOfBits bs).testBit i = bs.getD i false := by
  induction bs generalizing i with
  | nil => simp [natOfBits]
  | cons b bs ih =>
    rw [natOfBits]
    cases i with
    | zero => cases b <;> simp [Nat.testBit_zero]
    | succ i =>
      have hhalf : (b.toNat + 2 * natOfBits bs) / 2 = natOfBits bs := by have := b.toNat_lt; omega
      rw [Nat.testBit_succ, hhalf, ih]
      rfl

/-! ## Rotations (R300) -/

theorem getLsbD_rotateLeft_add_mod {n : Nat} (h : BitVec n) (r : Nat) {b : Nat} (hb : b < n) :
    (h.rotateLeft r).getLsbD ((b + r) % n) = h.getLsbD b := by
  have hr : r % n < n := Nat.mod_lt _ (by omega)
  have hmod : (b + r) % n = if b + r % n < n then b + r % n else b + r % n - n := by
    rw [← Nat.add_mod_mod]
    split
    · next hlt => exact Nat.mod_eq_of_lt hlt
    · next hge => rw [Nat.mod_eq_sub_mod (by omega), Nat.mod_eq_of_lt (by omega)]
  rw [BitVec.getLsbD_rotateLeft, hmod]
  split
  · next hlt => simp [hlt, show ¬ b + r % n < r % n by omega]
  · next hge => simp [show b + r % n - n < r % n by omega, show n - r % n + (b + r % n - n) = b by omega]

/-! ## Thresholds (R305) -/

theorem getLsbD_thresholdBits (a : BitVec 65536) (tie : HVec) {b : Nat} (hb : b < 8192) : (thresholdBits a tie).getLsbD b =
    if 0 < accCounter a b then true else if accCounter a b < 0 then false else tie.getLsbD b := by
  rw [thresholdBits, BitVec.getLsbD_ofNat, testBit_natOfBits]
  simp only [List.getD_eq_getElem?_getD, List.getElem?_map, List.getElem?_range hb, Option.map_some, Option.getD_some, hb, decide_true,
    Bool.true_and]

/-! ## The vector of a seed (R307) -/

theorem getD_hgenWords {n w : Nat} (hw : w < n) (x : DWord) :
    (hgenWords n x).getD w 0 = hgenMix (x + BitVec.ofNat 64 (w + 1) * 0x9E3779B97F4A7C15) := by
  induction n generalizing w x with
  | zero => omega
  | succ n ih =>
    cases w with
    | zero => simp [hgenWords]
    | succ w =>
      have hnext : x + 0x9E3779B97F4A7C15 + BitVec.ofNat 64 (w + 1) * 0x9E3779B97F4A7C15 =
          x + BitVec.ofNat 64 (w + 1 + 1) * 0x9E3779B97F4A7C15 := by
        rw [BitVec.ofNat_add (w + 1) 1, BitVec.add_mul, BitVec.add_assoc, BitVec.add_comm (0x9E3779B97F4A7C15 : DWord)]
        simp
      rw [hgenWords, List.getD_cons_succ, ih (by omega), hnext]

theorem extractLsb'_hgenBits (seed : DWord) {w : Nat} (hw : w < 128) :
    (hgenBits seed).extractLsb' (64 * w) 64 = hgenMix (seed + BitVec.ofNat 64 (w + 1) * 0x9E3779B97F4A7C15) := by
  rw [hgenBits, natOfWords_eq_ofDigits, extractLsb'_ofDigits _ (by omega), getD_hgenWords hw]

/-! ## Bundles (R304) -/

theorem accStep_eq (neg bit : Bool) (c : Int) :
    let sum := c + (if bit = neg then -1 else 1)
    (accStep neg bit c).1 = max (-127) (min 127 sum) ∧ (accStep neg bit c).2 = (decide (127 < sum) || decide (sum < -127)) := by
  dsimp only [accStep]
  have hsum : (if bit != neg then c + 1 else c - 1) = c + (if bit = neg then -1 else 1) := by
    by_cases h : bit = neg <;> simp [h, Int.sub_eq_add_neg]
  rw [hsum]
  generalize c + (if bit = neg then (-1 : Int) else 1) = sum
  split
  · simp; omega
  · split <;> simp <;> omega

theorem accCounter_accumulate (neg : Bool) (h : HVec) (a : BitVec 65536) {b : Nat} (hb : b < 8192) :
    accCounter (accumulate neg h a).1 b = max (-127) (min 127 (accCounter a b + (if h.getLsbD b = neg then -1 else 1))) := by
  have hdigit : (accumulate neg h a).1.extractLsb' (8 * b) 8 = BitVec.ofInt 8 (accStep neg (h.getLsbD b) (accCounter a b)).1 := by
    simp only [accumulate, natOfBytes_eq_ofDigits]
    rw [extractLsb'_ofDigits _ (by omega)]
    simp [List.getD_eq_getElem?_getD, hb]
  rw [accCounter, hdigit, (accStep_eq ..).1, BitVec.toInt_ofInt]
  exact Int.bmod_eq_of_le (by omega) (by omega)

theorem accumulate_clamped (neg : Bool) (h : HVec) (a : BitVec 65536) : (accumulate neg h a).2 = (List.range 8192).countP (fun b =>
    decide (127 < accCounter a b + (if h.getLsbD b = neg then -1 else 1)) ||
    decide (accCounter a b + (if h.getLsbD b = neg then -1 else 1) < -127)) := by
  simp only [accumulate, List.countP_map, Function.comp_def, accStep_eq]

end Machine
end Sys2Proof

/-!
# The nearest entry of a search (O29)

A search reads its entries granule by granule. `Reading` says where it stands, and `Nearest` what it has found so far; each granule
keeps both.
-/

namespace Sys2Proof.Machine

open Sys2Proof.Claims

/-! ## Distances (R306, R310) -/

/-- The number of the lowest `n` bits in which two hypervectors differ. -/
def differing (x y : HVec) (n : Nat) : Nat := (List.range n).countP (fun b => (x ^^^ y).getLsbD b)

theorem differing_zero (x y : HVec) : differing x y 0 = 0 := by simp [differing]

theorem differing_all (x y : HVec) : differing x y 8192 = popcount (x ^^^ y) := rfl

theorem popcount_le (x : HVec) : popcount x ≤ 8192 := List.countP_le_length.trans_eq List.length_range

/-- A granule adds the bits in which it differs. -/
theorem differing_granule (x y : HVec) (g : Nat) : differing x y (128 * (g + 1)) = differing x y (128 * g) +
    (List.range 128).countP (fun b => ((x.extractLsb' (128 * g) 128).toNat ^^^ (y.extractLsb' (128 * g) 128).toNat).testBit b) := by
  have hbits : (List.range 128).countP (fun b =>
        ((x.extractLsb' (128 * g) 128).toNat ^^^ (y.extractLsb' (128 * g) 128).toNat).testBit b) =
      (List.range 128).countP (fun b => (x ^^^ y).getLsbD (128 * g + b)) := by
    refine List.countP_congr fun b hb => ?_
    simp only [Nat.testBit_xor, BitVec.testBit_toNat, BitVec.getLsbD_extractLsb', List.mem_range.mp hb, decide_true, Bool.true_and,
      BitVec.getLsbD_xor]
  rw [hbits, differing, Nat.mul_succ, List.range_add, List.countP_append, List.countP_map]
  rfl

/-- Of the first `n` entries `best` is the lowest with the least distance `dmin` from the query. -/
structure Nearest (entry : Nat → HVec) (query : HVec) (n best dmin : Nat) : Prop where
  start : n = 0 → best = 0 ∧ dmin = 8193
  found : 0 < n → best < n ∧ popcount (query ^^^ entry best) = dmin
  least : ∀ e, e < n → dmin ≤ popcount (query ^^^ entry e)
  lowest : ∀ e, e < best → dmin < popcount (query ^^^ entry e)

/-- An entry read whole is compared; ties keep the lower index (R310). -/
theorem Nearest.next {entry : Nat → HVec} {query : HVec} {n best dmin : Nat} (h : Nearest entry query n best dmin) {d : Nat}
    (hd : popcount (query ^^^ entry n) = d) : Nearest entry query (n + 1) (if d < dmin then n else best) (min d dmin) := by
  have hfirst : n = 0 → d < dmin := fun hn => by
    have := popcount_le (query ^^^ entry n)
    have := (h.start hn).2
    omega
  by_cases hlt : d < dmin
  · rw [if_pos hlt, min_eq_left hlt.le]
    refine ⟨by simp, fun _ => ⟨Nat.lt_succ_self n, hd⟩, fun e he => ?_, fun e he => hlt.trans_le (h.least e he)⟩
    rcases Nat.lt_succ_iff_lt_or_eq.mp he with he | rfl
    · exact hlt.le.trans (h.least e he)
    · exact hd.ge
  · rw [if_neg hlt, min_eq_right (not_lt.mp hlt)]
    have hpos : 0 < n := Nat.pos_of_ne_zero fun hn => hlt (hfirst hn)
    refine ⟨by simp, fun _ => ⟨(h.found hpos).1.trans (Nat.lt_succ_self n), (h.found hpos).2⟩, fun e he => ?_, h.lowest⟩
    rcases Nat.lt_succ_iff_lt_or_eq.mp he with he | rfl
    · exact h.least e he
    · omega

/-- A search stands at granule `g` of entry `n`. -/
structure Reading (entry : Nat → HVec) (q : HVec) (n g : Nat) (j : LunaJob) : Prop where
  query : j.query = q
  next : j.next = n
  gran : j.gran = g
  diff : j.diff = differing q (entry n) (128 * g)
  nearest : Nearest entry q n j.best j.dmin

section
variable {entry : Nat → HVec} {q : HVec} {n g : Nat} {j : LunaJob} (h : Reading entry q n g j)
include h

theorem Reading.past_granule (hg : g + 1 < 64) :
    Reading entry q n (g + 1) (j.past ((entry j.next).extractLsb' (128 * j.gran) 128).toNat {}) := by
  obtain ⟨rfl, rfl, rfl, hdiff, hnear⟩ := h
  simp only [LunaJob.past, if_pos hg]
  exact ⟨rfl, rfl, rfl, (congrArg (· + _) hdiff).trans (differing_granule ..).symm, hnear⟩

theorem Reading.past_entry (hg : g = 63) :
    Reading entry q (n + 1) 0 (j.past ((entry j.next).extractLsb' (128 * j.gran) 128).toNat {}) := by
  obtain ⟨rfl, rfl, rfl, hdiff, hnear⟩ := h
  have hwhole : differing j.query (entry j.next) (128 * (j.gran + 1)) = popcount (j.query ^^^ entry j.next) := by rw [hg, ← differing_all]
  simp only [LunaJob.past, if_neg (show ¬ j.gran + 1 < 64 by omega)]
  exact ⟨rfl, rfl, rfl, by rw [Nat.mul_zero, differing_zero], hnear.next (by rw [hdiff, ← hwhole, differing_granule])⟩

end

/-- A search that starts at the first entry stands, after `m` granules, at granule `m % 64` of entry `m / 64`. -/
theorem reading_readGranules (entry : Nat → HVec) {j : LunaJob} (h : Reading entry j.query 0 0 j) (m : Nat) :
    Reading entry j.query (m / 64) (m % 64) (readGranules entry j m) := by
  induction m with
  | zero => exact h
  | succ m ih =>
    by_cases hg : m % 64 = 63
    · rw [show (m + 1) / 64 = m / 64 + 1 by omega, show (m + 1) % 64 = 0 by omega]
      exact ih.past_entry hg
    · rw [show (m + 1) / 64 = m / 64 by omega, show (m + 1) % 64 = m % 64 + 1 by omega]
      exact ih.past_granule (by omega)

/-- Settles O29: the search keeps the nearest of the entries that it has read. -/
theorem searchFindsTheNearestEntry : Obligations.SearchFindsTheNearestEntry := by
  intro entry j n hpos hnext hgran hdiff hbest hdmin
  have hfirst : Nearest entry j.query 0 j.best j.dmin := ⟨fun _ => ⟨hbest, hdmin⟩, by simp, by simp, by simp [hbest]⟩
  have hstart : Reading entry j.query 0 0 j := ⟨rfl, hnext, hgran, hdiff.trans (differing_zero ..).symm, hfirst⟩
  obtain ⟨-, hn, hg, -, hnear⟩ := reading_readGranules entry hstart (64 * n)
  rw [Nat.mul_div_cancel_left n (by omega)] at hn hnear
  exact ⟨hn, hg.trans (Nat.mul_mod_right ..), (hnear.found hpos).1, (hnear.found hpos).2, hnear.least, hnear.lowest⟩

end Sys2Proof.Machine

/-!
# Words of the hypervector unit (O27, O28)

A word of the unit acts once, for the group, with the operands of its lowest acting lane: either it changes the group alone, or its
path goes on from the state that its effect leaves.
-/

namespace Sys2Proof.Machine

open Sys2Proof.Claims

/-! ## The frame of a word of the unit (R297, R308) -/

/-- From the state that a word's effect leaves, each lane of the path has become what `k` gives, and nothing else differs. -/
structure MovesFrom (u t : State) (f : Focus) (k : Nat → Lane → Lane) : Prop extends OnlyGroup u t f where
  rest : t = { u with blocks := t.blocks }
  group : t.fgroup f = { u.fgroup f with lanes := (t.fgroup f).lanes }
  lanes : ∀ j ∈ f.lanes, t.flane f j = k j (u.flane f j)

section
variable {s : State} {f : Focus} {g : Guard} {i : Nat} {hs use : List Nat} (h : HyperReady s f g i hs use)
include h

/-- Where nothing in flight holds the word back, it acts with the operands of the lowest acting lane. -/
theorem hyperWord_of_ready (act : State → Focus → Nat → Eff) : hyperWord g hs use act s f = act s f i := by
  have hlow : lowestActing s f g = some i := h.lowest
  simp [hyperWord, hlow, h.loaded, h.delivered']

/-- A word that changes its group but for its lanes. -/
theorem runHyper_group {act : State → Focus → Nat → Eff} {k : Group → Group} (ha : act s f i = .ok (s.onGroup f k) [])
    (gr : Group → Group) (hk : k (s.fgroup f) = gr (s.fgroup f)) (hl : ∀ x, (gr x).lanes = x.lanes) :
    ∃ t, runHyper g hs use s act = .next t ∧ PathResult s t f gr (goOn f) :=
  runWord_group h.toReady gr (by rw [hyperWord_of_ready h, ha, h.toHasPath.onGroup_congr hk]) hl

/-- A word that leaves the loops of its lanes alone and sends each to the next word, where some may wait. -/
theorem runHyper_moves {act : State → Focus → Nat → Eff} {u : State} {nx : List (Nat × Next)} (ha : act s f i = .ok u nx)
    (hp : HasPath u f) (hl : ∀ j ∈ f.lanes, ∀ a, (u.flane f j).landing a = (s.flane f j).landing a)
    (hn : ∀ j ∈ f.lanes, (nextOf f nx j).stop f = f.pc + 1) :
    ∃ t, runHyper g hs use s act = .next t ∧ MovesFrom u t f (fun j => (nextOf f nx j).placed) := by
  have hout : outside u f (s.fkern f).size nx = [] := outside_nil_of_stop fun j hj => by
    rw [hn j hj, hl j hj]
    exact h.inside j hj
  exact ⟨_, runWord_ok h.toIssues ((hyperWord_of_ready h act).trans ha) hout, hp.onlyGroup _, rfl, hp.onLanes_group _ _,
    fun j hj => (hp.placed h.once nx j hj).trans (placeLane_eq ..)⟩

theorem runHyper_goes {act : State → Focus → Nat → Eff} {u : State} (ha : act s f i = .ok u []) (hp : HasPath u f)
    (hl : ∀ j ∈ f.lanes, ∀ a, (u.flane f j).landing a = (s.flane f j).landing a) :
    ∃ t, runHyper g hs use s act = .next t ∧ MovesFrom u t f (goOn f) :=
  runHyper_moves h ha hp hl fun _ _ => rfl

end

/-- A word that writes a hypervector: `val` under the operands of the lowest acting lane and of the group. -/
theorem writesHv_completes {x : FForm} {s : State} {f : Focus} {i : Nat} {hs use : List Nat} (val : View → Group → HVec)
    (h : HyperReady s f x.g i (x.d.toNat :: hs) use) :
    ∃ t, writesHv x hs use s (fun s f i => val (s.view f i) (s.fgroup f)) = .next t ∧
      PathResult s t f (fun g => g.setHv x.d.toNat (val (s.view f i) g)) (goOn f) :=
  runHyper_group h rfl _ rfl fun _ => rfl

/-- What a word of the unit makes of its group: its effect is one change of the group, under the operands of the lowest acting lane. -/
theorem hyperOf_completes {i : Instr} {w : UnitWord} {s : State} {f : Focus} {l : Nat} (hw : hyperOf i = some w)
    (h : HyperReady s f w.g l w.named w.use) : ∃ t, exec i s = .next t ∧ PathResult s t f (w.group (s.view f l)) (goOn f) := by
  cases i
  case hmov x => cases hw; exact writesHv_completes (fun _ g => if srcIx x.a = 16 then g.htie else g.hv (srcIx x.a)) h
  case hxor x => cases hw; exact writesHv_completes (fun _ g => g.hv (srcIx x.a) ^^^ g.hv (srcIx x.b)) h
  case hrot x hi => cases hw; exact writesHv_completes (fun v g => (g.hv (srcIx x.a)).rotateLeft (hrotAmount v x.b hi)) h
  case hthr x => cases hw; exact writesHv_completes (fun _ g => thresholdBits (Cells.get g.acc (srcIx x.a)) g.htie) h
  case hgen x => cases hw; exact writesHv_completes (fun v _ => hgenBits (v.src64 x.a)) h
  case hclr x acc =>
    cases acc
    all_goals
      cases hw
      refine runHyper_group h rfl _ ?_ fun _ => rfl
      rfl
  case hpop | hdist | htie =>
    cases hw
    refine runHyper_group h rfl _ ?_ fun _ => rfl
    rfl
  all_goals cases hw

/-- Settles O27: each word by its change of the group; the vectors bit by bit. -/
theorem hypervectorWordsComplete : Obligations.HypervectorWordsComplete := by
  refine ⟨fun _ _ _ _ _ => hyperOf_completes, fun h r b => getLsbD_rotateLeft_add_mod h r, fun a tie b hb => ?_,
    fun seed w => extractLsb'_hgenBits seed⟩
  rw [getLsbD_thresholdBits a tie hb]
  refine ⟨fun hp => if_pos hp, fun hn => ?_, fun hz => ?_⟩
  · rw [if_neg (by omega), if_pos hn]
  · rw [if_neg (by omega), if_neg (by omega)]

/-! ## Bundles (R304) -/

/-- The path's group once its accumulator `d` holds `a`, with `n` clamped counters counted. -/
def State.bundled (s : State) (f : Focus) (d : Nat) (a : BitVec 65536) (n : Nat) : State :=
  let s := s.onGroup f (fun g => { g with acc := Cells.set g.acc d a })
  s.modCtx (s.fctx f) (fun c => c.count (fun k => { k with hvSat := sat32 (k.hvSat + n) }))

section
variable {s : State} {f : Focus} (h : HasPath s f) (d : Nat) (a : BitVec 65536) (n : Nat)
include h

theorem HasPath.of_bundled : HasPath (s.bundled f d a n) f :=
  HasPath.of_blocks (h.of_onGroup (fun g => { g with acc := Cells.set g.acc d a }) (fun _ => rfl)) rfl

theorem HasPath.fgroup_bundled : (s.bundled f d a n).fgroup f = { s.fgroup f with acc := Cells.set (s.fgroup f).acc d a } :=
  h.group_eq _

theorem HasPath.flane_bundled (i : Nat) : (s.bundled f d a n).flane f i = s.flane f i :=
  (congrArg (fun g : Group => g.lane i) (h.fgroup_bundled d a n)).trans rfl

theorem HasPath.hvSat_bundled (hctx : (s.ctx? (s.fctx f)).isSome = true) :
    ((s.bundled f d a n).ctx (s.fctx f)).n.hvSat = sat32 ((s.ctx (s.fctx f)).n.hvSat + n) := by
  let s1 := s.onGroup f (fun g => { g with acc := Cells.set g.acc d a })
  have hsame : s1.fctx f = s.fctx f := (congrArg Block.ctx (h.block_onGroup _)).trans rfl
  rw [← hsame] at hctx ⊢
  exact congrArg (fun c : Context => c.n.hvSat) (State.ctx_modCtx_same s1 _ _ hctx)

end

theorem exec_hacc_goes {x : FForm} {neg : Bool} {s : State} {f : Focus} {l : Nat} (h : HyperReady s f x.g l [srcIx x.a] [])
    {a : BitVec 65536} {n : Nat} (hr : accumulate neg (Cells.get (s.fgroup f).h (srcIx x.a)) (Cells.get (s.fgroup f).acc x.d.toNat) = (a, n)) :
    ∃ t, exec (.hacc x neg) s = .next t ∧ MovesFrom (s.bundled f x.d.toNat a n) t f (goOn f) := by
  refine runHyper_goes h ?_ (h.toHasPath.of_bundled ..) fun j _ a => by rw [h.toHasPath.flane_bundled]
  dsimp only [Group.hv]
  rw [hr]
  rfl

theorem MovesFrom.rest_bundled {s t : State} {f : Focus} {k : Nat → Lane → Lane} {d : Nat} {a : BitVec 65536} {n : Nat}
    (h : MovesFrom (s.bundled f d a n) t f k) : t = { s with blocks := t.blocks, ctxs := t.ctxs } := by
  rw [h.rest]
  rfl

/-- Settles O28: each counter by its step, and the word by the state that it goes on from. -/
theorem bundlesCountEachBit : Obligations.BundlesCountEachBit := by
  refine ⟨fun neg h a => ⟨fun b hb => accCounter_accumulate neg h a hb, accumulate_clamped neg h a⟩, ?_⟩
  intro x neg s f l h
  have hp := h.toHasPath
  generalize hr : accumulate neg (Cells.get (s.fgroup f).h (srcIx x.a)) (Cells.get (s.fgroup f).acc x.d.toNat) = r
  obtain ⟨t, ht, hmoves⟩ := exec_hacc_goes h (a := r.1) (n := r.2) hr
  refine ⟨t, ht, ?_, fun j hj => ?_, hmoves.rest_bundled, fun hctx => ?_⟩
  · rw [hmoves.group, hp.fgroup_bundled]
  · rw [hmoves.lanes j hj, hp.flane_bundled]
  · rw [hmoves.rest]
    exact hp.hvSat_bundled _ _ _ hctx

end Sys2Proof.Machine

/-!
# What a path keeps, and the requests of an image (O30)

A word of an image changes of its path only what the lanes have seen and what they wait for (`PathKept`). One in device memory sends its
granules one after the other; `Asking` says what the first of them leave, since no later one takes an earlier one away.
-/

namespace Sys2Proof.Machine

open Sys2Proof.Claims

/-! ## What a path keeps while its word acts -/

/-- No byte of device memory has changed, and of the path's lanes neither the registers nor the loops. -/
structure PathKept (s u : State) (f : Focus) : Prop where
  path : HasPath u f
  mem : u.mem = s.mem
  landing : ∀ j ∈ f.lanes, ∀ a, (u.flane f j).landing a = (s.flane f j).landing a
  v : ∀ j ∈ f.lanes, (u.flane f j).v = (s.flane f j).v

/-- The path has gone on at the next word with the registers it had, and no byte of device memory has changed. -/
def PathGoes (s t : State) (f : Focus) : Prop :=
  t.mem = s.mem ∧ ∀ j ∈ f.lanes, (t.flane f j).pc = (s.flane f j).landing (f.pc + 1) ∧ (t.flane f j).v = (s.flane f j).v

namespace PathKept

variable {s u : State} {f : Focus}

theorem refl (h : HasPath s f) : PathKept s s f := ⟨h, rfl, fun _ _ _ => rfl, fun _ _ => rfl⟩

variable (h : PathKept s u f)
include h

theorem of_blocks {t : State} (hb : t.blocks = u.blocks) (hm : t.mem = u.mem) : PathKept s t f := by
  have hlane : ∀ j, t.flane f j = u.flane f j := fun j => State.lane_of_blocks hb ..
  refine ⟨h.path.of_blocks hb, hm.trans h.mem, fun j hj a => ?_, fun j hj => ?_⟩
  · rw [hlane, h.landing j hj]
  · rw [hlane, h.v j hj]

theorem modLane (i : Nat) {k : Lane → Lane} (hk : ∀ l, (k l).slots = l.slots ∧ (k l).lc = l.lc ∧ (k l).v = l.v) :
    PathKept s (u.modLane f.blk f.grp i k) f := by
  have hlane : ∀ j ∈ f.lanes, ((u.modLane f.blk f.grp i k).flane f j).slots = (u.flane f j).slots ∧
      ((u.modLane f.blk f.grp i k).flane f j).lc = (u.flane f j).lc ∧ ((u.modLane f.blk f.grp i k).flane f j).v = (u.flane f j).v := by
    intro j hj
    by_cases hi : j = i
    · subst hi
      rw [show (u.modLane f.blk f.grp j k).flane f j = k (u.flane f j) from State.lane_modLane_same (h.path.hasLane hj) k]
      exact hk _
    · rw [State.flane_modLane_ne u f hi]
      exact ⟨rfl, rfl, rfl⟩
  refine ⟨h.path.of_modLane i k, by simpa using h.mem, fun j hj a => ?_, fun j hj => (hlane j hj).2.2.trans (h.v j hj)⟩
  rw [← h.landing j hj, Lane.landing, Lane.landing, (hlane j hj).1, (hlane j hj).2.1]

theorem onGroup {k : Group → Group} (hk : ∀ g, (k g).lanes = g.lanes) : PathKept s (u.onGroup f k) f := by
  have hlane : ∀ j, (u.onGroup f k).flane f j = u.flane f j := fun j => by
    show ((u.onGroup f k).fgroup f).lane j = (u.fgroup f).lane j
    rw [h.path.group_eq, Group.lane, Group.lane, hk]
  refine ⟨h.path.of_onGroup k fun g => by rw [hk], by simpa using h.mem, fun j hj a => ?_, fun j hj => ?_⟩
  · rw [hlane, h.landing j hj]
  · rw [hlane, h.v j hj]

theorem setSpad (a : Nat) (bytes : List Byte) (v : VecD) : PathKept s (u.modBlock f.blk (fun x => setSpad x a bytes v)) f := by
  obtain ⟨hp, hgroup⟩ := h.path.of_setSpad a bytes v
  have hlane : ∀ j, (u.modBlock f.blk (fun x => Machine.setSpad x a bytes v)).flane f j = u.flane f j := fun j =>
    congrArg (fun g : Group => g.lane j) hgroup
  refine ⟨hp, by simpa using h.mem, fun j hj a => ?_, fun j hj => ?_⟩
  · rw [hlane, h.landing j hj]
  · rw [hlane, h.v j hj]

theorem send (r : Req) : PathKept s (u.send f r) f := by
  obtain ⟨w, hw, hblocks, -⟩ := u.send_eq f r
  have hmem : (u.send f r).mem = u.mem := u.send_mem f r
  rw [hw] at hmem ⊢
  exact (h.of_blocks hblocks (by simpa using hmem)).modLane r.lane fun _ => ⟨rfl, rfl, rfl⟩

theorem goes {t : State} (ht : MovesFrom u t f (goOn f)) : PathGoes s t f := by
  refine ⟨by rw [ht.rest]; exact h.mem, fun j hj => ?_⟩
  rw [ht.lanes j hj]
  exact ⟨h.landing j hj _, h.v j hj⟩

end PathKept

/-- Of the path's group nothing differs but its lanes. -/
def OnlyLanes (s u : State) (f : Focus) : Prop := u.fgroup f = { s.fgroup f with lanes := (u.fgroup f).lanes }

namespace OnlyLanes

variable {s t u : State} {f : Focus}

theorem trans (h : OnlyLanes s t f) (k : OnlyLanes t u f) : OnlyLanes s u f := Eq.trans k (by rw [h])

theorem of_blocks (h : t.blocks = s.blocks) : OnlyLanes s t f := by
  have hgroup : t.fgroup f = s.fgroup f := by simp only [State.fgroup, State.group, State.block_of_blocks h]
  rw [OnlyLanes, hgroup]

theorem modLane (h : HasPath s f) (i : Nat) (k : Lane → Lane) : OnlyLanes s (s.modLane f.blk f.grp i k) f :=
  h.onLanes_group [i] (fun _ => k)

theorem send (h : HasPath s f) (r : Req) : OnlyLanes s (s.send f r) f := by
  obtain ⟨u, hu, hblocks, -⟩ := s.send_eq f r
  rw [hu]
  exact (of_blocks hblocks).trans (modLane (h.of_blocks hblocks) ..)

theorem h (h : OnlyLanes s t f) : (t.fgroup f).h = (s.fgroup f).h := by rw [h]

end OnlyLanes

/-! ## Requests that stay in flight -/

/-- Every request is still in flight, though it may be lost by now (R421). -/
def ReqsKept (s t : State) : Prop := ∀ r ∈ s.reqs, ∃ q ∈ t.reqs, q = { r with performed := q.performed, lost := q.lost }

theorem ReqsKept.of_reqs {s t : State} (h : t.reqs = s.reqs) : ReqsKept s t := fun r hr => ⟨r, h ▸ hr, rfl⟩

theorem State.launchReq_reqsKept (s : State) (r : Req) : ReqsKept s (s.launchReq r) := by
  have hlost : ReqsKept s { s with reqs := s.reqs.map (fun (q : Req) =>
      if q.id == r.id then { q with performed := true, lost := true } else q) } := by
    intro q hq
    refine ⟨_, List.mem_map_of_mem hq, ?_⟩
    split <;> rfl
  unfold State.launchReq
  split
  · exact .of_reqs (State.addPacket_reqs ..)
  · split
    · exact .of_reqs rfl
    · exact hlost
  · split
    · exact .of_reqs rfl
    · exact hlost
  · exact .of_reqs rfl

theorem State.send_reqsKept (s : State) (f : Focus) (r : Req) :
    ReqsKept { s with reqs := s.reqs ++ [r], nextId := s.nextId + 1 } (s.send f r) := by
  let t : State := { s with reqs := s.reqs ++ [r], nextId := s.nextId + 1 }
  show ReqsKept t (State.modLane (if t.mayLaunch r then t.launchReq r else t) f.blk f.grp r.lane _)
  split
  · exact t.launchReq_reqsKept r
  · exact .of_reqs rfl

/-! ## The granules of an image (R308) -/

/-- Request `k` of an image at `p`, of lane `l`. -/
def AsksGranule (f : Focus) (l : Nat) (p : Place) (P : Nat → Req → Prop) (k : Nat) (r : Req) : Prop :=
  r.place = p.plus (16 * k) ∧ r.size = 16 ∧ r.blk = f.blk ∧ r.grp = f.grp ∧ r.lane = l ∧ P k r

/-- What does not depend on whether a request is performed or lost. -/
def OfFlight (P : Nat → Req → Prop) : Prop := ∀ k r b c, P k r → P k { r with performed := b, lost := c }

theorem OfFlight.asksGranule {P : Nat → Req → Prop} (h : OfFlight P) (f : Focus) (l : Nat) (p : Place) : OfFlight (AsksGranule f l p P) :=
  fun k r b c ⟨h1, h2, h3, h4, h5, h6⟩ => ⟨h1, h2, h3, h4, h5, h k r b c h6⟩

/-- The first `n` requests of an image are in flight. -/
structure Asking (s u : State) (f : Focus) (P : Nat → Req → Prop) (n : Nat) : Prop extends PathKept s u f where
  group : OnlyLanes s u f
  reqs : ∀ k, k < n → ∃ r ∈ u.reqs, P k r

theorem Asking.send {s u : State} {f : Focus} {P : Nat → Req → Prop} {n : Nat} (h : Asking s u f P n) (hP : OfFlight P) {r : Req}
    (hr : P n r) : Asking s (u.send f r) f P (n + 1) := by
  have hkept : ∀ k q, q ∈ u.reqs ++ [r] → P k q → ∃ q ∈ (u.send f r).reqs, P k q := fun k q hq hk => by
    obtain ⟨q', hq', heq⟩ := u.send_reqsKept f r q hq
    exact ⟨q', hq', by rw [heq]; exact hP k q _ _ hk⟩
  refine ⟨h.toPathKept.send r, h.group.trans (.send h.path r), fun k hk => ?_⟩
  rcases Nat.lt_succ_iff_lt_or_eq.mp hk with hk | rfl
  · obtain ⟨q, hq, hqk⟩ := h.reqs k hk
    exact hkept k q (List.mem_append_left _ hq) hqk
  · exact hkept k r (by simp) hr

/-- A fold that sends a request for each granule. -/
theorem Asking.foldl_send {s t : State} {f : Focus} {P : Nat → Req → Prop} (hP : OfFlight P) {mk : State → Nat → Req}
    (hmk : ∀ u k, (u.fgroup f).h = (s.fgroup f).h → P k (mk u k)) (hk : PathKept s t f) (hg : OnlyLanes s t f) (n : Nat) :
    Asking s ((List.range n).foldl (fun u k => u.send f (mk u k)) t) f P n := by
  induction n with
  | zero => exact ⟨hk, hg, fun k hk => absurd hk (Nat.not_lt_zero k)⟩
  | succ n ih =>
    rw [List.range_succ, List.foldl_append]
    exact ih.send hP (hmk _ n ih.group.h)

end Sys2Proof.Machine

/-!
# Images (O30)

The state that `moveImage` leaves has a name for each of its cases; the path goes on from it.
-/

namespace Sys2Proof.Machine

open Sys2Proof.Claims

/-! ## Images that move (R308, R309) -/

/-- What a lane's accesses have waited for is over. -/
def State.gated (s : State) (f : Focus) (l : Nat) (ld : Bool) : State := s.modLane f.blk f.grp l (fun x => x.passGate ld)

theorem PathKept.gated {s u : State} {f : Focus} (h : PathKept s u f) (l : Nat) (ld : Bool) : PathKept s (u.gated f l ld) f :=
  h.modLane l fun _ => ⟨rfl, rfl, rfl⟩

theorem PathKept.spRead {s u : State} {f : Focus} (h : PathKept s u f) (m : MForm) (l : Nat) (p : Place) (n : Nat) :
    PathKept s (spRead m f u l p n) f :=
  h.modLane l fun _ => ⟨rfl, rfl, rfl⟩

section
variable {s : State} {f : Focus} {l : Nat} {m : MForm} {use : List Nat} {off : View → Int}

/-- What a word of an image does once its checks are passed. -/
theorem imageWord_moves {store : Bool} (h : HyperReady s f m.g l [m.data.toNat] (baseUse m.base ++ use))
    (hregion : (s.fgroup f).region = none) (hgate : s.gate f l (!store) store (store && isRel m.ord) m.space = none) {p : Place}
    {seen : Seen} (hchk : checkM m (off (s.view f l)) 1024 [if store then .write else .read] (if store then .store else .load) store s f l =
      .ok p seen) (hroom : s.unitRoom p 64 = true) {u : State}
    (hu : moveImage m m.data.toNat store f (s.see (s.fblock f).core (s.fctx f) seen) l p = u) (hk : PathKept s u f) :
    ∃ t, imageWord m use off store s = .next t ∧ MovesFrom u t f (goOn f) := by
  refine runHyper_goes h ?_ hk.path hk.landing
  simp only [hregion, hgate, hchk, hroom, hu, Option.isSome_none, Bool.and_false, Bool.false_eq_true, if_false, if_true]

/-! ### In the scratchpad -/

/-- A scratchpad access that passes its checks caches nothing. -/
theorem see_of_checkM_pad (hsp : m.space = .sp) {x : Int} {size : Nat} {needs : List Need} {kind : AccKind} {st : Bool} {p : Place}
    {seen : Seen} (hchk : checkM m x size needs kind st s f l = .ok p seen) (core ctx : Nat) : s.see core ctx seen = s := by
  rw [checkSp_seen ((checkM_sp hsp ..).symm.trans hchk)]
  rfl

/-- The path's hypervector holds the image `x`, read at `a`. -/
def State.imageRead (s : State) (f : Focus) (l : Nat) (m : MForm) (a : Nat) (x : HVec) : State :=
  (spRead m f (s.gated f l true) l (.rsp f.blk a) 1024).onGroup f (fun g => g.setHv m.data.toNat x)

theorem HasPath.moveImage_read (h : HasPath s f) (hsp : m.space = .sp) (a : Nat) : moveImage m m.data.toNat false f s l (.rsp f.blk a) =
    s.imageRead f l m a (BitVec.ofNat 8192 (s.natAt (.rsp f.blk a) 1024)) := by
  have hnat : (s.gated f l true).natAt (.rsp f.blk a) 1024 = s.natAt (.rsp f.blk a) 1024 := State.natAt_of_spad (h.onlyGroup _).spad a 1024
  rw [← hnat]
  simp only [moveImage, hsp, beq_self_eq_true, if_true, Bool.false_eq_true, if_false]
  rfl

section
variable (h : HasPath s f) (a : Nat) (x : HVec)
include h

theorem HasPath.imageRead_kept : PathKept s (s.imageRead f l m a x) f :=
  (((PathKept.refl h).gated l true).spRead m l _ _).onGroup (k := fun g => g.setHv m.data.toNat x) fun _ => rfl

theorem HasPath.imageRead_group : OnlyGroup s (s.imageRead f l m a x) f :=
  have hgated : HasPath (s.gated f l true) f := h.of_modLane l _
  have hread : HasPath (spRead m f (s.gated f l true) l (.rsp f.blk a) 1024) f := hgated.of_modLane l _
  ((h.onlyGroup _).trans (hgated.onlyGroup _)).trans (hread.onlyGroup _)

theorem HasPath.imageRead_fgroup : (s.imageRead f l m a x).fgroup f =
    { s.fgroup f with h := Cells.set (s.fgroup f).h m.data.toNat x, lanes := ((s.imageRead f l m a x).fgroup f).lanes } := by
  have hgated : HasPath (s.gated f l true) f := h.of_modLane l _
  have hread : HasPath (spRead m f (s.gated f l true) l (.rsp f.blk a) 1024) f := hgated.of_modLane l _
  have hlanes : OnlyLanes s (spRead m f (s.gated f l true) l (.rsp f.blk a) 1024) f := (OnlyLanes.modLane h l _).trans (.modLane hgated l _)
  rw [State.imageRead, hread.group_eq]
  unfold OnlyLanes at hlanes
  generalize (spRead m f (s.gated f l true) l (.rsp f.blk a) 1024).fgroup f = g at hlanes ⊢
  rw [hlanes]
  rfl

end

/-- The path's image written at `a`. -/
def State.imageWritten (s : State) (f : Focus) (l : Nat) (image : HVec) (a : Nat) : State :=
  (s.gated f l false).modBlock f.blk
    (fun x => setSpad x a (bytesOfNat image.toNat 1024) ((s.gated f l false).flane f l).D)

theorem HasPath.moveImage_written (h : HasPath s f) (hsp : m.space = .sp) (a : Nat) :
    moveImage m m.data.toNat true f s l (.rsp f.blk a) = s.imageWritten f l (Cells.get (s.fgroup f).h m.data.toNat) a := by
  simp only [moveImage, hsp, beq_self_eq_true, if_true, Bool.not_true, Group.hv, (OnlyLanes.modLane h ..).h]
  rfl

theorem HasPath.imageWritten_kept (h : HasPath s f) (image : HVec) (a : Nat) : PathKept s (s.imageWritten f l image a) f :=
  ((PathKept.refl h).gated l false).setSpad ..

/-- The path of an image in the scratchpad goes on, and its hypervector holds the image's bytes. -/
theorem imageWord_loads_pad (h : HyperReady s f m.g l [m.data.toNat] (baseUse m.base ++ use)) (hregion : (s.fgroup f).region = none)
    (hgate : s.gate f l true false false m.space = none) (hsp : m.space = .sp) {a : Nat} {seen : Seen}
    (hchk : checkM m (off (s.view f l)) 1024 [.read] .load false s f l = .ok (.rsp f.blk a) seen) :
    ∃ t, imageWord m use off false s = .next t ∧ PathGoes s t f ∧ (t.fblock f).spad = (s.fblock f).spad ∧
      t.fgroup f = { s.fgroup f with
        h := Cells.set (s.fgroup f).h m.data.toNat (BitVec.ofNat 8192 (s.natAt (.rsp f.blk a) 1024)), lanes := (t.fgroup f).lanes } := by
  have hp := h.toHasPath
  have hu := hp.moveImage_read (l := l) hsp a
  generalize BitVec.ofNat 8192 (s.natAt (.rsp f.blk a) 1024) = x at hu ⊢
  have hk := hp.imageRead_kept (l := l) (m := m) a x
  obtain ⟨t, ht, hmoves⟩ := imageWord_moves (store := false) h hregion hgate hchk rfl (by rw [see_of_checkM_pad hsp hchk]; exact hu) hk
  refine ⟨t, ht, hk.goes hmoves, ((hp.imageRead_group a x).trans hmoves.toOnlyGroup).spad, ?_⟩
  rw [hmoves.group, hp.imageRead_fgroup]

/-- The path of an image in the scratchpad goes on, and the bytes are the hypervector's. -/
theorem imageWord_stores_pad (h : HyperReady s f m.g l [m.data.toNat] (baseUse m.base ++ use)) (hregion : (s.fgroup f).region = none)
    (hwf : Cells.wf (s.fblock f).spad = true) (hgate : s.gate f l false true (isRel m.ord) m.space = none) (hsp : m.space = .sp) {a : Nat}
    {seen : Seen} (hchk : checkM m (off (s.view f l)) 1024 [.write] .store true s f l = .ok (.rsp f.blk a) seen) :
    ∃ t, imageWord m use off true s = .next t ∧ PathGoes s t f ∧
      PadWritten s t f a (bytesOfNat (Cells.get (s.fgroup f).h m.data.toNat).toNat 1024) := by
  have hp := h.toHasPath
  have hu := hp.moveImage_written (l := l) hsp a
  generalize Cells.get (s.fgroup f).h m.data.toNat = image at hu ⊢
  have hk := hp.imageWritten_kept (l := l) image a
  obtain ⟨t, ht, hmoves⟩ := imageWord_moves (store := true) h hregion hgate hchk rfl (by rw [see_of_checkM_pad hsp hchk]; exact hu) hk
  exact ⟨t, ht, hk.goes hmoves, .of_setSpad (hp.of_modLane l _) a _ _ hwf (hp.onlyGroup _) hmoves.toOnlyGroup⟩

/-! ### In device memory -/

/-- The request for granule `k` of an image. -/
def granuleReq (m : MForm) (f : Focus) (l : Nat) (store : Bool) (p : Place) (after : List Nat) (u : State) (k : Nat) : Req :=
  { u.blankReq f l (if store then .store else .load) (p.plus (16 * k)) 16 .i8 with
    data := if store then (((u.fgroup f).hv m.data.toNat).extractLsb' (128 * k) 128).setWidth 512 else 0,
    dest := if store then .none else .hyper m.data.toNat k, isLd := !store,
    scope := m.scope, ord := m.ord, atHome := atHomeHint m.hint, after := after }

/-- The path's lane has passed its gate, and the requests of the image have been sent one after the other. -/
def State.imageAsked (s : State) (f : Focus) (l : Nat) (m : MForm) (store : Bool) (p : Place) (after : List Nat) : State :=
  (List.range 64).foldl (fun u k => u.send f (granuleReq m f l store p after u k)) (s.gated f l (!store))

theorem moveImage_asks (hgl : m.space = .gl) (p : Place) : moveImage m m.data.toNat false f s l p =
    (s.imageAsked f l m false p []).onGroup f (fun g => { g with hpend := insertNat m.data.toNat g.hpend }) := by
  simp only [moveImage, hgl]
  rfl

theorem moveImage_sends (hgl : m.space = .gl) (p : Place) : moveImage m m.data.toNat true f s l p =
    s.imageAsked f l m true p (s.before f l (isRel m.ord)) := by
  simp only [moveImage, hgl]
  rfl

/-- The requests of an image, all 64. -/
theorem PathKept.imageAsked {s0 : State} (h : PathKept s s0 f) (hg : OnlyLanes s s0 f) {P : Nat → Req → Prop} (hP : OfFlight P)
    {store : Bool} {p : Place} {after : List Nat}
    (hmk : ∀ u k, (u.fgroup f).h = (s.fgroup f).h → P k (granuleReq m f l store p after u k)) :
    Asking s (s0.imageAsked f l m store p after) f (AsksGranule f l p P) 64 :=
  Asking.foldl_send (hP.asksGranule f l p) (fun u k hu => ⟨rfl, rfl, rfl, rfl, rfl, hmk u k hu⟩) (h.gated l _)
    (hg.trans (.modLane h.path l _)) 64

theorem HasPath.see_kept (h : HasPath s f) (core ctx : Nat) (seen : Seen) :
    PathKept s (s.see core ctx seen) f ∧ OnlyLanes s (s.see core ctx seen) f := by
  rw [State.see_eq]
  exact ⟨(PathKept.refl h).of_blocks rfl rfl, .of_blocks rfl⟩

/-- The path of an image in device memory goes on, and the 64 granules are asked for. -/
theorem imageWord_loads_device (h : HyperReady s f m.g l [m.data.toNat] (baseUse m.base ++ use)) (hregion : (s.fgroup f).region = none)
    (hgate : s.gate f l true false false m.space = none) (hgl : m.space = .gl) {p : Place} {seen : Seen}
    (hchk : checkM m (off (s.view f l)) 1024 [.read] .load false s f l = .ok p seen) (hroom : s.unitRoom p 64 = true) :
    ∃ t, imageWord m use off false s = .next t ∧ PathGoes s t f ∧
      ∀ k, k < 64 → ∃ r ∈ t.reqs, AsksGranule f l p (fun k r => r.kind = .load ∧ r.dest = .hyper m.data.toNat k) k r := by
  obtain ⟨hsee, hgroup⟩ := h.toHasPath.see_kept (s.fblock f).core (s.fctx f) seen
  have hasked := hsee.imageAsked (l := l) (m := m) hgroup (P := fun k r => r.kind = .load ∧ r.dest = .hyper m.data.toNat k)
    (fun _ _ _ _ => id) (store := false) (p := p) (after := []) fun _ _ _ => ⟨rfl, rfl⟩
  have hk := hasked.toPathKept.onGroup (k := fun g => { g with hpend := insertNat m.data.toNat g.hpend }) fun _ => rfl
  obtain ⟨t, ht, hmoves⟩ := imageWord_moves (store := false) h hregion hgate hchk hroom (moveImage_asks hgl p) hk
  refine ⟨t, ht, hk.goes hmoves, ?_⟩
  rw [hmoves.rest]
  exact hasked.reqs

/-- The path of an image in device memory goes on, and the 64 granules are sent. -/
theorem imageWord_stores_device (h : HyperReady s f m.g l [m.data.toNat] (baseUse m.base ++ use)) (hregion : (s.fgroup f).region = none)
    (hgate : s.gate f l false true (isRel m.ord) m.space = none) (hgl : m.space = .gl) {p : Place} {seen : Seen}
    (hchk : checkM m (off (s.view f l)) 1024 [.write] .store true s f l = .ok p seen) (hroom : s.unitRoom p 64 = true) :
    ∃ t, imageWord m use off true s = .next t ∧ PathGoes s t f ∧
      ∀ k, k < 64 → ∃ r ∈ t.reqs, AsksGranule f l p (fun k r => r.kind = .store ∧
        r.data = ((Cells.get (s.fgroup f).h m.data.toNat).extractLsb' (128 * k) 128).setWidth 512) k r := by
  obtain ⟨hsee, hgroup⟩ := h.toHasPath.see_kept (s.fblock f).core (s.fctx f) seen
  have hasked := hsee.imageAsked (l := l) (m := m) hgroup
    (P := fun k r => r.kind = .store ∧ r.data = ((Cells.get (s.fgroup f).h m.data.toNat).extractLsb' (128 * k) 128).setWidth 512)
    (fun _ _ _ _ => id) (store := true) (p := p)
    (after := (s.see (s.fblock f).core (s.fctx f) seen).before f l (isRel m.ord)) fun u k hu => ⟨rfl, by rw [← hu]; rfl⟩
  obtain ⟨t, ht, hmoves⟩ := imageWord_moves (store := true) h hregion hgate hchk hroom (moveImage_sends hgl p) hasked.toPathKept
  refine ⟨t, ht, hasked.goes hmoves, ?_⟩
  rw [hmoves.rest]
  exact hasked.reqs

/-- A word that stores an image, in the scratchpad or in device memory. -/
theorem imageWord_stores (h : HyperReady s f m.g l [m.data.toNat] (baseUse m.base ++ use)) (hregion : (s.fgroup f).region = none)
    (hwf : Cells.wf (s.fblock f).spad = true) (hgate : s.gate f l false true (isRel m.ord) m.space = none) :
    let chk := checkM m (off (s.view f l)) 1024 [.write] .store true s f l
    let image := Cells.get (s.fgroup f).h m.data.toNat
    (∀ a seen, m.space = .sp → chk = .ok (.rsp f.blk a) seen → ∃ t, imageWord m use off true s = .next t ∧ PathGoes s t f ∧
      t.bytesAt (.rsp f.blk a) 1024 = bytesOfNat image.toNat 1024 ∧
      ∀ b, b < a ∨ a + 1024 ≤ b → Cells.get (t.fblock f).spad b = Cells.get (s.fblock f).spad b) ∧
    (∀ p seen, m.space = .gl → chk = .ok p seen → s.unitRoom p 64 = true → ∃ t, imageWord m use off true s = .next t ∧ PathGoes s t f ∧
      ∀ k, k < 64 → ∃ r ∈ t.reqs, AsksGranule f l p (fun k r => r.kind = .store ∧
        r.data = (image.extractLsb' (128 * k) 128).setWidth 512) k r) := by
  refine ⟨fun a seen hsp hchk => ?_, fun p seen hgl hchk hroom => imageWord_stores_device h hregion hgate hgl hchk hroom⟩
  obtain ⟨t, ht, hgoes, hpad⟩ := imageWord_stores_pad h hregion hwf hgate hsp hchk
  have hwritten := hpad.written
  have houtside := hpad.outside
  rw [bytesOfNat_length] at hwritten houtside
  exact ⟨t, ht, hgoes, hwritten, houtside⟩

end

end Sys2Proof.Machine

/-!
# Searches at the Luna engine (O30)

A search enters the core's Luna engine, and its end writes the group's scalar pair.
-/

namespace Sys2Proof.Machine

open Sys2Proof.Claims

/-! ## Searches that begin (R310, R311) -/

theorem Group.setSPair_append (g : Group) (i : Nat) (hi lo : Word) :
    g.setSPair i (hi ++ lo) = { g with s := Cells.set (Cells.set g.s i lo) (i + 1) hi } := by
  have hlow : (hi ++ lo).extractLsb' 0 32 = lo := BitVec.extractLsb'_append_eq_right
  have hhigh : (hi ++ lo).extractLsb' 32 32 = hi := BitVec.extractLsb'_append_eq_left
  rw [Group.setSPair, hlow, hhigh]
  rfl

/-- The search that a word leaves at the engine: none of its entries is read. -/
def searchOf (x : FForm) (q : BitVec 4) (s : State) (f : Focus) (l : Nat) (src : Loc) : LunaJob :=
  { id := s.nextId, blk := f.blk, grp := f.grp, lane := l, ctx := s.fctx f, src := src, count := ((s.view f l).src x.b).toNat,
    query := Cells.get (s.fgroup f).h q.toNat, dst := x.d.toNat, limit := ((s.fgroup f).sreg x.c.toNat).toNat, next := 0, best := 0,
    dmin := 8193 }

/-- The search stands at the core's Luna engine, and the path's lane has passed its gate. -/
def State.searching (s : State) (f : Focus) (l : Nat) (job : LunaJob) : State :=
  let s := { s with nextId := s.nextId + 1 }.gated f l true
  s.modCore (s.fblock f).core (fun k => { k with luna := k.luna ++ [job] })

section
variable {s : State} {f : Focus} {l : Nat} {x : FForm} {q : BitVec 4} {sp : Bool}

/-- A search whose checks are passed enters the engine; where its entries lie depends on what the checks found. -/
theorem hmatchWord_searches (hpos : 0 < ((s.view f l).src x.b).toNat) (hmax : ((s.view f l).src x.b).toNat ≤ 65536)
    (hgate : s.gate f l true false false (if sp then .sp else .gl) = none) {p : Place} {seen : Seen}
    (hchk : checkSearch s f (srcBase (s.view f l) x.a) sp (1024 * ((s.view f l).src x.b).toNat) = .ok p seen) :
    ∃ src, hmatchWord x q sp s f l = .ok (s.searching f l (searchOf x q s f l src))
      (f.lanes.map (fun j => (j, .goWait (f.pc + 1) (.luna s.nextId)))) := by
  simp only [hmatchWord, if_neg (not_lt.mpr hmax), if_neg hpos.ne', hgate, hchk]
  exact ⟨_, rfl⟩

theorem HasPath.searching_kept (h : HasPath s f) (job : LunaJob) : PathKept s (s.searching f l job) f :=
  ((((PathKept.refl h).of_blocks (t := { s with nextId := s.nextId + 1 }) rfl rfl).gated l true).of_blocks rfl rfl)

theorem HasPath.gated_core (h : HasPath s f) (ld : Bool) : ((s.gated f l ld).fblock f).core = (s.fblock f).core :=
  (congrArg Block.core (h.onlyGroup (fun g => g.modLane l (fun x => x.passGate ld))).block).trans rfl

theorem HasPath.searching_core (h : HasPath s f) (job : LunaJob) :
    ((s.searching f l job).core (s.fblock f).core).luna = (s.core (s.fblock f).core).luna ++ [job] := by
  have hcore : (({ s with nextId := s.nextId + 1 }.gated f l true).fblock f).core = (s.fblock f).core :=
    (h.of_blocks (t := { s with nextId := s.nextId + 1 }) rfl).gated_core true
  rw [State.searching, hcore, State.core_modCore_same]
  rfl

/-- A search over no entry gives all ones at once. -/
theorem hmatch_of_none (h : HyperReady s f x.g l [q.toNat] (srcUse true x.a ++ srcUse false x.b))
    (hn : ((s.view f l).src x.b).toNat = 0) : ∃ t, exec (.hmatch x q sp) s = .next t ∧ PathResult s t f
      (fun g => { g with s := Cells.set (Cells.set g.s x.d.toNat 0xFFFFFFFF) (x.d.toNat + 1) 0xFFFFFFFF }) (goOn f) := by
  have hact : hmatchWord x q sp s f l = .ok (s.onGroup f (fun g => g.setSPair x.d.toNat (0xFFFFFFFF#32 ++ 0xFFFFFFFF#32))) [] := by
    simp [hmatchWord, hn]
  exact runHyper_group h hact _ (Group.setSPair_append ..) fun _ => rfl

/-- A search over some entries stands at the engine, and the path waits for it at the next word. -/
theorem hmatch_searches (h : HyperReady s f x.g l [q.toNat] (srcUse true x.a ++ srcUse false x.b))
    (hpos : 0 < ((s.view f l).src x.b).toNat) (hmax : ((s.view f l).src x.b).toNat ≤ 65536)
    (hgate : s.gate f l true false false (if sp then .sp else .gl) = none) {p : Place} {seen : Seen}
    (hchk : checkSearch s f (srcBase (s.view f l) x.a) sp (1024 * ((s.view f l).src x.b).toNat) = .ok p seen) :
    ∃ t src, exec (.hmatch x q sp) s = .next t ∧ t.mem = s.mem ∧
      (t.core (s.fblock f).core).luna = (s.core (s.fblock f).core).luna ++ [searchOf x q s f l src] ∧
      ∀ j ∈ f.lanes, (t.flane f j).st = .waiting (.luna s.nextId) ∧ (t.flane f j).pc = (s.flane f j).landing (f.pc + 1) := by
  obtain ⟨src, hact⟩ := hmatchWord_searches (q := q) hpos hmax hgate hchk
  have hk := h.toHasPath.searching_kept (l := l) (searchOf x q s f l src)
  have hnext : ∀ j ∈ f.lanes, nextOf f (f.lanes.map (fun j => (j, Next.goWait (f.pc + 1) (.luna s.nextId)))) j =
      .goWait (f.pc + 1) (.luna s.nextId) := fun j hj => by
    rw [nextOf_map f f.lanes (fun _ => .goWait (f.pc + 1) (.luna s.nextId)), if_pos hj]
  obtain ⟨t, ht, hmoves⟩ := runHyper_moves h hact hk.path hk.landing fun j hj => by rw [hnext j hj]; rfl
  refine ⟨t, src, ht, ?_, ?_, fun j hj => ?_⟩
  · rw [hmoves.rest]
    exact hk.mem
  · rw [hmoves.rest]
    exact h.toHasPath.searching_core _
  · rw [hmoves.lanes j hj, hnext j hj]
    exact ⟨rfl, hk.landing j hj _⟩

end

/-! ## Searches that end (R310) -/

section
variable {core : Nat} {j : LunaJob} {js : List LunaJob} {s : State} (hq : (s.core core).luna = j :: js)
include hq

theorem State.lunaDone_head (hf : (s.core core).frozen = false)
    (hreqs : ∀ r ∈ s.laneReqs j.blk j.grp j.lane, j.id ≤ r.id ∨ r.performed = true) (hread : j.count ≤ j.next) :
    s.lunaDone core = some j := by
  have hover : s.reqs.any (fun r => r.blk == j.blk && r.grp == j.grp && r.lane == j.lane && decide (r.id < j.id) && !r.performed) = false := by
    rw [List.any_eq_false]
    intro r hr hheld
    simp only [Bool.and_eq_true, decide_eq_true_eq, Bool.not_eq_true'] at hheld
    obtain ⟨⟨hlane, hid⟩, hperf⟩ := hheld
    rcases hreqs r (List.mem_filter.mpr ⟨hr, by simpa [Bool.and_eq_true] using hlane⟩) with h | h
    · omega
    · rw [h] at hperf
      cases hperf
  simp [State.lunaDone, State.lunaReady, hq, hf, hover, hread]

theorem finishLuna_luna : ((finishLuna s core j).core core).luna = js := by
  rw [finishLuna, State.core_modCore_same]
  exact congrArg (List.drop 1) hq

end

theorem finishLuna_scalars {s : State} (core : Nat) {j : LunaJob} (hb : (s.block? j.blk).isSome = true)
    (hg : j.grp < (s.block j.blk).groups.length) : ((finishLuna s core j).group j.blk j.grp).s =
      Cells.set (Cells.set (s.group j.blk j.grp).s j.dst (if j.limit < j.dmin then 0xFFFFFFFF#32 else BitVec.ofNat 32 j.best)) (j.dst + 1)
        (BitVec.ofNat 32 j.dmin) := by
  have hgroup := State.group_modGroup_same s j.blk j.grp (fun g => g.setSPair j.dst (lunaResult j.best j.dmin j.limit)) hb hg
  rw [lunaResult, Group.setSPair_append] at hgroup
  have hlane := State.group_modGroup_same (s.modGroup j.blk j.grp (fun g => g.setSPair j.dst (lunaResult j.best j.dmin j.limit))) j.blk j.grp
    (fun g => g.modLane j.lane (fun l => { l with D := l.D.max j.up })) ((State.modBlock_isSome ..).trans hb)
    (by rwa [State.modGroup_groups_length])
  exact (congrArg Group.s hlane :).trans (congrArg Group.s hgroup :)

/-- Settles O30: the four ways of an image, and the beginning and the end of a search. -/
theorem imagesAndSearchesComplete : Obligations.ImagesAndSearchesComplete := by
  refine ⟨?_, ⟨fun x q sp s f l h => ⟨hmatch_of_none h, fun hpos hmax hgate ⟨p, seen, hchk⟩ => ?_⟩, ?_⟩⟩
  · intro m off idx s f l hregion hwf
    refine ⟨fun h hgate => ⟨fun a seen hsp hchk => ?_, fun p seen hgl hchk hroom => ?_⟩, fun hgate => ⟨fun h => ?_, fun h => ?_⟩⟩
    · exact imageWord_loads_pad (off := fun _ => scaled off 1024) (by rwa [List.append_nil]) hregion hgate hsp hchk
    · exact imageWord_loads_device (off := fun _ => scaled off 1024) (by rwa [List.append_nil]) hregion hgate hgl hchk hroom
    · exact imageWord_stores (off := fun _ => scaled off 1024) (by rwa [List.append_nil]) hregion hwf hgate
    · exact imageWord_stores (off := fun v => 1024 * ((v.l.reg v.g.nregs idx.toNat).toNat : Int)) h hregion hwf hgate
  · obtain ⟨t, src, ht, hmem, hluna, hlanes⟩ := hmatch_searches h hpos hmax hgate hchk
    exact ⟨t, searchOf x q s f l src, ht, hmem, hluna, rfl, rfl, rfl, rfl, rfl, rfl, rfl, rfl, rfl, rfl, rfl, rfl, hlanes⟩
  · intro core j js s hq hf hreqs hread hb hg
    refine ⟨finishLuna s core j, ?_, finishLuna_mem s core j, finishLuna_luna hq, finishLuna_scalars core hb hg⟩
    show execLunaSearchComplete core s = _
    rw [execLunaSearchComplete, State.lunaDone_head hq hf hreqs hread]
    rfl

end Sys2Proof.Machine
